-- ==== Sys2Proof/Word.lean ====
section
/-! DEFINITION. The words of the engine: bytes, 32-bit register words, 64-bit values, and the
little-endian reading and writing of numbers (00_scope R6). -/

namespace Sys2Proof

/-- One byte. -/
abbrev Byte := BitVec 8

/-- One 32-bit control-bus word. -/
abbrev Word := BitVec 32

/-- One 64-bit value: a digest, a CRC-64, an S-register. -/
abbrev Word64 := BitVec 64

/-- The number that `bs` holds with byte 0 least significant (R6). -/
def leNat : List Byte → Nat
  | [] => 0
  | b :: bs => b.toNat + 256 * leNat bs

/-- The `n` bytes of `v`, byte 0 least significant (R6); higher bits of `v` are dropped. -/
def leBytes : Nat → Nat → List Byte
  | 0, _ => []
  | n + 1, v => BitVec.ofNat 8 v :: leBytes n (v / 256)

/-- Field [hi:lo] of `v`, given its lowest bit and its width (R5). -/
def bits (v lo w : Nat) : Nat := v / 2 ^ lo % 2 ^ w

/-- Bit [n] of `v`. -/
def bitAt (v n : Nat) : Bool := v / 2 ^ n % 2 == 1

/-- A Bool as the number 0 or 1. -/
def bit (b : Bool) : Nat := if b then 1 else 0

/-- ⌈a / b⌉ for b above 0. -/
def ceilDiv (a b : Nat) : Nat := (a + b - 1) / b

end Sys2Proof
end

