-- ==== Sys2Proof/Syntax.lean ====
section
/-! DEFINITION. The commands of the engine: one constructor per row of opcode_table.json, in the table's order,
with the operands that the rule named by the row gives the event. -/

namespace Sys2Proof

/-- What a read of memory outside the model's own bytes returns: the bytes, or an error response. -/
inductive Resp where
  | data (bytes : List Byte)
  | error
  deriving DecidableEq, Repr

/-- The answers that the memory controller and the fabric give to the reads a command makes, by 64-bit
global address. A remote address that is not listed never answers, and its read meets the retry limit of R336; an
address of the engine's own stack is read from the state's memory unless it is listed as an error. -/
abbrev Ext := List (Nat × Resp)

/-- What goes wrong in one piece of lane work (R342, R343): the bytes XORed to the outputs of the lanes listed, one output after the
other, and those XORed to the work's first input as it is held, whose checks stay. Nothing listed: no fault. -/
structure LaneFault where
  outs : List (Nat × List Byte)
  held : List Byte
  deriving DecidableEq, Repr

/-- The commands. `op` names a non-final operation by its number; `q` a sequencer; `units` is how many tiles,
stripes, blocks or chunks a walking operation does before its next YIELD point; `req` is a requester code (R453); `f` is what goes
wrong in lane work, and nothing does where a word without an output vector leaves it out. -/
inductive Instr where
  | coldReset
  | warmReset
  | resetRelease
  | alignAck (lanes : BitVec 32) (rickBase rickTiles : Nat)
  | fuseDone (flashError : Bool)
  | bistStart (req : Nat) (w : Word)
  | bistDone (pass : BitVec 32) (guardOk : Bool)
  | controlBusReject (req : Nat) (addr : BitVec 16) (we : Bool)
  | registerWrite (req off : Nat) (w : Word)
  | reg64HighWrite (req off : Nat) (w : Word)
  | reg64LowRead (req off : Nat)
  | chipSelWrite (req q : Nat) (w : Word)
  | ringEnable (req n : Nat) (w : Word) (ext : Ext)
  | ringDisable (req n : Nat) (w : Word)
  | ringPollWrite (req n : Nat) (w : Word)
  | rehomeCfgWrite (req : Nat) (w : Word)
  | ledgerEnable (req : Nat) (w : Word)
  | auditRingConfigWrite (req off : Nat) (w : Word)
  | cmpCfgWrite (req n : Nat) (w : Word)
  | calRead (req : Nat) (flashError : Bool)
  | calWrite (req : Nat) (w : Word)
  | calWriteDone (flashError : Bool)
  | evtOwnWrite (req line : Nat) (w : Word)
  | evtRouteWrite (req src : Nat) (w : Word)
  | evtPendClear (req : Nat) (fast : Bool) (word : Nat) (w : Word)
  | evtSwset (req : Nat) (w : Word)
  | cpidleAssert (t : Nat)
  | moderationHoldExpiry (t : Nat)
  | comparatorFire (n : Nat)
  | doorbellWrite (n : Nat) (tail head : Word)
  | doorbellPoll (n : Nat)
  | doorbellPollReturn (n : Nat) (resp : Resp)
  | descriptorFetch (ext : Ext)
  | operationStart (op : Nat)
  | sequencerDispatch
  | completionRecordWrite (n : Nat) (error : Bool)
  | regionSetup (op units : Nat) (ext : Ext)
  | regionRelease (op units : Nat)
  | sheafJoin (op : Nat) (ext : Ext)
  | sheafLeave (op : Nat)
  | membershipUpdate (op : Nat) (ext : Ext)
  | regroup (op units : Nat) (ext : Ext)
  | regroupCommit (op : Nat) (ext : Ext)
  | stepOpen (op : Nat)
  | stepOpenEffect (op : Nat)
  | topologyWaitTimeout (op : Nat)
  | stepClose (op : Nat)
  | fence (op : Nat)
  | stepConfirm (op : Nat)
  | stepRollback (op units : Nat) (ext : Ext)
  | retireWork (units : Nat)
  | mergeBank (op units : Nat) (ext : Ext)
  | normReduce (op : Nat)
  | normCellPoll (op : Nat) (ext : Ext)
  | encodeFull (op units : Nat) (ext : Ext)
  | verifyStripes (op units : Nat) (ext : Ext)
  | degradedRead (op units : Nat) (ext : Ext)
  | foster (op : Nat) (ext : Ext)
  | rebuild (op units : Nat) (ext : Ext)
  | tileBuildDone (region tile : Nat) (ext : Ext)
  | migrate (op units : Nat) (ext : Ext)
  | snapCut (op units : Nat)
  | snapFreeze (op : Nat)
  | snapStillnessTimeout (op : Nat)
  | copyCompletion (tag : Nat) (status : Nat)
  | snapDrain (op units : Nat) (ext : Ext)
  | snapRestore (op units : Nat) (ext : Ext)
  | snapDiscard (op : Nat)
  | intervalRecompute
  | tedPack (op units : Nat) (ext : Ext)
  | scaleCellPoll (op : Nat) (ext : Ext)
  | tedApply (op units : Nat) (ext : Ext)
  | tedAnchorLoad (op units : Nat) (ext : Ext)
  | scrub (op units : Nat) (ext : Ext)
  | guardSet (op units : Nat) (ext : Ext)
  | tableLoad (op : Nat) (ext : Ext)
  | tableInstall (op : Nat)
  | ucodeStage (op units : Nat) (ext : Ext)
  | ucodeActivate (op : Nat)
  | authVerdict (digest : List Byte) (pass : Bool)
  | cancel (op : Nat)
  | suspend (op : Nat)
  | resume (op : Nat)
  | userEntry (op fuel : Nat)
  | userEntryWatchdog (op : Nat)
  | uMovi (q : Nat)
  | uAdd (q : Nat)
  | uAddi (q : Nat)
  | uSub (q : Nat)
  | uAnd (q : Nat)
  | uOr (q : Nat)
  | uXor (q : Nat)
  | uShl (q : Nat)
  | uShr (q : Nat)
  | uMul (q : Nat)
  | uField (q : Nat)
  | uBr (q : Nat)
  | uYield (q : Nat)
  | uEnd (q : Nat)
  | uLdt (q : Nat)
  | uStt (q : Nat)
  | uLd64 (q : Nat)
  | uSt64 (q : Nat)
  | uRed (q : Nat)
  | uWaitt (q : Nat)
  | uWaitall (q : Nat)
  | uZero (q : Nat)
  | uRtile (q : Nat)
  | uShinfo (q : Nat)
  | uDigest (q : Nat)
  | uTime (q : Nat)
  | uTrig (q : Nat)
  | uGfmul (q : Nat) (f : LaneFault)
  | uXort (q : Nat) (f : LaneFault)
  | uCrc (q : Nat) (f : LaneFault := ⟨[], []⟩)
  | uCmpt (q : Nat) (f : LaneFault := ⟨[], []⟩)
  | uMtile (q : Nat)
  | uApply (q : Nat) (ext : Ext)
  | uQread (q : Nat)
  | uQsend (q : Nat)
  | uDecode (q : Nat)
  | uTedq (q : Nat) (f : LaneFault := ⟨[], []⟩)
  | uTeda (q : Nat) (f : LaneFault := ⟨[], []⟩)
  | transferComplete (x : Nat) (resp : Resp)
  | fabricRetryTimeout (x : Nat)
  | reductionTimeout (x : Nat)
  | writeArrival (agent addr : Nat) (data : List (Option Byte)) (ext : Ext)
  | pairingReadResponse (rid : Nat) (mask : BitVec 64) (error : Bool)
  | readRequestSnoop (agent tile rid : Nat)
  | ownReadReturn (w : Nat) (ext : Ext)
  | completionReadReturn (slot : Nat) (ext : Ext)
  | logReadbackReturn (slot : Nat) (ext : Ext)
  | pairExpiry (tile : Nat)
  | tileDeltaAsmTimeout (slot : Nat)
  | parkedDeltaReread (ext : Ext)
  | messageSend (ctx : Nat)
  | accumRetryTimeout (ctx seq : Nat)
  | accumPacketReceive (src : Nat) (bytes : List Byte)
  | spillOverflowTimer
  | assemblyTimeout (ctx seq : Nat)
  | parkExpiry (ctx seq : Nat)
  | accumApply (q : Nat) (ext : Ext) (f : LaneFault)
  | ackFlush (dst : Nat)
  | ackPacketReceive (src : Nat) (bytes : List Byte)
  | readPacketReceive (src : Nat) (bytes : List Byte) (ext : Ext)
  | readDataReceive (src : Nat) (bytes : List Byte)
  | readRetryTimeout (slot : Nat)
  | quietExpiry (region : Nat)
  | migrationMapDisarm (region : Nat)
  | larkIntervalTick
  | larkReceive (src : Nat) (bytes : List Byte)
  | reportReceive (src : Nat) (bytes : List Byte)
  | reportRepeatTimer
  | reportRecordRewrite (key : Nat)
  | rehomeWindowEnd
  | pathUnflag (dst path : Nat)
  | guardWindowEnd (region : Nat)
  | controllerErrorResponse (agent tile : Nat) (mask : BitVec 64) (ext : Ext)
  | chunkStoreReceive (src addr : Nat) (bytes : List Byte)
  | forecastWrite (w : Word)
  | governorEvaluation
  | fallowWarmEntry
  | fallowColdEntry
  | mclkUnitGate
  | wakeTrigger
  | wakeWave
  | vlaneAck
  | lclkLock
  | thermLevelChange (level : Nat)
  | throtReqChange (b : Bool)
  | auditRingWrite (error : Bool)
  | auditCountWrite (v : Word)
  | auditCountPoll (resp : Resp)
  | hebribryReadReceive (src off : Nat) (ext : Ext)
  | reservedTypePacket (src : Nat) (bytes : List Byte)
  deriving DecidableEq, Repr

end Sys2Proof
end

