-- ==== Sys2Proof/Machine/Codes.lean ====
section
/-! DEFINITION. The arithmetic of the codes and check functions: GF(2^8) (R63), Cauchy rows (R65), matrices (R66, R69),
the CRCs (R8), SHA-256 (R353), and the Reed–Solomon tile code over GF(2^16) (R303, R304). -/

namespace Sys2Proof.Machine

/-- Multiplication in GF(2^8) modulo 0x11D, bit by bit over the low `n` bits of `b` (R63). -/
def gfMulAux : Nat → Byte → Byte → Byte
  | 0, _, _ => 0#8
  | n + 1, a, b =>
    (if b.getLsbD 0 then a else 0#8) ^^^
      gfMulAux n (if a.getLsbD 7 then (a <<< 1) ^^^ 0x1D#8 else a <<< 1) (b >>> 1)

/-- Multiplication in GF(2^8) with field polynomial 0x11D (R63). -/
def gfMul (a b : Byte) : Byte := gfMulAux 8 a b

/-- a^254, the inverse of a non-zero element; 0 has none, and this gives 0 (R63). -/
def gfInv (a : Byte) : Byte :=
  let a2 := gfMul a a; let a4 := gfMul a2 a2; let a8 := gfMul a4 a4; let a16 := gfMul a8 a8
  let a32 := gfMul a16 a16; let a64 := gfMul a32 a32; let a128 := gfMul a64 a64
  gfMul a128 (gfMul a64 (gfMul a32 (gfMul a16 (gfMul a8 (gfMul a4 a2)))))

/-- The Cauchy coefficient g_(j,i) of R65 for m parity rows. -/
def cauchy (m j i : Nat) : Byte := gfInv (BitVec.ofNat 8 (j ^^^ (m + i)))

/-- A coefficient times every byte (R64). -/
def gfScale (a : Byte) (v : List Byte) : List Byte := if a = 0#8 then v.map (fun _ => 0#8) else v.map (gfMul a)

/-- Bytewise XOR over the first list's length; a byte the second lacks counts as 0. -/
def xorBytes : List Byte → List Byte → List Byte
  | [], _ => []
  | a :: as, [] => a :: as
  | a :: as, b :: bs => (a ^^^ b) :: xorBytes as bs

/-- `n` bytes of 0. -/
def zeros (n : Nat) : List Byte := List.replicate n 0#8

/-- Exactly `n` bytes: cut, or extended with 0. -/
def fit (n : Nat) (v : List Byte) : List Byte := v.take n ++ zeros (n - v.length)

/-- Bytes [off, off + n) of `v`; bytes it lacks are 0. -/
def slice (v : List Byte) (off n : Nat) : List Byte := fit n (v.drop off)

/-- The little-endian field of `n` bytes at `off`. -/
def field (v : List Byte) (off n : Nat) : Nat := leNat (slice v off n)

/-- `v` with `w` written at `off`. -/
def splice (v : List Byte) (off : Nat) (w : List Byte) : List Byte := v.take off ++ w ++ v.drop (off + w.length)

/-- Is every byte 0? -/
def allZero (v : List Byte) : Bool := v.all (fun b => b == 0#8)

/-- A row of a matrix over GF(2^8). -/
abbrev GfRow := List Byte

/-- Swap the first row that has a non-zero entry in column `c` to the front. -/
def gfPivot (c : Nat) : List GfRow → Option (GfRow × List GfRow)
  | [] => none
  | r :: rs => if (r.getD c 0#8) ≠ 0#8 then some (r, rs) else
      match gfPivot c rs with
      | none => none
      | some (p, rest) => some (p, r :: rest)

/-- Gauss–Jordan over the columns c, c + 1, …, c + fuel − 1: reduced rows, or none when the square part is singular. -/
def gfElim : Nat → Nat → List GfRow → List GfRow → Option (List GfRow)
  | 0, _, done, _ => some done
  | n + 1, c, done, rest =>
    match gfPivot c rest with
    | none => none
    | some (p, rest') =>
      let p' := gfScale (gfInv (p.getD c 0#8)) p
      let clear := fun (r : GfRow) => xorBytes r (gfScale (r.getD c 0#8) p')
      gfElim n (c + 1) (done.map clear ++ [p']) (rest'.map clear)

/-- Solve B · X = A for a square B of `n` rows: the rows of X, none when B is singular. -/
def gfSolve (n : Nat) (b a : List GfRow) : Option (List GfRow) :=
  (gfElim n 0 [] (List.zipWith (· ++ ·) b a)).map (fun rs => rs.map (fun r => r.drop n))

/-- Is the square matrix nonsingular? -/
def gfNonsingular (b : List GfRow) : Bool := (gfElim b.length 0 [] b).isSome

/-- Every choice of `n` elements in order. -/
def choose : Nat → List Nat → List (List Nat)
  | 0, _ => [[]]
  | _ + 1, [] => []
  | n + 1, x :: xs => (choose n xs).map (x :: ·) ++ choose (n + 1) xs

/-- Rows of R66: every coefficient non-zero and every square submatrix nonsingular. -/
def rowsGood (m k : Nat) (g : Nat → Nat → Byte) : Bool :=
  (List.range m).all (fun j => (List.range k).all (fun i => !(g j i == 0#8))) &&
  (List.range m).all (fun n =>
    (choose (n + 1) (List.range m)).all (fun js =>
      (choose (n + 1) (List.range k)).all (fun is => gfNonsingular (js.map (fun j => is.map (g j))))))

/-- One bit of a reflected CRC-32C register. -/
def crc32cBit (c : Word) : Word := if c.getLsbD 0 then (c >>> 1) ^^^ 0x82F63B78#32 else c >>> 1

/-- One byte of CRC-32C. -/
def crc32cByte (c : Word) (b : Byte) : Word :=
  (List.range 8).foldl (fun x _ => crc32cBit x) (c ^^^ (b.setWidth 32))

/-- CRC-32C of Table 0-4: polynomial 0x1EDC_6F41 reflected, initial and final value 0xFFFF_FFFF. -/
def crc32c (v : List Byte) : Word := (v.foldl crc32cByte 0xFFFFFFFF#32) ^^^ 0xFFFFFFFF#32

/-- One bit of CRC-64/ECMA-182. -/
def crc64Bit (c : Word64) : Word64 := if c.getLsbD 63 then (c <<< 1) ^^^ 0x42F0E1EBA9EA3693#64 else c <<< 1

/-- One byte of CRC-64/ECMA-182. -/
def crc64Byte (c : Word64) (b : Byte) : Word64 :=
  (List.range 8).foldl (fun x _ => crc64Bit x) (c ^^^ ((b.setWidth 64) <<< 56))

/-- CRC-64/ECMA-182 of Table 0-4, not reflected, initial value 0. -/
def crc64 (v : List Byte) : Word64 := v.foldl crc64Byte 0#64

/-- CRC-64 continued from a register value. -/
def crc64From (c : Word64) (v : List Byte) : Word64 := v.foldl crc64Byte c

/-- β · a, with β = 0x02 (R63). -/
def gfDouble (a : Byte) : Byte := if a.getLsbD 7 then (a <<< 1) ^^^ 0x1D#8 else a <<< 1
/-- The check bytes K0 and K1 of a 64-byte vector (R341): K1 by Horner's rule. -/
def laneChecks (v : List Byte) : Byte × Byte :=
  v.foldr (fun x (a : Byte × Byte) => (x ^^^ a.1, x ^^^ gfDouble a.2)) (0#8, 0#8)
/-- The check pairs of a tile's vectors (R341). -/
def tileChecks (v : List Byte) : List (Byte × Byte) := (List.range ((v.length + 63) / 64)).map (fun i => laneChecks (slice v (64 * i) 64))

/-- Eight of the round constants of SHA-256 (FIPS 180-4), then the rest. -/
def shaK : List Word :=
  [0x428a2f98#32, 0x71374491#32, 0xb5c0fbcf#32, 0xe9b5dba5#32, 0x3956c25b#32, 0x59f111f1#32, 0x923f82a4#32, 0xab1c5ed5#32] ++
  [0xd807aa98#32, 0x12835b01#32, 0x243185be#32, 0x550c7dc3#32, 0x72be5d74#32, 0x80deb1fe#32, 0x9bdc06a7#32, 0xc19bf174#32] ++
  [0xe49b69c1#32, 0xefbe4786#32, 0x0fc19dc6#32, 0x240ca1cc#32, 0x2de92c6f#32, 0x4a7484aa#32, 0x5cb0a9dc#32, 0x76f988da#32] ++
  [0x983e5152#32, 0xa831c66d#32, 0xb00327c8#32, 0xbf597fc7#32, 0xc6e00bf3#32, 0xd5a79147#32, 0x06ca6351#32, 0x14292967#32] ++
  [0x27b70a85#32, 0x2e1b2138#32, 0x4d2c6dfc#32, 0x53380d13#32, 0x650a7354#32, 0x766a0abb#32, 0x81c2c92e#32, 0x92722c85#32] ++
  [0xa2bfe8a1#32, 0xa81a664b#32, 0xc24b8b70#32, 0xc76c51a3#32, 0xd192e819#32, 0xd6990624#32, 0xf40e3585#32, 0x106aa070#32] ++
  [0x19a4c116#32, 0x1e376c08#32, 0x2748774c#32, 0x34b0bcb5#32, 0x391c0cb3#32, 0x4ed8aa4a#32, 0x5b9cca4f#32, 0x682e6ff3#32] ++
  [0x748f82ee#32, 0x78a5636f#32, 0x84c87814#32, 0x8cc70208#32, 0x90befffa#32, 0xa4506ceb#32, 0xbef9a3f7#32, 0xc67178f2#32]

/-- The initial hash of SHA-256. -/
def shaInit : List Word :=
  [0x6a09e667#32, 0xbb67ae85#32, 0x3c6ef372#32, 0xa54ff53a#32, 0x510e527f#32, 0x9b05688c#32, 0x1f83d9ab#32, 0x5be0cd19#32]

/-- A big-endian 32-bit word of four bytes. -/
def beWord (v : List Byte) : Word := v.foldl (fun a b => (a <<< 8) ||| b.setWidth 32) 0#32

/-- Message words 16, 17, … of the SHA-256 schedule, from the sixteen last ones (latest first). -/
def shaExtend : Nat → List Word → List Word
  | 0, w => w
  | n + 1, w =>
    let a := w.getD 1 0#32; let b := w.getD 14 0#32
    let s1 := a.rotateRight 17 ^^^ a.rotateRight 19 ^^^ (a >>> 10)
    let s0 := b.rotateRight 7 ^^^ b.rotateRight 18 ^^^ (b >>> 3)
    shaExtend n ((s1 + w.getD 6 0#32 + s0 + w.getD 15 0#32) :: w)

/-- One round of SHA-256 on the eight working variables. -/
def shaRound (h : List Word) (kw : Word) : List Word :=
  match h with
  | [a, b, c, d, e, f, g, hh] =>
    let t1 := hh + (e.rotateRight 6 ^^^ e.rotateRight 11 ^^^ e.rotateRight 25) + ((e &&& f) ^^^ (~~~e &&& g)) + kw
    let t2 := (a.rotateRight 2 ^^^ a.rotateRight 13 ^^^ a.rotateRight 22) + ((a &&& b) ^^^ (a &&& c) ^^^ (b &&& c))
    [t1 + t2, a, b, c, d + t1, e, f, g]
  | _ => h

/-- One 64-byte block of SHA-256. -/
def shaBlock (h : List Word) (blk : List Byte) : List Word :=
  let w0 := (List.range 16).map (fun i => beWord (slice blk (4 * i) 4))
  let w := (shaExtend 48 w0.reverse).reverse
  List.zipWith (· + ·) h ((List.zipWith (· + ·) shaK w).foldl shaRound h)

/-- The blocks of a padded message. -/
def shaBlocks : Nat → List Word → List Byte → List Word
  | 0, h, _ => h
  | n + 1, h, v => shaBlocks n (shaBlock h (v.take 64)) (v.drop 64)

/-- The SHA-256 digest (FIPS 180-4) of `v`, 32 bytes in digest order. -/
def sha256 (v : List Byte) : List Byte :=
  let len := v.length
  let pad := v ++ [0x80#8] ++ zeros ((119 - len % 64) % 64) ++ (leBytes 8 (len * 8)).reverse
  (shaBlocks (pad.length / 64) shaInit pad).flatMap (fun w => (leBytes 4 w.toNat).reverse)

/-- Multiplication in GF(2^16) modulo 0x1100B over the low `n` bits of `b` (R303). -/
def gf16Aux : Nat → BitVec 16 → BitVec 16 → BitVec 16
  | 0, _, _ => 0#16
  | n + 1, a, b =>
    (if b.getLsbD 0 then a else 0#16) ^^^
      gf16Aux n (if a.getLsbD 15 then (a <<< 1) ^^^ 0x100B#16 else a <<< 1) (b >>> 1)

/-- Multiplication in GF(2^16) (R303). -/
def gf16Mul (a b : BitVec 16) : BitVec 16 := gf16Aux 16 a b

/-- a^n in GF(2^16), over `f` bits of n. -/
def gf16Pow : Nat → BitVec 16 → Nat → BitVec 16
  | 0, _, _ => 1#16
  | f + 1, a, n => gf16Mul (if n % 2 = 1 then a else 1#16) (gf16Pow f (gf16Mul a a) (n / 2))

/-- The inverse in GF(2^16), a^65534; 0 gives 0. -/
def gf16Inv (a : BitVec 16) : BitVec 16 := if a = 0#16 then 0#16 else gf16Pow 16 a 65534

/-- α^n with α = 2. -/
def alphaPow (n : Nat) : BitVec 16 := gf16Pow 16 2#16 (n % 65535)

/-- Parity symbols of a guard strength (Table 2-5). -/
def guardSymbols (g : Nat) : Nat :=
  match g with
  | 1 => 4 | 2 => 8 | 3 => 16 | 4 => 32 | 5 => 64 | _ => 0

/-- The 16-bit little-endian words of a byte list (R6). -/
def words16 : List Byte → List (BitVec 16)
  | a :: b :: v => ((b.setWidth 16) <<< 8 ||| a.setWidth 16) :: words16 v
  | _ => []

/-- The bytes of 16-bit words. -/
def bytes16 (v : List (BitVec 16)) : List Byte := v.flatMap (fun w => leBytes 2 w.toNat)

/-- Multiply a polynomial over GF(2^16), lowest coefficient first, by (x − a). -/
def mulLinear (a : BitVec 16) (p : List (BitVec 16)) : List (BitVec 16) :=
  List.zipWith (· ^^^ ·) (0#16 :: p) (p.map (gf16Mul a) ++ [0#16])

/-- g(x) of R303 for p parity symbols, lowest coefficient first. -/
def guardPoly (p : Nat) : List (BitVec 16) := (List.range p).foldl (fun g i => mulLinear (alphaPow i) g) [1#16]

/-- One step of the division by g: shift data symbol `d` in. `r` is the remainder, highest coefficient first, and `g`
the coefficients of g below the leading one, highest first. -/
def guardShift (g r : List (BitVec 16)) (d : BitVec 16) : List (BitVec 16) :=
  match r with
  | [] => []
  | top :: rest => let f := top ^^^ d
                   if f = 0#16 then rest ++ [0#16] else List.zipWith (· ^^^ ·) (rest ++ [0#16]) (g.map (gf16Mul f))

/-- The parity symbols of a tile: coefficients of d(x)·x^p mod g(x), lowest first (R303). -/
def guardParity (p : Nat) (tile : List Byte) : List (BitVec 16) :=
  let g := (guardPoly p).reverse.drop 1
  ((words16 (fit 4096 tile)).reverse.foldl (guardShift g) (List.replicate p 0#16)).reverse

/-- The guard line of a tile at strength `g`: 2p bytes. -/
def guardLine (g : Nat) (tile : List Byte) : List Byte := bytes16 (guardParity (guardSymbols g) tile)

/-- c(a) by Horner's rule, coefficients lowest first. -/
def polyEval (c : List (BitVec 16)) (a : BitVec 16) : BitVec 16 := c.foldr (fun x acc => gf16Mul acc a ^^^ x) 0#16

/-- Rows with a non-zero entry in column c first, over GF(2^16). -/
def gf16Pivot (c : Nat) : List (List (BitVec 16)) → Option (List (BitVec 16) × List (List (BitVec 16)))
  | [] => none
  | r :: rs => if (r.getD c 0#16) ≠ 0#16 then some (r, rs) else
      match gf16Pivot c rs with
      | none => none
      | some (p, rest) => some (p, r :: rest)

/-- Gauss–Jordan over GF(2^16) on `n` columns. -/
def gf16Elim : Nat → Nat → List (List (BitVec 16)) → List (List (BitVec 16)) → Option (List (List (BitVec 16)))
  | 0, _, done, _ => some done
  | n + 1, c, done, rest =>
    match gf16Pivot c rest with
    | none => none
    | some (p, rest') =>
      let iv := gf16Inv (p.getD c 0#16)
      let p' := p.map (gf16Mul iv)
      let clear := fun (r : List (BitVec 16)) =>
        let f := r.getD c 0#16
        if f = 0#16 then r else List.zipWith (· ^^^ ·) r (p'.map (gf16Mul f))
      gf16Elim n (c + 1) (done.map clear ++ [p']) (rest'.map clear)

/-- Magnitudes of errors at the given positions that the first syndromes demand: none when the system is singular. -/
def guardMagnitudes (pos : List Nat) (syn : List (BitVec 16)) : Option (List (BitVec 16)) :=
  let n := pos.length
  let rows := (List.range n).map (fun i => pos.map (fun j => alphaPow (i * j)) ++ [syn.getD i 0#16])
  (gf16Elim n 0 [] rows).map (fun rs => rs.map (fun r => r.getD n 0#16))

/-- Add magnitudes to the symbols at positions. -/
def guardApply (c : List (BitVec 16)) (pos : List Nat) (mag : List (BitVec 16)) : List (BitVec 16) :=
  (pos.zip mag).foldl (fun v q => v.modify q.1 (· ^^^ q.2)) c

/-- Syndromes with the erased positions taken out: T_i = Σ_j Γ_j S_(i+j) for the erasure locator Γ. -/
def foldErasures (er : List Nat) (syn : List (BitVec 16)) : List (BitVec 16) :=
  er.foldl (fun s j => List.zipWith (fun a b => b ^^^ gf16Mul (alphaPow j) a) s (s.drop 1)) syn

/-- Error positions that `e` errors in the folded syndromes demand: the roots among n symbols of the locator. -/
def locate (n e : Nat) (t : List (BitVec 16)) : Option (List Nat) :=
  let rows := (List.range e).map (fun i => (List.range e).map (fun j => t.getD (i + j) 0#16) ++ [t.getD (i + e) 0#16])
  (gf16Elim e 0 [] rows).map (fun rs =>
    let loc := rs.map (fun r => r.getD e 0#16) ++ [1#16]
    (List.range n).filter (fun j => polyEval loc (alphaPow j) == 0#16))

/-- Try a decode with exactly `e` errors besides the erasures: the corrected codeword and 2e + f. -/
def decodeWith (p : Nat) (c syn : List (BitVec 16)) (er : List Nat) (e : Nat) : Option (List (BitVec 16) × Nat) :=
  match locate c.length e (foldErasures er syn) with
  | none => none
  | some pos =>
    let pos' := pos.filter (fun j => !(er.contains j))
    if pos'.length ≠ e then none else
    match guardMagnitudes (er ++ pos') syn with
    | none => none
    | some mag =>
      let c' := guardApply c (er ++ pos') mag
      if (List.range p).all (fun i => polyEval c' (alphaPow i) == 0#16) then some (c', 2 * e + er.length) else none

/-- The decode of R304 for a set of erased symbols: the unique codeword with 2e + f ≤ p, when there is one. -/
def decodeErased (p : Nat) (c : List (BitVec 16)) (er : List Nat) : Option (List (BitVec 16) × Nat) :=
  if er.length > p then none else
  let syn := (List.range p).map (fun i => polyEval c (alphaPow i))
  (List.range ((p - er.length) / 2 + 1)).findSome? (decodeWith p c syn er)

/-- What the guard decode of a tile gives: the tile, the symbols corrected with erased ones counted, and 2e + f. -/
structure GuardOut where
  tile : List Byte
  symbols : Nat
  load : Nat
  deriving DecidableEq, Repr

/-- R304: decode a tile and its line with the flagged sectors as erasures; when the erased symbols alone exceed p,
decode without erasures. none: uncorrectable by the guard. -/
def guardDecode (g : Nat) (tile line : List Byte) (flagged : List Nat) : Option GuardOut :=
  let p := guardSymbols g
  if p = 0 then (if flagged.isEmpty then some ⟨fit 4096 tile, 0, 0⟩ else none) else
  let c := words16 (fit (2 * p) line) ++ words16 (fit 4096 tile)
  let er := flagged.flatMap (fun sct => (List.range 32).map (fun i => p + 32 * sct + i))
  match decodeErased p c (if er.length > p then [] else er) with
  | none => none
  | some (c', load) =>
    let changed := ((c.zip c').filter (fun q => !(q.1 == q.2))).length
    let erasedSame := if er.length > p then 0 else (er.filter (fun j => c.getD j 0#16 == c'.getD j 0#16)).length
    some ⟨bytes16 (c'.drop p), changed + erasedSame, load⟩

end Sys2Proof.Machine
end

