-- ==== Sys2Proof/Config.lean ====
section
/-! DEFINITION. What an implementation fixes and the free values: constants without a body, of which no
proof can see a value. -/

namespace Sys2Proof.Config

/-- DESIGN CHOICE (log entry 2). A free value: the manual says that some value results and not which.
Applied to the state's counter `free`, which the step advances, it is a fresh value each time. -/
opaque freeNat : Nat → Nat

/-- DESIGN CHOICE (log entry 132). The first tile (by kind 0), or the first tile of the linked PENDING region (by kind 1), of a region of
another engine, by node, agent and region index. R168 addresses remote tiles by them, and no table of this engine holds them; a free
value for every region. -/
opaque remoteTile : Nat → Nat → Nat → Nat → Nat

/-- DESIGN CHOICE (log entry 2). Byte `i` of the section contents of a context save area, which R246 calls internal
to engines of architecture level 1; a free value for every save and byte. -/
opaque contextByte : Nat → Nat → Byte

/-- DESIGN CHOICE (log entry 2). Payload byte `i` of a raw Tedder block that declares fewer bytes than its format has, by the block's bytes as a
number: the spec gives such a block no values; a free value for every block and byte. -/
opaque payloadByte : Nat → Nat → Byte

/-- DESIGN CHOICE (log entry 2). The NaN, by a number below 2^52 for its sign and fraction, that arithmetic gives where an operand
or the result is a NaN: IEEE 754 leaves it open; a free value for every pair of words. -/
opaque nan : Nat → Nat → Nat

end Sys2Proof.Config
end

