-- ==== Sys2Proof/Machine/Table.lean ====
section
/-! DEFINITION. Finite tables: a list of (key, value) pairs with strictly rising keys. Memory, register
files, slots, contexts and maps of the state are such tables, so equal contents are equal data. -/

namespace Sys2Proof.Machine

/-- A table: the pairs of its listed keys, keys strictly rising. -/
abbrev Tab (α : Type) := List (Nat × α)

/-- The value listed at key `k`. -/
def Tab.get {α : Type} : Tab α → Nat → Option α
  | [], _ => none
  | (j, v) :: t, k => if j = k then some v else Tab.get t k

/-- List `v` at key `k`, replacing what was there. -/
def Tab.set {α : Type} : Tab α → Nat → α → Tab α
  | [], k, v => [(k, v)]
  | (j, u) :: t, k, v =>
    if k < j then (k, v) :: (j, u) :: t
    else if j = k then (k, v) :: t
    else (j, u) :: Tab.set t k v

/-- Take key `k` out. -/
def Tab.del {α : Type} (t : Tab α) (k : Nat) : Tab α := t.filter (fun p => !(p.1 == k))

/-- Apply `f` to the value at `k` when there is one. -/
def Tab.upd {α : Type} (t : Tab α) (k : Nat) (f : α → α) : Tab α :=
  t.map (fun p => if p.1 = k then (p.1, f p.2) else p)

/-- Is key `k` listed? -/
def Tab.has {α : Type} (t : Tab α) (k : Nat) : Bool := (t.get k).isSome

/-- The listed keys, rising. -/
def Tab.keys {α : Type} (t : Tab α) : List Nat := t.map (·.1)

/-- The listed values, in key order. -/
def Tab.vals {α : Type} (t : Tab α) : List α := t.map (·.2)

/-- The lowest number below `n` that is not listed. -/
def Tab.free {α : Type} (t : Tab α) (n : Nat) : Option Nat := (List.range n).find? (fun k => !(t.has k))

/-- The canonical form: keys strictly rising. -/
def Tab.wf {α : Type} (t : Tab α) : Bool := decide (t.Pairwise (fun p q => p.1 < q.1))

end Sys2Proof.Machine
end

