-- ==== Sys2Proof/Machine/State.lean ====
section
/-! DEFINITION. The state of one engine as plain data, the reasons a step can stop, and the state after reset. -/

namespace Sys2Proof.Machine

/-- Which engine this is: its node (18 bits) and its index on the chip (R4, R35, R465). -/
structure Strap where
  node : Nat
  engine : Nat
  deriving DecidableEq, Repr

/-- Bring-up phases (Table 15-1). -/
inductive Phase where
  | reset | align | fuse | test | load | ready | failed
  deriving DecidableEq, Repr

/-- Bring-up state: Table 15-2, the self-test (Tables 10-12, 10-13), lane and rick maps (R467, R468), ALIGN_REQ (R32),
and WY_MCLK_EDGE (R431). -/
structure Boot where
  phase : Phase
  warm : Bool
  failCause : Nat
  alignReq : Bool
  lanes : BitVec 32
  defect : BitVec 32
  rickBase : Nat
  rickTiles : Nat
  mclk : BitVec 64
  bistBusy : Bool
  bistDone : Bool
  guardPass : Bool
  lanesOk : Nat
  bistLanes : BitVec 32
  deriving DecidableEq, Repr

/-- The control store and microcode delivery (R327, R352, R355, R434, R438, R439). `store` key: bank × 8192 + word.
`boot` is 1 while the boot ROM stands as the active bank (R429); `digest` is the SHA-256 of the active image (R353). -/
structure Ucode where
  store : Tab (BitVec 128)
  active : Nat
  boot : Bool
  present : BitVec 256
  length : Option Nat
  tag : Option Nat
  lastFail : Bool
  level : Nat
  presented : Option (Nat × List Byte)
  digest : List Byte
  deriving DecidableEq, Repr

/-- What the engine keeps of one ring pair beside its registers (R76, R79 to R82); `due` is the time of its next poll. -/
structure Ring where
  tail : Word
  head : Word
  cqTail : Word
  cqHead : Word
  stopped : Bool
  cause : Nat
  watched : Bool
  polling : Bool
  due : Nat
  deriving DecidableEq, Repr

/-- Operation states (Table 3-13); a DONE operation has left the list. -/
inductive OpState where
  | queued | running | suspending | suspended | cancelling
  deriving DecidableEq, Repr

/-- Where a started operation stands in the waits its chapter gives it. -/
inductive Stage where
  | fresh                       -- its command has not run yet
  | walking                     -- checks passed, the walk goes on
  | waitLevel (since : Nat)     -- STEP_OPEN, R441
  | waitBank                    -- STEP_OPEN, R185; MERGE_BANK that waits for a merge, R193
  | waitSlot                    -- STEP_OPEN with its banks ready, R182
  | closing (since : Nat)       -- STEP_CLOSE after its start edge, R186
  | fencing (since : Nat)       -- FENCE and STEP_CONFIRM, R163
  | draining                    -- STEP_ROLLBACK step 6
  | polling                     -- NORM_REDUCE and TED_PACK cell polls
  | waitRef                     -- TABLE_LOAD, R350
  | waitAuth                    -- UCODE_ACTIVATE, R34
  | waitStill (since : Nat)     -- SNAP_CUT before its freeze edge, R244
  | copying                     -- SNAP_CUT after its freeze edge, R249
  | waitTarget                  -- CANCEL or SUSPEND that waits for its target, R103
  | waitFirst                   -- STEP_ROLLBACK and STEP_CONFIRM before their checks, R188 and R194
  | prepared                    -- REGROUP before its commit point, R229
  deriving DecidableEq, Repr

/-- States of a stream slot (R335). -/
inductive SlotState where
  | empty | loading | full | error
  deriving DecidableEq, Repr

/-- A stream slot: its state, the status an ERROR slot holds, its 4 KiB, and the check pairs of its 64 vectors (R341). -/
structure Slot where
  st : SlotState
  status : Nat
  data : List Byte
  checks : List (Byte × Byte)
  deriving DecidableEq, Repr

/-- The end of a READ that an operation issued for its present unit (R206, R210): member index, view and stripe asked for; the status,
0 with data and 0x10000 when the READ failed; the view and its STEP; the times of its first try and of its last answer packet;
and whether READ_RESELECT has counted it. -/
structure Got where
  member : Nat
  view : Nat
  stripe : Nat
  st : Nat
  data : List Byte
  step : Nat
  sent : Nat
  done : Nat
  noted : Bool
  deriving DecidableEq, Repr

/-- A reference of an operation on a bank of a table slot (R345): kind as in Table 11-7, slot, bank. -/
structure TabRef where
  kind : Nat
  slot : Nat
  bank : Nat
  deriving DecidableEq, Repr

/-- A non-final operation (R83, R86, R100, R333 to R335). `desc` is its 64-byte descriptor; `bank` the control-store
bank it is bound to and `boot` whether that is the boot ROM (R329); `pc`, `regs`, `slots` its sequencer context;
`note` numbers its own walk keeps; `got` the ended READs of its present unit; `hold` the time at which its sequencer hold or its control began (R338). -/
structure Op where
  id : Nat
  ring : Nat
  desc : List Byte
  bank : Nat
  boot : Bool
  st : OpState
  started : Bool
  stage : Stage
  cursor : Nat
  result : Nat
  aux : Nat
  pc : Nat
  regs : Tab Word64
  slots : Tab Slot
  bufs : Nat
  part : Nat
  refs : List TabRef
  note : Tab Nat
  got : List Got
  hold : Nat
  control : Option Nat
  resv : Bool
  deriving DecidableEq, Repr

/-- A formed completion record that waits to be written (Table 3-10). `op` names its operation; `resv` says that its
operation had started and so reserved the slot (R93); `after` names an operation whose waiting records are written first (R103). -/
structure Rec where
  ring : Nat
  op : Nat
  opTag : Nat
  status : Nat
  final : Bool
  opcode : Nat
  cursor : Nat
  time : Nat
  aux : Nat
  result : Nat
  fast : Bool
  resv : Bool
  after : Option Nat
  deriving DecidableEq, Repr

/-- Region roles (Table 2-2). -/
inductive Role where
  | data | parityHome | pending | deltaLog | rick | foster | tedderOut | tedderResidue | runtimeRecord | watch
  deriving DecidableEq, Repr

/-- Element formats (Table 2-3). -/
inductive Fmt where
  | raw | fp32 | bf16 | fp16 | fp8e4m3 | fp8e5m2 | mxfp8e4m3 | mxfp8e5m2 | mxfp6e2m3 | mxfp6e3m2 | mxfp4 | fp40
  deriving DecidableEq, Repr

/-- Region states (Table 2-1). -/
inductive RegState where
  | setup | live | fostering | releasing
  deriving DecidableEq, Repr

/-- A migration map (R224, R229): the granules whose bit is clear, whether the source is frozen, the time of the last
read in view MIGRATE or MAP. -/
structure MigMap where
  clear : Tab Unit
  frozen : Bool
  last : Nat
  deriving DecidableEq, Repr

/-- A re-guard walk (R319): the new strength and the next tile. -/
structure Reguard where
  guard : Nat
  pos : Nat
  deriving DecidableEq, Repr

/-- What a FOSTER region keeps of a MIGRATE into it (R223 to R230): sheaf, member index, source triple word, IMAGE bytes, the region
digest of the copy, and whether the MIGRATE is complete. -/
structure Migrated where
  sheaf : Nat
  member : Nat
  source : Nat
  image : List Byte
  digest : Word64
  done : Bool
  deriving DecidableEq, Repr

/-- A registered region: the descriptor of Table 2-1 and what the engine keeps with it: log block (R120), dirty-map
entries (R125), guard block with its stride and tiles (R307), the tiles built (R215), the rebuild digest (R216) and the builds that held writes started, with their attempts (R210, R217), migration map, the copy of a MIGRATE,
quiet time and failed settle wait (R203, R204), re-guard walk, invalid-anchor mark (R298), guard-window counts (R320), ledger entry (R393). -/
structure Region where
  tileBase : Nat
  tileCount : Nat
  logicalBase : Nat
  role : Role
  format : Fmt
  guard : Nat
  adapt : Bool
  guardMax : Nat
  log : Bool
  norm : Bool
  snap : Bool
  jobTag : Nat
  set : Nat
  member : Nat
  sheaf : Nat
  board : Nat
  shelf : Nat
  row : Nat
  link : Nat
  digest : Word64
  confirmed : Nat
  epoch : Nat
  state : RegState
  domainOvr : Bool
  logBlock : Option Nat
  dirtyBase : Option Nat
  guardBlock : Option Nat
  guardLine : Nat
  guardLen : Nat
  built : Tab Unit
  rebuildDigest : Word64
  mig : Option MigMap
  migrated : Option Migrated
  quiet : Option Nat
  settleFail : Bool
  builds : Tab Nat
  reguard : Option Reguard
  anchorInvalid : Bool
  winStart : Nat
  winTiles : Nat
  winLoad : Nat
  winCtrl : Nat
  ledger : Option Nat
  deriving DecidableEq, Repr

/-- Member states (Table 13-1). -/
inductive MemState where
  | removed | alive | replaced
  deriving DecidableEq, Repr

/-- One member of a sheaf: its entry in the sheaf table (Table 2-8) and its row of the membership table (R376, R382,
R442). -/
structure Member where
  node : Nat
  agent : Nat
  region : Nat
  board : Nat
  shelf : Nat
  row : Nat
  tiles : Nat
  st : MemState
  suspect : Bool
  level : Option Nat
  matched : Bool
  lark : Nat
  mismatch : Option (Nat × Nat)
  deriving DecidableEq, Repr

/-- A sheaf in which the engine holds a region: the sheaf table last installed (Table 2-7) and its members. -/
structure Sheaf where
  k : Nat
  m : Nat
  dMax : Nat
  strict : Nat
  coef : Nat
  coefDigest : Nat
  epoch : Nat
  members : List Member
  deriving DecidableEq, Repr

/-- A table slot (R345): two banks, the active one, the 4-bit generation, and a reference count per bank held by
tile deltas (operations list their own references). -/
structure TabSlot where
  act : Nat
  gen : Nat
  bank0 : List Byte
  bank1 : List Byte
  ref0 : Nat
  ref1 : Nat
  deriving DecidableEq, Repr

/-- A decode slot (Table 2-11). `stale` slots take no new reference (R70). -/
structure DecSlot where
  region : Nat
  epoch : Nat
  mask : Nat
  gen : Nat
  erased : List Nat
  cols : List Nat
  matrix : List (List Byte)
  refs : List Nat
  last : Nat
  stale : Bool
  deriving DecidableEq, Repr

/-- A pairing entry (R111): the tile's 4 KiB, valid and paired masks, the MCLK edge of its last refresh. -/
structure PairEntry where
  data : List Byte
  valid : BitVec 64
  paired : BitVec 64
  edge : Nat
  deriving DecidableEq, Repr

/-- An optimizer read whose response has not arrived (R114). -/
structure Inflight where
  rid : Nat
  agent : Nat
  tile : Nat
  stale : Bool
  deriving DecidableEq, Repr

/-- How far the capture of a held write has come (R109, R116 to R123). -/
inductive Capture where
  | none          -- nothing to capture
  | waitTurn      -- its capture has not begun: a hold, or an earlier write to the tile (R109)
  | ownRead       -- its own read is issued (R117)
  | waitSlot      -- every old value is known; it waits for a slot (R118, R119) or for R182
  | logRead       -- the log read-back of its slot is issued (R123)
  | captured      -- its capture hold is lifted; it waits for its other holds and its write's other parts (R108, R109)
  deriving DecidableEq, Repr

/-- One tile's part of a held write (R17, R108, R109). `gid` is shared by the parts of one write; `op` is the operation of the
engine whose own write it is; `inStep` is the step taken when the tap held it (R106); `need` the sectors that its own read
supplies; `cbw` is the time at which a copy-before-write hold began and `build` the rebuild hold. -/
structure Held where
  id : Nat
  gid : Nat
  agent : Nat
  op : Option Nat
  region : Nat
  tile : Nat
  off : Nat
  data : List (Option Byte)
  inStep : Option Nat
  need : BitVec 64
  cap : Capture
  slot : Option Nat
  cbw : Option Nat
  build : Bool
  deriving DecidableEq, Repr

/-- A write to a registered region at the controller's write-queue input, which the tap has not taken yet (R18): its agent, the
operation of the engine whose own write it is, stack byte offset and masked bytes. -/
structure Queued where
  agent : Nat
  op : Option Nat
  off : Nat
  data : List (Option Byte)
  deriving DecidableEq, Repr

/-- A tile delta in the coding partition (R118): its region tile, Δ, written mask, the step of the write that opened it
(none: not in-step), its log base when a read-back gave one (R123), whether it is closed, waits for its SEQs, or is
handed off. `order` is its place in hand-off order and `noted` says that PARK_FULL has counted it (R372).
`settle` marks what a settle wait awaits (R204); `carried` is the part of Δ that a re-read of a parked reference of its tile and
step took along (R370). -/
structure Delta where
  region : Nat
  tile : Nat
  delta : List Byte
  written : BitVec 64
  opened : Nat
  step : Option Nat
  base : Option (List Byte)
  readback : Bool
  closed : Bool
  discard : Bool
  waiting : Bool
  bank : Nat
  stepNo : Nat
  gen : Nat
  tbank : Nat
  msgs : Nat
  order : Nat
  noted : Bool
  settle : Bool
  carried : Option (List Byte)
  deriving DecidableEq, Repr

/-- A park reference (Table 12-6), with its place in the park ring and its hand-off order. -/
structure ParkRef where
  region : Nat
  tile : Nat
  bank : Nat
  step : Nat
  place : Nat
  order : Nat
  deriving DecidableEq, Repr

/-- A written-tile tracker entry (R122). -/
structure Track where
  region : Nat
  granule : Nat
  mask : Nat
  deriving DecidableEq, Repr

/-- A norm accumulator (R128). -/
structure Norm where
  a : BitVec 640
  nonfin : Word
  ovf : Bool
  deriving DecidableEq, Repr

/-- Message states at the sender (Table 5-3) that a live message can be in. -/
inductive MsgState where
  | queued | sent | fenced
  deriving DecidableEq, Repr

/-- An unretired ACCUM message (R139 to R147). `slot` is the coding-partition slot that keeps its delta (R142), `coef`
the coefficient of its row; `settle` marks what a settle wait awaits (R204). Times are WY_TIME ticks. -/
structure Msg where
  seq : Nat
  stripe : Nat
  bank : Nat
  step : Nat
  slot : Nat
  coef : Byte
  gen : Nat
  st : MsgState
  tries : Nat
  path : Nat
  onPath : Nat
  timeout : Nat
  first : Nat
  due : Nat
  handoff : Nat
  settle : Bool
  deriving DecidableEq, Repr

/-- A send context (R138, R139, R161, R162). `fails` is the failure record per step slot n mod 3, `cfail` the
committed-parity failure record, `retired` the messages of the slot's step that retired, `late` a delta lost before it
had a SEQ (R371). -/
structure SendCtx where
  region : Nat
  sheaf : Nat
  row : Nat
  dst : Nat
  node : Nat
  agent : Nat
  next : Nat
  fencedBy : Option Nat
  msgs : List Msg
  fails : Tab (Nat × Nat)
  cfail : Option (Nat × Nat)
  retired : Tab Nat
  late : Tab Nat
  deriving DecidableEq, Repr

/-- States of a SEQ in a receive window other than FREE (R149). -/
inductive RxState where
  | assembling | applying | done
  deriving DecidableEq, Repr

/-- One SEQ of a receive window: its state, packet mask, header, time of the first packet, and where its product lies: in landing as
`data`, or at a place of the spill area, spilled by R22 or parked by R151. -/
structure Rx where
  st : RxState
  mask : Nat
  data : List Byte
  header : List Byte
  first : Nat
  place : Option Nat
  deriving DecidableEq, Repr

/-- A receive context (R138, R149). -/
structure RecvCtx where
  region : Nat
  sheaf : Nat
  src : Nat
  base : Nat
  win : Tab Rx
  floor : Option Nat
  deriving DecidableEq, Repr

/-- A complete message in its apply queue (R154): receive context and SEQ. -/
structure Apply where
  ctx : Nat
  seq : Nat
  deriving DecidableEq, Repr

/-- An acknowledgement entry (Table 5-6). -/
structure AckEntry where
  sctx : Nat
  kind : Nat
  status : Nat
  seq : Nat
  epoch : Nat
  deriving DecidableEq, Repr

/-- Entries waiting for one sender engine and one job tag (R158), with the time, sheaf and stripe of the oldest. -/
structure AckBatch where
  dst : Nat
  tag : Nat
  since : Nat
  sheaf : Nat
  stripe : Nat
  entries : List AckEntry
  deriving DecidableEq, Repr

/-- A round-trip estimate in ticks (R145). -/
structure Rtt where
  srtt : Rat
  rttvar : Rat
  deriving DecidableEq, Repr

/-- Counts of one path of one destination in the window (R165) and the time it was flagged. -/
structure PathCnt where
  tries : Nat
  timeouts : Nat
  flag : Option Nat
  deriving DecidableEq, Repr

/-- A READ of this engine that has no complete answer yet (R206): its slot is its key. `keep` says that its end goes to
its operation's `got`, otherwise its view fills stream slot `target`. -/
structure ReadReq where
  op : Nat
  sheaf : Nat
  dst : Nat
  node : Nat
  agent : Nat
  cls : Nat
  view : Nat
  stripe : Nat
  seq : Nat
  keep : Bool
  target : Nat
  mask : Nat
  data : List Byte
  step : Nat
  tries : Nat
  path : Nat
  onPath : Nat
  timeout : Nat
  first : Nat
  due : Nat
  deriving DecidableEq, Repr

/-- A READ held for a settle wait (R204) or behind a write held for copy-before-write (R366), with its time of
arrival and the controller's answers to the reads that it makes. -/
structure HeldRead where
  src : Nat
  bytes : List Byte
  ext : Ext
  since : Nat
  deriving DecidableEq, Repr

/-- A C0 token bucket (R364): level in 1/25 byte, last fill and last use. -/
structure Bucket where
  dst : Nat
  level : Nat
  filled : Nat
  used : Nat
  deriving DecidableEq, Repr

/-- An outstanding transfer of a microprogram or of an opcode (R336). -/
inductive XferKind where
  | loadTile (slot : Nat) | storeTile (slot : Nat) (data : List Byte) | load64 (reg : Nat) | store64 (v : Word64)
  | reduce (max : Bool) (v : Word64) | message (ctx seq : Nat)
  | ended (st : Nat)      -- a message that has ended, with the status that its primitive completes with
  | trig (c : Nat)        -- a TRIG that waits until every earlier transfer is visible
  deriving DecidableEq, Repr

/-- A transfer: its operation, address, class, tries, path and times (R336). -/
structure Xfer where
  id : Nat
  op : Nat
  kind : XferKind
  addr : Nat
  cls : Nat
  tries : Nat
  path : Nat
  onPath : Nat
  timeout : Nat
  first : Nat
  due : Nat
  deriving DecidableEq, Repr

/-- A dedup key (R385). -/
structure Key where
  sheaf : Nat
  epoch : Nat
  kind : Nat
  subject : Nat
  mask : BitVec 36
  count : Option Nat
  opened : Nat
  written : Nat
  changed : Nat
  due : Bool
  deriving DecidableEq, Repr

/-- The last report of a (sheaf, KIND, SUBJECT) (R384). -/
structure ReportSent where
  sheaf : Nat
  kind : Nat
  subject : Nat
  level : Nat
  time : Nat
  deriving DecidableEq, Repr

/-- Step table of one region set (Table 6-1): live steps with true for CLOSED, and the step whose close has started. -/
structure SetTab where
  d : Nat
  h : Nat
  c : Nat
  n : Option Nat
  live : List (Nat × Bool)
  closing : Option Nat
  deriving DecidableEq, Repr

/-- Retire work outstanding (R173, R188, R195), in the order in which it is done. -/
inductive Retire where
  | zeroLog (set region bank step : Nat)
  | confirmMap (set step : Nat)
  | rollbackMap (set first step : Nat)
  | zeroBank (region bank : Nat)
  deriving DecidableEq, Repr

/-- States of a PENDING bank (Table 6-7); a FREE bank is not listed. -/
inductive BankState where
  | active | confirmed | merging | zeroing
  deriving DecidableEq, Repr

/-- A PENDING bank that is not FREE: its state, its step, and the next stripe of its merge or zeroing. -/
structure Bank where
  st : BankState
  step : Nat
  pos : Nat
  deriving DecidableEq, Repr

/-- Snapshot slot states (Table 8-4). -/
inductive SnapState where
  | empty | filling | complete | draining | drained
  deriving DecidableEq, Repr

/-- A snapshot slot as WY_SNAP_SLOT reports it, with the SEQ of its header. -/
structure SnapSlot where
  st : SnapState
  scope : Nat
  seq : Nat
  deriving DecidableEq, Repr

/-- The running SNAP_CUT (R242 to R250): operation, slot, step, scope, set mask, scoped regions; after the freeze edge its
time and the next copy index of the background copy. Held writes from number `held` on arrived after the cut had started. The codes of
the copy-on-write map lie in the map tiles of the slot (R247). -/
structure Cut where
  op : Nat
  slot : Nat
  step : Nat
  scope : Nat
  mask : Nat
  regions : List Nat
  frozen : Option Nat
  seq : Nat
  next : Nat
  held : Nat
  deriving DecidableEq, Repr

/-- An outstanding base-die copy command (R20): the SNAP_CUT that issued it, first copy index, tiles, and whether it is a priority
copy. -/
structure Copy where
  op : Nat
  first : Nat
  count : Nat
  priority : Bool
  deriving DecidableEq, Repr

/-- The rick: slots, cut sequence number, running cut, copy commands, the engine's own writes that copy-before-write holds (tile key
and time), its held repair writes (region, tile, contents), and the interval estimator (R262, R267). -/
structure Snap where
  slot0 : SnapSlot
  slot1 : SnapSlot
  seq : Nat
  cut : Option Cut
  copies : Tab Copy
  waits : Tab Nat
  repairs : List (Nat × Nat × List Byte)
  interval : Nat
  lastFreeze : Option Nat
  cleared : Nat
  losses : List Nat
  tcut : Option Nat
  tdrain : Nat
  deriving DecidableEq, Repr

/-- What a DEVICE cut saved (Table 8-7), under the number from which the bytes of its context save area come (log entry 2). -/
structure Saved where
  number : Nat
  regions : Tab Region
  sheaves : Tab Sheaf
  sets : Tab SetTab
  banks : Tab Bank
  dirty : Tab Nat
  tracker : List Track
  norm : Tab Norm
  sctx : Tab SendCtx
  rctx : Tab RecvCtx
  rows : Tab TabSlot
  rtt : Tab Rtt
  paths : Tab PathCnt
  digest : List Byte
  deriving DecidableEq, Repr

/-- Lane states (Table 14-2). -/
inductive LaneState where
  | active | warm | cold | waking
  deriving DecidableEq, Repr

/-- Power, clocks and the governor (R401 to R417): lane state, point, VLANE code and LCLK point requested, waves ungated in the present
wake and the time of its next wave, whether the PLL runs, the governor's point, the point that a start of the PLL takes, whether a
VLANE_ACK or an LCLK_LOCK is awaited, the state that the wake left, and the times and counts that the sleep controller and the governor
measure from. -/
structure Power where
  lanes : LaneState
  f : Nat
  vlane : Nat
  lclkReq : Nat
  wave : Nat
  waveDue : Nat
  pll : Bool
  target : Nat
  wakeF : Nat
  wantV : Bool
  relock : Bool
  wakeFrom : LaneState
  gated : Bool
  therm : Nat
  throt : Bool
  lastWork : Nat
  warmSince : Nat
  coldSince : Nat
  lastAccum : Option Nat
  lastArrival : Nat
  lastChange : Nat
  lastEval : Nat
  workIn : Nat
  deadline : Option Nat
  missed : Bool
  deriving DecidableEq, Repr

/-- A calibration set (Table 14-4): VLANE codes and VALID bits of the points, the other fields; weights as FP32. -/
structure CalSet where
  vf : List Nat
  valid : List Bool
  throtF : Nat
  ofs1 : Nat
  ofs2 : Nat
  tRelock : Nat
  margin : Nat
  raiseTiles : Nat
  raiseLoad : Nat
  raiseCtrl : Nat
  cutW : Word
  drainW : Word
  wLoss : Word
  tau : Word
  lambda0 : Word
  deriving DecidableEq, Repr

/-- WY_CAL_CTRL's status bits (Table 14-14), the set in use (R422), the origin of the running write, and the flash
sector itself (R419: outside the engine's resets). -/
structure Cal where
  set : CalSet
  busy : Bool
  readDone : Bool
  safe : Bool
  staged : Bool
  last : Nat
  origin : Nat
  image : List Byte
  flash : List Byte
  deriving DecidableEq, Repr

/-- WY_EVT_INFO of one source (Table 16-10). -/
structure Info where
  detail : Nat
  count : Nat
  deriving DecidableEq, Repr

/-- The event block (R446 to R452): pending banks, INFO of the sources that have occurred, the lines, CPIDLE, and the time
each target's first unmasked pending normal bit became pending. -/
structure Evt where
  pendN : BitVec 128
  pendF : BitVec 128
  info : Tab Info
  lineN : BitVec 8
  lineF : BitVec 8
  cpidle : BitVec 8
  since : Tab Nat
  cmpOwn : Tab Nat
  deriving DecidableEq, Repr

/-- An audit record before it has its PHASE (Table 16-2). -/
structure AuditRec where
  time : Nat
  status : Nat
  seq : Nat
  epoch : Nat
  origin : Nat
  index : Nat
  kind : Nat
  object : Nat
  detail : Nat
  deriving DecidableEq, Repr

/-- The audit log (R453 to R457): buffer, sequence and lost counts, reservations, ring write and consumed counts, a ring
write that awaits a retry, whether the full condition holds, and the time of the last poll of the consumed count. -/
structure Audit where
  buf : List AuditRec
  seq : Word
  lost : Word
  resv : Nat
  w : Word
  consumed : Word
  retry : Bool
  full : Bool
  polled : Nat
  deriving DecidableEq, Repr

/-- A staged high word or a latched high word of a 64-bit register, per requester (R463). -/
structure HighWord where
  req : Nat
  off : Nat
  value : Word
  deriving DecidableEq, Repr

/-- What the engine has issued at its fabric port, in order: a Quetar packet, a read, a write, a reduction, a multicast
store, the link credit of a packet that arrived (FAB_CRED_OUT, R21), a response to a Hebribry read, an answer to an agent on TAP_ISSUE. `route` is the Hebribry route selector (Table 11-6). -/
inductive Tx where
  | packet (dst path : Nat) (bytes : List Byte)
  | read (addr len cls route : Nat)
  | write (addr : Nat) (bytes : List Byte) (cls route : Nat)
  | reduce (addr : Nat) (max : Bool) (v cls route : Nat)
  | mcast (addr : Nat) (bytes : List Byte) (cls route : Nat)
  | credit
  | readAnswer (dst off : Nat) (bytes : List Byte)
  | readErrorAnswer (dst off : Nat)
  | agentAnswer (agent tile : Nat) (bytes : List Byte)
  | agentError (agent tile : Nat)
  | cbErr (req : Nat)
  deriving DecidableEq, Repr

/-- The tap (chapter 4). `queue` holds the writes that wait at the write-queue input, oldest first; `formed` lists (region, tile, step) of live steps for which a message has been formed (R369). -/
structure Tap where
  pairs : Tab PairEntry
  inflight : List Inflight
  held : List Held
  queue : List Queued
  slots : Tab Delta
  tracker : List Track
  norm : Tab Norm
  dirty : Tab Nat
  park : List ParkRef
  parkNext : Nat
  formed : List (Nat × Nat × Nat)
  nextId : Nat
  deriving DecidableEq, Repr

/-- The fabric port and the landing (chapter 5, chapter 7's READs, chapter 12's buckets). `c0Level` and `c0Last` are the bytes
that the arrival envelope of R366 still admits, and when that was; `spillEvent` the time and class of the last spill-overflow event while
its condition lasts (R24); `applyLast` the apply queue served last (R154). -/
structure Port where
  sctx : Tab SendCtx
  rctx : Tab RecvCtx
  applyQ : List Apply
  acks : List AckBatch
  rtt : Tab Rtt
  paths : Tab PathCnt
  winStart : Nat
  rreq : Tab ReadReq
  heldReads : List HeldRead
  buckets : List Bucket
  readSeq : Tab Nat
  xfers : List Xfer
  nextXfer : Nat
  spillEvent : Option (Nat × Nat)
  applyLast : Nat
  c0Level : Nat
  c0Last : Nat
  tx : List Tx
  deriving DecidableEq, Repr

/-- The Sward's liveness state (chapter 13): dedup keys, report ring count, reports sent, lark rounds per lark peer, and
the time of the last lark interval tick and the WY_LARK_CFG in effect since it (R396). -/
structure Sward where
  keys : List Key
  rptCount : Nat
  sent : List ReportSent
  rounds : Tab Nat
  tick : Nat
  cfg : Word
  deriving DecidableEq, Repr

/-- The table memories (R345 to R347, R70). -/
structure Tables where
  rows : Tab TabSlot
  entropy : Tab TabSlot
  place : Tab TabSlot
  dec : Tab DecSlot
  deriving DecidableEq, Repr

/-- The sequencers (R334, R340, R344): which operation each holds, the ready queue, the lane taken last, trigger counters
and their owners. -/
structure Seqs where
  q : Tab Nat
  ready : List Nat
  lane : Nat
  trig : Tab Word
  trigOwn : Tab Nat
  deriving DecidableEq, Repr

/-- The state of the engine. `pending` is the queue of commands that wait, first in first out; `free` the model's own
counter behind the free values, `starts` counts the operations that have started (R188, R194), and `saves` what its DEVICE cuts saved (log entry 2). -/
structure State where
  pending : List Instr
  free : Nat
  strap : Strap
  time : Word64
  mem : Tab Byte
  regs : Tab Word
  chipSel : Tab Nat
  staged : List HighWord
  latch : List HighWord
  boot : Boot
  ucode : Ucode
  rings : Tab Ring
  fetchLast : Nat
  ops : List Op
  nextOp : Nat
  starts : Nat
  recs : List Rec
  seqs : Seqs
  regions : Tab Region
  sheaves : Tab Sheaf
  tables : Tables
  tap : Tap
  port : Port
  sward : Sward
  sets : Tab SetTab
  banks : Tab Bank
  retire : List Retire
  snap : Snap
  power : Power
  cal : Cal
  evt : Evt
  audit : Audit
  receipt : Nat
  saves : List Saved
  deriving DecidableEq, Repr

/-- The reasons a step stops with a fault. -/
inductive Fault where
  /-- Raised by a command that names a byte beyond the 18,874,368 tiles of the engine's stack, which R44 says a stack does not
  have. Safe: the model stops where no memory is. -/
  | outsideStack
  deriving DecidableEq, Repr

/-- The reasons a step refuses a command. -/
inductive Refusal where
  /-- A row of the table that has no meaning yet, by its mnemonic. Safe. -/
  | notModelled (mnemonic : String)
  deriving DecidableEq, Repr

/-- The safe table of R422 (Table 14-5), with the factory weights of Table 8-13 as FP32. -/
def CalSet.safe : CalSet :=
  { vf := [8, 13, 18, 24, 30, 0, 0, 0, 0]
    valid := [true, true, true, true, true, false, false, false, false]
    throtF := 2, ofs1 := 2, ofs2 := 4, tRelock := 200, margin := 100
    raiseTiles := 16, raiseLoad := 12, raiseCtrl := 1
    cutW := 0x3E800000#32, drainW := 0x3C23D70A#32, wLoss := 0x3F800000#32
    tau := 0x47A8C000#32, lambda0 := 0x3727C5AC#32 }

/-- Boot state after a reset (R31, Table 15-2); `warm` is 1 after a warm reset (R462). -/
def Boot.reset (warm : Bool) : Boot :=
  { phase := .reset, warm := warm, failCause := 0, alignReq := false, lanes := 0#32, defect := 0#32, rickBase := 0, rickTiles := 0
    mclk := 0#64, bistBusy := false, bistDone := false, guardPass := false, lanesOk := 0, bistLanes := 0#32 }

/-- Microcode state after a reset: both banks cleared, the boot bank active (R31, R429). -/
def Ucode.reset : Ucode :=
  { store := [], active := 0, boot := true, present := 0#256, length := none, tag := none, lastFail := false, level := 0
    presented := none, digest := [] }

/-- Power state after a reset: WY_PWR_STATUS 0x0000_0002, that is FALLOW_COLD at point 0 (Table 14-13). -/
def Power.reset : Power :=
  { lanes := .cold, f := 0, vlane := 0, lclkReq := 0, wave := 0, waveDue := 0, pll := false, target := 0, wakeF := 0, wantV := false
    relock := false, wakeFrom := .cold, gated := false, therm := 0, throt := false, lastWork := 0, warmSince := 0, coldSince := 0
    lastAccum := none, lastArrival := 0, lastChange := 0, lastEval := 0, workIn := 0, deadline := none, missed := false }

/-- Snapshot state after a reset: slots EMPTY until a RICK is set up (R238), INTERVAL 1,800 s (Table 8-17). -/
def Snap.reset : Snap :=
  { slot0 := ⟨.empty, 0, 0⟩, slot1 := ⟨.empty, 0, 0⟩, seq := 0, cut := none, copies := [], waits := [], repairs := [], interval := 1800, lastFreeze := none
    cleared := 0, losses := [], tcut := none, tdrain := 0 }

/-- Event state after a reset (Tables 16-7 to 16-10). -/
def Evt.reset : Evt :=
  { pendN := 0#128, pendF := 0#128, info := [], lineN := 0#8, lineF := 0#8, cpidle := 0#8, since := [], cmpOwn := [] }

/-- Audit state after a cold reset (R31, R455, Table 16-14). -/
def Audit.reset : Audit :=
  { buf := [], seq := 0#32, lost := 0#32, resv := 0, w := 0#32, consumed := 0#32, retry := false, full := false, polled := 0 }

/-- Tap state after a reset. -/
def Tap.reset : Tap :=
  { pairs := [], inflight := [], held := [], queue := [], slots := [], tracker := [], norm := [], dirty := [], park := [], parkNext := 0
    formed := [], nextId := 0 }

/-- Fabric-port state after a reset. -/
def Port.reset : Port :=
  { sctx := [], rctx := [], applyQ := [], acks := [], rtt := [], paths := [], winStart := 0, rreq := [], heldReads := []
    buckets := [], readSeq := [], xfers := [], nextXfer := 0, spillEvent := none, applyLast := 63, c0Level := 65536
    c0Last := 0, tx := [] }

/-- Calibration state after a reset, over the flash sector it keeps (R420, R422, R425). -/
def Cal.reset (flash : List Byte) : Cal :=
  { set := CalSet.safe, busy := false, readDone := false, safe := false, staged := false, last := 0, origin := 0, image := []
    flash := flash }

/-- The engine right after a cold reset (R31, R462). Where the manual gives no value, log entries 4 to 9 name it. -/
def State.reset : State :=
  { pending := [], free := 0, strap := { node := 0, engine := 0 }, time := 0#64, mem := [], regs := [], chipSel := []
    staged := [], latch := [], boot := Boot.reset false, ucode := Ucode.reset, rings := [], fetchLast := 63, ops := [], nextOp := 0, starts := 0
    recs := [], seqs := { q := [], ready := [], lane := 31, trig := [], trigOwn := [] }, regions := [], sheaves := []
    tables := { rows := [], entropy := [], place := [], dec := [] }, tap := Tap.reset, port := Port.reset
    sward := { keys := [], rptCount := 0, sent := [], rounds := [], tick := 0, cfg := 0x00000C64#32 }, sets := [], banks := [], retire := []
    snap := Snap.reset, power := Power.reset, cal := Cal.reset (List.replicate 128 0#8), evt := Evt.reset
    audit := Audit.reset, receipt := 0, saves := [] }

end Sys2Proof.Machine
end

