-- ==== Sys2Proof/Machine/Ops.lean ====
section
/-! DEFINITION. The named operations over memory, registers, counters, time and regions. -/

namespace Sys2Proof.Machine

/-- The outcome of a meaning that goes on. -/
abbrev Out := Host.Outcome State Fault Refusal

/-- WY_TIME as a number of ticks (R398). -/
def State.now (s : State) : Nat := s.time.toNat

/-- Has ALIGN_ACK arrived since the reset (R32)? Before it there is no MCLK-domain scheduling. -/
def State.aligned (s : State) : Bool := !(s.boot.phase == .reset || s.boot.phase == .align)

/-- Ticks in n microseconds (Table 0-3). -/
def us (n : Nat) : Nat := 100 * n

/-- Have at least `d` ticks passed since `t`? -/
def State.past (s : State) (t d : Nat) : Bool := decide (t + d ≤ s.now)

/-- A global address from node, agent and offset (R4). -/
def gaddr (node agent off : Nat) : Nat := node * 2 ^ 46 + agent * 2 ^ 42 + off
/-- Node field [63:46]. -/
def gNode (a : Nat) : Nat := bits a 46 18
/-- Agent field [45:42]. -/
def gAgent (a : Nat) : Nat := bits a 42 4
/-- Offset field [41:0]. -/
def gOff (a : Nat) : Nat := bits a 0 42
/-- Destination key (node, agent) as one number. -/
def dstKey (node agent : Nat) : Nat := node * 16 + agent

/-- Tiles of a stack (R44). -/
def stackTiles : Nat := 18874368
/-- Bytes of a stack (R44). -/
def stackBytes : Nat := stackTiles * 4096

/-- Is `a` an address of this engine's own agent? -/
def State.own (s : State) (a : Nat) : Bool := gNode a == s.strap.node && gAgent a == s.strap.engine
/-- Do `n` bytes at `a` lie in this engine's own stack (R35, R44)? -/
def State.inStack (s : State) (a n : Nat) : Bool := s.own a && decide (gOff a + n ≤ stackBytes)
/-- The global address of a byte of this engine's stack. -/
def State.stackAddr (s : State) (off : Nat) : Nat := gaddr s.strap.node s.strap.engine off
/-- The global address of a tile of this engine's stack. -/
def State.tileAddr (s : State) (tile : Nat) : Nat := s.stackAddr (tile * 4096)

/-- What a byte of memory reads as: an unlisted byte reads 0 (log entry 1). -/
def byteAt (m : Tab Byte) (a : Nat) : Byte := (m.get a).getD 0#8
/-- `n` bytes of memory at `a`. -/
def memRead (m : Tab Byte) (a n : Nat) : List Byte := (List.range n).map (fun i => byteAt m (a + i))
/-- The listed pairs of bytes written at `a`: those that are not 0. -/
def listing : Nat → List Byte → Tab Byte
  | _, [] => []
  | a, b :: v => if b = 0#8 then listing (a + 1) v else (a, b) :: listing (a + 1) v
/-- Memory after a write of bytes at `a`, in canonical form. -/
def memWrite (m : Tab Byte) (a : Nat) (v : List Byte) : Tab Byte :=
  m.filter (fun p => decide (p.1 < a)) ++ listing a v ++ m.filter (fun p => decide (a + v.length ≤ p.1))
/-- Memory after `n` bytes at `a` are made 0. -/
def memZero (m : Tab Byte) (a n : Nat) : Tab Byte := m.filter (fun p => decide (p.1 < a) || decide (a + n ≤ p.1))
/-- The canonical form of memory: addresses strictly rising, no listed byte equal to what an unlisted one reads as. -/
def memWf (m : Tab Byte) : Bool := m.wf && m.all (fun p => !(p.2 == 0#8))

/-- Bytes of this engine's stack. -/
def State.stackRead (s : State) (off n : Nat) : List Byte := memRead s.mem (s.stackAddr off) n
/-- Write bytes of this engine's stack. -/
def State.stackWrite (s : State) (off : Nat) (v : List Byte) : State := { s with mem := memWrite s.mem (s.stackAddr off) v }
/-- Make bytes of this engine's stack 0. -/
def State.stackZero (s : State) (off n : Nat) : State := { s with mem := memZero s.mem (s.stackAddr off) n }

/-- Put an issue on the record of the port. -/
def State.send (s : State) (x : Tx) : State := { s with port := { s.port with tx := s.port.tx ++ [x] } }

/-- A packet or a snooped request has arrived: the MCLK units are ungated (R407). -/
def State.seen (s : State) : State := { s with power := { s.power with lastArrival := s.now, gated := false } }
/-- A packet has arrived: its link credit is returned whatever becomes of it (R21, R22). -/
def State.packetIn (s : State) : State := s.seen.send .credit

/-- What a read gives: data, the error response, or the retry limit of R336. -/
inductive Rd where
  | data (v : List Byte)
  | error
  | path
  deriving DecidableEq, Repr

/-- The answer listed for an address. -/
def extFind : Ext → Nat → Option Resp
  | [], _ => none
  | (k, r) :: e, a => if k = a then some r else extFind e a

/-- Does the answer list flag a 64-byte sector that `n` bytes at `a` touch? -/
def extFlagged (ext : Ext) (a n : Nat) : Bool :=
  (List.range ((a + n + 63) / 64 - a / 64)).any (fun i => extFind ext ((a / 64 + i) * 64) == some .error)

/-- A read of `n` bytes at a global address (R336): the answer listed for the address; else the engine's own stack from
memory; else the retry limit. -/
def State.fetch (s : State) (ext : Ext) (a n : Nat) : Rd :=
  match extFind ext a with
  | some (.data v) => .data (fit n v)
  | some .error => .error
  | none =>
    if s.inStack a n then (if extFlagged ext a n then .error else .data (memRead s.mem a n))
    else .path

/-- The active bank of a table slot. -/
def TabSlot.active (t : TabSlot) : List Byte := if t.act = 0 then t.bank0 else t.bank1

/-! ## Paths (R147, R347) -/

/-- Entry e of a placement group as held. -/
def State.placeEntry (s : State) (e : Nat) : List Byte :=
  match s.tables.place.get (e / 64) with
  | some t => slice t.active (32 * (e % 64)) 32
  | none => zeros 32
/-- The lowest-numbered valid placement entry of a destination. -/
def State.placement (s : State) (node agent : Nat) : Option (List Byte) :=
  let g := s.tables.place.keys
  (g.flatMap (fun k => (List.range 64).map (fun i => s.placeEntry (64 * k + i)))).find? (fun v =>
    let w := field v 0 4
    bitAt w 31 && decide (bits w 0 18 = node ∧ bits w 18 4 = agent))
/-- How many paths a destination lists: one without an entry. -/
def State.pathCount (s : State) (dst : Nat) : Nat :=
  match s.placement (dst / 16) (dst % 16) with
  | some v => Nat.max 1 (Nat.min 8 (bits (field v 4 1) 0 4))
  | none => 1
/-- The Hebribry route selector of a path: route 0 without an entry. -/
def State.routeOf (s : State) (dst p : Nat) : Nat :=
  match s.placement (dst / 16) (dst % 16) with
  | some v => field v (16 + 2 * p) 2
  | none => 0
/-- Key of a path's counts. -/
def pathKey (dst p : Nat) : Nat := 8 * dst + p
/-- Is a path flagged (R165)? -/
def State.pathFlagged (s : State) (dst p : Nat) : Bool := ((s.port.paths.get (pathKey dst p)).map (fun c => c.flag.isSome)).getD false
/-- The permitted paths of a destination, ascending. -/
def State.permitted (s : State) (dst : Nat) : List Nat := (List.range (s.pathCount dst)).filter (fun p => !s.pathFlagged dst p)
/-- The path of a first try: permitted path h mod n. -/
def State.firstPath (s : State) (dst : Nat) (h : Word) : Nat :=
  let l := s.permitted dst
  l.getD (h.toNat % Nat.max 1 l.length) 0
/-- The hash of a sheaf and stripe. -/
def stripeHash (sheaf stripe : Nat) : Word := crc32c (leBytes 3 sheaf ++ leBytes 4 stripe)
/-- The route selector with which a transfer to an address is issued: its hash is the CRC-32C of the address (R336). -/
def State.routeTo (s : State) (a : Nat) : Nat :=
  let dst := dstKey (gNode a) (gAgent a)
  s.routeOf dst (s.firstPath dst (crc32c (leBytes 8 a)))

/-! ## Reads and writes at global addresses (R336) -/

/-- Masked bytes over old ones. -/
def masked (old : List Byte) (v : List (Option Byte)) : List Byte := List.zipWith (fun (o : Byte) (n : Option Byte) => n.getD o) old v
/-- Write masked bytes to memory outside any region. -/
def State.writeLoose (s : State) (off : Nat) (v : List (Option Byte)) : State := s.stackWrite off (masked (s.stackRead off v.length) v)
/-- The agent number of the engine's own writes: none of the 32 of WY_TAP_OPT. -/
def engineAgent : Nat := 32
/-- Do `n` bytes of the stack from an offset meet a registered region? -/
def State.meetsRegion (s : State) (off n : Nat) : Bool :=
  s.regions.any (fun p => decide (p.2.tileBase * 4096 < off + n ∧ off < (p.2.tileBase + p.2.tileCount) * 4096))
/-- A write at the controller of the own stack (R14, R17): one that meets a registered region goes to the tap, any other one is
performed. -/
def State.putWrite (s : State) (agent : Nat) (op : Option Nat) (off : Nat) (v : List (Option Byte)) : State :=
  if s.meetsRegion off v.length then { s with tap := { s.tap with queue := s.tap.queue ++ [⟨agent, op, off, v⟩] } }
  else s.writeLoose off v
/-- A write of the engine's own at a global address on a class, for an operation or for none: in the own stack through the tap (R14),
else issued at the fabric port. -/
def State.storeFor (s : State) (op : Option Nat) (a : Nat) (v : List Byte) (cls : Nat) : State :=
  if s.inStack a v.length then s.putWrite engineAgent op (gOff a) (v.map some) else s.send (.write a v cls (s.routeTo a))
/-- Bytes written at an offset over others that begin at an offset. -/
def overlay (off : Nat) (v : List Byte) (woff : Nat) (w : List (Option Byte)) : List Byte :=
  v.zipIdx.map (fun p => if woff ≤ off + p.2 then ((w[off + p.2 - woff]?).join).getD p.1 else p.1)
/-- The stack byte offset of a held part. -/
def State.heldOff (s : State) (h : Held) : Nat := (((s.regions.get h.region).map (·.tileBase)).getD 0 + h.tile) * 4096 + h.off
/-- Bytes of the stack as they stand once every write that the tap holds or has at its input is performed. -/
def State.pendingRead (s : State) (off n : Nat) : List Byte :=
  s.tap.queue.foldl (fun v q => overlay off v q.off q.data)
    (s.tap.held.foldl (fun v h => overlay off v (s.heldOff h) h.data) (s.stackRead off n))
/-- A write of the engine's own that no operation waits for. -/
def State.store (s : State) (a : Nat) (v : List Byte) (cls : Nat) : State := s.storeFor none a v cls
/-- The write of an operation's own. -/
def State.engineWrite (s : State) (op a : Nat) (v : List Byte) (cls : Nat) : State := s.storeFor (some op) a v cls

/-- Reset values of the stored registers by window offset (Table 17-3). -/
def regReset (off : Nat) : Word :=
  if off = 0x0100 then 0x04208310#32 else if off = 0x010C then 0x00002032#32 else if off = 0x011C then 0x00000031#32
  else if off = 0x012C then 0x00032086#32 else if off = 0x0130 then 0x00A6420B#32 else if off = 0x0134 then 0x0001030C#32
  else if off = 0x0138 then 0x0000085C#32 else if off = 0x0140 then 0x00010080#32 else if off = 0x0144 then 0x00020200#32
  else if off = 0x0148 then 0x00080800#32 else if off = 0x014C then 0x00000200#32 else if off = 0x0160 then 0x00B40018#32
  else if off = 0x0164 then 0x000100B4#32 else if off = 0x0180 then 0x00000C64#32 else if off = 0x0194 then 0x00000032#32
  else if off = 0x0200 then 0x001F400B#32 else if off = 0x0204 then 0x00001008#32
  else if 0x0440 ≤ off ∧ off < 0x0460 then 0x00000400#32 else if off = 0x0470 then 0x000000A0#32
  else if 0x2000 ≤ off ∧ off < 0x3000 ∧ off % 64 = 28 then 0x0000000A#32 else 0#32

/-- A stored register word: what is listed, else its reset value. -/
def State.reg (s : State) (off : Nat) : Word := (s.regs.get off).getD (regReset off)
/-- A stored register word as a number. -/
def State.regN (s : State) (off : Nat) : Nat := (s.reg off).toNat
/-- A stored 64-bit register (R73). -/
def State.reg64 (s : State) (off : Nat) : Nat := s.regN off + 2 ^ 32 * s.regN (off + 4)
/-- Set a stored register word; a word at its reset value is not listed. -/
def State.setReg (s : State) (off : Nat) (w : Word) : State :=
  { s with regs := if w = regReset off then s.regs.del off else s.regs.set off w }
/-- Count `n` in a 32-bit counter that wraps. -/
def State.bumpBy (s : State) (off n : Nat) : State :=
  if n = 0 then s else s.setReg off (s.reg off + BitVec.ofNat 32 n)
/-- Count one. -/
def State.bump (s : State) (off : Nat) : State := s.bumpBy off 1

/-- Counter offsets of Table 17-3. -/
def tapCnt (n : Nat) : Nat := 0x0C00 + 4 * n
def qtrCnt (n : Nat) : Nat := 0x0C40 + 4 * n
def stepCnt (n : Nat) : Nat := 0x0C80 + 4 * n
def rbldCnt (n : Nat) : Nat := 0x0CA0 + 4 * n
def snapCnt (n : Nat) : Nat := 0x0CC0 + 4 * n
def tedCnt (n : Nat) : Nat := 0x0CE0 + 4 * n
def guardCnt (n : Nat) : Nat := 0x0D00 + 4 * n
def seqCnt (n : Nat) : Nat := 0x0D20 + 4 * n
def clsCnt (n : Nat) : Nat := 0x0D40 + 4 * n
def membCnt (n : Nat) : Nat := 0x0D60 + 4 * n
def pwrCnt (n : Nat) : Nat := 0x0D80 + 4 * n
def bootCnt (n : Nat) : Nat := 0x0DA0 + 4 * n
def faultCnt (n : Nat) : Nat := 0x0DC0 + 4 * n
def ringLost (n : Nat) : Nat := 0x0F00 + 4 * n
/-- Register `off` of ring block n (Table 3-1). -/
def ringReg (n off : Nat) : Nat := 0x2000 + 0x40 * n + off

/-- Field [lo + w - 1 : lo] of a stored register. -/
def State.rf (s : State) (off lo w : Nat) : Nat := bits (s.regN off) lo w

/-- Units of the staging partitions (R37). -/
def State.partPair (s : State) : Nat := s.rf 0x0100 0 6
def State.partCode (s : State) : Nat := s.rf 0x0100 6 6
def State.partLand (s : State) : Nat := s.rf 0x0100 12 6
def State.partTed (s : State) : Nat := s.rf 0x0100 18 6
def State.partRbs (s : State) : Nat := s.rf 0x0100 24 6

/-- Do two ranges of tiles or bytes overlap? -/
def overlap (a n b m : Nat) : Bool := decide (0 < n ∧ 0 < m ∧ a < b + m ∧ b < a + n)

/-- A named range of the stack, in tiles. -/
structure Span where
  base : Nat
  count : Nat
  deriving DecidableEq, Repr

/-- The spill area (R23, R469). -/
def State.spillSpan (s : State) : Span := ⟨s.rf 0x0104 0 25, s.rf 0x0108 0 25⟩
/-- The guard store (R306). -/
def State.guardSpan (s : State) : Span := ⟨s.rf 0x0114 0 25, s.rf 0x0118 0 25⟩
/-- The park ring (R372). -/
def State.parkSpan (s : State) : Span := ⟨s.rf 0x0120 0 25, s.rf 0x0124 0 25⟩
/-- The tenancy ledger: four tiles while EN is 1 (R392). -/
def State.ledgerSpan (s : State) : Span := ⟨s.rf 0x0128 0 25, if bitAt (s.regN 0x0128) 31 then 4 else 0⟩
def Span.meets (a b : Span) : Bool := overlap a.base a.count b.base b.count
/-- Does the range end within the stack's tiles? -/
def Span.fits (a : Span) : Bool := decide (a.base + a.count ≤ stackTiles)

/-- Is the engine free of registered regions? -/
def State.noRegion (s : State) : Bool := s.regions.isEmpty
/-- Is no region of the engine in a sheaf? -/
def State.noSheaf (s : State) : Bool := s.regions.vals.all (fun r => r.sheaf == 0)

/-- Change a region. -/
def State.modRegion (s : State) (i : Nat) (f : Region → Region) : State := { s with regions := s.regions.upd i f }
/-- Change the sheaf installed under an identifier. -/
def State.modSheaf (s : State) (i : Nat) (f : Sheaf → Sheaf) : State := { s with sheaves := s.sheaves.upd i f }
/-- Change an operation. -/
def State.modOp (s : State) (id : Nat) (f : Op → Op) : State :=
  { s with ops := s.ops.map (fun o => if o.id = id then f o else o) }
/-- The operation with a number. -/
def State.op? (s : State) (id : Nat) : Option Op := s.ops.find? (fun o => o.id == id)
/-- Change the state of a region set. -/
def State.modSet (s : State) (k : Nat) (f : SetTab → SetTab) : State := { s with sets := s.sets.upd k f }

/-- A set that no step has named: no depth restriction and no step. -/
def SetTab.new (d : Nat) : SetTab := { d := d, h := 0, c := 0, n := none, live := [], closing := none }

/-- Depth D of set k from WY_SET_DEPTH: two bits per set, sixteen sets per word (Table 6-3). -/
def State.setDepth (s : State) (k : Nat) : Nat := bits (s.regN (0x0150 + 4 * (k / 16))) (2 * (k % 16)) 2
/-- The step table of set k; D of a set that no STEP_OPEN has opened is 0 (Table 6-1). -/
def State.setTab (s : State) (k : Nat) : SetTab := (s.sets.get k).getD (SetTab.new 0)
/-- Put a set's table. -/
def State.putSet (s : State) (k : Nat) (t : SetTab) : State := { s with sets := s.sets.set k t }
/-- Does the set have a live step (R177)? -/
def State.setLive (s : State) (k : Nat) : Bool := !((s.setTab k).live.isEmpty)
/-- The OPEN step of a set whose close has not started (R106). -/
def State.openStep (s : State) (k : Nat) : Option Nat :=
  let t := s.setTab k
  match t.live.find? (fun p => !p.2) with
  | some (n, _) => if t.closing = some n then none else some n
  | none => none

/-- The region that holds a stack tile, with its index. -/
def State.regionAt (s : State) (tile : Nat) : Option (Nat × Region) :=
  s.regions.find? (fun p => decide (p.2.tileBase ≤ tile ∧ tile < p.2.tileBase + p.2.tileCount))

/-- Roles whose writes are captured (R105). -/
def Role.captured : Role → Bool
  | .data | .tedderResidue | .runtimeRecord => true
  | _ => false
/-- Roles that only the engine writes (R49). -/
def Role.engineOnly : Role → Bool
  | .parityHome | .pending | .deltaLog | .rick | .foster => true
  | _ => false
/-- Roles that carry a digest (Table 2-2). -/
def Role.digested : Role → Bool
  | .data | .parityHome | .tedderResidue | .runtimeRecord | .watch => true
  | _ => false
/-- Codes of Table 2-2. -/
def Role.code : Role → Nat
  | .data => 1 | .parityHome => 2 | .pending => 3 | .deltaLog => 4 | .rick => 5 | .foster => 6 | .tedderOut => 7
  | .tedderResidue => 8 | .runtimeRecord => 9 | .watch => 10
def Role.ofCode : Nat → Option Role
  | 1 => some .data | 2 => some .parityHome | 3 => some .pending | 4 => some .deltaLog | 5 => some .rick | 6 => some .foster
  | 7 => some .tedderOut | 8 => some .tedderResidue | 9 => some .runtimeRecord | 10 => some .watch | _ => none
/-- Codes of Table 2-3. -/
def Fmt.code : Fmt → Nat
  | .raw => 0 | .fp32 => 1 | .bf16 => 2 | .fp16 => 3 | .fp8e4m3 => 4 | .fp8e5m2 => 5 | .mxfp8e4m3 => 6 | .mxfp8e5m2 => 7
  | .mxfp6e2m3 => 8 | .mxfp6e3m2 => 9 | .mxfp4 => 10 | .fp40 => 11
def Fmt.ofCode : Nat → Option Fmt
  | 0 => some .raw | 1 => some .fp32 | 2 => some .bf16 | 3 => some .fp16 | 4 => some .fp8e4m3 | 5 => some .fp8e5m2
  | 6 => some .mxfp8e4m3 | 7 => some .mxfp8e5m2 | 8 => some .mxfp6e2m3 | 9 => some .mxfp6e3m2 | 10 => some .mxfp4
  | 11 => some .fp40 | _ => none
/-- Region state codes of Table 2-1. -/
def RegState.code : RegState → Nat
  | .setup => 1 | .live => 2 | .fostering => 3 | .releasing => 4

/-- The guard strength under which tile t of a region is stored now (R319). -/
def Region.strengthAt (r : Region) (t : Nat) : Nat :=
  match r.reguard with
  | some w => if t < w.pos then w.guard else r.guard
  | none => r.guard

/-- Stack byte offset of the guard line of tile t (R307). -/
def Region.lineOff (r : Region) (t : Nat) : Option Nat := r.guardBlock.map (fun b => b * 4096 + r.guardLine * t)

/-- The bytes of region tile t as stored. -/
def State.tileBytes (s : State) (r : Region) (t : Nat) : List Byte := s.stackRead ((r.tileBase + t) * 4096) 4096

/-- Write the guard line of tile t for the contents v at a strength. -/
def State.putLine (s : State) (r : Region) (t g : Nat) (v : List Byte) : State :=
  match r.lineOff t with
  | some off => if g = 0 then s else s.stackWrite off (guardLine g v)
  | none => s

/-- XOR the line of a change into the guard line of tile t (R309). -/
def State.xorLine (s : State) (r : Region) (t g : Nat) (d : List Byte) : State :=
  match r.lineOff t with
  | some off => if g = 0 then s else s.stackWrite off (xorBytes (guardLine g d) (s.stackRead off (2 * guardSymbols g)))
  | none => s

/-- Refresh the pairing entry of a stack tile: every sector it holds valid takes the new contents (R113). -/
def State.refreshPair (s : State) (tile : Nat) (v : List Byte) : State :=
  { s with tap := { s.tap with pairs := s.tap.pairs.upd tile (fun e =>
      { e with data := (List.range 64).flatMap (fun i =>
          if e.valid.getLsbD i then slice v (64 * i) 64 else slice e.data (64 * i) 64) }) } }

/-- Store a whole region tile with its guard line and pairing entry (R113, R309). -/
def State.putTile (s : State) (r : Region) (t : Nat) (v : List Byte) : State :=
  ((s.stackWrite ((r.tileBase + t) * 4096) (fit 4096 v)).putLine r t (r.strengthAt t) v).refreshPair (r.tileBase + t) v

/-- Store new contents of some sectors of a region tile: the line takes the parity of the change (R309). -/
def State.putPart (s : State) (r : Region) (t : Nat) (v : List Byte) : State :=
  ((s.stackWrite ((r.tileBase + t) * 4096) (fit 4096 v)).xorLine r t (r.strengthAt t) (xorBytes (s.tileBytes r t) v)).refreshPair
    (r.tileBase + t) v

/-- A FULL stream slot with its check pairs (R335, R341). -/
def Slot.full (v : List Byte) : Slot := ⟨.full, 0, v, tileChecks v⟩
/-- A stream slot whose tile has not arrived. -/
def Slot.loading : Slot := ⟨.loading, 0, [], []⟩
/-- A stream slot in ERROR with its status. -/
def Slot.failed (st : Nat) : Slot := ⟨.error, st, [], []⟩

/-! ## The copy-on-write map (R247 to R249) -/

/-- The copy index of region tile t: its place in directory order. -/
def State.copyIndex (s : State) (c : Cut) (j t : Nat) : Nat :=
  ((c.regions.filter (fun i => decide (i < j))).map (fun i => ((s.regions.get i).map (·.tileCount)).getD 0)).sum + t
/-- The RICK region. -/
def State.rick (s : State) : Option (Nat × Region) := s.regions.find? (fun p => p.2.role == .rick)
/-- The first stack tile of rick slot x and the tiles of a slot (R233). -/
def State.slotTile (s : State) (x : Nat) : Nat × Nat :=
  match s.rick with
  | some (_, r) => (r.tileBase + x * (r.tileCount / 2), r.tileCount / 2)
  | none => (0, 0)
/-- Tiles of the regions of a list. -/
def State.tilesOf (s : State) (l : List Nat) : Nat := (l.map (fun i => ((s.regions.get i).map (·.tileCount)).getD 0)).sum
/-- Map tiles of a slot for t scoped tiles (R247). -/
def mapTiles (t : Nat) : Nat := ceilDiv t 16384
/-- The stack byte offset of the code of copy index i in slot x: map tiles follow the header and the directory, four codes a byte. -/
def State.mapOff (s : State) (x i : Nat) : Nat := ((s.slotTile x).1 + 3) * 4096 + i / 4
/-- The code of copy index i in the map of a cut's slot (R247). -/
def State.mapCode (s : State) (c : Cut) (i : Nat) : Nat := bits (leNat (s.stackRead (s.mapOff c.slot i) 1)) (2 * (i % 4)) 2
/-- Set the codes of `n` copy indices from i. -/
def State.setCodes (s : State) (c : Cut) (i n code : Nat) : State :=
  s.stackWrite (s.mapOff c.slot i) ((List.range ((i + n + 3) / 4 - i / 4)).map (fun b => BitVec.ofNat 8
    (((List.range 4).map (fun q =>
      let k := 4 * (i / 4 + b) + q
      (if i ≤ k ∧ k < i + n then code else s.mapCode c k) * 4 ^ q)).sum)))
/-- Issue a copy command of `n` tiles from copy index `i`: codes become COPYING (R248, R249). -/
def State.issueCopy (s : State) (c : Cut) (tag i n : Nat) (prio : Bool) : State :=
  let s1 := s.setCodes c i n 1
  { s1 with snap := { s1.snap with cut := some c, copies := s1.snap.copies.set tag ⟨c.op, i, n, prio⟩ } }
/-- Does copy-before-write hold a write to region tile t? -/
def State.cbwHolds (s : State) (j t : Nat) : Bool :=
  match s.snap.cut with
  | some c => c.frozen.isSome && c.regions.contains j && s.mapCode c (s.copyIndex c j t) != 2
  | none => false
/-- The priority copy that a held write to region tile t asks for, when a command is free. -/
def State.cbwAsk (s : State) (j t : Nat) : State :=
  match s.snap.cut with
  | some c =>
    let i := s.copyIndex c j t
    if s.mapCode c i = 0 then
      match s.snap.copies.free 64 with
      | some tag => s.issueCopy c tag i 1 true
      | none => s
    else s
  | none => s
/-- Zero the map tiles of a cut's slot (R244, R250). -/
def State.zeroMap (s : State) (c : Cut) : State := s.stackZero (s.mapOff c.slot 0) (mapTiles (s.tilesOf c.regions) * 4096)
/-- The key of a tile among the engine's own held writes. -/
def waitKey (j t : Nat) : Nat := j * 2 ^ 25 + t
/-- An engine write to region tile t meets copy-before-write: its hold begins, counted once, and it asks for its copy (R248). -/
def State.cbwEngine (s : State) (j t : Nat) : State :=
  let s1 := s.cbwAsk j t
  if s1.snap.waits.has (waitKey j t) then s1
  else ({ s1 with snap := { s1.snap with waits := s1.snap.waits.set (waitKey j t) s.now } }).bump (snapCnt 0)
/-- The engine's own holds that are over: their durations are counted (R248, R268). -/
def State.endWaits (s : State) : State :=
  s.snap.waits.foldl (fun t p =>
    if s.cbwHolds (p.1 / 2 ^ 25) (p.1 % 2 ^ 25) then t
    else ({ t with snap := { t.snap with waits := t.snap.waits.del p.1 } }).bumpBy (snapCnt 1) (s.now - p.2)) s
/-- Is a repair of region tile t held? -/
def State.repairHeld (s : State) (j t : Nat) : Bool := s.snap.repairs.any (fun q => q.1 == j && q.2.1 == t)
/-- A repair write of region tile t (R313): held like any other write while its tile is not copied (R248). -/
def State.repairTile (s : State) (j t : Nat) (r : Region) (v : List Byte) : State :=
  if s.cbwHolds j t then
    (if s.repairHeld j t then s
     else { s with snap := { s.snap with repairs := s.snap.repairs ++ [(j, t, v)] } }).cbwEngine j t
  else s.putTile r t v
/-- The first held repair write whose hold is over is performed. -/
def State.repairMove (s : State) : Option State :=
  match s.snap.repairs.find? (fun q => !s.cbwHolds q.1 q.2.1) with
  | none => none
  | some q =>
    let s1 := { s with snap := { s.snap with repairs := s.snap.repairs.filter (fun x => !(x.1 == q.1 && x.2.1 == q.2.1)) } }
    match s.regions.get q.1 with
    | some r => some (s1.putTile r q.2.1 q.2.2)
    | none => some s1

/-- The digest weight 2L + 1 of region tile t (R127). -/
def Region.weight (r : Region) (t : Nat) : Word64 := BitVec.ofNat 64 (2 * (r.logicalBase + t) + 1)

/-- D after a tile goes from `old` to `new` (R127). -/
def digestStep (d w : Word64) (old new : List Byte) : Word64 := d + (crc64 new - crc64 old) * w

/-- A tile as the memory controller returns it on an own read: its bytes, and the flagged sectors. -/
def State.tileRaw (s : State) (ext : Ext) (tile : Nat) : List Byte × List Nat :=
  let a := s.tileAddr tile
  ((List.range 64).flatMap (fun i =>
      match extFind ext (a + 64 * i) with
      | some (.data v) => fit 64 v
      | _ => memRead s.mem (a + 64 * i) 64),
   (List.range 64).filter (fun i => extFind ext (a + 64 * i) == some .error))

/-- The result of reading a region tile through page guard (R304, R311, R313). -/
structure TileRd where
  data : List Byte
  ok : Bool
  symbols : Nat
  load : Nat
  ctrl : Bool
  lineBad : Bool
  deriving DecidableEq, Repr

/-- Read region tile t through guard decode. At strength 0 a flagged read is uncorrectable; a line that returns an
error while the data does not is rebuilt from the data (R304, R313). -/
def State.readGuard (s : State) (ext : Ext) (r : Region) (t : Nat) : TileRd :=
  let raw := s.tileRaw ext (r.tileBase + t)
  let g := r.strengthAt t
  if g = 0 then ⟨raw.1, raw.2.isEmpty, 0, 0, !raw.2.isEmpty, false⟩ else
  match r.lineOff t with
  | none => ⟨raw.1, raw.2.isEmpty, 0, 0, !raw.2.isEmpty, false⟩
  | some off =>
    match s.fetch ext (s.stackAddr off) (2 * guardSymbols g) with
    | .data line =>
      match guardDecode g raw.1 line raw.2 with
      | some o => ⟨o.tile, true, o.symbols, o.load, !raw.2.isEmpty, false⟩
      | none => ⟨raw.1, false, 0, 0, !raw.2.isEmpty, false⟩
    | _ => ⟨raw.1, raw.2.isEmpty, 0, 0, true, true⟩

/-- What a guarded read leaves: counts, the adaptive window's counts, and the repair write of a corrected tile or line
(R312, R313, R320, R326). DEDUCED (log entry 11): every corrected read writes back, as Example 12-1 shows for C0. -/
def State.noteRead (s : State) (i t : Nat) (r : Region) (x : TileRd) : State :=
  let g := r.strengthAt t
  let s1 := if x.ctrl && (decide (0 < g) || decide (0 < r.guardMax)) then s.bump (guardCnt 2) else s
  let s2 := s1.modRegion i (fun q => { q with
    winCtrl := q.winCtrl + bit x.ctrl, winTiles := q.winTiles + bit (decide (0 < x.symbols)), winLoad := Nat.max q.winLoad x.load })
  if g = 0 || !x.ok then s2 else
  if x.lineBad then (s2.bump (guardCnt 6)).putLine r t g x.data else
  if x.symbols = 0 then s2 else
  ((s2.bumpBy (guardCnt 0) x.symbols).bump (guardCnt 1)).repairTile i t r x.data

/-- The level of a transfer to an address (R359): 0 stack, 1 chip, 2 site, 3 wide. -/
def State.level (s : State) (a : Nat) : Nat :=
  let g := gAgent a
  if 12 ≤ g && bitAt (s.rf 0x0134 24 4) (g - 12) then 3
  else if s.own a then 0
  else if gNode a = s.strap.node then 1 else 2

/-- Credits of a level (Table 12-2). -/
def State.pool (s : State) (l : Nat) : Nat := s.rf (0x0140 + 4 * l) 0 12
def State.c0Reserve (s : State) (l : Nat) : Nat := s.rf (0x0140 + 4 * l) 12 8

/-- Credits in use at a level (R360): eight packets of each SENT message whose try is not yet complete, and the packets
of each outstanding transfer. -/
def State.creditsUsed (s : State) (l : Nat) : Nat :=
  (s.port.sctx.vals.map (fun c => if s.level (gaddr c.node c.agent 0) = l then
      8 * (c.msgs.filter (fun m => m.st == .sent)).length else 0)).sum +
  (s.port.xfers.map (fun x => if s.level x.addr = l then
      (match x.kind with
       | .loadTile _ | .storeTile _ _ => if l = 0 then 1 else 8
       | .message _ _ => 0
       | .ended _ => 0
       | .trig _ => 0
       | _ => 1) else 0)).sum

/-- May a transfer of a class with `n` packets issue at a level (R361)? -/
def State.creditOk (s : State) (l cls n : Nat) : Bool :=
  let free := s.pool l - s.creditsUsed l
  if cls = 0 then decide (n ≤ free) else decide (s.c0Reserve l + n ≤ free)

/-- The free value of the state's counter, and the counter advanced (log entry 2). -/
def State.freshNat (s : State) : Nat × State := (Config.freeNat s.free, { s with free := s.free + 1 })
/-- Free bytes (log entry 2). -/
def State.freeBytes (s : State) (n : Nat) : List Byte × State := let f := s.freshNat; (leBytes n f.1, f.2)

end Sys2Proof.Machine
end

