-- ==== Sys2Proof/Machine/Flags.lean ====
section
/-! DEFINITION. Status codes, event lines, audit records and completion records: every signal a command leaves. -/

namespace Sys2Proof.Machine

/-- Status codes of Table 3-11. -/
def stOk : Nat := 0x0000
def stSuspended : Nat := 0x0001
def stCancelled : Nat := 0x0002
def stWaitRef : Nat := 0x0003
def stNackTag : Nat := 0x0101
def stStaleEpoch : Nat := 0x0102
def stLogFull : Nat := 0x0103
def stConflict : Nat := 0x0104
def stNotSupported : Nat := 0x0105
def stDomain : Nat := 0x0106
def stUnrecoverable : Nat := 0x0201
def stCheckFail : Nat := 0x0202
def stRebuildMismatch : Nat := 0x0203
def stPathFailed : Nat := 0x0204
def stQuarantined : Nat := 0x0205
def stTopology : Nat := 0x0206

/-! ## Events (R446 to R452) -/

/-- WY_EVT_ROUTE of a source. -/
def State.route (s : State) (src : Nat) : Nat := s.regN (0x0600 + 4 * src)
/-- Is the class (0 normal, 1 fast) of target t owned by a tag (R447)? -/
def State.lineOwnedBy (s : State) (t c tag : Nat) : Bool :=
  let w := s.regN (0x0400 + 4 * (2 * t + c))
  bitAt w 16 && decide (bits w 0 16 = tag)
/-- The tag of a source (R448). -/
def State.sourceTag (s : State) (src : Nat) : Nat :=
  if src < 64 then bits (s.regN (ringReg src 0x18)) 16 16
  else if 106 ≤ src ∧ src < 112 then
    match s.evt.cmpOwn.get (src - 96) with
    | some r => ((s.regions.get r).map (·.jobTag)).getD 0
    | none => 0
  else 0
/-- The target to which a pending bit of a source in a bank is routed (R449). -/
def State.routedTo (s : State) (src : Nat) (fast : Bool) : Option Nat :=
  let w := s.route src
  let t := bits w 0 3
  if bitAt w 4 && s.lineOwnedBy t (bit fast) (s.sourceTag src) then some t else none

/-- The sources with an unmasked pending bit in a bank, each with the target it drives (R450). -/
def State.driving (s : State) (fast : Bool) : List (Nat × Nat) :=
  let pend := if fast then s.evt.pendF else s.evt.pendN
  if pend = 0#128 then [] else
  (List.range 128).filterMap (fun src =>
    if pend.getLsbD src && bitAt (s.regN ((if fast then 0x0590 else 0x0510) + 4 * (src / 32))) (src % 32)
    then (s.routedTo src fast).map (fun t => (src, t)) else none)

/-- Bits set for the targets below 8 that satisfy p. -/
def bits8 (p : Nat → Bool) : BitVec 8 :=
  (List.range 8).foldl (fun v t => if p t then v ||| (1#8 <<< t) else v) 0#8

/-- The lines after a change: a fast line follows its bits; a normal line falls with its last bit, and rises when
moderation lets it (R28, R450, R452). DESIGN CHOICE (log entry 14): CPIDLE[t] counts as asserted from CPIDLE_ASSERT until EVT_N[t]
rises. -/
def State.settleLines (s : State) : State :=
  let df := s.driving true
  let dn := s.driving false
  let cnt := fun t => (dn.filter (fun p => p.2 == t)).length
  let since := (List.range 8).filterMap (fun t =>
    if cnt t = 0 then none else some (t, (s.evt.since.get t).getD s.now))
  let up := fun t =>
    let m := s.regN (0x0440 + 4 * t)
    decide (0 < cnt t) && (s.evt.lineN.getLsbD t || decide (bits m 0 10 = 0) || decide (bits m 10 6 ≤ cnt t) ||
      s.evt.cpidle.getLsbD t || s.past ((since.find? (fun p => p.1 == t)).elim s.now (·.2)) (us (bits m 0 10)))
  let ln := bits8 up
  { s with evt := { s.evt with since := since, lineF := bits8 (fun t => df.any (fun p => p.2 == t)), lineN := ln
                               cpidle := s.evt.cpidle &&& ~~~ln } }

/-- Set a pending bit and nothing else. -/
def State.setPending (s : State) (src : Nat) (fast : Bool) : State :=
  let b : BitVec 128 := 1#128 <<< src
  if fast then { s with evt := { s.evt with pendF := s.evt.pendF ||| b } }
  else { s with evt := { s.evt with pendN := s.evt.pendN ||| b } }

/-- One occurrence of a source with its DETAIL (R446, R449, R451); `fast` says that its descriptor carried FAST. -/
def State.occur (s : State) (src detail : Nat) (fast : Bool) : State :=
  let w := s.route src
  let inFast := bitAt w 4 && (bitAt w 3 || (fast && s.lineOwnedBy (bits w 0 3) 1 (s.sourceTag src)))
  let info : Info := match s.evt.info.get src with
    | some i => { i with count := Nat.min (i.count + 1) 32767 }
    | none => { detail := detail % 2 ^ 48, count := 1 }
  let s1 := s.setPending src inFast
  ({ s1 with evt := { s1.evt with info := s1.evt.info.set src info } }).settleLines

/-- An event of a source that no descriptor's FAST moves. -/
def State.event (s : State) (src detail : Nat) : State := s.occur src detail false

/-- INFO layouts of Table 16-1. -/
def infoA (region tile : Nat) : Nat := region % 256 + 2 ^ 8 * (tile % 2 ^ 25)
def infoB (sheaf member aux : Nat) : Nat := sheaf % 2 ^ 24 + 2 ^ 24 * (member % 256) + 2 ^ 32 * (aux % 256)
def infoC (opTag status : Nat) : Nat := opTag % 2 ^ 32 + 2 ^ 32 * (status % 2 ^ 16)
def infoD (node agent : Nat) : Nat := node % 2 ^ 18 + 2 ^ 18 * (agent % 16)

/-! ## The audit log (R453 to R457) -/

/-- LOG2 of WY_AUDIT_CFG. -/
def State.auditLog2 (s : State) : Nat := s.rf 0x0470 0 4
/-- Is the audit ring full or absent (R455)? -/
def State.auditRingFull (s : State) : Bool :=
  s.auditLog2 == 0 || decide (2 ^ s.auditLog2 ≤ (s.audit.w - s.audit.consumed).toNat)
/-- Buffer entries occupied or reserved (Table 16-14). -/
def State.auditUsed (s : State) : Nat := s.audit.buf.length + s.audit.resv
/-- The log is full (R457). -/
def State.auditFull (s : State) : Bool := decide (256 ≤ s.auditUsed) && s.auditRingFull

/-- Raise the audit-full event when the condition begins (R457). -/
def State.settleAudit (s : State) : State :=
  if s.auditFull && !s.audit.full then
    ({ s with audit := { s.audit with full := true } }).event 93 s.audit.lost.toNat
  else { s with audit := { s.audit with full := s.auditFull } }

/-- The 32 bytes of an audit record with its PHASE (Table 16-2). -/
def AuditRec.bytes (r : AuditRec) (phase : Nat) : List Byte :=
  leBytes 6 r.time ++ leBytes 2 r.status ++ leBytes 4 r.seq ++ leBytes 4 r.epoch ++
  leBytes 1 (r.origin % 8 + 128 * phase) ++ leBytes 3 r.index ++ leBytes 1 r.kind ++ [0#8] ++ leBytes 2 r.object ++
  leBytes 8 r.detail

/-- Write the oldest buffered record to the audit ring, with the ring not full (R455). -/
def State.auditMove (s : State) : State :=
  match s.audit.buf with
  | [] => s
  | r :: rest =>
    let l := s.auditLog2
    let w := s.audit.w.toNat
    let phase := 1 - w / 2 ^ l % 2
    let s1 := s.store (s.reg64 0x0480 + 32 * (w % 2 ^ l)) (r.bytes phase) 1
    { s1 with audit := { s1.audit with buf := rest, w := s1.audit.w + 1#32, retry := false } }

/-- Kinds that cannot be refused and are lost while the log is full (R457). -/
def lostKind (k : Nat) : Bool := k == 0x02 || k == 0x03 || k == 0x40 || k == 0x41 || k == 0x42

/-- Form an audit record (R453, R454). `resv` says that it fills a reservation (R456). A record formed while the log is
full and without a reservation is lost: SEQ advances and AUDIT_LOST counts. With the buffer full and the ring not, the
oldest record moves first (R455). -/
def State.auditForm (s : State) (status origin index kind object detail epoch : Nat) (resv : Bool) : State :=
  let rec0 : AuditRec := { time := s.now % 2 ^ 48, status := status, seq := s.audit.seq.toNat, epoch := epoch, origin := origin,
                           index := index, kind := kind, object := object, detail := detail }
  let s0 := if resv then { s with audit := { s.audit with resv := s.audit.resv - 1 } } else s
  let s1 := { s0 with audit := { s0.audit with seq := s0.audit.seq + 1#32 } }
  if !resv && s1.auditFull then ({ s1 with audit := { s1.audit with lost := s1.audit.lost + 1#32 } }).settleAudit
  else
    let s2 := if 256 ≤ s1.auditUsed && !s1.auditRingFull then s1.auditMove else s1
    ({ s2 with audit := { s2.audit with buf := s2.audit.buf ++ [rec0] } }).settleAudit

/-- Origin and index of a control-bus requester (Table 16-2, R453). -/
def reqOrigin (req : Nat) : Nat := if req < 8 then 0 else 1
def reqIndex (req : Nat) : Nat := req % 8

/-- The record of an applied register write (kind 0x01). -/
def State.auditWrite (s : State) (req off old new : Nat) : State :=
  s.auditForm 0 (reqOrigin req) (reqIndex req) 0x01 off (old + 2 ^ 32 * new) 0 false
/-- The record of a refused register write (kind 0x02). -/
def State.auditRefuse (s : State) (req off w : Nat) : State :=
  s.auditForm stConflict (reqOrigin req) (reqIndex req) 0x02 off w 0 false

/-! ## Operations and completion records -/

/-- Fields of Table 3-6. -/
def Op.opcode (o : Op) : Nat := field o.desc 0 1
def Op.flags (o : Op) : Nat := field o.desc 1 1
def Op.jobTag (o : Op) : Nat := field o.desc 2 2
def Op.opTag (o : Op) : Nat := field o.desc 4 4
def Op.stepEpoch (o : Op) : Nat := field o.desc 8 8
/-- Step number in [47:0] of bytes 8 to 15. -/
def Op.step (o : Op) : Nat := field o.desc 8 6
/-- Epoch in [31:0] of bytes 8 to 15. -/
def Op.epoch (o : Op) : Nat := field o.desc 8 4
/-- An operand field of n bytes at descriptor byte off. -/
def Op.arg (o : Op) (off n : Nat) : Nat := field o.desc off n
def Op.fOrdered (o : Op) : Bool := bitAt o.flags 0
def Op.fBarrier (o : Op) : Bool := bitAt o.flags 1
def Op.fAuto (o : Op) : Bool := bitAt o.flags 2
def Op.fOverride (o : Op) : Bool := bitAt o.flags 3
def Op.fFast (o : Op) : Bool := bitAt o.flags 4
/-- A number the operation keeps. -/
def Op.n (o : Op) (k : Nat) : Nat := (o.note.get k).getD 0
/-- Keep a number. -/
def Op.keep (o : Op) (k v : Nat) : Op := { o with note := o.note.set k v }

/-- Is the descriptor a configuration change (R102)? -/
def Op.configChange (o : Op) : Bool :=
  let c := o.opcode
  (decide (1 ≤ c) && decide (c ≤ 6)) || c == 0x61 || (decide (0x70 ≤ c) && decide (c ≤ 0x72)) || o.fOverride

/-- A control descriptor (R98). -/
def Op.isControl (o : Op) : Bool := decide (0x7D ≤ o.opcode ∧ o.opcode ≤ 0x7F)

/-- Note key under which an operation keeps the domain conflict that OVERRIDE set aside: DETAIL plus 1, and OBJECT. -/
def nkDomain : Nat := 900
def nkDomainObj : Nat := 901
/-- Note key under which a waiting control descriptor keeps its target. -/
def nkTarget : Nat := 902
/-- Note key: error responses that the present unit's own writes have met. -/
def nkErrors : Nat := 908
/-- Note key of the operation whose waiting records are written before a control descriptor's own (R103). -/
def nkAfter : Nat := 904
/-- Note key of an operation's place in the order of starts (R188, R194). -/
def nkStart : Nat := 909
/-- Note key of the submission count at which the descriptor was fetched. -/
def nkCount : Nat := 903

/-- The region that a configuration change's audit record names, 0xFF when none (Table 16-3). -/
def State.auditRegion (s : State) (o : Op) (status aux : Nat) : Nat :=
  let c := o.opcode
  if c = 0x01 then (if status = stOk then aux else 0xFF)
  else if c = 0x02 then (if o.arg 17 1 % 2 = 0 then o.arg 16 1 else 0xFF)
  else if c = 0x03 ∨ c = 0x04 ∨ c = 0x61 then o.arg 16 1
  else if c = 0x05 then
    match s.regions.find? (fun p => decide (p.2.sheaf = o.arg 16 3 ∧ o.arg 16 3 ≠ 0)) with
    | some (i, _) => i
    | none => 0xFF
  else if c = 0x70 then (if o.arg 16 1 = 1 then o.arg 17 1 else 0xFF)
  else 0xFF

/-- The audit record of a configuration change at its final state (R102, R453, R454). A REGION_RELEASE that completes
with OK forms its receipt's record instead; one that never started forms none and gives up its reservation (R456). -/
def State.auditFinal (s : State) (o : Op) (status aux : Nat) : State :=
  if !o.configChange then s else
  if !o.started || (o.opcode == 0x02 && status == stOk) then
    (if o.resv && !(o.opcode == 0x02 && status == stOk) then
      ({ s with audit := { s.audit with resv := s.audit.resv - 1 } }).settleAudit else s)
  else
    let region := s.auditRegion o status aux
    let sheaf := if o.opcode = 0x05 then o.arg 16 3 else ((s.regions.get region).map (·.sheaf)).getD 0
    let epoch := if 4 ≤ o.opcode ∧ o.opcode ≤ 6 then o.epoch else ((s.sheaves.get sheaf).map (·.epoch)).getD 0
    match o.note.get nkDomain with
    | some d => s.auditForm status 3 o.ring 0x12 (o.n nkDomainObj) (d - 1) epoch o.resv
    | none => s.auditForm status 3 o.ring 0x10 o.opcode (o.opTag + 2 ^ 32 * region + 2 ^ 40 * sheaf) epoch o.resv

/-- Does a record carry its RESULT: with OK, and with the REBUILD_MISMATCH of a REBUILD, whose RESULT is the rebuild digest in every case
(Table 3-10, R221; log entry 119)? -/
def Op.showsResult (o : Op) (status : Nat) : Bool := status == stOk || (o.opcode == 0x31 && status == stRebuildMismatch)
/-- The status of a final record: a status outside those that Table 3-11 gives a final record is never written, and CHECK_FAIL stands for
it (R94; DESIGN CHOICE, log entry 143). -/
def finalStatus (st : Nat) : Nat :=
  if st = stOk ∨ st = stCancelled ∨ (stNackTag ≤ st ∧ st ≤ stDomain) ∨ (stUnrecoverable ≤ st ∧ st ≤ stTopology) then st else stCheckFail
/-- The record that an operation forms (Table 3-10). -/
def State.mkRec (s : State) (o : Op) (status cursor result aux : Nat) (final : Bool) : Rec :=
  { ring := o.ring, op := o.id, opTag := o.opTag, status := status, final := final, opcode := o.opcode, cursor := cursor
    time := s.now % 2 ^ 48, aux := aux, result := if o.showsResult status then result % 2 ^ 64 else 0, fast := o.fFast, resv := o.started, after := o.note.get nkAfter }

/-- Take an operation's references out of the decode slots; a stale slot without a reference is freed (R70). -/
def Tables.dropRefs (t : Tables) (id : Nat) : Tables :=
  let d := t.dec.map (fun p => (p.1, { p.2 with refs := p.2.refs.filter (fun x => x != id) }))
  { t with dec := d.filter (fun p => !(p.2.stale && p.2.refs.isEmpty)) }

/-- Form an operation's final record and let everything it held go: its interim record that waits (R91), its place at a
sequencer and in the ready queue (R334), its trigger counters (R344), its decode slots (R70); its table references,
buffers and reservations go with it. Its audit record is formed (R102). -/
def State.finishOne (s : State) (o : Op) (st cursor result aux : Nat) : State :=
  let status := finalStatus st
  let s1 := { s with
    recs := s.recs.filter (fun r : Rec => !(r.op == o.id && !r.final)) ++ [s.mkRec o status cursor result aux true]
    ops := s.ops.filter (fun x => x.id != o.id)
    seqs := { s.seqs with q := s.seqs.q.filter (fun p => p.2 != o.id), ready := s.seqs.ready.filter (fun x => x != o.id),
                          trigOwn := s.seqs.trigOwn.filter (fun p => p.2 != o.id) }
    tables := s.tables.dropRefs o.id }
  s1.auditFinal o status aux

/-- Complete the control descriptors that wait for an operation that has become final: RESULT 1 for a CANCEL whose
target was cancelled, 0 otherwise (R103). -/
def State.releaseControls (s : State) (id status cursor : Nat) : State :=
  (s.ops.filter (fun c => c.stage == .waitTarget && c.note.get nkTarget == some id)).foldl
    (fun t c => t.finishOne c stOk cursor (bit (c.opcode == 0x7D && status == stCancelled)) 0) s

/-- Finish an operation and the control descriptors that wait for it, its own record first (R103). -/
def State.finish (s : State) (o : Op) (status cursor result aux : Nat) : State :=
  (s.finishOne o status cursor result aux).releaseControls o.id status cursor

/-- Finish with a status alone. -/
def State.fail (s : State) (o : Op) (status : Nat) : State := s.finish o status o.cursor 0 0

/-- Form an interim record; a newer one of the same operation replaces an older one that waits (R91). -/
def State.interim (s : State) (o : Op) (status cursor : Nat) : State :=
  { s with recs := s.recs.filter (fun r : Rec => !(r.op == o.id && !r.final)) ++ [s.mkRec o status cursor 0 0 false] }

/-- Stop a ring (R82): STOPPED and its cause, the ring-error event, one audit record, and the discard of its operations
that are fetched and not started; WY_RING_SQ_HEAD then counts the first of them. DESIGN CHOICE (log entry 136): a ring that is stopped keeps
its first cause, so a completion-record error on it leaves its completion ring in use. -/
def State.stopRing (s : State) (n cause : Nat) : State :=
  match s.rings.get n with
  | none => s
  | some r =>
    if r.stopped then s else
    let gone := s.ops.filter (fun o => o.ring == n && !o.started)
    let head := match gone.head? with
      | some o => BitVec.ofNat 32 (o.n nkCount)
      | none => r.head
    let s1 := { s with
      rings := s.rings.set n { r with stopped := true, cause := cause, head := head }
      ops := s.ops.filter (fun o => !(o.ring == n && !o.started))
      audit := { s.audit with resv := s.audit.resv - (gone.filter (fun o : Op => o.resv)).length } }
    (s1.event 85 (n + 2 ^ 8 * cause)).auditForm 0 3 n 0x42 n cause 0 false

/-- Let an operation rejoin the ready queue unless a sequencer holds it or it stands there (R334). -/
def State.makeReady (s : State) (id : Nat) : State :=
  if s.seqs.ready.contains id || s.seqs.q.any (fun p => p.2 == id) then s
  else { s with seqs := { s.seqs with ready := s.seqs.ready ++ [id] } }

/-- Give up the sequencer that holds an operation, a context switch (R334, Table 11-14). -/
def State.leaveSeq (s : State) (id : Nat) : State :=
  if s.seqs.q.any (fun p => p.2 == id) then
    ({ s with seqs := { s.seqs with q := s.seqs.q.filter (fun p => p.2 != id) } }).bump (seqCnt 4)
  else s

/-- Does a write of a Tedder block to region j wait at the tap (R300)? -/
def State.blockWrites (s : State) (j : Nat) : Bool :=
  let ted := s.ops.filter (fun o => decide (0x50 ≤ o.opcode ∧ o.opcode ≤ 0x52))
  match s.regions.get j with
  | none => false
  | some r => ted.any (fun o =>
      s.tap.held.any (fun h => h.op == some o.id && h.region == j) ||
      s.tap.queue.any (fun q => q.op == some o.id && overlap q.off q.data.length (r.tileBase * 4096) (r.tileCount * 4096)))

/-! ## Snapshot slots (R235, R237) and what a cancelled operation leaves (Table 3-15) -/

/-- A slot of the rick. -/
def State.snapSlot (s : State) (x : Nat) : SnapSlot := if x = 0 then s.snap.slot0 else s.snap.slot1
/-- Put a slot. -/
def State.putSlot (s : State) (x : Nat) (v : SnapSlot) : State :=
  { s with snap := if x = 0 then { s.snap with slot0 := v } else { s.snap with slot1 := v } }
/-- The CRC of a slot header over its bytes 0 to 55 and the directory (Table 8-2). -/
def State.headerCrc (s : State) (x : Nat) (h : List Byte) : List Byte :=
  leBytes 8 (crc64 (h.take 56 ++ s.stackRead ((s.slotTile x).1 * 4096 + 4096) 8192)).toNat
/-- Table 8-4 codes. -/
def SnapState.code : SnapState → Nat
  | .empty => 0 | .filling => 1 | .complete => 2 | .draining => 3 | .drained => 4
/-- Change a slot's STATE: its header is rewritten (R235). -/
def State.setSlotState (s : State) (x : Nat) (st : SnapState) : State :=
  let off := (s.slotTile x).1 * 4096
  let h := splice (s.stackRead off 64) 4 (leBytes 1 st.code)
  (s.putSlot x { s.snapSlot x with st := st }).stackWrite off (h.take 56 ++ s.headerCrc x h)
/-- End the cut of an operation without a snapshot: the slot is EMPTY, its map zeroed, its holds released (R250, Table 3-15). -/
def State.dropCut (s : State) (op : Nat) : State :=
  match s.snap.cut with
  | none => s
  | some c =>
    if c.op ≠ op then s else
    let s1 := (s.zeroMap c).setSlotState c.slot .empty
    { s1 with snap := { s1.snap with cut := none } }

/-- Note key of the region that a REGION_SETUP forms. -/
def nkRegion : Nat := 905

/-- Note key: 1 once a TED_APPLY has met what the tedder-loss event reports (R293). -/
def nkLoss : Nat := 960

/-- What a cancelled operation leaves beside its record (Table 3-15, R256). -/
def State.cancelClean (s : State) (o : Op) : State :=
  if !o.started then s
  else if o.opcode = 0x01 then
    (match o.note.get nkRegion with
     | some i => { s with regions := s.regions.del i }
     | none => s)
  else if o.opcode = 0x06 then
    { s with regions := s.regions.map (fun p => (p.1, { p.2 with mig := p.2.mig.map (fun m => { m with frozen := false }) })) }
  else if o.opcode = 0x33 then
    s.modRegion (o.arg 16 1) (fun r => { r with migrated := if (r.migrated.map (·.done)).getD true then r.migrated else none })
  else if o.opcode = 0x40 then s.dropCut o.id
  else if o.opcode = 0x41 && (s.snapSlot (o.arg 16 1 % 2)).st == .draining then
    (s.setSlotState (o.arg 16 1 % 2) .complete).bump (snapCnt 5)
  else if o.opcode = 0x51 && o.n nkLoss == 1 then s.event 77 (infoC o.opTag stCancelled)
  else s

/-- Cancel an operation: what it leaves, then its CANCELLED record with its CURSOR (R103, R104). -/
def State.cancelOp (s : State) (o : Op) : State := (s.cancelClean o).finish o stCancelled o.cursor 0 0

/-- A YIELD point of a long operation (R100, R103, R337): a SUSPENDING operation is suspended with its interim record, and
the SUSPEND that waits completes with RESULT 1; a CANCELLING one is cancelled; a RUNNING one gives up its sequencer and
joins the end of the ready queue when that is not empty. -/
def State.yieldPoint (s : State) (id : Nat) : State :=
  match s.op? id with
  | none => s
  | some o =>
    match o.st with
    | .suspending =>
      let s1 := ((s.interim o stSuspended o.cursor).modOp id (fun x => { x with st := .suspended })).leaveSeq id
      let s2 := { s1 with seqs := { s1.seqs with ready := s1.seqs.ready.filter (fun x => x != id) } }
      (s2.ops.filter (fun c => c.stage == .waitTarget && c.note.get nkTarget == some id && c.opcode == 0x7E)).foldl
        (fun t c => t.finishOne c stOk o.cursor 1 0) s2
    | .cancelling => s.cancelOp o
    | .running => if s.seqs.ready.isEmpty then s else (s.leaveSeq id).makeReady id
    | _ => s

end Sys2Proof.Machine
end

