-- ==== Sys2Proof/Machine/Operands.lean ====
section
/-! DEFINITION. Operand forms: descriptor layouts and permissions (Tables 3-6 to 3-9 and the operand tables of the
chapters), region images (Table 2-1), sheaf tables (Tables 2-7, 2-8), and the control-store words (Tables 11-1, 11-2). -/

namespace Sys2Proof.Machine

/-- A field of a layout: byte offset, lowest bit within it, width in bits. -/
abbrev FieldAt := Nat × Nat × Nat

/-- The mask of a layout's bits, numbered from bit 0 of byte 0. -/
def layoutMask (l : List FieldAt) : Nat := (l.map (fun f => (2 ^ f.2.2 - 1) * 2 ^ (8 * f.1 + f.2.1))).sum

/-- What bytes 8 to 15 of a descriptor carry (Table 3-9). -/
inductive Col8 where
  | reserved | step | epoch | outer
  deriving DecidableEq, Repr

/-- When CANCEL may act (Table 3-9). -/
inductive Cancels where
  | no | yes | beforeCommit | waitRef
  deriving DecidableEq, Repr

/-- One row of Table 3-9 with the operand fields that its chapter lays out. -/
structure OpRow where
  code : Nat
  col8 : Col8
  cfg : Bool
  coord : Bool
  auto : Bool
  override : Bool
  susp : Bool
  canc : Cancels
  fields : List FieldAt
  regions : List (Nat × Bool)
  deriving DecidableEq, Repr

/-- Fields of the tables shared by several opcodes. -/
def fRegion : FieldAt := (16, 0, 8)
def f25 (off : Nat) : FieldAt := (off, 0, 25)
def f64 (off : Nat) : FieldAt := (off, 0, 64)
/-- A 64-bit address whose lowest `z` bits are reserved. -/
def fAddr (off z : Nat) : FieldAt := (off, z, 64 - z)

/-- The rows of Table 3-9 for regions, sheaves, steps and parity. `regions` lists the byte of each named region (R84) and
whether 0xFF there names none. -/
def opRowsA : List OpRow :=
  [ ⟨0x01, .reserved, true, false, false, false, true, .yes, [fAddr 16 6], []⟩,
    ⟨0x02, .reserved, true, false, false, false, true, .no, [fRegion, (17, 0, 1), (18, 0, 9)], [(16, false)]⟩,
    ⟨0x03, .reserved, true, false, false, true, false, .no, [fRegion, fAddr 24 4], [(16, false)]⟩,
    ⟨0x04, .epoch, true, false, false, false, false, .no, [fRegion], [(16, false)]⟩,
    ⟨0x05, .epoch, false, true, false, false, false, .no, [(16, 0, 24), f64 24, (32, 0, 72)], []⟩,
    ⟨0x06, .epoch, false, true, false, true, false, .beforeCommit, [f64 16, (24, 0, 16)], []⟩,
    ⟨0x10, .step, false, false, false, false, false, .no, [f64 16], []⟩,
    ⟨0x11, .step, false, false, false, false, false, .beforeCommit, [f64 16], []⟩,
    ⟨0x12, .step, false, false, false, false, false, .no, [f64 16, (24, 0, 48)], []⟩,
    ⟨0x13, .step, false, false, false, false, false, .yes, [f64 16], []⟩,
    ⟨0x14, .step, false, false, false, false, false, .no, [f64 16], []⟩,
    ⟨0x20, .reserved, false, false, false, false, true, .yes, [fRegion, (20, 0, 24), f25 24], [(16, false)]⟩,
    ⟨0x21, .reserved, false, false, false, false, true, .yes,
      [fRegion, (20, 0, 24), f25 24, f64 28, (36, 0, 32)], [(16, false)]⟩,
    ⟨0x22, .step, false, false, false, false, false, .no, [fRegion], [(16, false)]⟩ ]

/-- The rows of Table 3-9 for degraded reads, rebuild and snapshots. -/
def opRowsB : List OpRow :=
  [ ⟨0x30, .epoch, false, false, false, false, false, .yes,
      [fRegion, (17, 0, 8), (18, 0, 8), f25 20, f25 24, fAddr 28 12], [(16, false)]⟩,
    ⟨0x31, .epoch, false, false, false, false, true, .yes,
      [fRegion, f25 20, f25 24, (28, 0, 16), (30, 0, 1), f64 32], [(16, false)]⟩,
    ⟨0x32, .epoch, false, false, false, false, false, .no,
      [fRegion, (17, 0, 8), f64 24, f64 32, (40, 0, 72)], [(16, false)]⟩,
    ⟨0x33, .epoch, false, false, false, true, true, .yes,
      [fRegion, (17, 0, 8), (18, 0, 24), (24, 0, 30), (28, 0, 16), (30, 0, 16), f64 32], [(16, false)]⟩,
    ⟨0x40, .step, false, false, true, false, false, .yes, [f64 16, (24, 0, 2), (25, 0, 8), (26, 0, 16)], []⟩,
    ⟨0x41, .reserved, false, false, true, false, true, .yes,
      [(16, 0, 1), (20, 0, 16), fAddr 24 12, fAddr 32 12, f64 40, f64 48], []⟩,
    ⟨0x42, .reserved, false, false, false, false, true, .yes,
      [(16, 0, 2), (17, 0, 1), (18, 0, 16), (20, 0, 32), f64 24], []⟩,
    ⟨0x43, .reserved, false, false, false, false, false, .no, [(16, 0, 1)], []⟩ ]

/-- The rows of Table 3-9 for the Tedder, the guard, tables, microcode and control. -/
def opRowsC : List OpRow :=
  [ ⟨0x50, .outer, false, false, false, false, true, .yes,
      [fRegion, (17, 0, 8), (18, 0, 8), (19, 0, 8), (20, 0, 7), (21, 0, 5), (22, 0, 8), (24, 0, 16), f25 28, f25 32,
       (36, 0, 32), fAddr 40 6, fAddr 48 12], [(16, false), (17, false), (18, false), (19, true)]⟩,
    ⟨0x51, .outer, false, false, false, false, true, .yes,
      [fRegion, (17, 0, 8), (18, 0, 8), (19, 0, 8), (20, 0, 4), (21, 0, 4), (22, 0, 3), f25 24, f25 28, f64 32,
       fAddr 40 12, f64 48, fAddr 56 12], [(16, false), (17, false), (18, false), (19, true)]⟩,
    ⟨0x52, .outer, false, false, false, false, true, .yes,
      [fRegion, (17, 0, 8), (18, 0, 8), (19, 0, 1), f25 20, f25 24, fAddr 32 12, f64 40],
      [(16, false), (17, true), (18, true)]⟩,
    ⟨0x53, .step, false, false, false, false, false, .yes, [f64 16, fAddr 24 6, (32, 0, 32)], []⟩,
    ⟨0x60, .reserved, false, false, true, false, true, .yes,
      [fRegion, (17, 0, 1), (18, 0, 16), f25 20, f25 24, fAddr 28 6], [(16, false)]⟩,
    ⟨0x61, .reserved, true, false, false, false, true, .no, [fRegion, (17, 0, 4)], [(16, false)]⟩,
    ⟨0x70, .reserved, true, false, false, false, false, .waitRef,
      [(16, 0, 8), (17, 0, 8), (18, 0, 3), (19, 0, 6), fAddr 24 6, (32, 0, 32)], []⟩,
    ⟨0x71, .reserved, true, false, false, false, true, .yes, [fAddr 16 9, (24, 0, 32), (28, 0, 1)], []⟩,
    ⟨0x72, .reserved, true, false, false, false, false, .no, [(16, 0, 256)], []⟩,
    ⟨0x7D, .reserved, false, false, false, false, false, .no, [(16, 0, 32), (20, 0, 6)], []⟩,
    ⟨0x7E, .reserved, false, false, false, false, false, .no, [(16, 0, 32), (20, 0, 6)], []⟩,
    ⟨0x7F, .reserved, false, false, false, false, false, .no, [(16, 0, 32), (20, 0, 6)], []⟩ ]

/-- Table 3-9. -/
def opRows : List OpRow := opRowsA ++ opRowsB ++ opRowsC

/-- The row of a user entry: every operand bit belongs to the program (R329). -/
def userRow (c : Nat) : OpRow :=
  ⟨c, .reserved, false, false, false, false, true, .yes, [(8, 0, 64), (16, 0, 384)], []⟩

/-- The row of an opcode; none for an unassigned one (R88). -/
def opRow (c : Nat) : Option OpRow := if 0x80 ≤ c then some (userRow c) else opRows.find? (fun r => r.code == c)

/-- May SUSPEND act on the opcode (Table 3-9)? -/
def suspendable (c : Nat) : Bool := ((opRow c).map (·.susp)).getD false

/-- A long operation (R86, Table 3-9). -/
def Op.long (o : Op) : Bool := suspendable o.opcode

/-- The bits of a descriptor that its opcode defines: OPCODE, FLAGS, JOB_TAG and OP_TAG, bytes 8 to 15 by Table 3-9, and
the operand fields. -/
def OpRow.mask (r : OpRow) : Nat :=
  layoutMask ((match r.col8 with
    | .reserved => []
    | .step => [(8, 0, 48)]
    | .epoch => [(8, 0, 32)]
    | .outer => [(8, 0, 32)]) ++ r.fields) + (2 ^ 64 - 1)

/-- The flag bits that the opcode accepts (Table 3-7, R88). -/
def OpRow.flagMask (r : OpRow) : Nat :=
  if 0x7D ≤ r.code ∧ r.code ≤ 0x7F then 16 else 1 + 2 + 16 + 4 * bit r.auto + 8 * bit r.override

/-- Are the reserved bits of FLAGS, STEP_EPOCH and OPERANDS 0 (Table 3-8 row 1)? -/
def OpRow.reservedClear (r : OpRow) (d : List Byte) : Bool :=
  (leNat (fit 64 d) &&& r.mask == leNat (fit 64 d)) && (field d 1 1 &&& r.flagMask == field d 1 1)

/-- The region indices that a descriptor's operands name (R84). -/
def namedRegions (d : List Byte) : List Nat :=
  let c := field d 0 1
  if c = 0x02 ∧ bitAt (field d 17 1) 0 then []
  else if c = 0x70 then (if field d 16 1 = 1 then [field d 17 1] else [])
  else match opRow c with
    | none => []
    | some r => (r.regions.map (fun p => (field d p.1 1, p.2))).filterMap (fun p => if p.2 && p.1 == 0xFF then none else some p.1)

/-- Does a non-final operation name region i (R84, R394)? -/
def Op.names (o : Op) (i : Nat) : Bool := (namedRegions o.desc).contains i

/-! ## Region images (Table 2-1) -/

/-- The 64 bytes of a region's descriptor (Table 2-1, R470). -/
def Region.bytes (r : Region) : List Byte :=
  leBytes 4 r.tileBase ++ leBytes 4 r.tileCount ++ leBytes 4 r.logicalBase ++
  leBytes 1 r.role.code ++ leBytes 1 r.format.code ++ leBytes 1 (r.guard + 8 * bit r.adapt + 16 * r.guardMax) ++
  leBytes 1 (bit r.log + 2 * bit r.norm + 4 * bit r.snap) ++
  leBytes 2 r.jobTag ++ leBytes 1 r.set ++ leBytes 1 r.member ++ leBytes 3 r.sheaf ++ [0#8] ++
  leBytes 1 r.board ++ leBytes 1 r.shelf ++ leBytes 1 r.row ++ [0#8] ++ leBytes 1 r.link ++ zeros 3 ++
  leBytes 8 r.digest.toNat ++ leBytes 6 r.confirmed ++ zeros 2 ++ leBytes 4 r.epoch ++
  leBytes 4 (r.state.code + 256 * bit r.domainOvr) ++ zeros 8

/-- The software fields of an image: the bits that may be non-zero (R46). -/
def imageMask : Nat :=
  layoutMask [f25 0, f25 4, (8, 0, 32), (12, 0, 8), (13, 0, 8), (14, 0, 7), (15, 0, 3), (16, 0, 16), (18, 0, 6), (28, 0, 8)]

/-- The region that an image describes; none when it breaks a NOT_SUPPORTED condition of Table 2-6 that the image alone
shows (R46, R53, R55). -/
def parseImage (v : List Byte) : Option Region :=
  if leNat (fit 64 v) &&& imageMask ≠ leNat (fit 64 v) then none else
  match Role.ofCode (field v 12 1), Fmt.ofCode (field v 13 1) with
  | some role, some fmt =>
    let tb := field v 0 4; let tc := field v 4 4; let lb := field v 8 4
    let g := bits (field v 14 1) 0 3; let gm := bits (field v 14 1) 4 3
    let fl := field v 15 1
    if 5 < g ∨ 5 < gm ∨ gm < g ∨ field v 16 2 = 0 ∨ tc = 0 ∨ 16777216 < tc ∨ stackTiles < tb + tc ∨ 2 ^ 32 < lb + tc ∨
       (fmt = .fp40 ∧ tc % 5 ≠ 0) ∨ (role = .runtimeRecord ∧ tc ≠ 16) then none else
    some { tileBase := tb, tileCount := tc, logicalBase := lb, role := role, format := fmt, guard := g
           adapt := bitAt (field v 14 1) 3, guardMax := gm, log := bitAt fl 0, norm := bitAt fl 1, snap := bitAt fl 2
           jobTag := field v 16 2, set := field v 18 1, member := 0xFF, sheaf := 0, board := 0, shelf := 0, row := 0
           link := field v 28 1, digest := 0#64, confirmed := 0, epoch := 0, state := .setup, domainOvr := false
           logBlock := none, dirtyBase := none, guardBlock := none, guardLine := 0, guardLen := 0, built := [], rebuildDigest := 0#64
           mig := none, migrated := none, quiet := none, settleFail := false, builds := [], reguard := none, anchorInvalid := false
           winStart := 0, winTiles := 0, winLoad := 0, winCtrl := 0, ledger := none }
  | _, _ => none

/-! ## Sheaf tables (Tables 2-7 and 2-8) -/

/-- A sheaf table as read from memory. -/
structure SheafTab where
  id : Nat
  sh : Sheaf
  deriving DecidableEq, Repr

/-- Bytes of a table with the header given: 16 for it and 16 for each member. -/
def sheafTabLen (hdr : List Byte) : Nat := 16 + 16 * (field hdr 3 1 + field hdr 4 1)

/-- One member entry (Table 2-8) with a state. -/
def parseMember (v : List Byte) (st : MemState) (now : Nat) : Member :=
  let w := field v 0 4
  { node := bits w 0 18, agent := bits w 18 4, region := bits w 22 8, board := field v 4 1, shelf := field v 5 1
    row := field v 6 1, tiles := bits (field v 8 4) 0 25, st := st, suspect := false, level := none, matched := false
    lark := now, mismatch := none }

/-- The bits that an entry may set. -/
def memberMask : Nat := layoutMask [(0, 0, 30), (4, 0, 24), (8, 0, 25)]

/-- A table that meets no NOT_SUPPORTED condition of Table 2-10; every member state ALIVE. -/
def parseSheaf (v : List Byte) (now : Nat) : Option SheafTab :=
  let k := field v 3 1; let m := field v 4 1; let f5 := field v 5 1
  if k < 2 ∨ 32 < k ∨ m < 1 ∨ 4 < m ∨ 36 < k + m ∨ field v 0 3 = 0 ∨ field v 12 4 = 0 ∨ bits f5 0 2 = 3 ∨ 32 ≤ f5 ∨
     field v 6 2 ≠ 0 then none else
  let es := (List.range (k + m)).map (fun i => slice v (16 + 16 * i) 16)
  if es.any (fun e => leNat e &&& memberMask != leNat e) then none else
  some { id := field v 0 3
         sh := { k := k, m := m, dMax := bits f5 0 2, strict := bits f5 2 2, coef := bits f5 4 1, coefDigest := field v 8 4
                 epoch := field v 12 4, members := es.map (fun e => parseMember e .alive now) } }

/-- STATES of Table 13-6: the code of member i. -/
def statesCode (v i : Nat) : Nat := bits v (2 * i) 2
def MemState.ofCode : Nat → MemState
  | 1 => .alive | 2 => .replaced | _ => .removed
def MemState.code : MemState → Nat
  | .removed => 0 | .alive => 1 | .replaced => 2

/-- Is a member alive (R58)? -/
def Member.alive (x : Member) : Bool := x.st == .alive || x.st == .replaced
/-- The triple and the tile count of a member. -/
def Member.triple (x : Member) : Nat × Nat × Nat := (x.node, x.agent, x.region)
/-- Bytes 0 to 3 of Table 2-8. -/
def Member.tripleWord (x : Member) : Nat := x.node + 2 ^ 18 * x.agent + 2 ^ 22 * x.region

/-- Member i of a sheaf. -/
def Sheaf.mem? (sh : Sheaf) (i : Nat) : Option Member := sh.members[i]?
/-- Stripes of a sheaf: the largest TILES of its data members (R57). -/
def Sheaf.stripes (sh : Sheaf) : Nat := ((sh.members.take sh.k).map (·.tiles)).foldl Nat.max 0
/-- The steward: the lowest-indexed alive member (R58). -/
def Sheaf.steward (sh : Sheaf) : Option Nat :=
  (List.range sh.members.length).find? (fun i => ((sh.mem? i).map (·.alive)).getD false)
/-- Change a member of a sheaf. -/
def Sheaf.modMember (sh : Sheaf) (i : Nat) (f : Member → Member) : Sheaf := { sh with members := sh.members.modify i f }

/-- The sheaf of a region. -/
def State.sheafOf (s : State) (r : Region) : Option Sheaf := if r.sheaf = 0 then none else s.sheaves.get r.sheaf
/-- The local region that holds a member index of a sheaf. -/
def State.localMember (s : State) (sheaf member : Nat) : Option (Nat × Region) :=
  if sheaf = 0 then none else s.regions.find? (fun p => decide (p.2.sheaf = sheaf ∧ p.2.member = member))
/-- Local regions of a sheaf. -/
def State.sheafRegions (s : State) (sheaf : Nat) : List (Nat × Region) :=
  if sheaf = 0 then [] else s.regions.filter (fun p => p.2.sheaf == sheaf)
/-- Does a member live on this engine? -/
def State.isLocal (s : State) (x : Member) : Bool := x.node == s.strap.node && x.agent == s.strap.engine

/-- The coefficient row bytes of a row block: g_(j,i) at byte 32j + i (R66). -/
def rowAt (block : List Byte) (j i : Nat) : Byte := block.getD (32 * j + i) 0#8
/-- The generator row block of a region; one that no load wrote is zeros (log entry 8). -/
def State.rowSlot (s : State) (region : Nat) : TabSlot :=
  (s.tables.rows.get region).getD { act := 0, gen := 0, bank0 := zeros 128, bank1 := zeros 128, ref0 := 0, ref1 := 0 }
/-- Coefficient g_(j,i) under a region's active rows. -/
def State.coef (s : State) (region j i : Nat) : Byte := rowAt (s.rowSlot region).active j i
/-- The Cauchy row block of a sheaf of k and m (R65). -/
def cauchyBlock (k m : Nat) : List Byte :=
  (List.range 128).map (fun b => if b / 32 < m ∧ b % 32 < k then cauchy m (b / 32) (b % 32) else 0#8)
/-- The m × k coefficient bytes of a block, row by row (COEF_DIGEST). -/
def coefBytes (block : List Byte) (m k : Nat) : List Byte :=
  (List.range m).flatMap (fun j => (List.range k).map (fun i => rowAt block j i))

/-- References that operations hold on a bank of a table slot (R345): kind 1 rows, 2 entropy. -/
def State.opRefs (s : State) (kind slot bank : Nat) : Nat :=
  (s.ops.map (fun o => (o.refs.filter (fun r => decide (r.kind = kind ∧ r.slot = slot ∧ r.bank = bank))).length)).sum
/-- References on a bank of a region's row block, those of tile deltas included. -/
def State.rowRefs (s : State) (region bank : Nat) : Nat :=
  let t := s.rowSlot region
  (if bank = 0 then t.ref0 else t.ref1) + s.opRefs 1 region bank

/-! ## The control store (R327 to R331) -/

/-- The active bank's number as operations bind to it; the boot ROM stands in for bank 0 (R429). -/
def Ucode.word (u : Ucode) (bank a : Nat) : BitVec 128 := (u.store.get (bank * 8192 + a)).getD 0#128
/-- Opcodes that the boot ROM holds (R429). -/
def bootOpcode (c : Nat) : Bool := c == 0x71 || c == 0x72 || c == 0x7D || c == 0x7E || c == 0x7F
/-- The entry word of an opcode in a bank (R327, R328); the boot bank's entries name no buffers (R330). -/
def Ucode.entry (u : Ucode) (bank : Nat) (boot : Bool) (c : Nat) : Nat :=
  if boot then (if bootOpcode c then 256 + 2 ^ 127 else 0) else (u.word bank c).toNat
/-- Is an entry present? -/
def entryValid (w : Nat) : Bool := bitAt w 127
def entryStart (w : Nat) : Nat := bits w 0 13
def entryCur (w : Nat) : Nat := bits w 13 5
def entryRes (w : Nat) : Nat := bits w 18 5
def entryAux (w : Nat) : Nat := bits w 23 5
def entryBufs (w : Nat) : Nat := bits w 28 6
def entryPart (w : Nat) : Nat := bits w 34 2

/-- A stored snapshot of an S-register; S-registers that are 0 need no entry. -/
def Op.sreg (o : Op) (i : Nat) : Word64 := (o.regs.get i).getD 0#64
def Op.setSreg (o : Op) (i : Nat) (v : Word64) : Op := { o with regs := o.regs.set i v }

/-- The operation of an opcode that holds a sequencer and may go on (R16, R100, R334): started, in RUNNING, SUSPENDING or
CANCELLING, with no relock on. -/
def State.work (s : State) (id code : Nat) : Option Op :=
  match s.op? id with
  | some o =>
    if o.opcode == code && o.started && (o.st == .running || o.st == .suspending || o.st == .cancelling) &&
       s.seqs.q.any (fun p => p.2 == id) && !s.power.relock then some o else none
  | none => none
/-- The operation of an opcode that waits in a stage its chapter gives it (R334). -/
def State.waiting (s : State) (id code : Nat) : Option Op :=
  match s.op? id with
  | some o => if o.opcode == code && o.started && (o.st == .running || o.st == .suspending || o.st == .cancelling) then some o
              else none
  | none => none
/-- An operation enters a wait: it keeps its stage and gives up its sequencer (R334). -/
def State.park (s : State) (id : Nat) (f : Op → Op) : State := (s.modOp id f).leaveSeq id
/-- A wait ends: the operation rejoins the ready queue (R334). -/
def State.unpark (s : State) (id : Nat) (f : Op → Op) : State := (s.modOp id f).makeReady id

/-- The lark peers: (engine, job tag) pairs (R378). -/
def State.larkPeers (s : State) : List (Nat × Nat) :=
  (s.regions.vals.flatMap (fun r => match s.sheafOf r with
    | none => []
    | some sh => (sh.members.filter (fun x => x.alive && !s.isLocal x)).map (fun x => (dstKey x.node x.agent, r.jobTag)))).dedup

end Sys2Proof.Machine
end

