-- ==== Sys2Proof/Machine/Boot.lean ====
section
/-! DEFINITION. Reset, bring-up and calibration: COLD_RESET to BIST_DONE and CAL_READ to CAL_WRITE_DONE (chapters 14, 15). -/

namespace Sys2Proof.Machine

/-- Set bits among the low `n` of a word. -/
def popcount {w : Nat} (v : BitVec w) : Nat := (List.range w).countP (fun i => v.getLsbD i)

/-! ## The calibration record (R420 to R422) -/

/-- A finite FP32 word: exponent not all ones. -/
def fp32Finite (w : Nat) : Bool := bits w 23 8 != 255
/-- Not negative, with −0 not negative. -/
def fp32NonNeg (w : Nat) : Bool := !bitAt w 31 || bits w 0 31 == 0
/-- Above 0. -/
def fp32Pos (w : Nat) : Bool := !bitAt w 31 && bits w 0 31 != 0

/-- The bits of a record that may be set (Table 14-4). -/
def calMask : Nat :=
  layoutMask ([(0, 0, 32), (4, 0, 8), (5, 0, 4)] ++ (List.range 9).flatMap (fun i => [(8 + i, 0, 6), (8 + i, 7, 1)]) ++
    [(17, 0, 4), (18, 0, 5), (19, 0, 5), (22, 0, 16), (24, 0, 16), (26, 0, 24), (32, 0, 160), (124, 0, 32)])

/-- The set that a record holds (Table 14-4). -/
def calParse (v : List Byte) : CalSet :=
  { vf := (List.range 9).map (fun i => bits (field v (8 + i) 1) 0 6)
    valid := (List.range 9).map (fun i => bitAt (field v (8 + i) 1) 7)
    throtF := bits (field v 17 1) 0 4, ofs1 := bits (field v 18 1) 0 5, ofs2 := bits (field v 19 1) 0 5
    tRelock := field v 22 2, margin := field v 24 2, raiseTiles := field v 26 1, raiseLoad := field v 27 1
    raiseCtrl := field v 28 1
    cutW := BitVec.ofNat 32 (field v 32 4), drainW := BitVec.ofNat 32 (field v 36 4), wLoss := BitVec.ofNat 32 (field v 40 4)
    tau := BitVec.ofNat 32 (field v 44 4), lambda0 := BitVec.ofNat 32 (field v 48 4) }

/-- Is the list of VALID bits without a gap from F 0? -/
def noGap : List Bool → Bool
  | [] => true
  | true :: l => noGap l
  | false :: l => l.all (fun b => !b)

/-- Is a record valid for an engine (R421)? -/
def calValid (engine : Nat) (v : List Byte) : Bool :=
  let c := calParse v
  let n := c.valid.takeWhile id |>.length
  field v 0 4 == 0x57594341 && field v 4 1 == 1 && bits (field v 5 1) 0 4 == engine &&
  field v 124 4 == (crc32c (v.take 124)).toNat && (leNat (fit 128 v) &&& calMask == leNat (fit 128 v)) &&
  c.vf.all (fun x => decide (x ≤ 60)) && c.valid.getD 0 false && noGap c.valid &&
  (List.range (n - 1)).all (fun i => decide (c.vf.getD i 0 ≤ c.vf.getD (i + 1) 0)) && c.valid.getD c.throtF false &&
  decide (c.ofs1 ≤ 20 ∧ c.ofs1 ≤ c.ofs2 ∧ c.ofs2 ≤ 20 ∧ 1 ≤ c.tRelock ∧ c.tRelock ≤ 200 ∧ 1 ≤ c.margin ∧ c.margin ≤ 1000) &&
  decide (1 ≤ c.raiseTiles ∧ 1 ≤ c.raiseLoad ∧ c.raiseLoad ≤ 16 ∧ 1 ≤ c.raiseCtrl) &&
  [c.cutW, c.drainW, c.wLoss].all (fun w => fp32Finite w.toNat && fp32NonNeg w.toNat) &&
  [c.tau, c.lambda0].all (fun w => fp32Finite w.toNat && fp32Pos w.toNat)

/-- CALIBRATION_LOAD (R422): the record when it is valid, otherwise the safe table with SAFE and its event. -/
def State.loadCal (s : State) (flashError : Bool) : State :=
  if !flashError && calValid s.strap.engine s.cal.flash then
    { s with cal := { s.cal with set := calParse s.cal.flash, safe := false } }
  else ({ s with cal := { s.cal with set := CalSet.safe, safe := true } }).event 90 0

/-! ## Phases (R428) -/

/-- Is the spill area placed as R23 requires? -/
def State.spillPlaced (s : State) : Bool := decide (16384 ≤ s.spillSpan.count) && s.spillSpan.fits

/-- READY_ENTRY (R428): from LOAD, once an activated image is active and the spill area is placed. -/
def State.settleReady (s : State) : State :=
  if s.boot.phase = .load && !s.ucode.boot && s.spillPlaced then { s with boot := { s.boot with phase := .ready } } else s

/-- Entering FAILED sets FAIL_CAUSE and raises the self-test failure event (R428). -/
def State.enterFailed (s : State) (cause : Nat) : State :=
  ({ s with boot := { s.boot with phase := .failed, failCause := cause } }).event 81 cause

/-- The flash sector that a reset leaves: while a WRITE is BUSY an invalid one, whose bytes are free values (R425, log entry 2). -/
def State.flashLeft (s : State) : List Byte × State :=
  if s.cal.busy then
    let f := s.freshNat
    (if calValid s.strap.engine (leBytes 128 f.1) then List.replicate 128 0#8 else leBytes 128 f.1, f.2)
  else (s.cal.flash, s)

/-- COLD_RESET (R31, R462): all engine state cleared. What is no engine state stays: the straps, the memory of the stack,
the flash, the chip's select words, the CPIDLE inputs, and the model's queue, free counter, record of issues and record of saves. -/
def execColdReset (s : State) : Out :=
  let f := s.flashLeft
  .next { State.reset with pending := s.pending, free := f.2.free, strap := s.strap, mem := s.mem, chipSel := s.chipSel
                           cal := Cal.reset f.1, evt := { Evt.reset with cpidle := s.evt.cpidle }
                           port := { Port.reset with tx := s.port.tx }, saves := s.saves }

/-- WARM_RESET (R31, R462): as a cold reset, but WY_TIME, the audit buffer, WY_AUDIT_SEQ, WY_AUDIT_LOST and the receipt
count stay, and WARM reads 1. Times that a unit measures from start at the present. -/
def execWarmReset (s : State) : Out :=
  let f := s.flashLeft
  .next { State.reset with pending := s.pending, free := f.2.free, strap := s.strap, mem := s.mem, chipSel := s.chipSel
                           cal := Cal.reset f.1, evt := { Evt.reset with cpidle := s.evt.cpidle }
                           port := { Port.reset with tx := s.port.tx, winStart := s.now, c0Last := s.now }, time := s.time
                           boot := Boot.reset true
                           audit := { Audit.reset with buf := s.audit.buf, seq := s.audit.seq, lost := s.audit.lost, polled := s.now }
                           receipt := s.receipt, snap := { Snap.reset with cleared := s.now }
                           sward := { State.reset.sward with tick := s.now }
                           power := { Power.reset with lastWork := s.now, lastArrival := s.now, lastEval := s.now, coldSince := s.now }
                           saves := s.saves }

/-- RESET_RELEASE (R32): from RESET, ALIGN_REQ is asserted and the phase is ALIGN. -/
def execResetRelease (s : State) : Out :=
  .next (if s.boot.phase = .reset then { s with boot := { s.boot with phase := .align, alignReq := true } } else s)

/-- ALIGN_ACK (R33, R431): from ALIGN, WY_MCLK_EDGE starts at 0, the defect map is read and the phase is FUSE. -/
def execAlignAck (lanes : BitVec 32) (rickBase rickTiles : Nat) (s : State) : Out :=
  .next (if s.boot.phase = .align then
    { s with boot := { s.boot with phase := .fuse, alignReq := false, mclk := 0#64, defect := lanes
                                   rickBase := rickBase % 2 ^ 25, rickTiles := rickTiles % 2 ^ 25 } } else s)

/-- FUSE_DONE (R33, R422, R428): the calibration set is loaded; TEST with the map's lanes when it enables 28 or more,
otherwise FAILED with cause 1 and no lane. -/
def execFuseDone (flashError : Bool) (s : State) : Out :=
  .next (if s.boot.phase = .fuse then
    let s1 := s.loadCal flashError
    if 28 ≤ popcount s.boot.defect then { s1 with boot := { s1.boot with phase := .test, lanes := s.boot.defect } }
    else s1.enterFailed 1
  else s)

/-- BIST_START (R322): a write of 1 to START starts the self-test while no region is registered and none runs. -/
def execBistStart (_req : Nat) (w : Word) (s : State) : Out :=
  .next (if w.getLsbD 0 && s.noRegion && !s.boot.bistBusy then { s with boot := { s.boot with bistBusy := true } } else s)

/-- BIST_DONE (R323, R428): lanes that fail leave the enabled set; below 28 lanes none is enabled (R33). In TEST the phase
becomes LOAD, or FAILED with cause 3 for the guard part and 2 for the lanes (3 when both fail, log entry 12); elsewhere
the phase stays and a failure raises the event. -/
def execBistDone (pass : BitVec 32) (guardOk : Bool) (s : State) : Out :=
  .next (if s.boot.bistBusy then
    let ok := s.boot.lanes &&& pass
    let n := popcount ok
    let cause := if guardOk then (if 28 ≤ n then 0 else 2) else 3
    let s1 := { s with boot := { s.boot with bistBusy := false, bistDone := true, guardPass := guardOk, lanesOk := n
                                             bistLanes := ok, lanes := if 28 ≤ n then ok else 0#32 } }
    if s.boot.phase = .test then
      (if cause = 0 then ({ s1 with boot := { s1.boot with phase := .load } }).settleReady else s1.enterFailed cause)
    else if cause = 0 then s1 else s1.event 81 cause
  else s)

/-! ## Calibration commands (R423, R424) -/

/-- The bytes of WY_CAL_DATA. -/
def State.calData (s : State) : List Byte := (List.range 32).flatMap (fun i => leBytes 4 (s.regN (0x0280 + 4 * i)))
/-- Put 128 bytes into WY_CAL_DATA. -/
def State.putCalData (s : State) (v : List Byte) : State :=
  (List.range 32).foldl (fun t i => t.setReg (0x0280 + 4 * i) (BitVec.ofNat 32 (field v (4 * i) 4))) s

/-- Set LAST, and READ_DONE when the READ completed. -/
def State.calLast (s : State) (n : Nat) (done : Bool) : State :=
  { s with cal := { s.cal with last := n, readDone := s.cal.readDone || done } }

/-- CAL_READ (R423). While BUSY nothing changes. After a flash error the data words are free values (log entry 2). -/
def execCalRead (_req : Nat) (flashError : Bool) (s : State) : Out :=
  .next (if s.cal.busy then s
    else if flashError then
      let f := s.freshNat
      (f.2.putCalData (leBytes 128 f.1)).calLast 3 false
    else (s.putCalData s.cal.flash).calLast (if calValid s.strap.engine s.cal.flash then 0 else 1) true)

/-- CAL_WRITE (R424): a WRITE starts when ARM, READ_DONE, the image and the log allow it; otherwise LAST is 1 or 2, and the
refusal is recorded unless the log is full. While BUSY nothing changes (Table 14-6). -/
def execCalWrite (req : Nat) (w : Word) (s : State) : Out :=
  .next (if s.cal.busy || bits w.toNat 0 2 != 2 then s
    else if !calValid s.strap.engine s.calData then
      (if s.auditFull then s.calLast 1 false else (s.calLast 1 false).auditRefuse req 0x0218 w.toNat)
    else if s.auditFull then s.calLast 2 false
    else if bits w.toNat 8 16 != 0xCA1B || !s.cal.readDone then (s.calLast 2 false).auditRefuse req 0x0218 w.toNat
    else { s with cal := { s.cal with busy := true, readDone := false, origin := req, image := s.calData } })

/-- CAL_WRITE_DONE (R424): BUSY clears, LAST is 0 or 3, one audit record, and STAGED on success. After a flash error the
sector's contents are free values (log entry 2), and the record's STATUS is CHECK_FAIL (log entry 13). -/
def execCalWriteDone (flashError : Bool) (s : State) : Out :=
  .next (if !s.cal.busy then s else
    let f := s.freshNat
    let s0 := if flashError then f.2 else s
    let s1 := { s0 with cal := { s0.cal with busy := false, last := if flashError then 3 else 0
                                             staged := s0.cal.staged || !flashError
                                             flash := if flashError then leBytes 128 f.1 else s.cal.image } }
    s1.auditForm (if flashError then stCheckFail else 0) (reqOrigin s.cal.origin) (reqIndex s.cal.origin) 0x30 0
      (field s.cal.image 124 4) 0 false)

end Sys2Proof.Machine
end

