-- ==== Sys2Proof/Machine/Fp.lean ====
section
/-! DEFINITION. Element values (Tables 2-3, 2-4, 4-4): exact values as integers in units of 2^−149. -/

namespace Sys2Proof.Machine

/-- A sign and a magnitude as an integer. -/
def signed (neg : Bool) (m : Nat) : Int := if neg then -(m : Int) else (m : Int)

/-- A binary float with `e` exponent bits and `f` fraction bits: sign, exponent field, fraction field. -/
def fpParts (e f v : Nat) : Bool × Nat × Nat := (bitAt v (e + f), bits v f e, bits v 0 f)

/-- The value of a finite IEEE-like word in units of 2^(1 − bias − f), the subnormal unit. -/
def fpUnits (e f v : Nat) : Int :=
  let p := fpParts e f v
  signed p.1 (if p.2.1 = 0 then p.2.2 else (2 ^ f + p.2.2) * 2 ^ (p.2.1 - 1))

/-- An IEEE word whose top exponent is not finite. -/
def ieee (e f v : Nat) : Option Int := if bits v f e = 2 ^ e - 1 then none else some (fpUnits e f v)
/-- FP32 in units of 2^−149. -/
def fp32Val (v : Nat) : Option Int := ieee 8 23 v
/-- BF16 in units of 2^−149. -/
def bf16Val (v : Nat) : Option Int := fp32Val (v * 65536)
/-- FP16, whose unit is 2^−24. -/
def fp16Val (v : Nat) : Option Int := (ieee 5 10 v).map (· * 2 ^ 125)
/-- FP8 E4M3 in units of 2^−9: only 0x7F and 0xFF are NaN. -/
def e4m3Units (v : Nat) : Option Int := if bits v 0 7 = 127 then none else some (fpUnits 4 3 v)
/-- FP8 E5M2 in units of 2^−16. -/
def e5m2Units (v : Nat) : Option Int := ieee 5 2 v

/-- MX formats: element width in bits, element bytes of a block, blocks, and element value in units of 2^−16 (Table 2-4). -/
structure MxFmt where
  width : Nat
  blockBytes : Nat
  blocks : Nat
  val : Nat → Option Int

/-- MXFP8 with E4M3 elements. -/
def mxE4m3 : MxFmt := ⟨8, 32, 124, fun v => (e4m3Units v).map (· * 2 ^ 7)⟩
/-- MXFP8 with E5M2 elements. -/
def mxE5m2 : MxFmt := ⟨8, 32, 124, e5m2Units⟩
/-- MXFP6 with E2M3 elements, unit 2^−3. -/
def mxE2m3 : MxFmt := ⟨6, 24, 163, fun v => some (fpUnits 2 3 v * 2 ^ 13)⟩
/-- MXFP6 with E3M2 elements, unit 2^−4. -/
def mxE3m2 : MxFmt := ⟨6, 24, 163, fun v => some (fpUnits 3 2 v * 2 ^ 12)⟩
/-- MXFP4 (E2M1), unit 2^−1. -/
def mxE2m1 : MxFmt := ⟨4, 16, 240, fun v => some (fpUnits 2 1 v * 2 ^ 15)⟩

/-- Element j of block b of an MX tile: its bits (R52). -/
def MxFmt.elem (f : MxFmt) (tile : List Byte) (b j : Nat) : Nat :=
  bits (leNat (slice tile (f.blockBytes * b) f.blockBytes)) (f.width * j) f.width
/-- The scale of block b. -/
def MxFmt.scale (f : MxFmt) (tile : List Byte) (b : Nat) : Nat := field tile (f.blockBytes * f.blocks + b) 1
/-- The value of an element in units of 2^−149 (Table 4-4). -/
def MxFmt.value (f : MxFmt) (e sc : Nat) : Option Int :=
  if sc = 255 then none else (f.val e).map (· * 2 ^ (sc + 6))
/-- Elements of a tile as (encoding with its scale, value). -/
def MxFmt.elems (f : MxFmt) (tile : List Byte) : List ((Nat × Nat) × Option Int) :=
  (List.range f.blocks).flatMap (fun b =>
    let blk := leNat (slice tile (f.blockBytes * b) f.blockBytes)
    let sc := f.scale tile b
    (List.range 32).map (fun j => let e := bits blk (f.width * j) f.width; ((e, sc), f.value e sc)))

/-- Little-endian elements of `w` bytes with their values. -/
def plainElems (w : Nat) (val : Nat → Option Int) (v : List Byte) : List ((Nat × Nat) × Option Int) :=
  (List.range (v.length / w)).map (fun i => let e := field v (w * i) w; ((e, 0), val e))

/-- Contribution of one pair of elements to the norm: the square in units of 2^−298, or a non-finite count (R129). -/
def normPair (o n : (Nat × Nat) × Option Int) : Nat × Nat :=
  if o.1 = n.1 then (0, 0) else
  match o.2, n.2 with
  | some a, some b => ((b - a).natAbs ^ 2, 0)
  | _, _ => (0, 1)
/-- Contributions of lists of elements. -/
def normSum (old new : List ((Nat × Nat) × Option Int)) : Nat × Nat :=
  (List.zipWith normPair old new).foldl (fun a b => (a.1 + b.1, a.2 + b.2)) (0, 0)

/-- Round a positive rational m × 2^x to a binary float with p significand bits, lowest exponent emin (of the unit of the
subnormals) and top finite exponent: the significand in units and the unit's exponent, ties to even (R7). -/
def roundUnits (m : Nat) (x emin : Int) (p : Nat) : Nat × Int :=
  if m = 0 then (0, emin) else
  let top : Int := x + Nat.log2 m
  let u : Int := max (top - (p - 1 : Nat)) emin
  if u ≤ x then (m * 2 ^ (x - u).toNat, u) else
  let sh := (u - x).toNat
  let q := m / 2 ^ sh
  let r := m % 2 ^ sh
  let half := 2 ^ (sh - 1)
  ((if half < r ∨ (r = half ∧ q % 2 = 1) then q + 1 else q), u)

/-- Encode m × 2^x, rounded to nearest even, in an IEEE format of e exponent and f fraction bits; overflow gives infinity. -/
def encodeIeee (e f : Nat) (neg : Bool) (m : Nat) (x : Int) : Nat :=
  let bias : Int := 2 ^ (e - 1) - 1
  let emin : Int := 1 - bias - (f : Int)
  let q := roundUnits m x emin (f + 1)
  let s := if neg then 2 ^ (e + f) else 0
  let exf := (q.2 - emin).toNat
  let c := if q.1 < 2 ^ f then q.1 else exf * 2 ^ f + q.1
  s + Nat.min c ((2 ^ e - 1) * 2 ^ f)

end Sys2Proof.Machine
end

