-- ==== Sys2Proof/Machine/Regs.lean ====
section
/-! DEFINITION. The control bus: reads of every register, writes of those with no row of their own, 64-bit registers,
events' registers, comparators, and the audit ring (chapters 14, 16, 17). -/

namespace Sys2Proof.Machine

/-! ## Reading registers (Table 17-3) -/

/-- The inactive control-store bank: bank 1 while the boot ROM is active (R429). -/
def Ucode.inactive (u : Ucode) : Nat := if u.boot then 1 else 1 - u.active
/-- Is some operation bound to the inactive bank? Operations bound to the boot ROM are bound to neither bank (log
entry 15). -/
def State.oldBound (s : State) : Bool := s.ops.any (fun o => !o.boot && o.bank == s.ucode.inactive)

/-- Table 11-12. -/
def State.ucodeStatus (s : State) : Nat :=
  bit (!s.ucode.boot && s.ucode.active == 1) + 2 * popcount s.ucode.present + 2 ^ 10 * ((s.ucode.length.getD 0) / 512) +
  2 ^ 19 * bit s.oldBound + 2 ^ 20 * bit s.ucode.lastFail

/-- Table 15-1. -/
def Phase.code : Phase → Nat
  | .reset => 0 | .align => 1 | .fuse => 2 | .test => 3 | .load => 4 | .ready => 5 | .failed => 7
/-- Table 15-2. -/
def State.bootStatus (s : State) : Nat :=
  s.boot.phase.code + 8 * bit s.boot.warm + 16 * s.boot.failCause + 256 * (s.regN 0x001C % 2)
/-- Table 10-12. -/
def State.bistStatus (s : State) : Nat :=
  bit s.boot.bistBusy + 2 * bit s.boot.bistDone + 4 * bit s.boot.guardPass + 8 * s.boot.lanesOk
/-- Table 8-18. -/
def SnapSlot.word (x : SnapSlot) : Nat := x.st.code + 8 * (if x.st = .empty then 0 else x.scope)
/-- ELAPSED (R262): seconds since the last freeze edge; before the first one, since the reset (log entry 21). -/
def State.elapsed (s : State) : Nat := (s.now - s.snap.lastFreeze.getD s.snap.cleared) / 100000000
/-- Table 8-17. -/
def State.snapEst (s : State) : Nat :=
  s.snap.interval % 2 ^ 16 +
  2 ^ 16 * Nat.min s.elapsed 65535
/-- Table 13-14. -/
def State.membStatus (s : State) : Nat := s.ucode.level + 2 ^ 8 * s.larkPeers.length + 2 ^ 19 * s.sward.keys.length
/-- Table 14-2 codes. -/
def LaneState.code : LaneState → Nat
  | .active => 0 | .warm => 1 | .cold => 2 | .waking => 3
/-- AWAKE: lanes that accept work (R405). -/
def State.awake (s : State) : Nat :=
  match s.power.lanes with
  | .active => popcount s.boot.lanes
  | .waking => Nat.min (4 * s.power.wave) (popcount s.boot.lanes)
  | _ => 0
/-- May a sequencer take an operation now: ungated, and no relock on? -/
def State.seqReady (s : State) : Bool :=
  !s.power.relock && (s.power.lanes == .active || (s.power.lanes == .waking && decide (0 < s.power.wave)))
/-- Table 14-13. -/
def State.pwrStatus (s : State) : Nat :=
  s.power.lanes.code + 4 * s.power.f + 2 ^ 6 * s.power.vlane + 2 ^ 12 * s.power.therm + 2 ^ 14 * bit s.power.throt +
  2 ^ 15 * s.awake
/-- Table 14-14. -/
def State.calCtrl (s : State) : Nat :=
  4 * bit s.cal.busy + 8 * bit s.cal.readDone + 16 * bit s.cal.safe + 32 * bit s.cal.staged + 64 * s.cal.last
/-- Table 16-14. -/
def State.auditStatus (s : State) : Nat :=
  Nat.min s.auditUsed 256 + 2 ^ 9 * bit s.auditRingFull + 2 ^ 10 * bit s.auditFull
/-- Is a step operation of this opcode running that acts on set k? -/
def State.setOpRunning (s : State) (c k : Nat) : Bool :=
  s.ops.any (fun o => o.opcode == c && o.started && bitAt (o.arg 16 8) k)
/-- The set on which retire work acts. -/
def State.retireSet (s : State) : Retire → Nat
  | .zeroLog k _ _ _ => k | .confirmMap k _ => k | .rollbackMap k _ _ => k
  | .zeroBank r _ => ((s.regions.vals.find? (fun q => q.role == .parityHome && q.link == r)).map (·.set)).getD 64
/-- PENDING bank x of a parity home's region index: its key in `banks`. -/
def bankKey (region x : Nat) : Nat := 3 * region + x
/-- Does a bank of a PARITY_HOME of set k satisfy p? -/
def State.homeBank (s : State) (k : Nat) (p : Bank → Bool) : Bool :=
  s.regions.any (fun q => q.2.role == .parityHome && q.2.set == k &&
    (List.range 3).any (fun x => ((s.banks.get (bankKey q.2.link x)).map p).getD false))
/-- Table 6-4. -/
def State.setStatus (s : State) (k : Nat) : Nat :=
  let t := s.setTab k
  t.d + 4 * (t.live.filter (·.2)).length + 16 * bit (t.live.any (fun p => !p.2)) + 32 * bit (s.setOpRunning 0x11 k) +
  64 * bit (s.setOpRunning 0x12 k) + 128 * bit (s.retire.any (fun w => s.retireSet w == k) || s.homeBank k (fun b => b.st == .merging)) +
  256 * bit (s.homeBank k (fun b => b.st == .confirmed || b.st == .merging)) +
  512 * bit t.n.isSome
/-- Operations of ring n that are fetched and not yet final (Table 3-4). -/
def State.live (s : State) (n : Nat) : Nat := (s.ops.filter (fun o => o.ring == n)).length
/-- EN of WY_RING_CFG[n]. -/
def State.ringEn (s : State) (n : Nat) : Bool := bitAt (s.regN (ringReg n 0x18)) 0
/-- Words 0x18 to 0x28 of a ring block (Tables 3-1, 3-2, 3-4). -/
def State.ringWord (s : State) (n o : Nat) : Nat :=
  let r := s.rings.get n
  if o = 0x18 then s.regN (ringReg n 0x18) + 2 ^ 15 * bit ((r.map (·.watched)).getD false && s.ringEn n)
  else if o = 0x20 then
    bit (s.ringEn n && !((r.map (·.stopped)).getD false)) + 2 * bit ((r.map (·.stopped)).getD false) +
    4 * (r.map (·.cause)).getD 0 + 2 ^ 16 * s.live n
  else if o = 0x24 then (r.map (·.head.toNat)).getD 0
  else if o = 0x28 then (r.map (·.cqTail.toNat)).getD 0
  else s.regN (ringReg n o)
/-- WY_EVT_INFO of a source (Table 16-10). -/
def State.evtInfo (s : State) (src : Nat) : Nat :=
  match s.evt.info.get src with
  | some i => i.detail + 2 ^ 48 * i.count + 2 ^ 63
  | none => 0
/-- Word w of region slot r (R470). -/
def State.regionWord (s : State) (r w : Nat) : Nat :=
  match s.regions.get r with
  | some x => field x.bytes (4 * w) 4
  | none => 0
/-- Pending word w of a bank. -/
def pendWord (p : BitVec 128) (w : Nat) : Nat := bits p.toNat (32 * w) 32

/-- The present value of the register word at a window offset (Table 17-3). Write-only fields, reserved fields and
offsets that hold no register read 0 (R12, R25). -/
def State.readReg (s : State) (off : Nat) : Nat :=
  if off = 0x0000 then 0x57590001 + 256 * s.strap.engine
  else if off = 0x0004 then 0x0060D120
  else if off = 0x0008 then s.boot.lanes.toNat
  else if off = 0x0010 then s.boot.rickBase else if off = 0x0014 then s.boot.rickTiles
  else if off = 0x0018 then s.bootStatus
  else if off = 0x0020 ∨ off = 0x0460 then 0
  else if off = 0x0024 then s.bistStatus else if off = 0x0028 then s.boot.bistLanes.toNat
  else if off = 0x0030 then s.boot.mclk.toNat % 2 ^ 32 else if off = 0x0034 then s.boot.mclk.toNat / 2 ^ 32
  else if off = 0x0038 then s.now % 2 ^ 32 else if off = 0x003C then s.now / 2 ^ 32
  else if off = 0x0168 then s.snapEst
  else if off = 0x0170 then s.snap.slot0.word else if off = 0x0174 then s.snap.slot1.word
  else if off = 0x0190 then s.membStatus else if off = 0x01A0 then s.ucodeStatus
  else if off = 0x01A4 then s.regN off + 2 ^ 9 * (s.ucode.tag.getD 0) + 2 ^ 17 * bit s.ucode.tag.isSome
  else if off = 0x0208 then s.pwrStatus else if off = 0x0218 then s.calCtrl
  else if off = 0x0474 then s.auditStatus
  else if off = 0x0478 then s.audit.seq.toNat else if off = 0x047C then s.audit.lost.toNat
  else if 0x0500 ≤ off ∧ off < 0x0510 then pendWord s.evt.pendN ((off - 0x0500) / 4)
  else if 0x0580 ≤ off ∧ off < 0x0590 then pendWord s.evt.pendF ((off - 0x0580) / 4)
  else if 0x0800 ≤ off ∧ off < 0x0C00 then bits (s.evtInfo ((off - 0x0800) / 8)) (if off % 8 = 0 then 0 else 32) 32
  else if 0x0E00 ≤ off ∧ off < 0x0F00 then s.setStatus ((off - 0x0E00) / 4)
  else if 0x1000 ≤ off ∧ off < 0x1400 then ((s.seqs.trig.get ((off - 0x1000) / 4)).map (·.toNat)).getD 0
  else if 0x2000 ≤ off ∧ off < 0x3000 then s.ringWord ((off - 0x2000) / 64) (off % 64)
  else if 0x4000 ≤ off ∧ off < 0x8000 then s.regionWord ((off - 0x4000) / 64) (off % 64 / 4)
  else s.regN off

/-- Is `off` the low word of a 64-bit read-only register, or word 8 or 10 of a region slot (R463, R470)? -/
def ro64Low (off : Nat) : Bool :=
  off == 0x0010 || off == 0x0030 || off == 0x0038 || (decide (0x0800 ≤ off ∧ off < 0x0C00) && off % 8 == 0) ||
  (decide (0x4000 ≤ off ∧ off < 0x8000) && (off % 64 == 32 || off % 64 == 40))

/-- The value kept for a requester and an offset. -/
def hwFind (l : List HighWord) (req off : Nat) : Option Word :=
  (l.find? (fun h => h.req == req && h.off == off)).map (·.value)
/-- Keep a value for a requester and an offset. -/
def hwPut (l : List HighWord) (req off : Nat) (w : Word) : List HighWord :=
  l.filter (fun h => !(h.req == req && h.off == off)) ++ [⟨req, off, w⟩]

/-- REG64_LOW_READ (R463): a read of the low word of a 64-bit RO register latches its high word for the requester. -/
def execReg64LowRead (req off : Nat) (s : State) : Out :=
  .next (if ro64Low off then { s with latch := hwPut s.latch req (off + 4) (BitVec.ofNat 32 (s.readReg (off + 4))) } else s)

/-- What a requester's read of a word returns: the latched high word of a 64-bit RO register, else the present value. -/
def State.busRead (s : State) (req off : Nat) : Nat :=
  if 4 ≤ off ∧ ro64Low (off - 4) then ((hwFind s.latch req off).map (·.toNat)).getD 0 else s.readReg off

/-! ## Writing registers -/

/-- Is `off` the low word of a 64-bit RW register? -/
def rw64Low (off : Nat) : Bool :=
  off == 0x0188 || off == 0x01A8 || off == 0x0210 || off == 0x0480 || (decide (0x0240 ≤ off ∧ off < 0x0270) && off % 8 == 0) ||
  (decide (0x2000 ≤ off ∧ off < 0x3000) && (off % 64 == 0 || off % 64 == 8 || off % 64 == 16))

/-- Byte ranges of an enabled ring pair: submission ring, completion ring, doorbell pair. -/
def State.ringSpans (s : State) (n : Nat) : List (Nat × Nat) :=
  let c := s.regN (ringReg n 0x18)
  [(s.reg64 (ringReg n 0), 64 * 2 ^ bits c 4 5), (s.reg64 (ringReg n 8), 32 * 2 ^ bits c 9 5), (s.reg64 (ringReg n 16), 8)]

/-- May the forecast word stand at an address (R411)? -/
def State.forecastOk (s : State) (a : Nat) : Bool :=
  a == 0 ||
  (s.inStack a 4 && a % 4 == 0 &&
   [s.spillSpan, s.guardSpan, s.parkSpan, s.ledgerSpan].all (fun p => !overlap (gOff a) 4 (p.base * 4096) (p.count * 4096)) &&
   (List.range 64).all (fun n => !s.ringEn n || (s.ringSpans n).all (fun q => !overlap a 4 q.1 q.2)) &&
   s.regions.all (fun p => !overlap (gOff a) 4 (p.2.tileBase * 4096) (p.2.tileCount * 4096)))

/-- Does a new value of WY_SET_DEPTH[j] keep fields off 3 and change no set with a live step (R175)? -/
def State.depthOk (s : State) (j v : Nat) : Bool :=
  (List.range 16).all (fun i => bits v (2 * i) 2 != 3 &&
    (bits v (2 * i) 2 == s.setDepth (16 * j + i) || !s.setLive (16 * j + i)))

/-- T_MIN ≤ T_PIN ≤ T_MAX, T_MIN and SCALE at least 1, no slot FILLING (R266). -/
def State.snapCfgOk (s : State) (c1 c2 : Nat) : Bool :=
  s.snap.slot0.st != .filling && s.snap.slot1.st != .filling &&
  decide (1 ≤ bits c1 1 12 ∧ bits c1 1 12 ≤ bits c2 0 12 ∧ bits c2 0 12 ≤ bits c1 13 12 ∧ 1 ≤ bits c2 12 16)

/-- The rule of a register that REGISTER_WRITE serves: its writable bits and whether a masked value (of 64 bits for a
64-bit register) may take effect; none where the offset has no such register. -/
def State.regRule (s : State) (off v : Nat) : Option (Nat × Bool) :=
  let nr := s.noRegion
  let ns := s.noSheaf
  let clear := fun (sp : Span) (others : List Span) => sp.fits && others.all (fun o => !sp.meets o)
  let spill := fun (sp : Span) =>
    sp.count == 0 || (decide (16384 ≤ sp.count) && clear sp [s.guardSpan, s.parkSpan, s.ledgerSpan])
  if off = 0x001C then some (1, nr)
  else if off = 0x0100 then
    some (0x3FFFFFFF, nr && decide (bits v 0 6 + bits v 6 6 + bits v 12 6 + bits v 18 6 + bits v 24 6 ≤ 48))
  else if off = 0x0104 then some (0x1FFFFFF, nr && spill ⟨v % 2 ^ 25, s.spillSpan.count⟩)
  else if off = 0x0108 then some (0x1FFFFFF, nr && spill ⟨s.spillSpan.base, v % 2 ^ 25⟩)
  else if off = 0x010C then some (0xFFFF, nr && decide (1 ≤ bits v 0 10 ∧ bits v 0 10 ≤ 1000 ∧ 1 ≤ bits v 10 6))
  else if off = 0x0110 then some (0xFFFFFFFF, nr)
  else if off = 0x0114 then some (0x1FFFFFF, nr && clear ⟨v % 2 ^ 25, s.guardSpan.count⟩ [s.spillSpan])
  else if off = 0x0118 then some (0x1FFFFFF, nr && clear ⟨s.guardSpan.base, v % 2 ^ 25⟩ [s.spillSpan])
  else if off = 0x011C then some (0x1FF, decide (1 ≤ bits v 1 8))
  else if off = 0x0120 then some (0x1FFFFFF, nr && clear ⟨v % 2 ^ 25, s.parkSpan.count⟩ [s.spillSpan, s.guardSpan])
  else if off = 0x0124 then some (0x1FFFFFF, nr && clear ⟨s.parkSpan.base, v % 2 ^ 25⟩ [s.spillSpan, s.guardSpan])
  else if off = 0x0128 then some (0x81FFFFFF, nr && clear ⟨v % 2 ^ 25, 4⟩ [s.spillSpan, s.guardSpan, s.parkSpan])
  else if off = 0x012C then
    some (0x7FFFF, ns && decide (2 ≤ bits v 6 6 ∧ bits v 6 6 ≤ bits v 0 6 ∧ bits v 0 6 ≤ bits v 12 6 ∧ bits v 12 6 ≤ 50))
  else if off = 0x0130 then
    some (0xFFFFFFF, ns && decide (1 ≤ bits v 1 7 ∧ bits v 1 7 ≤ 100 ∧ 1 ≤ bits v 8 4 ∧ bits v 8 4 ≤ 8 ∧ 1 ≤ bits v 12 8 ∧
      1 ≤ bits v 20 8))
  else if off = 0x0134 then some (0xFFFFFFF, nr && decide (1 ≤ bits v 0 8 ∧ 1 ≤ bits v 8 8 ∧ 1 ≤ bits v 16 8))
  else if off = 0x0138 then
    some (0xFFFF, decide (1 ≤ bits v 0 10 ∧ bits v 0 10 ≤ 750 ∧ 1 ≤ bits v 10 6 ∧ bits v 10 6 ≤ 16))
  else if 0x0140 ≤ off ∧ off < 0x0150 then
    let l := (off - 0x0140) / 4
    let sum := ([1, 2, 3].map (fun i => if i = l then bits v 0 12 else s.pool i)).sum
    some (0xFFFFF, nr && decide (1 ≤ bits v 0 12 ∧ bits v 12 8 ≤ bits v 0 12 / 4 ∧ sum ≤ 4096))
  else if 0x0150 ≤ off ∧ off < 0x0160 then some (0xFFFFFFFF, s.depthOk ((off - 0x0150) / 4) v)
  else if off = 0x0160 then some (0x1FFFFFF, s.snapCfgOk v (s.regN 0x0164))
  else if off = 0x0164 then some (0xFFFFFFF, s.snapCfgOk (s.regN 0x0160) v)
  else if off = 0x0180 then
    some (0x3FFF, decide (20 ≤ bits v 0 10 ∧ bits v 0 10 ≤ 1000 ∧ 2 ≤ bits v 10 4))
  else if off = 0x0184 then some (0xF, ns && decide (bits v 0 4 = 0 ∨ (4 ≤ bits v 0 4 ∧ bits v 0 4 ≤ 12)))
  else if off = 0x0188 then some (2 ^ 64 - 1, ns && v % 4096 == 0 && gNode v == s.strap.node)
  else if off = 0x0194 then some (0x3FF, decide (1 ≤ bits v 0 10))
  else if off = 0x01A4 then some (0x1FF, nr)
  else if off = 0x01A8 then some (2 ^ 64 - 1, nr && gOff v == 0)
  else if off = 0x0200 then some (0xFFFFFF, decide (1 ≤ bits v 2 10 ∧ bits v 2 10 ≤ 1000 ∧ 1 ≤ bits v 12 12))
  else if off = 0x0204 then
    some (0x1FFF, decide (bits v 5 4 ≤ bits v 1 4 ∧ bits v 1 4 ≤ bits v 9 4 ∧ bits v 9 4 ≤ 8))
  else if off = 0x0210 then some (2 ^ 64 - 1, nr && s.forecastOk v)
  else if 0x0240 ≤ off ∧ off < 0x0270 ∧ off % 8 = 0 then some (2 ^ 64 - 1, true)
  else if 0x0280 ≤ off ∧ off < 0x0300 then some (0xFFFFFFFF, !s.cal.busy)
  else if 0x0440 ≤ off ∧ off < 0x0460 then some (0xFFFF, decide (bits v 0 10 ≤ 1000 ∧ 1 ≤ bits v 10 6))
  else if (0x0510 ≤ off ∧ off < 0x0520) ∨ (0x0590 ≤ off ∧ off < 0x05A0) then some (0xFFFFFFFF, true)
  else if off = 0x0470 then
    some (0x7FF, nr && decide ((bits v 0 4 = 0 ∨ (4 ≤ bits v 0 4 ∧ bits v 0 4 ≤ 12)) ∧ 1 ≤ bits v 4 7 ∧ bits v 4 7 ≤ 100))
  else if off = 0x0480 then some (2 ^ 64 - 1, nr && v % 4096 == 0 && gNode v == s.strap.node)
  else if 0x2000 ≤ off ∧ off < 0x3000 ∧ (off % 64 = 0 ∨ off % 64 = 8 ∨ off % 64 = 16) then
    some (2 ^ 64 - 1, !s.ringEn ((off - 0x2000) / 64))
  else if 0x2000 ≤ off ∧ off < 0x3000 ∧ off % 64 = 0x18 then
    some (0xFFFF3FFF, !s.ringEn ((off - 0x2000) / 64) && v % 2 == 0)
  else none

/-- Offsets whose writes form no audit record: the MASK words (R453). -/
def unaudited (off : Nat) : Bool := decide ((0x0510 ≤ off ∧ off < 0x0520) ∨ (0x0590 ≤ off ∧ off < 0x05A0))

/-- Apply or refuse a write of a 32-bit register, with its audit record (R419, R453, R457). -/
def State.write32 (s : State) (req off : Nat) (w : Word) : State :=
  match s.regRule off w.toNat with
  | none => s
  | some (mask, ok) =>
    let new := BitVec.ofNat 32 (w.toNat &&& mask)
    if unaudited off then s.setReg off new
    else if s.auditFull then s.auditForm stLogFull (reqOrigin req) (reqIndex req) 0x02 off w.toNat 0 false
    else if ok then (s.setReg off new).auditWrite req off (s.regN off) new.toNat
    else s.auditRefuse req off w.toNat

/-- Apply or refuse the commit of a 64-bit register: the staged high word and the low word together, with their two
records, the high word's first when one was staged (R463). -/
def State.write64 (s : State) (req off : Nat) (w : Word) : State :=
  let st := hwFind s.staged req (off + 4)
  let hi := st.getD (s.reg (off + 4))
  let s0 := { s with staged := s.staged.filter (fun h => !(h.req == req && h.off == off + 4)) }
  match s.regRule off (w.toNat + 2 ^ 32 * hi.toNat) with
  | none => s
  | some (_, ok) =>
    if ok && !s.auditFull then
      let s1 := (s0.setReg off w).setReg (off + 4) hi
      let s2 := if st.isSome then s1.auditWrite req (off + 4) (s.regN (off + 4)) hi.toNat else s1
      s2.auditWrite req off (s.regN off) w.toNat
    else
      let s2 := if st.isSome then s0.auditRefuse req (off + 4) hi.toNat else s0
      s2.auditRefuse req off w.toNat

/-- Offsets that have a row of their own in the table, which REGISTER_WRITE leaves alone. -/
def ownRow (off : Nat) (w : Nat) : Bool :=
  off == 0x0470 || off == 0x0480 || (off == 0x0130 && w % 2 == 0) || (off == 0x0128 && bitAt w 31)

/-- REGISTER_WRITE (R12, R453, R463): apply or refuse a write to a register with no row of its own. A write to a
read-only register or to no register changes nothing (R12, R25). -/
def execRegisterWrite (req off : Nat) (w : Word) (s : State) : Out :=
  .next (if ownRow off w.toNat then s
    else ((if rw64Low off then s.write64 req off w else s.write32 req off w).settleReady).settleLines)

/-- REG64_HIGH_WRITE (R463): stage the high word for the requester. Replacing a staged value forms the replaced write's
record as refused. -/
def execReg64HighWrite (req off : Nat) (w : Word) (s : State) : Out :=
  .next (if 4 ≤ off ∧ rw64Low (off - 4) then
    let s1 := match hwFind s.staged req off with
      | some old => s.auditRefuse req off old.toNat
      | none => s
    { s1 with staged := hwPut s1.staged req off w }
  else s)

/-- CONTROL_BUS_REJECT (R25): CB_ERR, no change, and an audit record. DESIGN CHOICE (log entry 141): the record's STATUS is 0. -/
def execControlBusReject (req : Nat) (addr : BitVec 16) (we : Bool) (s : State) : Out :=
  .next ((s.send (.cbErr req)).auditForm 0 (reqOrigin req) (reqIndex req) 0x03 addr.toNat (bit we) 0 false)

/-- CHIP_SEL_WRITE (R461): a requester writes its own select word; an access to another's writes nothing. -/
def execChipSelWrite (req q : Nat) (w : Word) (s : State) : Out :=
  .next (if req = q then
    { s with chipSel := if bits w.toNat 0 4 = 0 then s.chipSel.del q else s.chipSel.set q (bits w.toNat 0 4) } else s)

/-- REHOME_CFG_WRITE (R166, R171): a write of WY_REHOME_CFG with EN 0; applied, it clears every path flag. DESIGN CHOICE (log entry 142):
flags so cleared form no records of their own. -/
def execRehomeCfgWrite (req : Nat) (w : Word) (s : State) : Out :=
  .next (if w.getLsbD 0 then s else
    let ok := ((s.regRule 0x0130 w.toNat).map (·.2)).getD false && !s.auditFull
    let s1 := s.write32 req 0x0130 w
    if ok then { s1 with port := { s1.port with paths := s1.port.paths.map (fun p => (p.1, { p.2 with flag := none })) } }
    else s1)

/-! ## The tenancy ledger (R392) -/

/-- A ledger entry as the engine reads it. -/
structure Ledger where
  tileBase : Nat
  tileCount : Nat
  jobTag : Nat
  state : Nat
  receipt : Nat
  deriving DecidableEq, Repr

/-- The bits of an entry that may be set (Table 13-9). -/
def ledgerMask : Nat := layoutMask [f25 0, f25 4, (8, 0, 16), (10, 0, 2), (12, 0, 48), (20, 0, 64), (28, 0, 32)]
/-- Read an entry: none when free; one that fails its CRC or holds a reserved value is HELD by tag 0 (R392). -/
def parseLedger (v : List Byte) : Option Ledger :=
  if allZero v then none else
  let st := bits (field v 10 1) 0 2
  let good := field v 28 4 == (crc32c (v.take 28)).toNat && (leNat v &&& ledgerMask == leNat v) && (st == 1 || st == 2)
  some { tileBase := bits (field v 0 4) 0 25, tileCount := bits (field v 4 4) 0 25, jobTag := if good then field v 8 2 else 0
         state := if good then st else 1, receipt := if good then field v 20 8 else 0 }
/-- Stack byte offset of entry e. -/
def State.ledgerOff (s : State) (e : Nat) : Nat := s.ledgerSpan.base * 4096 + 32 * e
/-- Entry e of the ledger in memory. -/
def State.ledgerEntry (s : State) (e : Nat) : Option Ledger := parseLedger (s.stackRead (s.ledgerOff e) 32)
/-- Is the ledger kept? -/
def State.ledgerOn (s : State) : Bool := s.ledgerSpan.count != 0
/-- Write an entry with its TIME and CRC. -/
def State.putLedger (s : State) (e : Nat) (x : Ledger) : State :=
  let v := leBytes 4 x.tileBase ++ leBytes 4 x.tileCount ++ leBytes 2 x.jobTag ++ leBytes 2 x.state ++
    leBytes 6 s.now ++ zeros 2 ++ leBytes 8 x.receipt
  s.stackWrite (s.ledgerOff e) (v ++ leBytes 4 (crc32c v).toNat)

/-- LEDGER_ENABLE (R392, R395): a WY_TEN_BASE write setting EN; applied, the ledger is read and the receipt count becomes
the larger of itself and the highest RECEIPT. -/
def execLedgerEnable (req : Nat) (w : Word) (s : State) : Out :=
  .next (if !w.getLsbD 31 then s else
    let ok := ((s.regRule 0x0128 w.toNat).map (·.2)).getD false && !s.auditFull
    let s1 := s.write32 req 0x0128 w
    if ok then
      let best := (List.range 512).foldl (fun (m e : Nat) => match s1.ledgerEntry e with
        | some x => Nat.max m x.receipt
        | none => m) s1.receipt
      { s1 with receipt := best }
    else s1)

/-! ## The audit ring (R455) -/

/-- AUDIT_RING_CONFIG_WRITE: an applied write restarts the ring write count and the consumed count, before its own record is formed. -/
def execAuditRingConfigWrite (req off : Nat) (w : Word) (s : State) : Out :=
  .next (if off = 0x0470 ∨ off = 0x0480 then
    let v := if off = 0x0480 then w.toNat + 2 ^ 32 * ((hwFind s.staged req 0x0484).getD (s.reg 0x0484)).toNat else w.toNat
    let ok := ((s.regRule off v).map (·.2)).getD false && !s.auditFull
    let s1 := if ok then { s with audit := { s.audit with w := 0#32, consumed := 0#32, retry := false } } else s
    let s2 := if off = 0x0480 then s1.write64 req off w else s1.write32 req off w
    if ok then s2.settleAudit else s2
  else s)

/-- The address of the consumed-count word. -/
def State.consumedAddr (s : State) : Nat := s.reg64 0x0480 + 32 * 2 ^ s.auditLog2

/-- AUDIT_RING_WRITE: with a record buffered and a slot free, the oldest record is written; an error response leaves it
in the buffer for a retry at the next poll. A word in the own stack is not polled, and the retry then waits for none. -/
def execAuditRingWrite (error : Bool) (s : State) : Out :=
  .next (if s.auditRingFull || s.audit.buf.isEmpty || (s.audit.retry && !s.inStack s.consumedAddr 4) then s
    else if error then { s with audit := { s.audit with retry := true, polled := s.now } }
    else s.auditMove.settleAudit)

/-- AUDIT_COUNT_WRITE: a watched write of the consumed count in the own stack frees ring slots. -/
def execAuditCountWrite (v : Word) (s : State) : Out :=
  .next (if s.auditLog2 != 0 && s.inStack s.consumedAddr 4 then
    let s1 := s.store s.consumedAddr (leBytes 4 v.toNat) 1
    ({ s1 with audit := { s1.audit with consumed := v } }).settleAudit
  else s)

/-- AUDIT_COUNT_POLL: a consumed count outside the stack is read every POLL_US while the ring is full with a record
waiting, or a write awaits a retry. -/
def execAuditCountPoll (resp : Resp) (s : State) : Out :=
  .next (if s.auditLog2 == 0 || s.inStack s.consumedAddr 4 || !s.past s.audit.polled (us (s.rf 0x0470 4 7)) ||
      !((s.auditRingFull && !s.audit.buf.isEmpty) || s.audit.retry) then s
    else
      let s1 := { s with audit := { s.audit with polled := s.now, retry := false } }
      match resp with
      | .data v => ({ s1 with audit := { s1.audit with consumed := BitVec.ofNat 32 (field v 0 4) } }).settleAudit
      | .error => s1)

/-! ## Events (R447 to R452) and comparators (R400) -/

/-- EVT_OWN_WRITE (R447): while SET is 1, only a write that leaves SET 1 with the same TAG is applied. -/
def execEvtOwnWrite (req i : Nat) (w : Word) (s : State) : Out :=
  let off := 0x0400 + 4 * i
  let new := w &&& 0x1FFFF#32
  let old := s.reg off
  .next (if 16 ≤ i then s
    else if s.auditFull then s.auditForm stLogFull (reqOrigin req) (reqIndex req) 0x02 off w.toNat 0 false
    else if old.getLsbD 16 && new != old then s.auditRefuse req off w.toNat
    else ((s.setReg off new).auditWrite req off old.toNat new.toNat).settleLines)

/-- EVT_ROUTE_WRITE (R448): a write that sets EN takes effect only when the named target and class are owned by the tag
of the source. -/
def execEvtRouteWrite (req src : Nat) (w : Word) (s : State) : Out :=
  let off := 0x0600 + 4 * src
  let new := w &&& 0x1F#32
  .next (if 128 ≤ src then s
    else if s.auditFull then s.auditForm stLogFull (reqOrigin req) (reqIndex req) 0x02 off w.toNat 0 false
    else if new.getLsbD 4 && !s.lineOwnedBy (bits new.toNat 0 3) (bits new.toNat 3 1) (s.sourceTag src)
      then s.auditRefuse req off w.toNat
    else ((s.setReg off new).auditWrite req off (s.regN off) new.toNat).settleLines)

/-- EVT_PEND_CLEAR (R450, R451): each 1 clears that pending bit; INFO clears with a source's last bit. -/
def execEvtPendClear (_req : Nat) (fast : Bool) (word : Nat) (w : Word) (s : State) : Out :=
  let m : BitVec 128 := ~~~(BitVec.ofNat 128 (w.toNat * 2 ^ (32 * word)))
  let pn := if fast then s.evt.pendN else s.evt.pendN &&& m
  let pf := if fast then s.evt.pendF &&& m else s.evt.pendF
  .next ({ s with evt := { s.evt with pendN := pn, pendF := pf
                                      info := s.evt.info.filter (fun p => m.getLsbD p.1 || pn.getLsbD p.1 || pf.getLsbD p.1) } }).settleLines

/-- EVT_SWSET (R451): the named bit in the named bank is set; INFO is unchanged. -/
def execEvtSwset (_req : Nat) (w : Word) (s : State) : Out :=
  .next (s.setPending (bits w.toNat 0 7) (w.getLsbD 7)).settleLines

/-- CPIDLE_ASSERT (R452): a held normal line of an idle control processor rises. -/
def execCpidleAssert (t : Nat) (s : State) : Out :=
  .next ({ s with evt := { s.evt with cpidle := s.evt.cpidle ||| (1#8 <<< t) } }).settleLines

/-- MODERATION_HOLD_EXPIRY (R452): a line whose HOLD_US has passed rises. -/
def execModerationHoldExpiry (_t : Nat) (s : State) : Out := .next s.settleLines

/-- CMP_CFG_WRITE (R400): claim, arm or disarm a software comparator; a write that names an unregistered region, or
another region than the owner, is refused. -/
def execCmpCfgWrite (req n : Nat) (w : Word) (s : State) : Out :=
  let off := 0x0220 + 4 * (n - 10)
  let region := bits w.toNat 1 8
  let new := w &&& 0xFFFFF1FF#32
  .next (if n < 10 ∨ 16 ≤ n then s
    else if s.auditFull then s.auditForm stLogFull (reqOrigin req) (reqIndex req) 0x02 off w.toNat 0 false
    else if !s.regions.has region || ((s.evt.cmpOwn.get n).map (fun r => r != region)).getD false
      then s.auditRefuse req off w.toNat
    else
      let s1 := if w.getLsbD 0 then { s with evt := { s.evt with cmpOwn := s.evt.cmpOwn.set n region } } else s
      ((s1.setReg off new).auditWrite req off (s.regN off) new.toNat).settleLines)

/-- COMPARATOR_FIRE (R400): an armed comparator whose time has come raises its event; EN clears, or VAL advances by
PERIOD until it lies in the future. -/
def execComparatorFire (n : Nat) (s : State) : Out :=
  let off := 0x0220 + 4 * (n - 10)
  let voff := 0x0240 + 8 * (n - 10)
  let cfg := s.regN off
  let val := s.reg64 voff
  .next (if n < 10 ∨ 16 ≤ n ∨ !bitAt cfg 0 ∨ s.now < val then s
    else
      let s1 := (s.event (96 + n) 0).bump (pwrCnt 7)
      let p := 100 * bits cfg 12 20
      if p = 0 then s1.setReg off (BitVec.ofNat 32 (cfg - 1))
      else
        let v' := val + p * ((s.now - val) / p + 1)
        (s1.setReg voff (BitVec.ofNat 32 v')).setReg (voff + 4) (BitVec.ofNat 32 (v' / 2 ^ 32)))

end Sys2Proof.Machine
end

