-- ==== Sys2Proof/Machine/Port.lean ====
section
/-! DEFINITION. The fabric port's operations: lane readiness, Quetar headers, paths, timers, tries, the ends of messages,
reports, contexts, acknowledgement entries, READs and token buckets (chapters 5, 7, 12, 13). -/

namespace Sys2Proof.Machine

/-! ## Lanes (R16, R30, R340, R405) -/

/-- May work go to a lane now: an enabled lane is awake and no relock is on? -/
def State.laneReady (s : State) : Bool := !s.power.relock && decide (0 < s.awake)
/-- May lanes take work now that holds no reference to a step, which THERM_LEVEL 3 stops (R30)? -/
def State.laneFree (s : State) : Bool := s.laneReady && decide (s.power.therm < 3)
/-- At THERM_LEVEL 3 lanes run only for work that holds a reference to a confirmed or closed step (R30): is step n of a
set such a one? -/
def State.thermOk (s : State) (set n : Nat) : Bool :=
  decide (s.power.therm < 3) || !((s.setTab set).live.any (fun p => p.1 == n && !p.2))

/-! ## Quetar headers (Table 5-1) -/

/-- The fields of a Quetar header. -/
structure Hdr where
  typ : Nat
  pkt : Nat := 0
  cls : Nat := 1
  job : Nat := 0
  sheaf : Nat := 0
  src : Nat := 0
  dst : Nat := 0
  tgen : Nat := 0
  bank : Nat := 0
  sctx : Nat := 0
  stripe : Nat := 0
  count : Nat := 0
  seq : Nat := 0
  epoch : Nat := 0
  step : Nat := 0
  lag : Nat := 0
  deriving DecidableEq, Repr

/-- The 32 bytes of a header. -/
def Hdr.bytes (h : Hdr) : List Byte :=
  leBytes 1 h.typ ++ leBytes 1 (h.pkt % 8 + 8 * (h.cls % 4)) ++ leBytes 2 h.job ++ leBytes 3 h.sheaf ++ leBytes 1 h.src ++
  leBytes 1 h.dst ++ leBytes 1 (h.tgen % 16 + 16 * (h.bank % 4)) ++ leBytes 2 (h.sctx % 1024) ++ leBytes 3 h.stripe ++
  leBytes 1 h.count ++ leBytes 4 h.seq ++ leBytes 4 h.epoch ++ leBytes 6 h.step ++ leBytes 1 (h.lag % 64) ++ [0#8]

/-- Read a header; reserved bits are ignored (R11). -/
def Hdr.parse (v : List Byte) : Hdr :=
  { typ := field v 0 1, pkt := bits (field v 1 1) 0 3, cls := bits (field v 1 1) 3 2, job := field v 2 2, sheaf := field v 4 3
    src := field v 7 1, dst := field v 8 1, tgen := bits (field v 9 1) 0 4, bank := bits (field v 9 1) 4 2
    sctx := bits (field v 10 2) 0 10, stripe := field v 12 3, count := field v 15 1, seq := field v 16 4
    epoch := field v 20 4, step := field v 24 6, lag := bits (field v 30 1) 0 6 }

/-- A packet: header, payload, and the CRC-32C trailer over both (R135). -/
def Hdr.packet (h : Hdr) (payload : List Byte) : List Byte :=
  let b := h.bytes ++ payload
  b ++ leBytes 4 (crc32c b).toNat

/-- Does the trailer of a packet hold? -/
def trailerOk (v : List Byte) : Bool :=
  decide (36 ≤ v.length) && field v (v.length - 4) 4 == (crc32c (v.take (v.length - 4))).toNat
/-- The payload of a packet. -/
def payloadOf (v : List Byte) : List Byte := (v.drop 32).take (v.length - 36)

/-! ## Later tries (R147, R165) -/

/-- The path of a try after `onPath` timeouts in a row on path p (R147). -/
def State.nextPath (s : State) (dst : Nat) (h : Word) (p onPath : Nat) : Nat :=
  let l := s.permitted dst
  if 4 ≤ onPath then
    match l.find? (fun q => decide (p < q)) with
    | some q => q
    | none => l.headD 0
  else if l.contains p then p else s.firstPath dst h
/-- Count a try or a timeout on a path (R165). -/
def State.countPath (s : State) (dst p tries timeouts : Nat) : State :=
  let k := pathKey dst p
  let c := (s.port.paths.get k).getD ⟨0, 0, none⟩
  { s with port := { s.port with paths := s.port.paths.set k { c with tries := c.tries + tries, timeouts := c.timeouts + timeouts } } }

/-! ## Timeouts (R145, R146) -/

def State.rtoInit (s : State) : Nat := us (s.rf 0x012C 0 6)
def State.rtoMin (s : State) : Nat := us (s.rf 0x012C 6 6)
def State.rtoMax (s : State) : Nat := us (s.rf 0x012C 12 6)
/-- The current timeout of a destination engine. -/
def State.rto (s : State) (dst : Nat) : Nat :=
  match s.port.rtt.get dst with
  | some e =>
    if bitAt (s.regN 0x012C) 18 then s.rtoInit
    else Nat.min s.rtoMax (Nat.max s.rtoMin (Int.toNat ⌈e.srtt + 4 * e.rttvar⌉))
  | none => s.rtoInit
/-- Take a round-trip sample (R145). -/
def State.sample (s : State) (dst r : Nat) : State :=
  let q : Rat := r
  let e : Rtt := match s.port.rtt.get dst with
    | none => ⟨q, q / 2⟩
    | some e => ⟨7 / 8 * e.srtt + 1 / 8 * q, 3 / 4 * e.rttvar + 1 / 4 * (if e.srtt ≤ q then q - e.srtt else e.srtt - q)⟩
  { s with port := { s.port with rtt := s.port.rtt.set dst e } }
/-- The timeout of a later try. -/
def State.backoff (s : State) (t : Nat) : Nat := Nat.min (2 * t) s.rtoMax

/-! ## Tries (R142, R143, R150) -/

/-- Change a send context. -/
def State.modCtx (s : State) (c : Nat) (f : SendCtx → SendCtx) : State :=
  { s with port := { s.port with sctx := s.port.sctx.upd c f } }
/-- Change a message of a send context. -/
def SendCtx.modMsg (c : SendCtx) (seq : Nat) (f : Msg → Msg) : SendCtx :=
  { c with msgs := c.msgs.map (fun m => if m.seq = seq then f m else m) }
/-- The destination key of a send context. -/
def SendCtx.key (c : SendCtx) : Nat := dstKey c.node c.agent

/-- Is the receiver of a context level-matched (R382)? A parity home on this engine needs no lark. -/
def State.ctxMatched (s : State) (c : SendCtx) : Bool :=
  match (s.sheaves.get c.sheaf).bind (fun sh => sh.mem? c.dst) with
  | some x => s.isLocal x || x.matched
  | none => false

/-- The header of a message's packets (R136, R141, R150). -/
def State.msgHdr (s : State) (n : Nat) (c : SendCtx) (m : Msg) : Hdr :=
  let r := s.regions.get c.region
  { typ := 1, cls := 1, job := (r.map (·.jobTag)).getD 0, sheaf := c.sheaf, src := (r.map (·.member)).getD 0, dst := c.dst
    tgen := m.gen, bank := m.bank, sctx := n, stripe := m.stripe, seq := m.seq, epoch := (r.map (·.epoch)).getD 0, step := m.step
    lag := (m.seq + 2 ^ 32 - ((c.msgs.head?.map (·.seq)).getD m.seq)) % 2 ^ 32 }

/-- The product of a message: its coefficient times its tile delta (R142). -/
def State.product (s : State) (m : Msg) : List Byte :=
  match s.tap.slots.get m.slot with
  | some d => gfScale m.coef d.delta
  | none => zeros 4096

/-- Issue the eight packets of a try (R137). -/
def State.sendTry (s : State) (n : Nat) (c : SendCtx) (m : Msg) : State :=
  let h := s.msgHdr n c m
  let v := s.product m
  { s with port := { s.port with tx := s.port.tx ++ (List.range 8).map (fun i =>
      .packet (gaddr c.node c.agent 0) (s.routeOf c.key m.path) (({ h with pkt := i } : Hdr).packet (slice v (512 * i) 512))) } }

/-- The next try of a message: its path, timer and packets (R143 to R147). -/
def State.tryMsg (s : State) (n seq : Nat) : State :=
  match s.port.sctx.get n with
  | none => s
  | some c =>
    match c.msgs.find? (fun m => m.seq == seq) with
    | none => s
    | some m =>
      let h := stripeHash c.sheaf m.stripe
      let p := if m.tries = 0 then s.firstPath c.key h else s.nextPath c.key h m.path m.onPath
      let t := if m.tries = 0 then s.rto c.key else s.backoff m.timeout
      let m' := { m with st := .sent, tries := m.tries + 1, path := p, onPath := if m.tries = 0 ∨ p ≠ m.path then 0 else m.onPath
                         timeout := t, first := if m.tries = 0 then s.now else m.first, due := s.now + t }
      let s1 := (s.modCtx n (fun c => c.modMsg seq (fun _ => m'))).countPath c.key p 1 0
      let s2 := if m.tries = 0 then s1 else s1.bump (qtrCnt 1)
      s2.sendTry n (c.modMsg seq (fun _ => m')) m'

/-! ## Reports (R383 to R386) -/

/-- The 32 bytes of a report record (Table 13-5). -/
def State.reportBytes (s : State) (k : Key) : List Byte :=
  let log := s.rf 0x0184 0 4
  let c := k.count.getD 0
  let tri := (((s.sheaves.get k.sheaf).bind (fun sh => sh.mem? k.subject)).map (·.tripleWord)).getD 0
  leBytes 3 k.sheaf ++ leBytes 1 k.kind ++ leBytes 1 k.subject ++ leBytes 1 (popcount k.mask + 128 * (1 - c / 2 ^ log % 2)) ++
  zeros 2 ++ leBytes 4 k.epoch ++ leBytes 4 tri ++ leBytes 8 k.mask.toNat ++ leBytes 6 k.opened ++ zeros 2

/-- Write a key's record to its slot of the report ring; without a ring nothing is written (R386). -/
def State.writeReport (s : State) (k : Key) : State :=
  let log := s.rf 0x0184 0 4
  match k.count with
  | some c => if log = 0 then s else s.store (s.reg64 0x0188 + 32 * (c % 2 ^ log)) (s.reportBytes k) 1
  | none => s

/-- Close the keys that satisfy p, each after a rewrite that is due (R385). -/
def State.closeKeys (s : State) (p : Key → Bool) : State :=
  let gone := s.sward.keys.filter p
  let s1 := gone.foldl (fun t k => if k.due then t.writeReport k else t) s
  { s1 with sward := { s1.sward with keys := s1.sward.keys.filter (fun k => !p k) } }

/-- The key changed least recently. -/
def oldestKey : List Key → Option Key
  | [] => none
  | k :: ks => match oldestKey ks with
    | some j => if j.changed < k.changed then some j else some k
    | none => some k

/-- A REPORT at its target (R385). -/
def State.takeReport (s : State) (sheaf dstMember job epoch kind subject reporter : Nat) : State :=
  match s.localMember sheaf dstMember with
  | none => s.bump (membCnt 6)
  | some (_, r) =>
    if r.jobTag ≠ job ∨ r.epoch ≠ epoch then s.bump (membCnt 6) else
    let is := fun (k : Key) => k.sheaf == sheaf && k.epoch == epoch && k.kind == kind && k.subject == subject
    let b : BitVec 36 := 1#36 <<< reporter
    match s.sward.keys.find? is with
    | some k =>
      let m := k.mask ||| b
      let k' := if m = k.mask then k else { k with mask := m, changed := s.now, due := k.count.isSome }
      ({ s with sward := { s.sward with keys := s.sward.keys.map (fun x => if is x then k' else x) } }).bump (membCnt 5)
    | none =>
      let s1 := if s.sward.keys.length < 64 then s else
        match oldestKey s.sward.keys with
        | some o => s.closeKeys (fun k => k == o)
        | none => s
      let ring := s.rf 0x0184 0 4 != 0
      let k : Key := { sheaf := sheaf, epoch := epoch, kind := kind, subject := subject, mask := b
                       count := if ring then some s.sward.rptCount else none
                       opened := s.now % 2 ^ 48, written := s.now, changed := s.now, due := false }
      let s2 := { s1 with sward := { s1.sward with keys := s1.sward.keys ++ [k], rptCount := s1.sward.rptCount + bit ring } }
      (s2.writeReport k).event 87 (infoB sheaf subject kind)

/-- The report target of a subject: the steward, or the lowest-indexed ALIVE member other than the subject (R384). -/
def Sheaf.reportTarget (sh : Sheaf) (subject : Nat) : Option Nat :=
  if sh.steward = some subject then
    (List.range sh.members.length).find? (fun i => i != subject && ((sh.mem? i).map (fun x => x.st == .alive)).getD false)
  else sh.steward

/-- Report a (KIND, SUBJECT) of a sheaf, at most once in 1,000 µs; a local target takes it inside the engine (R384). -/
def State.report (s : State) (sheaf kind subject level : Nat) : State :=
  match s.sheaves.get sheaf, (s.sheafRegions sheaf).head? with
  | some sh, some (_, me) =>
    if s.sward.sent.any (fun x => x.sheaf == sheaf && x.kind == kind && x.subject == subject && !s.past x.time 100000) then s else
    let keep := s.sward.sent.filter (fun x => !(x.sheaf == sheaf && x.kind == kind && x.subject == subject))
    let s1 := { s with sward := { s.sward with sent := keep ++ [⟨sheaf, kind, subject, level, s.now⟩] } }
    match sh.reportTarget subject with
    | none => s1
    | some t =>
      match sh.mem? t with
      | none => s1
      | some x =>
        if s.isLocal x then s1.takeReport sheaf t me.jobTag me.epoch kind subject me.member
        else
          let dst := dstKey x.node x.agent
          let h : Hdr := { typ := 6, cls := 1, job := me.jobTag, sheaf := sheaf, src := me.member, dst := t, epoch := me.epoch }
          s1.send (.packet (gaddr x.node x.agent 0) (s1.routeOf dst (s1.firstPath dst (stripeHash sheaf 0)))
            (h.packet (leBytes 1 kind ++ leBytes 1 subject ++ leBytes 1 level ++ zeros 13)))
  | _, _ => s

/-! ## The ends of messages (R142 to R144, R162) -/

/-- Take one table reference off a tile delta's bank of its row block (R345). -/
def State.dropRowRef (s : State) (region bank : Nat) : State :=
  { s with tables := { s.tables with rows := s.tables.rows.upd region (fun t =>
      if bank = 0 then { t with ref0 := t.ref0 - 1 } else { t with ref1 := t.ref1 - 1 }) } }
/-- Free a coding slot, and the table reference that its delta holds from hand-off on (R345). -/
def State.freeSlot (s : State) (k : Nat) : State :=
  match s.tap.slots.get k with
  | none => s
  | some d =>
    let s1 := { s with tap := { s.tap with slots := s.tap.slots.del k } }
    if d.waiting || decide (0 < d.msgs) then s1.dropRowRef d.region d.tbank else s1
/-- One message formed from a slot's delta has ended; the last one frees the slot (R142). -/
def State.slotDone (s : State) (k : Nat) : State :=
  match s.tap.slots.get k with
  | none => s
  | some d =>
    if d.msgs ≤ 1 then s.freeSlot k
    else { s with tap := { s.tap with slots := s.tap.slots.upd k (fun d => { d with msgs := d.msgs - 1 }) } }

/-- Does SEQ a come before b in the order of numbering modulo 2^32? -/
def seqBefore (a b : Nat) : Bool := decide (0 < (b + 2 ^ 32 - a) % 2 ^ 32 ∧ (b + 2 ^ 32 - a) % 2 ^ 32 < 2 ^ 31)
/-- Keep the lower of two (SEQ, status) failures (R162). -/
def lowerFail (old : Option (Nat × Nat)) (seq st : Nat) : Nat × Nat :=
  match old with
  | some f => if seqBefore seq f.1 then (seq, st) else f
  | none => (seq, st)

/-- The primitive that sent a message completes: OK when it retired, the failure's status, or PATH_FAILED when it was dropped. -/
def State.endSend (s : State) (n seq : Nat) (retired : Bool) (st : Option Nat) : State :=
  let end1 := fun (x : Xfer) =>
    if x.kind = .message n seq then { x with kind := .ended (if retired then stOk else st.getD stPathFailed) } else x
  { s with port := { s.port with xfers := s.port.xfers.map end1 } }

/-- Note key: the committed-parity messages of a fence's second set that have retired (R163). -/
def nkRetired : Nat := 906
/-- A committed-parity message of region j handed off at place h has retired: the fences that cover it and started later count it (R163). -/
def State.countFenced (s : State) (j h : Nat) : State :=
  let set := ((s.regions.get j).map (·.set)).getD 64
  { s with ops := s.ops.map (fun o => match o.stage with
    | .fencing since => if h < since && bitAt (o.arg 16 8) set then o.keep nkRetired (o.n nkRetired + 1) else o
    | _ => o) }

/-- A message leaves its context and its fence count; `st` is none for RETIRED and DROPPED, and a status for FAILED. -/
def State.endMsg (s : State) (n : Nat) (m : Msg) (retired : Bool) (st : Option Nat) : State :=
  let s1 := s.modCtx n (fun c =>
    let c1 := { c with msgs := c.msgs.filter (fun x => x.seq != m.seq) }
    let slot := m.step % 3
    let c2 := if retired && m.bank != 3 then { c1 with retired := c1.retired.set slot ((c1.retired.get slot).getD 0 + 1) } else c1
    match st with
    | none => c2
    | some x =>
      if m.bank = 3 then { c2 with cfail := some (lowerFail c2.cfail m.seq x) }
      else { c2 with fails := c2.fails.set (m.step % 3) (lowerFail (c2.fails.get (m.step % 3)) m.seq x) })
  let s2 := if m.settle && st.isSome then
    (match s.port.sctx.get n with
     | some c => s1.modRegion c.region (fun r => { r with settleFail := r.quiet.isSome })
     | none => s1) else s1
  let s3 := if retired && m.bank == 3 then s2.countFenced (((s.port.sctx.get n).map (·.region)).getD 0) m.handoff else s2
  (s3.endSend n m.seq retired st).slotDone m.slot

/-- MESSAGE_FAILED (R144, R161): the message becomes FAILED with a status, with its counter, event and report. -/
def State.failMsg (s : State) (n : Nat) (c : SendCtx) (m : Msg) (st : Nat) : State :=
  let s1 := s.endMsg n m false (some st)
  if st = stPathFailed then
    ((s1.bump (qtrCnt 14)).event 67 (infoB c.sheaf c.dst 0)).report c.sheaf 2 c.dst 0
  else if st = stStaleEpoch then s1
  else (s1.bump (faultCnt 6)).event 68 (infoB c.sheaf c.dst (st % 256))

/-- Drop the unretired messages of a context that satisfy p (R143). -/
def State.dropMsgs (s : State) (n : Nat) (p : Msg → Bool) : State :=
  match s.port.sctx.get n with
  | none => s
  | some c => (c.msgs.filter p).foldl (fun t m => t.endMsg n m false none) s

/-! ## Contexts (R138, R164) -/

/-- A new send context of a region for parity row j. -/
def SendCtx.new (region sheaf row : Nat) (k : Nat) (x : Member) : SendCtx :=
  { region := region, sheaf := sheaf, row := row, dst := k + row, node := x.node, agent := x.agent, next := 0, fencedBy := none
    msgs := [], fails := [], cfail := none, retired := [], late := [] }
/-- A new receive context of a region for data member i. -/
def RecvCtx.new (region sheaf src : Nat) : RecvCtx := { region := region, sheaf := sheaf, src := src, base := 0, win := [], floor := none }

/-- Create the send context of a region for row j in the lowest free number. -/
def State.addSend (s : State) (region sheaf row k : Nat) (x : Member) : State :=
  match s.port.sctx.free 1024 with
  | some n => { s with port := { s.port with sctx := s.port.sctx.set n (SendCtx.new region sheaf row k x) } }
  | none => s
/-- Create the receive context of a region for data member i in the lowest free number. -/
def State.addRecv (s : State) (region sheaf src : Nat) : State :=
  match s.port.rctx.free 1024 with
  | some n => { s with port := { s.port with rctx := s.port.rctx.set n (RecvCtx.new region sheaf src) } }
  | none => s
/-- Contexts that a region needs at member index i of a sheaf: of a data member one for each row whose member is alive, of
a parity member one for each alive data member. -/
def Sheaf.peersOf (sh : Sheaf) (i : Nat) : List (Nat × Member) :=
  let all := (sh.members.zipIdx.map (fun p => (p.2, p.1))).filter (fun p => p.2.alive)
  if i < sh.k then all.filter (fun p => decide (sh.k ≤ p.1)) else all.filter (fun p => decide (p.1 < sh.k))
/-- Are the contexts free that a region needs at member index i? -/
def State.ctxRoom (s : State) (sh : Sheaf) (i : Nat) : Bool :=
  let n := (sh.peersOf i).length
  if i < sh.k then decide (s.port.sctx.length + n ≤ 1024) else decide (s.port.rctx.length + n ≤ 1024)
/-- Create a region's contexts at member index i. -/
def State.addCtxs (s : State) (region id : Nat) (sh : Sheaf) (i : Nat) : State :=
  (sh.peersOf i).foldl (fun t p => if i < sh.k then t.addSend region id (p.1 - sh.k) sh.k p.2 else t.addRecv region id p.1) s

/-- Free the receive contexts that satisfy p, with their held and parked messages (R153). -/
def State.freeRecv (s : State) (p : RecvCtx → Bool) : State :=
  let gone := (s.port.rctx.filter (fun q => p q.2)).map (·.1)
  { s with port := { s.port with rctx := s.port.rctx.filter (fun q => !p q.2)
                                 applyQ := s.port.applyQ.filter (fun a => !gone.contains a.ctx) } }
/-- Drop and free the send contexts that satisfy p. -/
def State.freeSend (s : State) (p : SendCtx → Bool) : State :=
  let gone := (s.port.sctx.filter (fun q => p q.2)).map (·.1)
  let s1 := gone.foldl (fun t n => t.dropMsgs n (fun _ => true)) s
  { s1 with port := { s1.port with sctx := s1.port.sctx.filter (fun q => !p q.2) } }

/-! ## Acknowledgement entries (R158, R159) -/

/-- The 16 bytes of an entry (Table 5-6). -/
def AckEntry.bytes (e : AckEntry) : List Byte :=
  leBytes 2 (e.sctx % 1024 + 1024 * (e.kind % 4)) ++ leBytes 2 e.status ++ leBytes 4 e.seq ++ leBytes 4 e.epoch ++ zeros 4

/-- Send the ACK packet of a batch; its path follows R147 with the sheaf and stripe of the oldest entry. -/
def State.sendAck (s : State) (b : AckBatch) : State :=
  let h : Hdr := { typ := 2, cls := 1, job := b.tag, count := b.entries.length }
  s.send (.packet (gaddr (b.dst / 16) (b.dst % 16) 0) (s.routeOf b.dst (s.firstPath b.dst (stripeHash b.sheaf b.stripe)))
    (h.packet (b.entries.flatMap AckEntry.bytes)))

/-- Send and clear the batch of a sender and tag. -/
def State.flushAck (s : State) (dst tag : Nat) : State :=
  match s.port.acks.find? (fun b => b.dst == dst && b.tag == tag) with
  | some b =>
    let s1 := { s with port := { s.port with acks := s.port.acks.filter (fun x => !(x.dst == dst && x.tag == tag)) } }
    s1.sendAck b
  | none => s

/-- Form an entry for a sender and tag: at 32 entries the packet leaves. An entry that equals a waiting one is not formed
again, and another one for the same (context, SEQ) starts a new packet (R158, R159). -/
def State.addAck (s : State) (dst tag sheaf stripe : Nat) (e : AckEntry) : State :=
  let same := fun (b : AckBatch) => b.dst == dst && b.tag == tag
  let dup := s.port.acks.any (fun b => same b && b.entries.any (fun x => x.sctx == e.sctx && x.seq == e.seq))
  if s.port.acks.any (fun b => same b && b.entries.contains e) then s else
  let s0 := if dup then s.flushAck dst tag else s
  let s1 : State := match s0.port.acks.find? same with
    | some _ =>
      let l := s0.port.acks.map (fun b => if same b then { b with entries := b.entries ++ [e] } else b)
      { s0 with port := { s0.port with acks := l } }
    | none => { s0 with port := { s0.port with acks := s0.port.acks ++ [⟨dst, tag, s.now, sheaf, stripe, [e]⟩] } }
  let full := s1.port.acks.any (fun b => same b && decide (32 ≤ b.entries.length))
  let s2 := if full then s1.flushAck dst tag else s1
  if e.kind = 1 then s2.bump (qtrCnt 3) else if e.kind = 3 then s2.bump (qtrCnt 9) else s2

/-! ## Token buckets (R364) and READ requests (R205, R206) -/

/-- The bucket of a destination, filled to the present: RATE × 32 MB/s is 8 × RATE units of 1/25 byte in a tick. -/
def State.bucketNow (s : State) (dst : Nat) : Bucket :=
  match s.port.buckets.find? (fun b => b.dst == dst) with
  | some b => { b with level := Nat.min (25 * 4096 * s.rf 0x0138 10 6) (b.level + 8 * s.rf 0x0138 0 10 * (s.now - b.filled))
                       filled := s.now }
  | none => ⟨dst, 0, s.now, s.now⟩
/-- The destination whose bucket was used least recently. -/
def oldestBucket : List Bucket → Option Bucket
  | [] => none
  | b :: bs => match oldestBucket bs with
    | some j => if j.used < b.used then some j else some b
    | none => some b
/-- Put a bucket, recycling the least recently used one of 1,024. -/
def State.putBucket (s : State) (b : Bucket) : State :=
  let l := s.port.buckets.filter (fun x => x.dst != b.dst)
  let l1 := if l.length < 1024 then l else match oldestBucket l with
    | some o => l.filter (fun x => x.dst != o.dst)
    | none => l
  { s with port := { s.port with buckets := l1 ++ [b] } }
/-- May a C0 transfer of n bytes go to a destination now? -/
def State.bucketOk (s : State) (dst n : Nat) : Bool := decide (25 * n ≤ (s.bucketNow dst).level)
/-- Charge n bytes to a destination's bucket; one that does not hold them only fills. -/
def State.charge (s : State) (dst n : Nat) : State :=
  let b := s.bucketNow dst
  s.putBucket { b with level := b.level - 25 * n, used := s.now }

/-- Issue the packet of a READ request on a path. -/
def State.sendRead (s : State) (slot : Nat) (q : ReadReq) (job src epoch : Nat) : State :=
  let dst := dstKey q.node q.agent
  let h : Hdr := { typ := 3, cls := q.cls, job := job, sheaf := q.sheaf, src := src, dst := q.dst, sctx := slot, stripe := q.stripe
                   seq := q.seq, epoch := epoch }
  s.send (.packet (gaddr q.node q.agent 0) (s.routeOf dst q.path) (h.packet (leBytes 1 q.view ++ zeros 15)))

end Sys2Proof.Machine
end

