-- ==== Sys2Proof/Machine/Views.lean ====
section
/-! DEFINITION. Views of member tiles (R202 to R204), the reads of a decode (R205 to R211), decodes (R68 to R70), builds
(R216) and repairs from the sheaf (R314, R315). -/

namespace Sys2Proof.Machine

/-! ## Quiet (R203, R204) -/

/-- Do committed-parity messages or deltas that a settle wait of region j awaits remain? -/
def State.settling (s : State) (j : Nat) : Bool :=
  s.port.sctx.vals.any (fun c => c.region == j && c.msgs.any (fun m => m.settle)) ||
  s.tap.slots.vals.any (fun d => d.region == j && d.settle)

/-- A CONFIRMED read of data member region j: it enters quiet, and its settle wait covers every committed-parity message
handed off before; or its quiet time starts again. -/
def State.touchQuiet (s : State) (j : Nat) : State :=
  match s.regions.get j with
  | none => s
  | some r =>
    if r.quiet.isSome then s.modRegion j (fun r => { r with quiet := some s.now }) else
    let mark := fun (c : SendCtx) =>
      if c.region = j then { c with msgs := c.msgs.map (fun (m : Msg) => { m with settle := m.bank == 3 }) } else c
    let slots := s.tap.slots.map (fun p => (p.1, if p.2.region = j && p.2.waiting && p.2.bank == 3 then { p.2 with settle := true } else p.2))
    let sctx := s.port.sctx.map (fun p => (p.1, mark p.2))
    let s1 := { s with port := { s.port with sctx := sctx }, tap := { s.tap with slots := slots } }
    let s2 := s1.modRegion j (fun r => { r with quiet := some s.now, settleFail := false })
    if s2.settling j then s2.bump (rbldCnt 5) else s2

/-! ## Log tiles and banks -/

/-- D_MAX of a region's sheaf; 0 outside one. -/
def State.dMax (s : State) (r : Region) : Nat := ((s.sheafOf r).map (·.dMax)).getD 0
/-- The log or pending bank of step n (R121, R185). -/
def State.bankOf (s : State) (r : Region) (n : Nat) : Nat := n % (s.dMax r + 1)
/-- The DELTA_LOG region and tile that hold region tile t in bank x (R121). -/
def State.logTile (s : State) (r : Region) (x t : Nat) : Option (Nat × Region × Nat) :=
  match r.logBlock, s.regions.get r.link with
  | some b, some q => some (r.link, q, b + x * r.tileCount + t)
  | _, _ => none

/-- Read region tile t through page guard alone, with what the read leaves; none when it is uncorrectable. -/
def State.readPlain (s : State) (ext : Ext) (j : Nat) (r : Region) (t : Nat) : Option (List Byte) × State :=
  let x := s.readGuard ext r t
  (if x.ok then some x.data else none, s.noteRead j t r x)

/-- A tile left uncorrectable (R315). -/
def State.giveUp (s : State) (j t : Nat) : State := (s.bump (guardCnt 4)).event 78 (infoA j t)

/-- XOR the tiles at a list of places into a value; none when one is uncorrectable. -/
def State.xorTiles (s : State) (ext : Ext) : List (Nat × Region × Nat) → List Byte → Option (List Byte) × State
  | [], v => (some v, s)
  | (j, r, t) :: l, v =>
    match s.readPlain ext j r t with
    | (some w, s1) => s1.xorTiles ext l (xorBytes v w)
    | (none, s1) => (none, s1.giveUp j t)

/-- The log tiles of region tile t for every live step of its set. -/
def State.liveLogs (s : State) (r : Region) (t : Nat) : List (Nat × Region × Nat) :=
  (s.setTab r.set).live.filterMap (fun p => s.logTile r (s.bankOf r p.1) t)

/-- Is a bank one whose tile t confirmed parity includes (R192)? -/
def Bank.covers (b : Bank) (t : Nat) : Bool := b.st == .confirmed || (b.st == .merging && decide (b.pos ≤ t))
/-- The pending tiles that confirmed parity of stripe t includes (R192, R216). -/
def State.confirmedBanks (s : State) (r : Region) (t : Nat) : List (Nat × Region × Nat) :=
  match s.regions.get r.link with
  | some q => (List.range 3).filterMap (fun x => match s.banks.get (bankKey r.link x) with
      | some b => if b.covers t then some (r.link, q, x * r.tileCount + t) else none
      | none => none)
  | none => []

/-! ## Reads of members (R205, R206, R208) -/

/-- What the read of a member's tile gives: the view and its STEP, a refusal, the retry limit, or a wait: for the settle wait of the own
member, or for the answer to a READ. -/
inductive MemRd where
  | data (v : List Byte) (step : Nat)
  | refused (st : Nat)
  | path
  | wait
  deriving DecidableEq, Repr

/-- The address under which an answer list holds the answer to a READ that a repair within a command sends (log entry 16): view and
stripe. -/
def readKey (node agent region view stripe : Nat) : Nat :=
  gaddr node agent (2 ^ 41 + 2 ^ 40 + region * 2 ^ 32 + view * 2 ^ 28 + stripe)

/-- Issue one READ in a read slot for an operation that keeps its end; C0 charges its destination's bucket (R364). -/
def State.issueRead (s : State) (slot op cls view sheaf stripe job src epoch i : Nat) (x : Member) : State :=
  let seq := (s.port.readSeq.get slot).getD 0
  let dst := dstKey x.node x.agent
  let p := s.firstPath dst (stripeHash sheaf stripe)
  let q : ReadReq := { op := op, sheaf := sheaf, dst := i, node := x.node, agent := x.agent, cls := cls, view := view, stripe := stripe
                       seq := seq, keep := true, target := 0, mask := 0, data := [], step := 0, tries := 1, path := p, onPath := 0
                       timeout := s.rto dst, first := s.now, due := s.now + s.rto dst }
  let s1 := if cls = 0 then s.charge dst 4096 else s
  let s2 := (s1.countPath dst p 1 0).sendRead slot q job src epoch
  { s2 with port := { s2.port with readSeq := s2.port.readSeq.set slot ((seq + 1) % 2 ^ 32) } }

/-- The status that stands for a READ without an answer up to the retry limit. -/
def readFailed : Nat := 0x10000
/-- What an operation's ended READ gave. -/
def Got.result (g : Got) : MemRd := if g.st = 0 && !g.data.isEmpty then .data g.data g.step else if g.st = readFailed then .path else .refused g.st
/-- The end of a READ of an operation for a member, view and stripe, when it has ended. -/
def Op.gotOf (o : Op) (i view stripe : Nat) : Option Got :=
  o.got.find? (fun g => g.member == i && g.view == view && g.stripe == stripe)
/-- An operation keeps what a read of a member gave. -/
def State.putGot (s : State) (id i view stripe : Nat) (x : MemRd) : State :=
  let g := fun st v n => s.modOp id (fun o => { o with got := o.got ++ [⟨i, view, stripe, st, v, n, s.now, s.now, false⟩] })
  match x with
  | .data v n => g 0 v n
  | .refused st => g st [] 0
  | .path => g readFailed [] 0
  | .wait => s
/-- A READ of an operation to a remote member (R206): its end once it has one; else it is issued once, in the lowest free read slot and
at C0 once its destination's bucket holds its charge (R364), and the operation waits. -/
def State.askMember (s : State) (id cls view sheaf stripe job src epoch i : Nat) (x : Member) : MemRd × State :=
  match (s.op? id).bind (fun o => o.gotOf i view stripe) with
  | some g => (g.result, s)
  | none =>
    let dst := dstKey x.node x.agent
    if s.port.rreq.vals.any (fun q => q.keep && q.op == id && q.dst == i && q.view == view && q.stripe == stripe) then (.wait, s)
    else if cls = 0 && !s.bucketOk dst 4096 then (.wait, s.putBucket (s.bucketNow dst)) else
    match s.port.rreq.free 1024 with
    | some slot => (.wait, s.issueRead slot id cls view sheaf stripe job src epoch i x)
    | none => (.wait, s)
/-- The READ of a repair within a command: it is sent, and the command's answer list says how it ends (log entry 16). -/
def State.sendOnce (s : State) (cls view sheaf stripe job src epoch i : Nat) (x : Member) : State :=
  match s.port.rreq.free 1024 with
  | some slot =>
    let t := s.issueRead slot 0 cls view sheaf stripe job src epoch i x
    { t with port := { t.port with rreq := t.port.rreq.del slot } }
  | none => s

/-- The answer of a remote member to a READ of a repair (log entry 16): at least 4,102 bytes are the view and the six bytes of STEP, two
bytes are a refusal's STATUS. -/
def extRead (ext : Ext) (x : Member) (view stripe : Nat) : MemRd :=
  match extFind ext (readKey x.node x.agent x.region view stripe) with
  | some (.data v) => if v.length = 2 then .refused (leNat v) else .data (slice v 0 4096) (field v 4096 6)
  | some .error => .refused stUnrecoverable
  | none => .path

/-- A view of a local member's tile, without inline repair: none when uncorrectable. -/
def State.viewPlain (s : State) (ext : Ext) (j : Nat) (r : Region) (view t : Nat) : Option (List Byte) × State :=
  match s.readPlain ext j r t with
  | (none, s1) => (none, s1.giveUp j t)
  | (some v, s1) =>
    if view ≠ 1 then (some v, s1)
    else if r.role = .parityHome then s1.xorTiles ext (s.confirmedBanks r t) v
    else s1.xorTiles ext (s.liveLogs r t) v

/-- Read the own member's tile for a decode or a direct read, under the quiet rule; the writes of a Tedder block to it come first
(R203, R210, R300). -/
def State.readOwnMember (s : State) (ext : Ext) (view sheaf i t : Nat) : MemRd × State :=
    match s.localMember sheaf i with
    | none => (.refused stStaleEpoch, s)
    | some (j, r) =>
      if r.state = .fostering && !r.built.has t then (.refused stUnrecoverable, s)
      else
        let data := r.role != .parityHome
        if view = 1 && data && r.quiet.isNone && s.blockWrites j then (.wait, s) else
        let s1 := if view = 1 && data then s.touchQuiet j else s
        let failed := ((s1.regions.get j).map (·.settleFail)).getD false
        if view = 1 && data && failed then (.refused stPathFailed, s1)
        else if view = 1 && data && s1.settling j then (.wait, s1)
        else match s1.viewPlain ext j r view t with
          | (some v, s2) => (.data v r.confirmed, s2)
          | (none, s2) => (.refused stUnrecoverable, s2)

/-- Read a member's tile (R209, R210): the own member locally, once for a unit of an operation; a remote one by a READ, whose end an
operation waits for and a repair takes from the answer list. -/
def State.readMember (s : State) (ext : Ext) (op : Option Nat) (cls view sheaf : Nat) (me : Region) (i t : Nat) (x : Member) :
    MemRd × State :=
  match op with
  | none =>
    if s.isLocal x then s.readOwnMember ext view sheaf i t
    else (extRead ext x view t, s.sendOnce cls view sheaf t me.jobTag me.member me.epoch i x)
  | some id =>
    if s.isLocal x then
      match (s.op? id).bind (fun o => o.gotOf i view t) with
      | some g => (g.result, s)
      | none =>
        let q := s.readOwnMember ext view sheaf i t
        (q.1, q.2.putGot id i view t q.1)
    else s.askMember id cls view sheaf t me.jobTag me.member me.epoch i x

/-- Read the listed members that the cache lacks. -/
def State.readMembers (s : State) (ext : Ext) (op : Option Nat) (cls sheaf : Nat) (sh : Sheaf) (me : Region) (t : Nat) :
    List Nat → Tab MemRd → Tab MemRd × State
  | [], c => (c, s)
  | i :: l, c =>
    if c.has i then s.readMembers ext op cls sheaf sh me t l c else
    match sh.mem? i with
    | none => s.readMembers ext op cls sheaf sh me t l (c.set i (.refused stUnrecoverable))
    | some x =>
      let q := s.readMember ext op cls 1 sheaf me i t x
      q.2.readMembers ext op cls sheaf sh me t l (c.set i q.1)

/-! ## Selection and decode (R67 to R70) -/

/-- Is tile t of member i virtual (R57)? -/
def Sheaf.virtual (sh : Sheaf) (i t : Nat) : Bool := decide (i < sh.k) && ((sh.mem? i).map (fun x => decide (x.tiles ≤ t))).getD false
/-- Members with a real tile at t that satisfy p, in index order. -/
def Sheaf.real (sh : Sheaf) (t lo hi : Nat) (p : Member → Bool) : List Nat :=
  (List.range sh.members.length).filter (fun i =>
    decide (lo ≤ i ∧ i < hi) && !sh.virtual i t && ((sh.mem? i).map p).getD false)
/-- The real tiles of stripe t in the order of preference of R68. -/
def Sheaf.candidates (sh : Sheaf) (t : Nat) : List Nat :=
  let n := sh.k + sh.m
  let good := fun (x : Member) => x.st == .alive && !x.suspect
  let susp := fun (x : Member) => x.st == .alive && x.suspect
  let repl := fun (x : Member) => x.st == .replaced
  sh.real t 0 sh.k good ++ sh.real t sh.k n good ++ sh.real t 0 sh.k susp ++ sh.real t sh.k n susp ++
  sh.real t 0 sh.k repl ++ sh.real t sh.k n repl
/-- Every real data tile that may be read first, then parity by R68: the order of a parity build (R216). -/
def Sheaf.dataFirst (sh : Sheaf) (t : Nat) : List Nat :=
  sh.real t 0 sh.k (fun x => x.alive) ++ (sh.candidates t).filter (fun i => decide (sh.k ≤ i))

/-- Parity row j of a stripe's data tiles (R64). -/
def State.encodeRow (s : State) (region j : Nat) (data : List (List Byte)) : List Byte :=
  data.zipIdx.foldl (fun acc p => xorBytes acc (gfScale (s.coef region j p.2) p.1)) (zeros 4096)

/-- The decode slot used least recently among those that hold no reference; of equals, the one of the lowest number (DESIGN CHOICE, log
entry 131). -/
def oldestSlot (t : Tab DecSlot) : Option Nat :=
  (t.filter (fun p => p.2.refs.isEmpty)).foldl (fun (b : Option (Nat × Nat)) p => match b with
    | some (k, u) => if p.2.last < u then some (p.1, p.2.last) else some (k, u)
    | none => some (p.1, p.2.last)) none |>.map (·.1)

/-- Take a recovery matrix through the decode slots (R70): a match gains the operation's reference; a new one takes the
free slot of the lowest number (DESIGN CHOICE, log entry 131) or the least recently used unreferenced slot; with none the overflow is counted. -/
def State.useSlot (s : State) (op : Option Nat) (d : DecSlot) : State :=
  let same := fun (x : DecSlot) => !x.stale && x.region == d.region && x.epoch == d.epoch && x.mask == d.mask && x.gen == d.gen
  let own := op.toList
  match s.tables.dec.find? (fun p => same p.2) with
  | some (k, x) =>
    { s with tables := { s.tables with dec := s.tables.dec.set k { x with refs := (x.refs ++ own).dedup, last := s.now } } }
  | none =>
    match (s.tables.dec.free 64).or (oldestSlot s.tables.dec) with
    | some k => { s with tables := { s.tables with dec := s.tables.dec.set k { d with refs := own, last := s.now } } }
    | none => s.bump (faultCnt 0)

/-- What a stripe's reads give: every data tile, a failure, another attempt because STEP values differ, or a settle wait. -/
inductive StripeRes where
  | ok (data : List (List Byte)) (erased : Nat)
  | fail (st : Nat)
  | again
  | wait
  deriving DecidableEq, Repr

/-- The recovery matrix of R69: rows of the erased members over the columns parity rows J, then data members. -/
def State.recovery (s : State) (region : Nat) (js cols er : List Nat) : Option (List (List Byte)) :=
  let b := js.map (fun j => er.map (fun i => s.coef region j i))
  let n := js.length
  let a := js.zipIdx.map (fun p => (List.range n).map (fun c => if c = p.2 then 1#8 else 0#8) ++ cols.map (fun i => s.coef region p.1 i))
  gfSolve n b a

/-- Decode from the selected members' answers: all data tiles of the stripe (R69). -/
def State.solveStripe (s : State) (op : Option Nat) (region : Nat) (me : Region) (sh : Sheaf) (t : Nat) (sel : List Nat)
    (c : Tab MemRd) : StripeRes × State :=
  let val := fun i => match c.get i with
    | some (.data v _) => v
    | _ => zeros 4096
  let known := (List.range sh.k).filter (fun i => sh.virtual i t || sel.contains i)
  let er := (List.range sh.k).filter (fun i => !known.contains i)
  if er.isEmpty then (.ok ((List.range sh.k).map val) 0, s) else
  let js := (sel.filter (fun i => decide (sh.k ≤ i))).map (· - sh.k)
  match s.recovery region js known er with
  | none => (.fail stUnrecoverable, s)
  | some m =>
    let d : DecSlot := { region := region, epoch := me.epoch, mask := (js.map (fun j => 2 ^ (sh.k + j))).sum + (known.map (2 ^ ·)).sum
                         gen := (s.rowSlot region).gen, erased := er, cols := js.map (· + sh.k) ++ known, matrix := m, refs := []
                         last := 0, stale := false }
    let vs := d.cols.map val
    let rec1 := m.map (fun row => (row.zip vs).foldl (fun acc q => xorBytes acc (gfScale q.1 q.2)) (zeros 4096))
    (.ok ((List.range sh.k).map (fun i => match er.idxOf? i with
      | some p => rec1.getD p (zeros 4096)
      | none => val i)) er.length, s.useSlot op d)

/-- The answers that end an operation: PATH_FAILED or CHECK_FAIL from a data member (R211). -/
def MemRd.ends : MemRd → Option Nat
  | .refused st => if st = stPathFailed ∨ st = stCheckFail then some st else none
  | _ => none
/-- Did the member answer with data? -/
def MemRd.isData : MemRd → Bool
  | .data _ _ => true
  | _ => false
/-- The STEP of an answer. -/
def MemRd.step? : MemRd → Option Nat
  | .data _ n => some n
  | _ => none
/-- Are all the numbers equal? -/
def allEqual : List Nat → Bool
  | [] => true
  | a :: l => l.all (fun b => b == a)

/-- Count the reselections that members cause, each member once for a unit of an operation (R211, R232). -/
def State.reselect (s : State) (op : Option Nat) (t : Nat) (bad : List Nat) : State :=
  match op with
  | none => s.bumpBy (rbldCnt 3) bad.length
  | some id =>
    let is := fun (g : Got) => g.stripe == t && bad.contains g.member && !g.noted
    let n := ((s.op? id).map (fun o => (o.got.filter is).length)).getD 0
    (s.modOp id (fun o => { o with got := o.got.map (fun g => if is g then { g with noted := true } else g) })).bumpBy (rbldCnt 3) n
/-- Did the last parity answer of a unit arrive within 500,000 SCLK of its first data READ (R210)? -/
def State.inTime (s : State) (op : Option Nat) (t : Nat) (dsel psel : List Nat) : Bool :=
  match op.bind s.op? with
  | none => true
  | some o =>
    let of := fun (l : List Nat) => o.got.filter (fun g => g.stripe == t && l.contains g.member)
    match ((of dsel).map (·.sent)).min?, ((of psel).map (·.done)).max? with
    | some a, some b => decide (b ≤ a + 500000)
    | _, _ => true

/-- Read and decode stripe t in view CONFIRMED from the members of `order` but the excluded ones (R210, R211): the selected
data members first, then the parity members; a member that does not answer is left out and the selection made again. -/
def State.readStripe (s : State) (ext : Ext) (op : Option Nat) (cls region sheaf : Nat) (me : Region) (sh : Sheaf) (t : Nat)
    (order : List Nat) : Nat → List Nat → Tab MemRd → StripeRes × State
  | 0, _, _ => (.fail stUnrecoverable, s)
  | fuel + 1, excl, cache =>
    let cands := order.filter (fun i => !excl.contains i)
    let need := sh.k - ((List.range sh.k).filter (fun i => sh.virtual i t)).length
    if cands.length < need then (.fail stUnrecoverable, s) else
    let sel := cands.take need
    let dsel := sel.filter (fun i => decide (i < sh.k))
    let psel := sel.filter (fun i => decide (sh.k ≤ i))
    let q := s.readMembers ext op cls sheaf sh me t dsel cache
    let dres := dsel.filterMap (fun i => q.1.get i)
    if dres.any (fun x => x == .wait) then (.wait, q.2) else
    match dres.findSome? MemRd.ends with
    | some st => (.fail st, q.2)
    | none =>
      let isBad := fun (c : Tab MemRd) i => !(((c.get i).map MemRd.isData).getD false)
      let bad := dsel.filter (isBad q.1)
      if !bad.isEmpty then
        (q.2.reselect op t bad).readStripe ext op cls region sheaf me sh t order fuel (excl ++ bad) q.1
      else
        let p := q.2.readMembers ext op cls sheaf sh me t psel q.1
        if (psel.filterMap (fun i => p.1.get i)).any (fun x => x == .wait) then (.wait, p.2) else
        let badp := psel.filter (isBad p.1)
        if !badp.isEmpty then
          (p.2.reselect op t badp).readStripe ext op cls region sheaf me sh t order fuel (excl ++ badp) q.1
        else if !allEqual (sel.filterMap (fun i => (p.1.get i).bind MemRd.step?)) || !p.2.inTime op t dsel psel then (.again, p.2)
        else p.2.solveStripe op region me sh t sel p.1

/-- Decode every data tile of stripe t without the excluded members. -/
def State.decodeStripe (s : State) (ext : Ext) (op : Option Nat) (cls region : Nat) (r : Region) (sh : Sheaf) (t : Nat)
    (order excl : List Nat) : StripeRes × State :=
  s.readStripe ext op cls region r.sheaf r sh t order (sh.members.length + 1) excl []

/-- What the decode or build of one tile gives. -/
inductive TileRes where
  | tile (v : List Byte) (decoded : Bool)
  | fail (st : Nat)
  | again
  | wait
  deriving DecidableEq, Repr

/-- A member's tile decoded without it: a data tile, or a parity tile encoded again (R209). -/
def State.targetTile (s : State) (ext : Ext) (op : Option Nat) (cls region : Nat) (r : Region) (sh : Sheaf) (target t : Nat) :
    TileRes × State :=
  if sh.virtual target t then (.tile (zeros 4096) false, s) else
  match s.decodeStripe ext op cls region r sh t (sh.candidates t) [target] with
  | (.ok data _, s1) =>
    if target < sh.k then (.tile (data.getD target (zeros 4096)) true, s1)
    else (.tile (s1.encodeRow region (target - sh.k) data) true, s1)
  | (.fail st, s1) => (.fail st, s1)
  | (.again, s1) => (.again, s1)
  | (.wait, s1) => (.wait, s1)

/-- The built value of tile t of a region at its member index (R216). -/
def State.buildValue (s : State) (ext : Ext) (op : Option Nat) (cls j : Nat) (r : Region) (sh : Sheaf) (t : Nat) : TileRes × State :=
  if r.member < sh.k then s.targetTile ext op cls j r sh r.member t
  else match s.decodeStripe ext op cls j r sh t (sh.dataFirst t) [r.member] with
    | (.ok data e, s1) =>
      (match s1.xorTiles ext (s.confirmedBanks r t) (s1.encodeRow j (r.member - sh.k) data) with
       | (some v, s2) => (.tile v (decide (0 < e)), s2)
       | (none, s2) => (.fail stUnrecoverable, s2))
    | (.fail st, s1) => (.fail st, s1)
    | (.again, s1) => (.again, s1)
    | (.wait, s1) => (.wait, s1)

/-- The acceptance of a build write: the tile and its line, the built bit, both digests, and the rebuild holds (R216). -/
def State.acceptBuild (s : State) (j t : Nat) (v : List Byte) : State :=
  match s.regions.get j with
  | none => s
  | some r =>
    let add := crc64 v * r.weight t
    let s1 := (s.putTile r t v).modRegion j (fun r => { r with
      built := r.built.set t (), builds := r.builds.del t, digest := r.digest + add, rebuildDigest := r.rebuildDigest + add })
    let held := s1.tap.held.map (fun (h : Held) => if h.region = j && h.tile == t then { h with build := false } else h)
    { s1 with tap := { s1.tap with held := held } }

/-! ## Repair and guarded reads (R312 to R315) -/

/-- The value that the sheaf gives for an uncorrectable tile (Table 10-4), and the state after its reads. -/
def State.repairValue (s : State) (ext : Ext) (j : Nat) (r : Region) (t : Nat) : Option (List Byte) × State :=
  match s.sheafOf r with
  | none => (none, s)
  | some sh =>
    if r.role = .parityHome then
      match s.buildValue ext none 0 j r sh t with
      | (.tile v _, s1) => (some v, s1)
      | (_, s1) => (none, s1)
    else if s.setLive r.set && !r.log then (none, s)
    else match s.targetTile ext none 0 j r sh r.member t with
      | (.tile v _, s1) => s1.xorTiles ext (s.liveLogs r t) v
      | (_, s1) => (none, s1)

/-- Read region tile t through page guard, with repair from the sheaf where the guard fails (R311, R314, R315); none when it
stays uncorrectable. -/
def State.readTile (s : State) (ext : Ext) (j : Nat) (r : Region) (t : Nat) : Option (List Byte) × State :=
  match s.readPlain ext j r t with
  | (some v, s1) => (some v, s1)
  | (none, s1) =>
    if r.state = .fostering && !r.built.has t then
      match s.sheafOf r with
      | none => (none, s1.giveUp j t)
      | some sh =>
        match s1.buildValue ext none 0 j r sh t with
        | (.tile v d, s2) => (some v, (s2.acceptBuild j t v).bumpBy (rbldCnt 0) (bit d))
        | (_, s2) => (none, s2.giveUp j t)
    else match s1.repairValue ext j r t with
      | (some v, s2) => (some v, (s2.repairTile j t r v).bump (guardCnt 3))
      | (none, s2) => (none, s2.giveUp j t)

/-- Read the tile that an apply or a merge changes: an unbuilt tile of a FOSTERING region whose guard fails is taken as stored, since its
build overwrites it (R216, R231). -/
def State.readApply (s : State) (ext : Ext) (j : Nat) (r : Region) (t : Nat) : Option (List Byte) × State :=
  if r.state = .fostering && !r.built.has t then
    match s.readPlain ext j r t with
    | (some v, s1) => (some v, s1)
    | (none, s1) => (some (s1.tileBytes r t), s1)
  else s.readTile ext j r t

/-- Read bytes [off, off + n) of a stack tile: through page guard and repair where its region has a guard or the controller flags one of
their sectors (R304, R311, R314). -/
def State.readPart (s : State) (ext : Ext) (tile off n : Nat) : Option (List Byte) × State :=
  let raw := s.tileRaw ext tile
  let hit := raw.2.any (fun i => overlap off n (64 * i) 64)
  match s.regionAt tile with
  | none => (if hit then none else some (slice raw.1 off n), s)
  | some (j, r) =>
    if r.strengthAt (tile - r.tileBase) = 0 && !hit then (some (slice raw.1 off n), s)
    else match s.readTile ext j r (tile - r.tileBase) with
      | (some v, s1) => (some (slice v off n), s1)
      | (none, s1) => (none, s1)
/-- Read `n` bytes of the stack from an offset, tile by tile. -/
def State.readStack (s : State) (ext : Ext) : Nat → Nat → Nat → Option (List Byte) × State
  | 0, _, _ => (some [], s)
  | k + 1, off, n =>
    if n = 0 then (some [], s) else
    let m := Nat.min n (4096 - off % 4096)
    match s.readPart ext (off / 4096) (off % 4096) m with
    | (none, s1) => (none, s1)
    | (some v, s1) =>
      match s1.readStack ext k (off + m) (n - m) with
      | (some w, s2) => (some (v ++ w), s2)
      | (none, s2) => (none, s2)
/-- A read of the engine's own of `n` bytes at a global address on a class (R336): in the own stack through page guard (R305, R311),
elsewhere issued at the fabric port and answered as the answers list. -/
def State.readAt (s : State) (ext : Ext) (a n cls : Nat) : Rd × State :=
  if s.inStack a n then
    match s.readStack ext (n / 4096 + 2) (gOff a) n with
    | (some v, s1) => (.data v, s1)
    | (none, s1) => (.error, s1)
  else (s.fetch ext a n, s.send (.read a n cls (s.routeTo a)))

/-- A view of a local tile as READ service gives it, with inline repair (R202, row 10 of Table 7-3). -/
def State.viewTile (s : State) (ext : Ext) (j : Nat) (r : Region) (view t : Nat) : Option (List Byte) × State :=
  match s.readTile ext j r t with
  | (none, s1) => (none, s1)
  | (some v, s1) =>
    if view ≠ 1 then (some v, s1)
    else if r.role = .parityHome then s1.xorTiles ext (s.confirmedBanks r t) v
    else s1.xorTiles ext (s.liveLogs r t) v

/-- May the C0 reads of a stripe be charged now: do the buckets of the remote members of the present selection hold 4,096 B
each (R364)? -/
def State.c0Ready (s : State) (sh : Sheaf) (t : Nat) (excl : List Nat) : Bool :=
  let need := sh.k - ((List.range sh.k).filter (fun i => sh.virtual i t)).length
  let sel := ((sh.candidates t).filter (fun i => !excl.contains i)).take need
  (sel.filterMap sh.mem?).all (fun x => s.isLocal x || s.bucketOk (dstKey x.node x.agent) 4096)
/-- Fill the buckets of the members of a selection to the present. -/
def State.c0Touch (s : State) (sh : Sheaf) : State :=
  sh.members.foldl (fun t x => if s.isLocal x || !x.alive then t else t.putBucket (t.bucketNow (dstKey x.node x.agent))) s

end Sys2Proof.Machine
end

