-- ==== Sys2Proof/Machine/Capture.lean ====
section
/-! DEFINITION. The write tap's operations (chapter 4): holds, pairing, capture, the delta log, the dirty map, the norm, tile-delta
slots and hand-off, with the copy-before-write, rebuild, quiet and restore rules that meet a held write. -/

namespace Sys2Proof.Machine

/-! ## Slots of the coding partition (R118, R119) -/

/-- Buffers that a tile delta takes: its slot, and a second one for a log base (R123). -/
def Delta.weight (d : Delta) : Nat := 1 + bit (d.readback || d.base.isSome)
/-- Free slots of the coding partition, which opcodes' buffers share (R330). -/
def State.codeFree (s : State) : Nat :=
  32 * s.partCode - (s.tap.slots.vals.map Delta.weight).sum - ((s.ops.filter (fun o => o.part == 0)).map (·.bufs)).sum
/-- The lowest free slot number. -/
def State.slotFree (s : State) : Nat := (s.tap.slots.free (32 * s.partCode + 1)).getD 0
/-- Change a tile delta. -/
def State.modDelta (s : State) (k : Nat) (f : Delta → Delta) : State := { s with tap := { s.tap with slots := s.tap.slots.upd k f } }
/-- Change a held write. -/
def State.modHeld (s : State) (id : Nat) (f : Held → Held) : State :=
  { s with tap := { s.tap with held := s.tap.held.map (fun h => if h.id = id then f h else h) } }
/-- Take a held write out. -/
def State.dropHeld (s : State) (id : Nat) : State := { s with tap := { s.tap with held := s.tap.held.filter (fun h => h.id != id) } }

/-! ## Holds (R109, R182, R203, R229, R244, R246, R259) -/

/-- Does a STEP_OPEN that waits for the open slots stop a new slot for a region of set k (R182)? -/
def State.openWaits (s : State) (k : Nat) : Bool :=
  s.ops.any (fun o => o.opcode == 0x10 && o.stage == .waitSlot && bitAt (o.arg 16 8) k)
/-- Does a SNAP_CUT before its freeze edge stop a new slot of region j (R244)? -/
def State.cutWaits (s : State) (j : Nat) : Bool :=
  match s.snap.cut with
  | some c => c.frozen.isNone && c.regions.contains j
  | none => false
/-- Does a DEVICE cut that waits for stillness hold a write that arrived after its start (R246)? -/
def State.deviceWaits (s : State) (h : Held) : Bool :=
  match s.snap.cut with
  | some c => c.frozen.isNone && c.scope == 2 && decide (c.held ≤ h.id)
  | none => false
/-- Note keys from which SNAP_RESTORE keeps its target regions. -/
def nkTargets : Nat := 1000
/-- Is region j a target of a running SNAP_RESTORE (R259)? -/
def State.restoring (s : State) (j : Nat) : Bool :=
  s.ops.any (fun o => o.opcode == 0x42 && o.started && o.stage == .walking &&
    o.note.any (fun p => decide (nkTargets ≤ p.1) && p.2 == j))
/-- The next tile that the REGION_SETUP of region j reads; its TILE_COUNT when none runs. -/
def State.setupPos (s : State) (j : Nat) (r : Region) : Nat :=
  match s.ops.find? (fun o => o.opcode == 0x01 && o.note.get nkRegion == some j) with
  | some o => if r.state = .setup then o.cursor else r.tileCount
  | none => r.tileCount

/-- The 64-byte sectors that `n` bytes at offset `off` of a tile touch. -/
def sectorMask (off n : Nat) : BitVec 64 :=
  (List.range 64).foldl (fun m i => if overlap off n (64 * i) 64 then m ||| (1#64 <<< i) else m) 0#64
/-- Every sector. -/
def allSectors : BitVec 64 := BitVec.allOnes 64
/-- A tile with masked bytes written at an offset. -/
def maskInto (tile : List Byte) (off : Nat) (data : List (Option Byte)) : List Byte :=
  tile.take off ++ masked (tile.drop off) data ++ tile.drop (off + data.length)
/-- `new` in the sectors of a mask, `old` elsewhere. -/
def bySector (m : BitVec 64) (new old : List Byte) : List Byte :=
  (List.range 64).flatMap (fun i => if m.getLsbD i then slice new (64 * i) 64 else slice old (64 * i) 64)
/-- The bytes of the sectors of a mask. -/
def sectorsOf (m : BitVec 64) (v : List Byte) : List Byte :=
  (List.range 64).flatMap (fun i => if m.getLsbD i then slice v (64 * i) 64 else [])

/-- Does a write of an operation's own wait at the tap? -/
def State.engineHeld (s : State) (op : Nat) : Bool := s.tap.held.any (fun h => h.op == some op) || s.tap.queue.any (fun q => q.op == some op)

/-! ## Release (R113, R114, R224, R309) -/

/-- Perform a write to region tile t, whose contents become v, of the whole tile or a part of it: memory, guard line, pairing entry,
stale optimizer reads and the migration map's bit. -/
def State.release (s : State) (j t : Nat) (r : Region) (whole : Bool) (v : List Byte) : State :=
  let tile := r.tileBase + t
  let s1 := if whole then s.putTile r t v else s.putPart r t v
  let inflight := s1.tap.inflight.map (fun (q : Inflight) => if q.tile = tile then { q with stale := true } else q)
  let s2 := { s1 with tap := { s1.tap with inflight := inflight } }
  if r.mig.isSome then
    s2.modRegion j (fun r => { r with mig := r.mig.map (fun m => { m with clear := m.clear.del (t / 16) }) })
  else s2

/-- The error response for a write that is not performed: to its agent, or noted in the operation of the engine whose own write it
is. -/
def State.writeError (s : State) (agent : Nat) (op : Option Nat) (tile : Nat) : State :=
  if agent = engineAgent then
    match op with
    | some id => s.modOp id (fun o => o.keep nkErrors (o.n nkErrors + 1))
    | none => s
  else s.send (.agentError agent tile)
/-- A held part that is not performed: the error response for its sectors, and the memory unchanged. -/
def State.refuseWrite (s : State) (h : Held) (tile : Nat) : State := (s.dropHeld h.id).writeError h.agent h.op tile

/-- A restore write (R107): memory, line, pairing entry and the region digest, which moves from the tile as it stood. -/
def State.restoreTile (s : State) (j t : Nat) (r : Region) (v : List Byte) : State :=
  let old := s.tileBytes r t
  (s.release j t r true v).modRegion j (fun r => { r with digest := digestStep r.digest (r.weight t) old v })

/-- The engine's own write of committed parity tile t (R127). -/
def State.putParity (s : State) (j t : Nat) (r : Region) (v : List Byte) : State := s.restoreTile j t r v

/-! ## The dirty map and the tracker (R122, R125, R126) -/

/-- The dirty-map entry of granule g of a region. -/
def State.dirtyAt (s : State) (r : Region) (g : Nat) : Nat :=
  match r.dirtyBase with
  | some b => (s.tap.dirty.get (b + g)).getD 0
  | none => 0
/-- Set a dirty-map entry; CLEAN is not listed. -/
def State.setDirty (s : State) (r : Region) (g v : Nat) : State :=
  match r.dirtyBase with
  | some b => { s with tap := { s.tap with dirty := if v = 0 then s.tap.dirty.del (b + g) else s.tap.dirty.set (b + g) v } }
  | none => s
/-- Is tile t known unwritten in step n (R122)? -/
def State.knownUnwritten (s : State) (j t n : Nat) (r : Region) : Bool :=
  s.dirtyAt r (t / 16) != n % 3 + 1 ||
  s.tap.tracker.any (fun e => e.region == j && e.granule == t / 16 && !bitAt e.mask (t % 16))
/-- Note a write of tile t in the tracker of 4,096 entries, most recently used last. A missing entry is made only on the first write
to its granule in the step (R122). -/
def State.track (s : State) (j t : Nat) (first : Bool) : State :=
  let g := t / 16
  let is := fun (e : Track) => e.region == j && e.granule == g
  let put := fun (mask : Nat) =>
    let rest := s.tap.tracker.filter (fun e => !is e)
    let rest' := if 4096 ≤ rest.length then rest.drop 1 else rest
    { s with tap := { s.tap with tracker := rest' ++ [⟨j, g, mask ||| 2 ^ (t % 16)⟩] } }
  match s.tap.tracker.find? is with
  | some e => put e.mask
  | none => if first then put 0 else s

/-! ## The exact norm (R128 to R131) -/

/-- Key of a norm accumulator: region and step slot. -/
def normKey (j n : Nat) : Nat := 3 * j + n % 3
/-- Add a sum of squares and a count of non-finite elements to an accumulator. -/
def State.addNorm (s : State) (j n : Nat) (x : Nat × Nat) : State :=
  if x = (0, 0) then s else
  let a := (s.tap.norm.get (normKey j n)).getD ⟨0#640, 0#32, false⟩
  let sum := a.a.toNat + x.1
  let a' : Norm := ⟨BitVec.ofNat 640 sum, a.nonfin + BitVec.ofNat 32 x.2, a.ovf || decide (2 ^ 640 ≤ sum)⟩
  { s with tap := { s.tap with norm := s.tap.norm.set (normKey j n) a' } }
/-- The contribution of captured sectors in a format without shared scales (R130); extension-plane tiles of FP40 add
nothing. -/
def plainNorm (f : Fmt) (t : Nat) (old new : List Byte) : Nat × Nat :=
  let go := fun w val => normSum (plainElems w val old) (plainElems w val new)
  match f with
  | .fp32 => go 4 fp32Val
  | .bf16 => go 2 bf16Val
  | .fp16 => go 2 fp16Val
  | .fp8e4m3 => go 1 (fun v => (e4m3Units v).map (· * 2 ^ 140))
  | .fp8e5m2 => go 1 (fun v => (e5m2Units v).map (· * 2 ^ 133))
  | .fp40 => if t % 5 = 4 then (0, 0) else go 4 fp32Val
  | _ => (0, 0)
/-- The MX format of a FORMAT. -/
def Fmt.mx : Fmt → Option MxFmt
  | .mxfp8e4m3 => some mxE4m3 | .mxfp8e5m2 => some mxE5m2 | .mxfp6e2m3 => some mxE2m3 | .mxfp6e3m2 => some mxE3m2
  | .mxfp4 => some mxE2m1 | _ => none
/-- The contribution of a whole tile in an MX format (R131). -/
def mxNorm (f : Fmt) (old new : List Byte) : Nat × Nat :=
  match f.mx with
  | some m => normSum (m.elems old) (m.elems new)
  | none => (0, 0)

/-! ## Close and hand-off (R118, R127, R181, R369, R370) -/

/-- Is a region a data member of a sheaf, whose deltas go to parity? -/
def State.codes (s : State) (r : Region) : Bool :=
  r.role.captured && (match s.sheafOf r with | some sh => decide (r.member < sh.k) | none => false)

/-- Is a reference to a tile and step parked? -/
def State.parked (s : State) (j t n : Nat) : Bool := s.tap.park.any (fun p => p.region == j && p.tile == t && p.step == n)

/-- The Δ that a slot still has to carry: what it took since a re-read of the log took its earlier part along (R370). -/
def Delta.rest (d : Delta) : List Byte :=
  match d.carried with
  | some c => xorBytes d.delta c
  | none => d.delta

/-- Hand a closed slot's tile delta off to coding: its marking (R181), its rows' generation and reference (R141, R345), its
place in hand-off order. It is absorbed while a reference to its tile and step is parked, or when a re-read took all of it
along (R370). -/
def State.handOff (s : State) (k : Nat) : State :=
  match s.tap.slots.get k with
  | none => s
  | some d =>
    match s.regions.get d.region with
    | none => s.freeSlot k
    | some r =>
      let marked := if r.log then d.step else none
      let absorbed := match marked with
        | some n => s.parked d.region d.tile n || d.carried == some d.delta
        | none => false
      if absorbed then (s.freeSlot k).bump (clsCnt 6) else
      let slot := s.rowSlot d.region
      let slot' := if slot.act = 0 then { slot with ref0 := slot.ref0 + 1 } else { slot with ref1 := slot.ref1 + 1 }
      let s1 := { s with tables := { s.tables with rows := s.tables.rows.set d.region slot' }
                         tap := { s.tap with nextId := s.tap.nextId + 1 }
                         power := { s.power with workIn := s.power.workIn + 64 } }
      s1.modDelta k (fun d => { d with
        waiting := true, delta := d.rest, carried := none, bank := (match marked with | some n => s.bankOf r n | none => 3)
        stepNo := marked.getD r.confirmed, gen := slot.gen, tbank := slot.act, order := s.tap.nextId, base := none, readback := false })

/-- Region tile t as it stands once the captured write that still waits for its other holds is performed (R109). -/
def State.tileCaptured (s : State) (j t : Nat) (r : Region) : List Byte :=
  (s.tap.held.filter (fun h => h.region == j && h.tile == t && h.cap == .captured)).foldl (fun v h => maskInto v h.off h.data)
    (s.tileBytes r t)

/-- What a slot that has closed with its whole new tile known does: digest (R127), MX norm (R131), hand-off or release. -/
def State.slotClosed (s : State) (k : Nat) : State :=
  match s.tap.slots.get k with
  | none => s
  | some d =>
    match s.regions.get d.region with
    | none => s.freeSlot k
    | some r =>
      let new := s.tileCaptured d.region d.tile r
      let old := xorBytes new d.delta
      let s1 := s.modRegion d.region (fun r => { r with digest := digestStep r.digest (r.weight d.tile) old new })
      let s2 := match d.step with
        | some n => if r.norm && r.role.captured && !d.discard then s1.addNorm d.region n (mxNorm r.format old new) else s1
        | none => s1
      if d.discard || !s.codes r then s2.freeSlot k else s2.handOff k

/-- Close a slot (R118): with every sector written at once, otherwise after a completion read. A slot that a held write still
fills does not close yet. -/
def State.closeSlot (s : State) (k : Nat) : State :=
  match s.tap.slots.get k with
  | none => s
  | some d =>
    if d.closed || s.tap.held.any (fun h => h.slot == some k) then s else
    let s1 := s.modDelta k (fun d => { d with closed := true })
    if d.written = allSectors then s1.slotClosed k else s1.bump (tapCnt 6)

/-- The open slot of a tile. -/
def State.slotOf (s : State) (j t : Nat) : Option (Nat × Delta) :=
  s.tap.slots.find? (fun p => p.2.region == j && p.2.tile == t && !p.2.closed)
/-- Does a closed slot of the tile still wait for its completion read? -/
def State.completing (s : State) (j t : Nat) : Bool :=
  s.tap.slots.any (fun p => p.2.region == j && p.2.tile == t && p.2.closed && !p.2.waiting && p.2.msgs == 0)

/-! ## Capture of a held write (R109, R116 to R123, R129) -/

/-- The log write of a captured in-step write (R123): base ⊕ Δ in the written sectors of the slot's log tile. -/
def State.logWrite (s : State) (r : Region) (d : Delta) (m : BitVec 64) : State :=
  match d.step with
  | none => s
  | some n =>
    match s.logTile r (s.bankOf r n) d.tile with
    | none => s
    | some (_, q, lt) =>
      let v := match d.base with
        | some b => xorBytes d.delta b
        | none => d.delta
      s.putTile q lt (bySector m v (s.tileBytes q lt))

/-- The capture of a held write into slot k (R109): Δ joins the slot; the log write, the dirty map, the tracker and the norm follow, and
its capture hold is lifted; a slot whose every sector is written closes. -/
def State.takeDelta (s : State) (h : Held) (k : Nat) (r : Region) : State :=
  let old := s.tileBytes r h.tile
  let new := maskInto old h.off h.data
  let m := sectorMask h.off h.data.length
  let s1 := s.modDelta k (fun d => { d with delta := xorBytes d.delta (xorBytes old new), written := d.written ||| m })
  let s2 := match h.inStep, s1.tap.slots.get k with
    | some n, some d =>
      if r.role.captured then
        let first := s.dirtyAt r (h.tile / 16) != n % 3 + 1
        let a := ((if r.log then s1.logWrite r d m else s1).setDirty r (h.tile / 16) (n % 3 + 1)).track h.region h.tile first
        if r.norm && !d.discard then a.addNorm h.region n (plainNorm r.format h.tile (sectorsOf m old) (sectorsOf m new)) else a
      else s1
    | _, _ => s1
  let s3 := s2.modHeld h.id (fun h => { h with cap := .captured, slot := none })
  match s3.tap.slots.get k with
  | some d => if d.written = allSectors then s3.closeSlot k else s3
  | none => s3

/-- A new open slot for a held write; one whose step has been rolled back since is discarded at its close (R195). -/
def Held.newDelta (h : Held) (now : Nat) (readback discard : Bool) : Delta :=
  { region := h.region, tile := h.tile, delta := zeros 4096, written := 0#64, opened := now, step := h.inStep, base := none
    readback := readback, closed := false, discard := discard, waiting := false, bank := 3, stepNo := 0, gen := 0, tbank := 0
    msgs := 0, order := 0, noted := false, settle := false, carried := none }

/-- Is step n of a set rolled back or confirmed, that is, no longer live? -/
def State.stepGone (s : State) (k n : Nat) : Bool := !((s.setTab k).live.any (fun p => p.1 == n))

/-- Is a captured write one that would be sent with BANK 3 (R181, R203)? -/
def State.committed (s : State) (h : Held) (r : Region) : Bool := s.codes r && !(h.inStep.isSome && r.log)
/-- A write that a quiet region does not perform (R203). -/
def State.quietRefuse (s : State) (h : Held) (r : Region) : State :=
  ((s.refuseWrite h (r.tileBase + h.tile)).bump (rbldCnt 4)).event 72 (infoA h.region h.tile)

/-- The log tile of a held in-step write, when copy-before-write holds it (R245, R248). -/
def State.logHeld (s : State) (h : Held) (r : Region) : Option (Nat × Nat) :=
  match h.inStep.bind (fun n => if r.log then s.logTile r (s.bankOf r n) h.tile else none) with
  | some (j, _, t) => if s.cbwHolds j t then some (j, t) else none
  | none => none
/-- A capture that waits for the copy of a tile that the engine writes for it: none when the copy has been asked for. -/
def State.askOnce (s : State) (j t : Nat) : Option State :=
  if s.snap.waits.has (waitKey j t) && (s.cbwAsk j t).snap.copies.length == s.snap.copies.length then none else some (s.cbwEngine j t)

/-- A held write whose old values are known meets its slot (R118, R119, R123, R182, R203, R244). none: it still waits. -/
def State.meetSlot (s : State) (h : Held) (r : Region) : Option State :=
  if s.committed h r && r.quiet.isSome then some (s.quietRefuse h r) else
  match s.logHeld h r with
  | some p => s.askOnce p.1 p.2
  | none =>
  match s.slotOf h.region h.tile with
  | some (k, d) =>
    if d.step = h.inStep then some (s.takeDelta h k r)
    else if s.tap.held.any (fun x => x.slot == some k) then none
    else some (s.closeSlot k)
  | none =>
    if s.completing h.region h.tile || s.openWaits r.set || s.cutWaits h.region then none else
    let due := r.role.captured && r.log && r.logBlock.isSome
    let back := match h.inStep with
      | some n => due && !s.knownUnwritten h.region h.tile n r
      | none => false
    if s.codeFree < 1 + bit back then none else
    let k := s.slotFree
    let gone := (h.inStep.map (s.stepGone r.set)).getD false
    let s1 := { s with tap := { s.tap with slots := s.tap.slots.set k (h.newDelta s.now back gone) } }
    if back then some ((s1.modHeld h.id (fun h => { h with cap := .logRead, slot := some k })).bump (tapCnt 5))
    else some (s1.takeDelta h k r)

/-- The sectors of a write whose old value its pairing entry holds (R116). -/
def State.pairedSectors (s : State) (h : Held) (tile : Nat) : BitVec 64 :=
  match s.tap.pairs.get tile with
  | some e => if bitAt (s.regN 0x0110) h.agent then e.valid &&& sectorMask h.off h.data.length else 0#64
  | none => 0#64

/-- Begin the capture of a held write: quiet refusal (R203), pairing, and the own read where a sector lacks its old value. -/
def State.beginCapture (s : State) (h : Held) (r : Region) : State :=
  let tile := r.tileBase + h.tile
  if s.committed h r && r.quiet.isSome then s.quietRefuse h r
  else
    let p := s.pairedSectors h tile
    let need := sectorMask h.off h.data.length &&& ~~~p
    let pairs0 := s.tap.pairs.upd tile (fun e => { e with paired := e.paired ||| p })
    let pairs := pairs0.filter (fun q => !(q.1 == tile && q.2.valid &&& ~~~q.2.paired == 0#64))
    let s1 := ({ s with tap := { s.tap with pairs := pairs } }).bumpBy (tapCnt 0) (popcount p)
    s1.modHeld h.id (fun h => { h with need := need, cap := if need = 0#64 then .waitSlot else .ownRead })

/-- Perform a held write to a region whose writes form no Δ (TEDDER_OUT, or a region whose setup has not read the tile):
the sector reads of Table 10-2 are counted. -/
def State.plainRelease (s : State) (h : Held) (r : Region) : State :=
  let m := sectorMask h.off h.data.length
  let s1 := if 0 < r.strengthAt h.tile && m != allSectors then s.bumpBy (guardCnt 5) (popcount m) else s
  (s1.release h.region h.tile r (m == allSectors) (maskInto (s.tileBytes r h.tile) h.off h.data)).dropHeld h.id

/-- Is a write the earliest held for its tile (R109)? -/
def State.firstHeld (s : State) (h : Held) : Bool :=
  ((s.tap.held.find? (fun x => x.region == h.region && x.tile == h.tile)).map (·.id)) == some h.id

/-- The region number of a held part that lies in no region; its `tile` is then a stack tile. -/
def looseRegion : Nat := 256

/-- Does a hold other than the capture's and copy-before-write's keep a held write from going on: a rebuild hold, a DEVICE cut, a frozen
migration source, or an earlier write to its tile (R109, R217, R229, R246)? -/
def State.stays (s : State) (h : Held) (r : Region) : Bool :=
  h.build || s.deviceWaits h || ((r.mig.map (·.frozen)).getD false) || !s.firstHeld h

/-- One move of the capture of a held write; none while it waits. -/
def State.moveCapture (s : State) (h : Held) (r : Region) : Option State :=
  if s.stays h r then none
  else match h.cap with
    | .waitTurn => some (s.beginCapture h r)
    | .waitSlot => s.meetSlot h r
    | .none => none
    | .ownRead => none
    | .logRead => none
    | .captured => none

/-- One move of a held write; none while it waits. Its capture goes on beside a copy-before-write hold, which is counted and timed
(R109, R248); a target of a SNAP_RESTORE refuses it (R259). -/
def State.moveHeld (s : State) (h : Held) : Option State :=
  match s.regions.get h.region with
  | none => none
  | some r =>
    if h.agent != engineAgent && h.cap != .captured && h.cap != .logRead && s.restoring h.region then
      some ((s.refuseWrite h (r.tileBase + h.tile)).bump (snapCnt 6))
    else if s.cbwHolds h.region h.tile then
      match h.cbw with
      | some _ =>
        let s1 := s.cbwAsk h.region h.tile
        if s1.snap.copies.length = s.snap.copies.length then s.moveCapture h r else some s1
      | none => some (((s.cbwAsk h.region h.tile).bump (snapCnt 0)).modHeld h.id (fun h => { h with cbw := some s.now }))
    else match h.cbw with
      | some since => some ((s.bumpBy (snapCnt 1) (s.now - since)).modHeld h.id (fun h => { h with cbw := none }))
      | none => s.moveCapture h r

/-- Is every hold on a part of a write lifted? A part in no region has none. -/
def State.partReady (s : State) (h : Held) : Bool :=
  match s.regions.get h.region with
  | none => s.firstHeld h
  | some r => (h.cap == .none || h.cap == .captured) && !s.cbwHolds h.region h.tile && h.cbw.isNone && !s.stays h r
/-- Perform a part of a write. -/
def State.releasePart (s : State) (h : Held) : State :=
  match s.regions.get h.region with
  | none => (if h.region = looseRegion then s.writeLoose (h.tile * 4096 + h.off) h.data else s).dropHeld h.id
  | some r =>
    if h.cap = .none then s.plainRelease h r
    else (s.release h.region h.tile r (sectorMask h.off h.data.length == allSectors)
      (maskInto (s.tileBytes r h.tile) h.off h.data)).dropHeld h.id
/-- A write whose every part is ready is released (R108, R109). -/
def State.releaseMove (s : State) : Option State :=
  match s.tap.held.find? (fun h => s.tap.held.all (fun x => x.gid != h.gid || s.partReady x)) with
  | some h => some ((s.tap.held.filter (fun x => x.gid == h.gid)).foldl State.releasePart s)
  | none => none

/-! ## Arrival (R17, R18, R49, R105, R106, R108, R217, R259) -/

/-- A part of a write in one tile: the stack tile, the offset in it, the bytes. -/
def splitWrite : Nat → Nat → List (Option Byte) → List (Nat × Nat × List (Option Byte))
  | 0, _, _ => []
  | n + 1, a, v => if v.isEmpty then [] else
      let room := 4096 - a % 4096
      (a / 4096, a % 4096, v.take room) :: splitWrite n (a + room) (v.drop room)

/-- One tile's part of an arriving write to region j. A role that only the engine writes refuses any other agent (R49), a region in
RELEASING refuses every write (R395), and a target of a SNAP_RESTORE refuses other agents (R259). -/
def State.arrivePart (s : State) (gid : Nat) (q : Queued) (j : Nat) (r : Region) (t off : Nat) (v : List (Option Byte)) : State :=
  let tile := r.tileBase + t
  let own := q.agent == engineAgent
  if (r.role.engineOnly && !own) || r.state == .releasing then ((s.writeError q.agent q.op tile).bump (faultCnt 1)).event 65 (infoA j t)
  else if !own && s.restoring j then (s.writeError q.agent q.op tile).bump (snapCnt 6)
  else
    let cap := (r.role.captured || r.role == .watch) && decide (t < s.setupPos j r)
    let build := r.state == .fostering && !r.built.has t
    let h : Held := { id := s.tap.nextId, gid := gid, agent := q.agent, op := q.op, region := j, tile := t, off := off, data := v
                      inStep := s.openStep r.set, need := 0#64, cap := if cap then .waitTurn else .none, slot := none, cbw := none
                      build := build }
    let s1 := { s with tap := { s.tap with held := s.tap.held ++ [h], nextId := s.tap.nextId + 1 } }
    if build && !r.builds.has t then (s1.modRegion j (fun r => { r with builds := r.builds.set t 0 })).bump (rbldCnt 1) else s1

/-- A part in no region, which waits for the parts that lie in one. -/
def State.arriveLoose (s : State) (gid : Nat) (q : Queued) (tile off : Nat) (v : List (Option Byte)) : State :=
  let h : Held := { id := s.tap.nextId, gid := gid, agent := q.agent, op := q.op, region := looseRegion, tile := tile, off := off, data := v
                    inStep := none, need := 0#64, cap := .none, slot := none, cbw := none, build := false }
  { s with tap := { s.tap with held := s.tap.held ++ [h], nextId := s.tap.nextId + 1 } }

/-- Every part of an arriving write. -/
def State.arriveParts (s : State) (gid : Nat) (q : Queued) : List (Nat × Nat × List (Option Byte)) → State
  | [] => s
  | (tile, off, v) :: l =>
    match s.regionAt tile with
    | none => (s.arriveLoose gid q tile off v).arriveParts gid q l
    | some (j, r) => (s.arrivePart gid q j r (tile - r.tileBase) off v).arriveParts gid q l

/-- Held writes: the parts of one write count once (R18). -/
def State.heldWrites (s : State) : Nat := ((s.tap.held.map (·.gid)).dedup).length

/-- Free the pairing entry of a stack tile at its expiry edge (R115). -/
def State.expirePair (s : State) (tile : Nat) : State :=
  match s.tap.pairs.get tile with
  | some e =>
    if e.edge + 1600 * s.rf 0x010C 0 10 ≤ s.boot.mclk.toNat then
      let s1 := { s with tap := { s.tap with pairs := s.tap.pairs.del tile } }
      if e.valid &&& ~~~e.paired = 0#64 then s1 else s1.bump (tapCnt 3)
    else s
  | none => s

/-- The parts of a queued write. -/
def Queued.parts (q : Queued) : List (Nat × Nat × List (Option Byte)) := splitWrite (q.data.length / 4096 + 2) q.off q.data
/-- With fewer than 32 writes held the tap takes the oldest write at its input (R18). -/
def State.admitMove (s : State) : Option State :=
  match s.tap.queue with
  | [] => none
  | q :: l =>
    if 32 ≤ s.heldWrites then none else
    let s1 := q.parts.foldl (fun t p => t.expirePair p.1) { s with tap := { s.tap with queue := l } }
    some (s1.arriveParts s1.tap.nextId q q.parts)

/-! ## The tap's moves -/

/-- One move of the tap: a repair write, a capture, a release, or the arrival of a write. -/
def State.tapMove (s : State) : Option State :=
  match s.repairMove with
  | some s1 => some s1
  | none =>
    match s.tap.held.findSome? s.moveHeld with
    | some s1 => some s1
    | none =>
      match s.releaseMove with
      | some s1 => some s1
      | none => s.admitMove

/-- Let the tap move until it cannot. -/
def State.settleTap : Nat → State → State
  | 0, s => s
  | n + 1, s =>
    match s.tapMove with
    | some s1 => State.settleTap n s1
    | none => s

/-- Moves that the tap can make at most. -/
def State.tapFuel (s : State) : Nat :=
  10 * (s.tap.held.length + (s.tap.queue.map (fun q => q.data.length / 4096 + 3)).sum + s.snap.repairs.length + 1)

end Sys2Proof.Machine
end

