-- ==== Sys2Proof/Machine/Settle.lean ====
section
/-! DEFINITION. What follows a command without one of its own: SEQs and parking (R139 to R141, R369 to R372), READ service and
held READs (R202 to R207, R224, R225), the ends of STEP_CLOSE, fences, STEP_CONFIRM and STEP_ROLLBACK (R163, R186 to R188,
R195). -/

namespace Sys2Proof.Machine

/-! ## SEQs (R139 to R141, R369) -/

/-- The send contexts of a region with their numbers. -/
def State.ctxsOf (s : State) (j : Nat) : List (Nat × SendCtx) := s.port.sctx.filter (fun p => p.2.region == j)
/-- Does the next SEQ of a context lie within 64 of its oldest unretired message (R140)? -/
def SendCtx.windowOpen (c : SendCtx) : Bool :=
  match c.msgs.head? with
  | some m => decide ((c.next + 2 ^ 32 - m.seq) % 2 ^ 32 < 64)
  | none => true
/-- May a context take another message now: its window is open and a C1 credit usable (R140, R369)? -/
def State.ctxTakes (s : State) (c : SendCtx) : Bool :=
  c.windowOpen && s.creditOk (s.level (gaddr c.node c.agent 0)) 1 1
/-- May the contexts of region j all take a message? -/
def State.ctxsTake (s : State) (j : Nat) : Bool := (s.ctxsOf j).all (fun p => s.ctxTakes p.2)
/-- Does no earlier delta of the region wait, parked or not? -/
def State.firstInRegion (s : State) (j order : Nat) : Bool :=
  s.tap.slots.vals.all (fun d => d.region != j || !d.waiting || decide (order ≤ d.order)) &&
  s.tap.park.all (fun p => p.region != j || decide (order ≤ p.order))

/-- The message of a delta for a context. -/
def Delta.msg (d : Delta) (k seq : Nat) (coef : Byte) : Msg :=
  { seq := seq, stripe := d.tile, bank := d.bank, step := d.stepNo, slot := k, coef := coef, gen := d.gen, st := .queued, tries := 0
    path := 0, onPath := 0, timeout := 0, first := 0, due := 0, handoff := d.order, settle := d.settle }

/-- Form the messages of the delta in slot k: one per context, with the next SEQ of each (R139, R141). -/
def State.formMsgs (s : State) (k : Nat) (d : Delta) : State :=
  let t := s.rowSlot d.region
  let block := if d.tbank = 0 then t.bank0 else t.bank1
  let i := ((s.regions.get d.region).map (·.member)).getD 0
  let cs := s.ctxsOf d.region
  let add := fun (c : SendCtx) =>
    if c.region = d.region then
      { c with next := (c.next + 1) % 2 ^ 32, msgs := c.msgs ++ [d.msg k c.next (rowAt block c.row i)] }
    else c
  let sctx := s.port.sctx.map (fun p => (p.1, add p.2))
  let formed := if d.bank = 3 then s.tap.formed else s.tap.formed ++ [(d.region, d.tile, d.stepNo)]
  let s1 := { s with port := { s.port with sctx := sctx }, tap := { s.tap with formed := formed } }
  if cs.isEmpty then s1.freeSlot k
  else (s1.modDelta k (fun d => { d with waiting := false, settle := false, msgs := cs.length })).bumpBy (qtrCnt 0) cs.length

/-- Give SEQs to the waiting deltas that can take them, each region's in hand-off order. -/
def State.assign : Nat → State → State
  | 0, s => s
  | n + 1, s =>
    match s.tap.slots.find? (fun p => p.2.waiting && s.firstInRegion p.2.region p.2.order && s.ctxsTake p.2.region) with
    | some (k, d) => State.assign n (s.formMsgs k d)
    | none => s

/-! ## The park ring (R369 to R372) -/

/-- References that the park ring holds at most. -/
def State.parkCap (s : State) : Nat := 512 * s.parkSpan.count
/-- Is a place free at the tail of the park ring? -/
def State.parkRoom (s : State) : Bool :=
  match s.tap.park.head? with
  | some p => decide (s.tap.parkNext < p.place + s.parkCap)
  | none => decide (0 < s.parkCap)
/-- May the engine park a waiting delta (R369)? -/
def State.mayPark (s : State) (d : Delta) : Bool :=
  d.waiting && d.bank != 3 && !(s.tap.formed.contains (d.region, d.tile, d.stepNo))
/-- The eight bytes of a park reference (Table 12-6). -/
def parkBytes (p : ParkRef) : List Byte :=
  leBytes 8 (p.region + 2 ^ 8 * p.tile + 2 ^ 33 * p.bank + 2 ^ 35 * (p.step % 2 ^ 13))

/-- The waiting delta handed off first among those that satisfy p. -/
def oldestDelta (l : Tab Delta) (p : Delta → Bool) : Option (Nat × Delta) :=
  (l.filter (fun q => p q.2)).foldl (fun (b : Option (Nat × Delta)) q => match b with
    | some x => if q.2.order < x.2.order then some q else some x
    | none => some q) none

/-- Park a delta: its reference is written and its slot freed. A younger delta of the same tile and step that waits too, whose
Δ the log tile holds as well, is absorbed (R370). -/
def State.parkDelta (s : State) (k : Nat) (d : Delta) : State :=
  let p : ParkRef := { region := d.region, tile := d.tile, bank := d.bank, step := d.stepNo, place := s.tap.parkNext, order := d.order }
  let s1 := (s.freeSlot k).stackWrite (s.parkSpan.base * 4096 + 8 * (p.place % s.parkCap)) (parkBytes p)
  let s2 := ({ s1 with tap := { s1.tap with park := s1.tap.park ++ [p], parkNext := s1.tap.parkNext + 1 } }).bump (clsCnt 5)
  (s2.tap.slots.filter (fun q => q.2.waiting && q.2.region == d.region && q.2.tile == d.tile && q.2.bank != 3 &&
    q.2.stepNo == d.stepNo)).foldl (fun t q => (t.freeSlot q.1).bump (clsCnt 6)) s2

/-- Park waiting deltas, oldest first, while fewer than CODE × 4 slots are free; those that find no room are counted once. -/
def State.parkLoop : Nat → State → State
  | 0, s => s
  | n + 1, s =>
    if 4 * s.partCode ≤ s.codeFree then s else
    match oldestDelta s.tap.slots s.mayPark with
    | none => s
    | some (k, d) =>
      if s.parkRoom then State.parkLoop n (s.parkDelta k d)
      else
        let fresh := s.tap.slots.filter (fun q => s.mayPark q.2 && !q.2.noted)
        let slots := s.tap.slots.map (fun q => (q.1, if s.mayPark q.2 then { q.2 with noted := true } else q.2))
        ({ s with tap := { s.tap with slots := slots } }).bumpBy (clsCnt 7) fresh.length

/-! ## READ service (R202 to R207, R224, R225) -/

/-- Send a READ_DATA answer of packets with the given payloads from a first packet index. -/
def State.sendData (s : State) (src : Nat) (h : Hdr) (payloads : List (List Byte)) : State :=
  let route := s.routeOf src (s.firstPath src (stripeHash h.sheaf h.stripe))
  let out := payloads.zipIdx.map (fun p => Tx.packet (gaddr (src / 16) (src % 16) 0) route (({ h with pkt := p.2 } : Hdr).packet p.1))
  { s with port := { s.port with tx := s.port.tx ++ out } }

/-- The header of an answer: fields echoed, and those of the responder region; where no region answers, their values are
free (log entry 2). -/
def State.dataHdr (s : State) (h : Hdr) (r : Option Region) : Hdr × State :=
  let a : Hdr := { typ := 4, cls := h.cls, sheaf := h.sheaf, dst := h.src, sctx := h.sctx, stripe := h.stripe, seq := h.seq }
  match r with
  | some r => ({ a with job := r.jobTag, src := r.member, epoch := r.epoch, step := r.confirmed }, s)
  | none =>
    let f := s.freshNat
    ({ a with job := bits f.1 0 16, src := bits f.1 16 8, epoch := bits f.1 24 32, step := bits f.1 56 48 }, f.2)

/-- Count an answer to a READ that arrived at a time (R366, Table 12-10). -/
def State.countAnswer (s : State) (h : Hdr) (since : Nat) : State :=
  if h.cls ≠ 0 then s else
  let s1 := s.bump (clsCnt 0)
  if since + 200 < s.now then s1.bump (clsCnt 1) else s1

/-- Refuse a READ with a status: one packet. -/
def State.refuseRead (s : State) (src : Nat) (h : Hdr) (r : Option Region) (since st : Nat) : State :=
  let a := s.dataHdr h r
  (a.2.sendData src a.1 [leBytes 2 st ++ zeros 14]).countAnswer h since
/-- Answer a READ with a view: eight packets. -/
def State.answerRead (s : State) (src : Nat) (h : Hdr) (r : Region) (since : Nat) (v : List Byte) : State :=
  let a := s.dataHdr h (some r)
  (a.2.sendData src a.1 ((List.range 8).map (fun i => slice v (512 * i) 512))).countAnswer h since

/-- Granules of a region and chunks of its migration map (R225). -/
def Region.granules (r : Region) : Nat := ceilDiv r.tileCount 16
def Region.chunks (r : Region) : Nat := ceilDiv r.granules 32640
/-- MAP chunk c (R225). -/
def Region.mapChunk (r : Region) (m : MigMap) (c : Nat) : List Byte :=
  (List.range 4080).map (fun b => (List.range 8).foldl (fun (v : Byte) i =>
    let g := 32640 * c + 8 * b + i
    if g < r.granules ∧ !m.clear.has g then v ||| (1#8 <<< i) else v) 0#8) ++
  leBytes 8 (bit m.frozen) ++ leBytes 8 r.digest.toNat

/-- Arm a region's migration map, or note another read in view MIGRATE or MAP; none when two others are armed (R224). -/
def State.armMap (s : State) (j : Nat) (r : Region) : Option State :=
  match r.mig with
  | some _ => some (s.modRegion j (fun r => { r with mig := r.mig.map (fun m => { m with last := s.now }) }))
  | none =>
    if 2 ≤ (s.regions.vals.filter (fun q => q.mig.isSome)).length then none
    else some (s.modRegion j (fun r => { r with mig := some ⟨[], false, s.now⟩ }))

/-- Does a write of region tile t that is held for copy-before-write stand before a READ (R366)? -/
def State.cbwBefore (s : State) (j t : Nat) : Bool := s.tap.held.any (fun h => h.region == j && h.tile == t && h.cbw.isSome)

/-- Hold a READ. -/
def State.holdRead (s : State) (ext : Ext) (src : Nat) (v : List Byte) (since : Nat) : State :=
  { s with port := { s.port with heldReads := s.port.heldReads ++ [⟨src, v, ext, since⟩] } }

/-- Rows 9 to 11 of Table 7-3 for a READ of region j that passes the rows before. -/
def State.readRegion (s : State) (ext : Ext) (src : Nat) (v : List Byte) (h : Hdr) (since j : Nat) (r : Region) (view : Nat) : State :=
  let t := h.stripe
  if view = 2 ∨ view = 3 then
    match s.armMap j r with
    | none => s.refuseRead src h (some r) since stConflict
    | some s1 =>
      if view = 3 then
        match (s1.regions.get j).bind (·.mig) with
        | some m => s1.answerRead src h r since (r.mapChunk m t)
        | none => s1
      else
        let s2 := if t % 16 = 0 then
          s1.modRegion j (fun r => { r with mig := r.mig.map (fun m => { m with clear := m.clear.set (t / 16) () }) })
          else s1
        match s2.viewTile ext j r 2 t with
        | (some d, s3) => s3.answerRead src h r since d
        | (none, s3) => s3.refuseRead src h (some r) since stUnrecoverable
  else if s.cbwBefore j t then s.holdRead ext src v since
  else match s.viewTile ext j r view t with
    | (some d, s1) => s1.answerRead src h r since d
    | (none, s1) => s1.refuseRead src h (some r) since stUnrecoverable

/-- Serve a READ by Table 7-3. -/
def State.serveRead (s : State) (ext : Ext) (src : Nat) (v : List Byte) (since : Nat) : State :=
  let h := Hdr.parse v
  let view := field (payloadOf v) 0 1
  match s.localMember h.sheaf h.dst with
  | none => s.refuseRead src h none since stStaleEpoch
  | some (j, r) =>
    if h.job ≠ r.jobTag then s.refuseRead src h (some r) since stNackTag
    else if 3 < view ∨ (2 ≤ view ∧ h.epoch ≠ 0) ∨ (view ≤ 1 ∧ h.src = 0xFF) then s.refuseRead src h (some r) since stNotSupported
    else if view ≤ 1 ∧ h.epoch < r.epoch then s.refuseRead src h (some r) since stStaleEpoch
    else if view ≤ 1 ∧ r.epoch < h.epoch then s.bump (qtrCnt 8)
    else if (if view = 3 then r.chunks else r.tileCount) ≤ h.stripe then s.refuseRead src h (some r) since stCheckFail
    else if view ≠ 3 ∧ r.state = .fostering ∧ !r.built.has h.stripe then s.refuseRead src h (some r) since stUnrecoverable
    else if view = 1 ∧ r.role ≠ .parityHome ∧ r.quiet.isNone ∧ s.blockWrites j then s.holdRead ext src v since
    else if view = 1 ∧ r.role ≠ .parityHome then
      let s1 := s.touchQuiet j
      if ((s1.regions.get j).map (·.settleFail)).getD false then s1.refuseRead src h (some r) since stPathFailed
      else if s1.settling j then s1.holdRead ext src v since
      else s1.readRegion ext src v h since j r view
    else s.readRegion ext src v h since j r view

/-- Does a held READ still wait: for the settle wait of its region, for the writes of a Tedder block (R300), or behind a write held for copy-before-write? -/
def State.readWaits (s : State) (q : HeldRead) : Bool :=
  let h := Hdr.parse q.bytes
  match s.localMember h.sheaf h.dst with
  | none => false
  | some (j, r) =>
    (field (payloadOf q.bytes) 0 1 == 1 && r.role != .parityHome &&
      ((r.quiet.isNone && s.blockWrites j) || (!r.settleFail && s.settling j))) || s.cbwBefore j h.stripe

/-- Serve the held READs whose waits are over, in order of arrival. -/
def State.settleReads (s : State) : State :=
  let go := s.port.heldReads.filter (fun q => !s.readWaits q)
  let stay := s.port.heldReads.filter s.readWaits
  go.foldl (fun t q => t.serveRead q.ext q.src q.bytes q.since) { s with port := { s.port with heldReads := stay } }

/-! ## Fences (R162, R163, R371) -/

/-- Is region j of a set of a mask? -/
def Region.inMask (r : Region) (m : Nat) : Bool := bitAt m r.set
/-- The send contexts of the sets of a mask, in number order. -/
def State.maskCtxs (s : State) (m : Nat) : List (Nat × SendCtx) :=
  s.port.sctx.filter (fun p => ((s.regions.get p.2.region).map (fun r => r.inMask m)).getD false)
/-- Do deltas of the sets that satisfy p wait for their SEQs, or parked references of step n? -/
def State.deltaWaits (s : State) (m : Nat) (p : Delta → Bool) (n : Nat) : Bool :=
  s.tap.slots.vals.any (fun d => d.waiting && p d && ((s.regions.get d.region).map (fun r => r.inMask m)).getD false) ||
  s.tap.park.any (fun q => q.step == n && ((s.regions.get q.region).map (fun r => r.inMask m)).getD false)
/-- Have all messages of step n, and the committed-parity messages handed off before `since`, left their counts (R163)? -/
def State.fenceDone (s : State) (m n since : Nat) : Bool :=
  (s.maskCtxs m).all (fun p => p.2.msgs.all (fun x =>
    if x.bank = 3 then decide (since ≤ x.handoff) else x.step != n)) &&
  !(s.deltaWaits m (fun d => if d.bank = 3 then decide (d.order < since) else d.stepNo == n) n)
/-- The failure that a context reports for step n: its failed message of lowest SEQ, then a delta lost before it had one. -/
def SendCtx.failure (c : SendCtx) (n : Nat) : Option Nat :=
  let f := match c.fails.get (n % 3), c.cfail with
    | some a, some b => some (lowerFail (some a) b.1 b.2)
    | some a, none => some a
    | none, b => b
  match f with
  | some x => some x.2
  | none => c.late.get (n % 3)
/-- The status of an ended fence: the failure of the lowest SCTX, else OK. -/
def State.fenceStatus (s : State) (m n : Nat) : Nat := ((s.maskCtxs m).findSome? (fun p => p.2.failure n)).getD stOk
/-- Clear the committed-parity failure records of the contexts that a failed fence covered. -/
def State.clearFails (s : State) (m : Nat) : State := (s.maskCtxs m).foldl (fun t p => t.modCtx p.1 (fun c => { c with cfail := none })) s
/-- Messages of a step slot of the sets that retired. -/
def State.retiredCount (s : State) (m slot : Nat) : Nat := ((s.maskCtxs m).map (fun p => (p.2.retired.get slot).getD 0)).sum

/-! ## Confirm and close -/

/-- The sets of a mask. -/
def setsOf (m : Nat) : List Nat := (List.range 64).filter (bitAt m)
/-- The sum of R186. -/
def State.digestSum (s : State) (m : Nat) : Nat :=
  (((s.regions.vals.filter (fun r => r.inMask m && (r.role.captured || r.role == .watch))).map (fun r => r.digest.toNat)).sum) % 2 ^ 64

/-- Change the dirty-map entries of the regions of set k that equal `code` (R126). -/
def State.remap (s : State) (k code new : Nat) : State :=
  (s.regions.filter (fun p => p.2.set == k)).foldl (fun t p =>
    ((List.range p.2.granules).filter (fun g => s.dirtyAt p.2 g == code)).foldl (fun u g => u.setDirty p.2 g new) t) s
/-- Discard norm slot x of set k (R128). -/
def State.discardNorm (s : State) (k x : Nat) : State :=
  let idx := (s.regions.filter (fun p => p.2.set == k)).map (·.1)
  { s with tap := { s.tap with norm := s.tap.norm.filter (fun p => !(idx.contains (p.1 / 3) && p.1 % 3 == x)) } }
/-- The dirty-map updates at the head of the retire work, which take no time of their own: each follows the zeroing of its step (R124,
R126). A step whose own update is outstanding still counts as unconfirmed for its log tiles. -/
def State.retireMaps : Nat → State → State
  | 0, s => s
  | n + 1, s =>
    match s.retire with
    | .confirmMap k x :: l => State.retireMaps n ({ s with retire := l }.remap k (x % 3 + 1) 0)
    | .rollbackMap k f x :: l =>
      let back := if (s.setTab k).live.any (fun p => p.1 + 1 == f) || l.contains (.confirmMap k (f - 1)) then (f + 2) % 3 + 1 else 0
      State.retireMaps n ({ s with retire := l }.remap k (x % 3 + 1) back)
    | _ => s
/-- Add retire work, and do the map updates that have come to its head. -/
def State.addRetire (s : State) (l : List Retire) : State :=
  let s1 := { s with retire := s.retire ++ l }
  State.retireMaps s1.retire.length s1

/-- The log zeroing of a step of set k: one entry of retire work for each logged region (R124). -/
def State.logWork (s : State) (k n : Nat) : List Retire :=
  (s.regions.filter (fun p => p.2.set == k && p.2.logBlock.isSome)).map (fun p => .zeroLog k p.1 (s.bankOf p.2 n) n)

/-- The commit point of STEP_CONFIRM of step n in set k (R188), with the retire work that follows; the norm slot is discarded, which no
NORM_REDUCE of the step reads any more (R128). -/
def State.confirmSet (s : State) (n k : Nat) : State :=
  let t := s.setTab k
  let regs := s.regions.map (fun p => (p.1, if p.2.set = k then { p.2 with confirmed := n } else p.2))
  let homes := (s.regions.vals.filter (fun r => r.set == k && r.role == .parityHome)).map (·.link)
  let banks := s.banks.map (fun p => (p.1,
    if homes.contains (p.1 / 3) && p.2.st == .active && p.2.step == n then { p.2 with st := .confirmed } else p.2))
  let s1 := ({ s with regions := regs, banks := banks }).putSet k { t with c := n, live := t.live.filter (fun p => p.1 != n) }
  (s1.discardNorm k (n % 3)).addRetire (s.logWork k n ++ [.confirmMap k n])

/-- A fence of an operation has ended (R187, R188). -/
def State.fenceEnd (s : State) (o : Op) : State :=
  let m := o.arg 16 8
  let n := o.step
  let st := s.fenceStatus m n
  if st ≠ stOk then (s.clearFails m).finish o st o.cursor 0 0
  else if o.opcode = 0x13 then
    s.finish o stOk 0 (s.retiredCount m (n % 3) + o.n nkRetired) 0
  else
    let s1 := (setsOf m).foldl (fun t k => t.confirmSet n k) s
    s1.finish o stOk 0 (s1.digestSum m) 0

/-- End the fences whose waits are over. -/
def State.settleFences (s : State) : State :=
  s.ops.foldl (fun t o => match t.op? o.id with
    | some x => (match x.stage with
      | .fencing since => if t.fenceDone (x.arg 16 8) x.step since then t.fenceEnd x else t
      | _ => t)
    | none => t) s

/-- Close the open slots that satisfy p. -/
def State.closeSlots (s : State) (p : Delta → Bool) : State :=
  (s.tap.slots.filter (fun q => !q.2.closed && p q.2)).foldl (fun t q => t.closeSlot q.1) s
/-- Is a tile delta one of a region of the sets? -/
def State.deltaIn (s : State) (m : Nat) (d : Delta) : Bool := ((s.regions.get d.region).map (fun r => r.inMask m)).getD false
/-- Is some write that was held in step n of the sets still not captured? -/
def State.heldIn (s : State) (m n : Nat) : Bool :=
  s.tap.held.any (fun h => h.cap != .none && h.cap != .captured && h.inStep == some n && ((s.regions.get h.region).map (fun r => r.inMask m)).getD false)
/-- Is some slot of the sets that carries step n, or that the close found open, open still or waiting for its completion read (R186)? -/
def State.slotIn (s : State) (m n since : Nat) : Bool :=
  s.tap.slots.vals.any (fun d => s.deltaIn m d && (d.step == some n || (d.closed && decide (d.opened ≤ since))) && !d.waiting && d.msgs == 0)

/-- STEP_CLOSE goes on (R186): the writes held in-step are captured, the open slots close and hand off, and the step is
CLOSED. -/
def State.closeStep (s : State) (o : Op) (since : Nat) : State :=
  let m := o.arg 16 8
  let n := o.step
  if s.heldIn m n then s else
  let s1 := s.closeSlots (fun d => s.deltaIn m d && d.step == some n)
  if s1.slotIn m n since then s1 else
  let s2 := (setsOf m).foldl (fun t k =>
    let x := t.setTab k
    t.putSet k { x with closing := none, live := x.live.map (fun p => if p.1 = n then (n, true) else p) }) s1
  s2.finish o stOk 0 (s2.digestSum m) 0

/-- Take every running STEP_CLOSE on. -/
def State.settleCloses (s : State) : State :=
  s.ops.foldl (fun t o => match o.stage with
    | .closing since => if o.opcode = 0x14 then t.closeStep o since else t
    | _ => t) s

/-- The drain of STEP_ROLLBACK (R195): no message of steps F to L is left in its count. -/
def State.drained (s : State) (m f l : Nat) : Bool :=
  (s.maskCtxs m).all (fun p => p.2.msgs.all (fun x => x.bank == 3 || decide (x.step < f ∨ l < x.step)))
/-- Retire work that follows a rollback from step F of the given steps in set k. The bank of F, which the redone step takes again, is
zeroed last, and the map updates follow it at once. -/
def State.rollbackWork (s : State) (f k : Nat) (steps : List Nat) : List Retire :=
  let zero := steps.reverse.flatMap (s.logWork k)
  let homes := (s.regions.vals.filter (fun r => r.set == k && r.role == .parityHome)).map (·.link)
  let banks := (s.banks.filter (fun p => homes.contains (p.1 / 3) && p.2.st == .zeroing)).map (fun p => Retire.zeroBank (p.1 / 3) (p.1 % 3))
  zero ++ steps.map (fun n => Retire.rollbackMap k f n) ++ banks
/-- Note keys under which STEP_ROLLBACK keeps the steps that it rolled back: this plus 4 × set plus place. -/
def nkRolled : Nat := 2000
/-- The steps of set k that an operation rolled back. -/
def Op.rolled (o : Op) (k : Nat) : List Nat := (List.range 4).filterMap (fun i => o.note.get (nkRolled + 4 * k + i))
/-- What a STEP_ROLLBACK leaves as it ends: the norm slots of its steps are discarded, and the retire work is added (R195). -/
def State.rollRetire (s : State) (o : Op) : State :=
  (setsOf (o.arg 16 8)).foldl (fun (u : State) k =>
    ((o.rolled k).foldl (fun v n => v.discardNorm k (n % 3)) u).addRetire (u.rollbackWork o.step k (o.rolled k))) s
/-- End the STEP_ROLLBACKs whose messages are drained, with their retire work. -/
def State.settleDrains (s : State) : State :=
  s.ops.foldl (fun t o => if o.opcode == 0x12 && o.stage == .draining && t.drained (o.arg 16 8) o.step (o.arg 24 6) then
      let t1 := t.rollRetire o
      t1.finish o stOk o.cursor (t1.digestSum (o.arg 16 8)) 0
    else t) s

/-- One round of the tap: held writes move, deltas take SEQs, the rest parks. -/
def State.tapRound (s : State) : State :=
  let s1 := (State.settleTap s.tapFuel s).endWaits
  let s2 := State.assign s1.tap.slots.length s1
  State.parkLoop s2.tap.slots.length s2

/-- What follows a command: two rounds of the tap, the closes, the fences and drains, and the held READs. -/
def State.settle (s : State) : State :=
  ((((s.tapRound).tapRound.settleCloses).tapRound.settleFences).settleDrains).settleReads

end Sys2Proof.Machine
end

