-- ==== Sys2Proof/Machine/Tap.lean ====
section
/-! DEFINITION. The commands of the write tap (chapter 4), on-demand builds (R217), quiet and migration timers (R203, R224), and
the answers to agents' flagged reads (R312). -/

namespace Sys2Proof.Machine

/-- Drop a held write that fails its capture (Table 4-5). -/
def State.captureFail (s : State) (h : Held) : State :=
  let tile := ((s.regions.get h.region).map (fun r => r.tileBase + h.tile)).getD 0
  ((s.refuseWrite h tile).bump (tapCnt 7)).event 66 (infoA h.region h.tile)

/-- WRITE_ARRIVAL (R14, R17, R18, R49, R105 to R109): a write that meets a registered region goes to the tap, which refuses, holds and
performs its parts, or leaves it at the write-queue input while 32 are held; any other write is performed. -/
def execWriteArrival (agent addr : Nat) (data : List (Option Byte)) (_ext : Ext) (s : State) : Out :=
  if stackBytes < addr + data.length then .fault .outsideStack else
  .next (s.seen.putWrite agent none addr data).settle

/-- PAIRING_READ_RESPONSE (R112 to R115): the response to a snooped optimizer read enters pairing unless it carries an error,
is stale, is for no captured or WATCH region, or finds no entry free. -/
def execPairingReadResponse (rid : Nat) (mask : BitVec 64) (error : Bool) (s : State) : Out :=
  .next (match s.tap.inflight.find? (fun q => q.rid == rid) with
    | none => s
    | some q =>
      let s0 := { s with tap := { s.tap with inflight := s.tap.inflight.filter (fun x => x.rid != rid) } }
      let s1 := s0.expirePair q.tile
      if q.stale then s1.bump (tapCnt 4)
      else if error then s1
      else match s1.regionAt q.tile with
        | none => s1
        | some (_, r) =>
          if !(r.role.captured || r.role == .watch) then s1 else
          let tile := s1.tileBytes r (q.tile - r.tileBase)
          let edge := s1.boot.mclk.toNat
          match s1.tap.pairs.get q.tile with
          | some e =>
            let e' := { e with data := bySector mask tile e.data, valid := e.valid ||| mask, paired := e.paired &&& ~~~mask, edge := edge }
            { s1 with tap := { s1.tap with pairs := s1.tap.pairs.set q.tile e' } }
          | none =>
            if s1.tap.pairs.length < 32 * s1.partPair then
              let e : PairEntry := ⟨bySector mask tile (zeros 4096), mask, 0#64, edge⟩
              { s1 with tap := { s1.tap with pairs := s1.tap.pairs.set q.tile e } }
            else s1.bump (tapCnt 2))

/-- READ_REQUEST_SNOOP (R114, R218): an optimizer's read is noted until its response; a read of an unbuilt tile is counted and
raised. -/
def execReadRequestSnoop (agent tile rid : Nat) (s : State) : Out :=
  if stackTiles ≤ tile then .fault .outsideStack else
  .next (let s0 := s.seen
    let s1 := if bitAt (s.regN 0x0110) agent then
      { s0 with tap := { s0.tap with inflight := s0.tap.inflight ++ [⟨rid, agent, tile, false⟩] } } else s0
    match s.regionAt tile with
    | some (j, r) =>
      if r.state = .fostering && !r.built.has (tile - r.tileBase) then
        (s1.bump (rbldCnt 6)).event 73 (infoA j (tile - r.tileBase))
      else s1
    | none => s1)

/-- OWN_READ_RETURN (R117): the own read of held write w returns through page guard and inline repair, or its capture fails. -/
def execOwnReadReturn (w : Nat) (ext : Ext) (s : State) : Out :=
  .next (match s.tap.held.find? (fun h => h.id == w && h.cap == .ownRead) with
    | none => s
    | some h =>
      match s.regions.get h.region with
      | none => s
      | some r =>
        let flagged := (s.tileRaw ext (r.tileBase + h.tile)).2
        let done := fun (t : State) =>
          ((t.modHeld h.id (fun h => { h with cap := .waitSlot })).bumpBy (tapCnt 1) (popcount h.need)).settle
        if r.strengthAt h.tile = 0 && !(flagged.any (fun i => h.need.getLsbD i)) then done s
        else match s.readTile ext h.region r h.tile with
          | (some _, s1) => done s1
          | (none, s1) => (s1.captureFail h).settle)

/-- COMPLETION_READ_RETURN (R118): the unwritten sectors of a closed slot are known, and its delta is handed off. An error
leaves the capture failed, and the slot frees with no hand-off. -/
def execCompletionReadReturn (slot : Nat) (ext : Ext) (s : State) : Out :=
  .next (match s.tap.slots.get slot with
    | none => s
    | some d =>
      if !d.closed || d.waiting || d.msgs != 0 then s else
      match s.regions.get d.region with
      | none => s
      | some r =>
        let flagged := (s.tileRaw ext (r.tileBase + d.tile)).2
        if r.strengthAt d.tile = 0 && flagged.all (fun i => d.written.getLsbD i) then (s.slotClosed slot).settle
        else match s.readTile ext d.region r d.tile with
        | (some _, s1) => (s1.slotClosed slot).settle
        | (none, s1) => (((s1.freeSlot slot).bump (tapCnt 7)).event 66 (infoA d.region d.tile)).settle)

/-- LOG_READBACK_RETURN (R123): the log tile becomes the slot's base, and the write that opened the slot is captured; an error
fails that capture. -/
def execLogReadbackReturn (slot : Nat) (ext : Ext) (s : State) : Out :=
  .next (match s.tap.held.find? (fun h => h.cap == .logRead && h.slot == some slot), s.tap.slots.get slot with
    | some h, some d =>
      (match s.regions.get d.region with
      | none => s
      | some r =>
        match d.step.bind (fun n => s.logTile r (s.bankOf r n) d.tile) with
        | none => s
        | some (j, q, lt) =>
          match s.readPlain ext j q lt with
          | (some v, s1) =>
            let s2 := s1.modDelta slot (fun d => { d with base := some v, readback := false })
            (s2.takeDelta h slot r).settle
          | (none, s1) => (((s1.giveUp j lt).freeSlot slot).captureFail h).settle)
    | _, _ => s)

/-- PAIR_EXPIRY (R115). -/
def execPairExpiry (tile : Nat) (s : State) : Out := .next (s.expirePair tile)

/-- TILE_DELTA_ASM_TIMEOUT (R118): ASM_WIN, in units of 0.25 µs, has elapsed since the slot opened. -/
def execTileDeltaAsmTimeout (slot : Nat) (s : State) : Out :=
  .next (match s.tap.slots.get slot with
    | some d => if !d.closed && s.past d.opened (25 * s.rf 0x010C 10 6) then (s.closeSlot slot).settle else s
    | none => s)

/-- The parked reference that is taken next: first in its region, with contexts that can take a message (R370). -/
def State.nextParked (s : State) : Option ParkRef :=
  s.tap.park.find? (fun p => s.firstInRegion p.region p.order && s.ctxsTake p.region)

/-- PARKED_DELTA_REREAD (R370, R371): the log tile is Δ, in a slot of its own again, and the SEQs follow; an error that the guard
cannot correct counts the delta as FAILED with CHECK_FAIL in every context. -/
def execParkedDeltaReread (ext : Ext) (s : State) : Out :=
  .next (match s.nextParked with
    | none => s
    | some p =>
      if s.codeFree = 0 then s else
      let s0 := { s with tap := { s.tap with park := s.tap.park.filter (fun q => q != p) } }
      match s.regions.get p.region with
      | none => s0
      | some r =>
        match s.logTile r p.bank p.tile with
        | none => s0
        | some (j, q, lt) =>
          match s0.readPlain ext j q lt with
          | (some v, s1) =>
            let row := s1.rowSlot p.region
            let row' := if row.act = 0 then { row with ref0 := row.ref0 + 1 } else { row with ref1 := row.ref1 + 1 }
            let d : Delta := { region := p.region, tile := p.tile, delta := v, written := allSectors, opened := s.now, step := some p.step
                               base := none, readback := false, closed := true, discard := false, waiting := true, bank := p.bank
                               stepNo := p.step, gen := row.gen, tbank := row.act, msgs := 0, order := p.order, noted := false
                               settle := false, carried := none }
            let open1 := fun (x : Delta) => x.region == p.region && x.tile == p.tile && x.step == some p.step && !x.waiting && x.msgs == 0
            let slots := Tab.set (s1.tap.slots.map (fun x => (x.1, if open1 x.2 then { x.2 with carried := some x.2.delta } else x.2)))
              s1.slotFree d
            ({ s1 with tap := { s1.tap with slots := slots }
                       tables := { s1.tables with rows := s1.tables.rows.set p.region row' } }).settle
          | (none, s1) =>
            let lose := fun (c : SendCtx) =>
              if c.region = p.region then { c with late := c.late.set (p.step % 3) stCheckFail } else c
            let sctx := s1.port.sctx.map (fun x => (x.1, lose x.2))
            (({ s1 with port := { s1.port with sctx := sctx } }).giveUp j lt).settle)

/-- QUIET_EXPIRY (R203): 10 ms after the latest CONFIRMED read the region leaves quiet. -/
def execQuietExpiry (region : Nat) (s : State) : Out :=
  .next (match (s.regions.get region).bind (·.quiet) with
    | some t => if s.past t 1000000 then (s.modRegion region (fun r => { r with quiet := none, settleFail := false })).settle else s
    | none => s)

/-- MIGRATION_MAP_DISARM (R224): 10 s after the last read in view MIGRATE or MAP. -/
def execMigrationMapDisarm (region : Nat) (s : State) : Out :=
  .next (match (s.regions.get region).bind (·.mig) with
    | some m => if !m.frozen && s.past m.last 1000000000 then s.modRegion region (fun r => { r with mig := none }) else s
    | none => s)

/-- The writes held for the build of a tile fail with it (R217). -/
def State.buildFail (s : State) (j t : Nat) : State :=
  (s.tap.held.filter (fun h => h.region == j && h.tile == t && h.build)).foldl (fun u h => u.captureFail h)
    (s.modRegion j (fun r => { r with builds := r.builds.del t }))

/-- TILE_BUILD_DONE (R216, R217): the build that a held write started reads its members at C0 and its write is accepted; a stripe
whose STEP values differ is read again, 16 times at most (R210). -/
def execTileBuildDone (region tile : Nat) (ext : Ext) (s : State) : Out :=
  .next (match s.regions.get region with
    | none => s
    | some r =>
      match r.builds.get tile, s.sheafOf r with
      | some n, some sh =>
        if r.state ≠ .fostering || r.built.has tile then s
        else if !s.c0Ready sh tile [r.member] then s.c0Touch sh
        else match s.buildValue ext none 0 region r sh tile with
          | (.tile v d, s1) => ((s1.acceptBuild region tile v).bumpBy (rbldCnt 0) (bit d)).settle
          | (.again, s1) =>
            if 15 ≤ n then (s1.buildFail region tile).settle
            else (s1.modRegion region (fun r => { r with builds := r.builds.set tile (n + 1) })).bump (rbldCnt 2)
          | (.wait, s1) => s1
          | (.fail _, s1) => (s1.buildFail region tile).settle
      | _, _ => s)

/-- CONTROLLER_ERROR_RESPONSE (R312 to R315): the sectors of an agent's read of a guarded tile that the controller flagged are
answered corrected or repaired, or with the error response. -/
def execControllerErrorResponse (agent tile : Nat) (mask : BitVec 64) (ext : Ext) (s : State) : Out :=
  if stackTiles ≤ tile then .fault .outsideStack else
  .next (match s.regionAt tile with
    | none => s
    | some (j, r) =>
      let t := tile - r.tileBase
      if r.strengthAt t = 0 then s.seen else
      let a := s.tileAddr tile
      let flags : Ext := ((List.range 64).filter (fun i => mask.getLsbD i)).map (fun i => (a + 64 * i, Resp.error))
      match s.seen.readTile (flags ++ ext) j r t with
      | (some v, s1) => (s1.send (.agentAnswer agent tile (sectorsOf mask v))).settle
      | (none, s1) => (s1.send (.agentError agent tile)).settle)

end Sys2Proof.Machine
end

