-- ==== Sys2Proof/Machine/Words.lean ====
section
/-! DEFINITION. Microinstruction words (Tables 11-2, 11-4), the checks of R332, and the waits of R334 and R335. -/

namespace Sys2Proof.Machine

/-! ## Fields of a word (Table 11-2) -/

def uwOpc (w : Nat) : Nat := bits w 0 8
def uwFa (w : Nat) : Nat := bits w 8 6
def uwFb (w : Nat) : Nat := bits w 14 6
def uwFc (w : Nat) : Nat := bits w 20 6
def uwCls (w : Nat) : Nat := bits w 26 2
def uwCsrc (w : Nat) : Nat := bits w 28 2
def uwIndA (w : Nat) : Bool := bitAt w 30
def uwIndC (w : Nat) : Bool := bitAt w 31
def uwTarget (w : Nat) : Nat := bits w 32 13
def uwCond (w : Nat) : Nat := bits w 45 4
def uwSync (w : Nat) : Bool := bitAt w 49
def uwRsv (w : Nat) : Nat := bits w 50 14
def uwImm (w : Nat) : Nat := bits w 64 32
def uwImm2 (w : Nat) : Nat := bits w 96 32

/-- What an operand field names (Table 11-4): nothing, an S-register, a stream slot. -/
inductive Opd where
  | no | s | t
  deriving DecidableEq, Repr

/-- A row of Table 11-4: its operands, the bits of IMM that it uses, and whether it is a transfer primitive or one reserved to
built-in entries. -/
structure PrimRow where
  opc : Nat
  fa : Opd
  fb : Opd
  fc : Opd
  imm : Nat
  xfer : Bool
  builtin : Bool
  deriving DecidableEq, Repr

/-- Register and control primitives. -/
def primRowsA : List PrimRow :=
  [ ⟨0x01, .no, .no, .s, 0xFFFFFFFF, false, false⟩, ⟨0x02, .s, .s, .s, 0, false, false⟩, ⟨0x03, .s, .no, .s, 0xFFFFFFFF, false, false⟩,
    ⟨0x04, .s, .s, .s, 0, false, false⟩, ⟨0x05, .s, .s, .s, 0, false, false⟩, ⟨0x06, .s, .s, .s, 0, false, false⟩,
    ⟨0x07, .s, .s, .s, 0, false, false⟩, ⟨0x08, .s, .no, .s, 0x3F, false, false⟩, ⟨0x09, .s, .no, .s, 0x3F, false, false⟩,
    ⟨0x0A, .s, .s, .s, 0, false, false⟩, ⟨0x0B, .s, .no, .s, 0x1FFF, false, false⟩, ⟨0x10, .s, .s, .no, 0, false, false⟩,
    ⟨0x11, .no, .no, .no, 0, false, false⟩, ⟨0x12, .s, .no, .no, 0x8000FFFF, false, false⟩ ]
/-- Transfers, waits, queries and lane work. -/
def primRowsB : List PrimRow :=
  [ ⟨0x20, .t, .s, .no, 0, true, false⟩, ⟨0x21, .t, .s, .no, 0, true, false⟩, ⟨0x22, .s, .no, .s, 0, true, false⟩,
    ⟨0x23, .s, .s, .no, 0, true, false⟩, ⟨0x24, .s, .s, .no, 1, true, false⟩, ⟨0x25, .t, .no, .s, 0, false, false⟩,
    ⟨0x26, .no, .no, .s, 0, false, false⟩, ⟨0x27, .t, .no, .no, 0, false, false⟩, ⟨0x28, .s, .s, .s, 0, false, false⟩,
    ⟨0x29, .s, .no, .s, 0, false, false⟩, ⟨0x2A, .s, .no, .s, 0, false, false⟩, ⟨0x2B, .no, .no, .s, 0, false, false⟩,
    ⟨0x2C, .s, .no, .no, 0, false, false⟩, ⟨0x30, .t, .s, .t, 0xF, false, false⟩, ⟨0x31, .t, .t, .t, 0, false, false⟩,
    ⟨0x32, .t, .no, .s, 0, false, false⟩, ⟨0x33, .t, .t, .s, 0, false, false⟩ ]
/-- Primitives reserved to built-in entries. -/
def primRowsC : List PrimRow :=
  [ ⟨0x40, .s, .s, .s, 0, false, true⟩, ⟨0x41, .s, .s, .t, 0x31, false, true⟩, ⟨0x42, .t, .s, .s, 0xFF, true, true⟩,
    ⟨0x43, .t, .s, .no, 0, true, true⟩, ⟨0x44, .s, .s, .s, 0, false, true⟩, ⟨0x48, .t, .t, .s, 0, false, true⟩,
    ⟨0x49, .t, .no, .s, 0, false, true⟩ ]
/-- Table 11-4. -/
def primRows : List PrimRow := primRowsA ++ primRowsB ++ primRowsC
/-- The row of an OPC; none for a reserved one. -/
def primRow (c : Nat) : Option PrimRow := primRows.find? (fun r => r.opc == c)

/-- A user entry. -/
def Op.user (o : Op) : Bool := decide (0x80 ≤ o.opcode)
/-- S[n] of an operand field. -/
def Op.s (o : Op) (n : Nat) : Nat := (o.sreg n).toNat
/-- The slot that FA or FC names, through its S-register where INDA or INDC says so. -/
def Op.slotA (o : Op) (w : Nat) : Nat := if uwIndA w then bits (o.s (uwFa w % 32)) 0 6 else uwFa w
def Op.slotC (o : Op) (w : Nat) : Nat := if uwIndC w then bits (o.s (uwFc w % 32)) 0 6 else uwFc w
/-- Rows that a GFMUL forms, and whether it accumulates. -/
def uwRows (w : Nat) : Nat := bits (uwImm w) 0 3
def uwAcc (w : Nat) : Bool := bitAt (uwImm w) 3

/-- Slots that a word reads. -/
def Op.slotsRead (o : Op) (w : Nat) : List Nat :=
  let c := uwOpc w
  if c = 0x21 ∨ c = 0x32 ∨ c = 0x43 ∨ c = 0x48 then [o.slotA w]
  else if c = 0x30 then [o.slotA w] ++ (if uwAcc w then (List.range (uwRows w)).map (fun r => o.slotC w + r) else [])
  else if c = 0x31 ∨ c = 0x33 then [o.slotA w, uwFb w]
  else if c = 0x41 then [o.slotC w]
  else if c = 0x49 then (List.range (Nat.min 64 (o.s (uwFc w)))).map (fun r => o.slotA w + r)
  else []
/-- Slots that a word writes. -/
def Op.slotsWritten (o : Op) (w : Nat) : List Nat :=
  let c := uwOpc w
  if c = 0x20 ∨ c = 0x27 ∨ c = 0x42 then [o.slotA w]
  else if c = 0x30 then (List.range (uwRows w)).map (fun r => o.slotC w + r)
  else if c = 0x31 then [o.slotC w]
  else if c = 0x48 then [uwFb w]
  else []
/-- Every slot that a word names. -/
def Op.slotsNamed (o : Op) (w : Nat) : List Nat :=
  o.slotsRead w ++ o.slotsWritten w ++ (if uwOpc w = 0x25 then [o.slotA w] else [])

/-! ## The checks of a word (R331, R332) -/

/-- Does an operand field hold what its primitive allows: 0 when unused, below 32 for an S-register? -/
def opdOk (k : Opd) (v : Nat) (ind : Bool) : Bool :=
  match k with
  | .no => v == 0 && !ind
  | .s => decide (v < 32) && !ind
  | .t => !ind || decide (v < 32)
/-- Do CSRC, TARGET, COND, IMM and IMM2 hold what the primitive allows? -/
def wordFields (r : PrimRow) (w : Nat) : Bool :=
  let c := r.opc
  (uwRsv w == 0) && (uwImm w &&& r.imm == uwImm w) &&
  (if c = 0x10 then decide (256 ≤ uwTarget w) && decide (uwCond w ≤ 8) && (decide (uwCond w < 7) || uwFb w == 0)
   else uwTarget w == 0 && uwCond w == 0) &&
  (if c = 0x30 then uwCsrc w != 3 && (uwCsrc w != 0 || uwFb w == 0) && decide (1 ≤ uwRows w ∧ uwRows w ≤ 4) else uwCsrc w == 0) &&
  (if c = 0x0B then decide (1 ≤ bits (uwImm w) 6 7 ∧ bits (uwImm w) 6 7 ≤ 64) else true) &&
  (if c = 0x01 then true else if c = 0x30 && uwCsrc w == 0 then decide (uwImm2 w < 2 ^ (8 * uwRows w)) else uwImm2 w == 0)
/-- Does a word pass R332 for an operation? -/
def Op.wordOk (o : Op) (w : Nat) : Bool :=
  match primRow (uwOpc w) with
  | none => false
  | some r =>
    opdOk r.fa (uwFa w) (uwIndA w) && opdOk r.fb (uwFb w) false && opdOk r.fc (uwFc w) (uwIndC w) && wordFields r w &&
    (if r.xfer then !o.user || decide (2 ≤ uwCls w) else uwCls w == 0) && !(r.builtin && o.user) &&
    (o.slotsNamed w).all (fun i => decide (i < o.bufs))

/-! ## Waits (R334 to R337, R340) -/

/-- Note keys: 1 while the operation has given up its sequencer at its word; the transfer, and the READ's slot, that a SYNC word
waits for, plus 1; the first status other than OK of its transfers since its last WAITALL. -/
def nkWordWait : Nat := 980
def nkSync : Nat := 981
def nkSyncRead : Nat := 982
def nkFirstBad : Nat := 983

/-- Is a transfer one of data, not a TRIG that waits? -/
def Xfer.moves (x : Xfer) : Bool := match x.kind with
  | .trig _ => false
  | _ => true
/-- Has an operation a transfer outstanding? -/
def State.outstanding (s : State) (id : Nat) : Bool :=
  s.port.xfers.any (fun x => x.op == id && x.moves) || s.port.rreq.vals.any (fun q => q.op == id)
/-- Bytes of an outstanding write of an operation. -/
def Xfer.storeLen (x : Xfer) : Nat := match x.kind with
  | .storeTile _ _ => 4096
  | .store64 _ => 8
  | _ => 0
/-- Does a write of n bytes overlap an earlier write of the operation that has not completed (R336)? -/
def State.storeOverlaps (s : State) (id a n : Nat) : Bool := s.port.xfers.any (fun x => x.op == id && overlap x.addr x.storeLen a n)
/-- A primitive that needs a lane (R340). -/
def laneWord (c : Nat) : Bool := (decide (0x30 ≤ c ∧ c ≤ 0x33)) || c == 0x48 || c == 0x49
/-- The state of a stream slot; one that nothing has written is EMPTY. -/
def Op.slotState (o : Op) (i : Nat) : SlotState := ((o.slots.get i).map (·.st)).getD .empty

/-- Add 1 to a trigger counter. -/
def State.trigger (s : State) (k : Nat) : State := { s with seqs := { s.seqs with trig := s.seqs.trig.set k ((s.seqs.trig.get k).getD 0#32 + 1#32) } }

/-- Take a transfer out of the outstanding ones. -/
def State.dropXfer (s : State) (id : Nat) : State := { s with port := { s.port with xfers := s.port.xfers.filter (fun x => x.id != id) } }
/-- Fire the TRIGs of an operation before which no transfer of its own is outstanding (Table 11-4). -/
def State.fireTrigs (s : State) (op : Nat) : State :=
  s.port.xfers.foldl (fun t x => match x.kind with
    | .trig c =>
      if x.op = op && !(t.port.xfers.any (fun y => y.op == op && y.moves && decide (y.id < x.id))) &&
         !(t.port.rreq.vals.any (fun q => q.op == op)) then (t.dropXfer x.id).trigger c
      else t
    | _ => t) s

/-- Must an operation wait before its word: for SYNC, for a slot (R335), for its transfers, for a lane (R340; at THERM_LEVEL 3 until it is over, R30, since a word holds no step), or for an earlier
write of the same bytes (R336)? -/
def State.wordWaits (s : State) (o : Op) (w : Nat) : Bool :=
  let c := uwOpc w
  s.port.xfers.any (fun x => x.id + 1 == o.n nkSync) ||
  (o.n nkSyncRead != 0 && s.port.rreq.has (o.n nkSyncRead - 1)) ||
  (o.slotsNamed w).any (fun i => o.slotState i == .loading) ||
  ((c == 0x26 || c == 0x12 || (c == 0x11 && o.st != .running)) && s.outstanding o.id) ||
  (laneWord c && s.boot.lanes != 0#32 && !s.laneFree) ||
  (c == 0x21 && s.storeOverlaps o.id (o.s (uwFb w)) 4096) || (c == 0x23 && s.storeOverlaps o.id (o.s (uwFa w)) 8)

/-- The word at the program counter of an operation; none in the boot ROM, which has no words (R429), and past word 8,191. -/
def State.codeWord (s : State) (o : Op) : Option Nat :=
  if o.boot || decide (8191 < o.pc) then none else some (s.ucode.word o.bank o.pc).toNat

/-- An operation gives up its sequencer at a word that must wait. -/
def State.parkWord (s : State) (id : Nat) : State := s.park id (fun o => o.keep nkWordWait 1)
/-- Operations whose words need wait no longer rejoin the ready queue (R334). -/
def State.wakeWords (s : State) : State :=
  s.ops.foldl (fun t o => match t.op? o.id with
    | some x =>
      if x.n nkWordWait = 1 && !((t.codeWord x).map (t.wordWaits x)).getD false
      then t.unpark x.id (fun x => x.keep nkWordWait 0) else t
    | none => t) s

end Sys2Proof.Machine
end

