-- ==== Sys2Proof/Machine/Quetar.lean ====
section
/-! DEFINITION. The commands of parity maintenance over the fabric (chapter 5): sending, receiving, applying, acknowledging, and
the re-homing loop; and the lanes' verification that an apply meets (R340 to R343). -/

namespace Sys2Proof.Machine

/-! ## Lanes (R340, R343) -/

/-- Quarantine a lane (R343): out of the enabled set until a reset, counted, recorded and raised; the last one raises
lane-exhausted too. -/
def State.quarantine (s : State) (l : Nat) : State :=
  let lanes := s.boot.lanes &&& ~~~(1#32 <<< l)
  let s1 := ((({ s with boot := { s.boot with lanes := lanes } }).bump (seqCnt 0)).auditForm 0 5 0 0x40 l 0 0 false).event 83 l
  if lanes = 0#32 then s1.event 84 0 else s1

/-- One piece of lane work (R41, R342): the inputs as held with the checks that they carry, and each output as a sum of products, a
coefficient with the number of an input. -/
structure LaneJob where
  ins : List (List Byte × List (Byte × Byte))
  outs : List (List (Byte × Nat))
  deriving DecidableEq, Repr

/-- The outputs that correct arithmetic gives. -/
def LaneJob.value (j : LaneJob) : List (List Byte) :=
  j.outs.map (fun ts => ts.foldl (fun v t => xorBytes v (gfScale t.1 (j.ins.getD t.2 ([], [])).1)) (zeros 4096))
/-- XOR of two lists of check pairs. -/
def xorChecks (a b : List (Byte × Byte)) : List (Byte × Byte) := List.zipWith (fun x y => (x.1 ^^^ y.1, x.2 ^^^ y.2)) a b
/-- The predicted checks of the outputs from the checks of the inputs, by linearity (R342). -/
def LaneJob.predict (j : LaneJob) (c : List (List (Byte × Byte))) : List (List (Byte × Byte)) :=
  j.outs.map (fun ts => ts.foldl (fun v t => xorChecks v ((c.getD t.2 []).map (fun x => (gfMul t.1 x.1, gfMul t.1 x.2))))
    (List.replicate 64 (0#8, 0#8)))
/-- What lane l gives for outputs whose correct values are `v`. -/
def laneGives (f : LaneFault) (l : Nat) (v : List (List Byte)) : List (List Byte) :=
  match f.outs.find? (fun p => p.1 == l) with
  | some p => v.zipIdx.map (fun x => xorBytes x.1 (slice p.2 (4096 * x.2) 4096))
  | none => v

/-- Give work to the next enabled lane in round-robin order (R340). The lane compares the predictions with the checks of its outputs, and
the checks of each input with those it carries (R342). On a mismatch the checks of the inputs are formed again from the bytes as held: when
the outputs match them, the result is accepted and counted; otherwise the lane is quarantined and the next one does the work again
(R343). none: no enabled lane remains. -/
def State.laneRun (f : LaneFault) (j : LaneJob) : Nat → State → Option (List (List Byte)) × State
  | 0, s => (none, s)
  | n + 1, s =>
    match ((List.range 32).map (fun i => (s.seqs.lane + 1 + i) % 32)).find? (fun l => s.boot.lanes.getLsbD l) with
    | none => (none, s)
    | some l =>
      let s1 := { s with seqs := { s.seqs with lane := l } }
      let v := laneGives f l j.value
      let out := v.map tileChecks
      let carried := j.ins.map (·.2)
      let held := j.ins.map (fun x => tileChecks x.1)
      let done := { s1 with power := { s1.power with lastWork := s.now } }
      if j.predict carried = out ∧ held = carried then (some v, done)
      else if j.predict held = out then (some v, done.bump (seqCnt 1))
      else State.laneRun f j n (s1.quarantine l)

/-- One piece of lane work: there are 32 lanes. -/
def State.laneWork (s : State) (f : LaneFault) (j : LaneJob) : Option (List (List Byte)) × State := State.laneRun f j 32 s

/-! ## Sending (R142 to R147) -/

/-- May a try of a message of a context be issued: not fenced, level-matched, lanes at work for its step? -/
def State.mayTry (s : State) (c : SendCtx) (m : Msg) : Bool :=
  c.fencedBy.isNone && s.ctxMatched c && s.laneReady &&
  (m.bank == 3 || s.thermOk (((s.regions.get c.region).map (·.set)).getD 0) m.step)

/-- MESSAGE_SEND (R140, R143, R361, R382): the first QUEUED message of a context is tried. Ready work without a usable credit
counts CREDIT_STALL (R362). -/
def execMessageSend (ctx : Nat) (s : State) : Out :=
  .next (match s.port.sctx.get ctx with
    | none => s
    | some c =>
      match c.msgs.find? (fun m => m.st == .queued) with
      | none => s
      | some m =>
        if !s.mayTry c m then s
        else if !s.creditOk (s.level (gaddr c.node c.agent 0)) 1 1 then s.bump (clsCnt 4)
        else s.tryMsg ctx m.seq)

/-- ACCUM_RETRY_TIMEOUT (R143 to R147): the timer of a SENT message expires; its path counts the timeout, and it is tried again
or fails at the retry limit: 64 tries, or 10 ms since the first one whether or not its timer has expired. -/
def execAccumRetryTimeout (ctx seq : Nat) (s : State) : Out :=
  .next (match s.port.sctx.get ctx with
    | none => s
    | some c =>
      match c.msgs.find? (fun m => m.seq == seq && m.st == .sent) with
      | none => s
      | some m =>
        let late := decide (m.due ≤ s.now)
        if m.first + 1000000 ≤ s.now ∨ (late = true ∧ 64 ≤ m.tries) then
          ((s.countPath c.key m.path 0 (bit late)).failMsg ctx c m stPathFailed).settle
        else if !late then s
        else if !s.mayTry c m then s
        else
          let s1 := (s.countPath c.key m.path 0 1).modCtx ctx (fun c => c.modMsg seq (fun m => { m with onPath := m.onPath + 1 }))
          s1.tryMsg ctx seq)

/-! ## Landing and spill (R22, R24, R151, R152) -/

/-- Messages of every window. -/
def State.rxAll (s : State) : List Rx := s.port.rctx.vals.flatMap (fun c => c.win.vals)
/-- Bytes that a message occupies in landing: 512 for each packet that has landed. -/
def Rx.landing (x : Rx) : Nat := if x.place.isSome || x.st == .done then 0 else 512 * popcount (BitVec.ofNat 8 x.mask)
/-- Bytes landed (R22). -/
def State.landed (s : State) : Nat := (s.rxAll.map Rx.landing).sum
/-- Is landing at its high-water mark of 75 % of LAND units of 128 KiB (R22)? -/
def State.landHigh (s : State) : Bool := decide (98304 * s.partLand ≤ s.landed)
/-- Bytes of a place of the spill area: a message and its packet mask (R24). DESIGN CHOICE (log entry 126): places follow one another from
WY_SPILL_BASE on, the mask after the message. -/
def spillStride : Nat := 4097
/-- The lowest free place of the spill area. -/
def State.spillPlace (s : State) : Option Nat :=
  let used := s.rxAll.filterMap (·.place)
  (List.range (s.spillSpan.count * 4096 / spillStride)).find? (fun p => !used.contains p)
/-- Does the spill area lack room for one more message of 4,096 bytes with its mask (R24)? -/
def State.spillFull (s : State) : Bool :=
  decide (s.spillSpan.count * 4096 < ((s.rxAll.filterMap (·.place)).length + 1) * spillStride)
/-- The stack byte offset of a place. -/
def State.spillOff (s : State) (p : Nat) : Nat := s.spillSpan.base * 4096 + spillStride * p
/-- The product of a message so far, from landing or from the spill area. -/
def State.rxData (s : State) (x : Rx) : List Byte :=
  match x.place with
  | some p => s.stackRead (s.spillOff p) 4096
  | none => x.data
/-- Write a message with its mask to a place of the spill area. -/
def State.toSpill (s : State) (p : Nat) (x : Rx) (v : List Byte) : State := s.stackWrite (s.spillOff p) (fit 4096 v ++ leBytes 1 x.mask)
/-- Is data discarded on arrival (R24)? -/
def State.overflow (s : State) : Bool := s.spillFull && s.landHigh

/-- Count a discarded packet of a class, with the event once in 1,000 µs. -/
def State.spillDrop (s : State) (cls : Nat) : State :=
  let s1 := s.bump (faultCnt (2 + cls))
  if (match s.port.spillEvent with | some t => s.past t.1 100000 | none => true) then
    ({ s1 with port := { s1.port with spillEvent := some (s.now, cls) } }).event 64 cls
  else s1

/-- SPILL_OVERFLOW_TIMER (R24): while the condition lasts the event is raised once in 1,000 µs, for the class of the last one. -/
def execSpillOverflowTimer (s : State) : Out :=
  .next (match s.port.spillEvent with
    | none => s
    | some (t, cls) =>
      if !s.overflow then { s with port := { s.port with spillEvent := none } }
      else if s.past t 100000 then ({ s with port := { s.port with spillEvent := some (s.now, cls) } }).event 64 cls
      else s)

/-! ## The receive window (R149, R150) -/

/-- Change a receive context. -/
def State.modRecv (s : State) (n : Nat) (f : RecvCtx → RecvCtx) : State :=
  { s with port := { s.port with rctx := s.port.rctx.upd n f } }

/-- Move the base past DONE states. -/
def RecvCtx.slide : Nat → RecvCtx → RecvCtx
  | 0, c => c
  | n + 1, c => match c.win.get c.base with
    | some x => if x.st = .done then RecvCtx.slide n { c with base := (c.base + 1) % 2 ^ 32, win := c.win.del c.base } else c
    | none => c
/-- Set the state of a SEQ, and move the base. -/
def RecvCtx.put (c : RecvCtx) (seq : Nat) (x : Rx) : RecvCtx := RecvCtx.slide 64 { c with win := c.win.set seq x }
/-- Return a SEQ to FREE. -/
def RecvCtx.free (c : RecvCtx) (seq : Nat) : RecvCtx := { c with win := c.win.del seq }

/-- Advance the base one SEQ at a time toward floor f: the context and the messages discarded. It stops at APPLYING, and the
floor is kept for when that apply completes (R150). -/
def RecvCtx.advance (f : Nat) : Nat → RecvCtx → RecvCtx × Nat
  | 0, c => ({ c with floor := none }, 0)
  | n + 1, c =>
    let d := (f + 2 ^ 32 - c.base) % 2 ^ 32
    if d = 0 ∨ 63 < d then ({ c with floor := none }, 0) else
    let next : RecvCtx := { c with base := (c.base + 1) % 2 ^ 32, win := c.win.del c.base }
    match c.win.get c.base with
    | some x =>
      if x.st = .applying then ({ c with floor := some f }, 0)
      else
        let q := RecvCtx.advance f n next
        (q.1, q.2 + bit (x.st == .assembling))
    | none => RecvCtx.advance f n next

/-- The floor toward which a context advances: a floor at or before the base changes nothing, and of one kept from a stopped advance and
a new one the further counts (R150). -/
def RecvCtx.target (c : RecvCtx) (f : Nat) : Nat :=
  let d := fun g => (g + 2 ^ 32 - c.base) % 2 ^ 32
  match c.floor with
  | some g => if d g ≤ 63 && (decide (63 < d f) || decide (d f < d g)) then g else f
  | none => f
/-- Apply a floor to a context. -/
def State.floor (s : State) (n f : Nat) : State :=
  match s.port.rctx.get n with
  | none => s
  | some c =>
    let q := RecvCtx.advance (c.target f) 65 c
    (s.modRecv n (fun _ => RecvCtx.slide 64 q.1)).bumpBy (qtrCnt 12) q.2

/-- The window entry of a complete message. -/
def State.applyRx (s : State) (a : Apply) : Option Rx := (s.port.rctx.get a.ctx).bind (fun c => c.win.get a.seq)
/-- Move a message from landing to a place of the spill area. -/
def State.spillOut (s : State) (n seq p : Nat) (x : Rx) : State :=
  (s.toSpill p x x.data).modRecv n (fun c => { c with win := c.win.set seq { x with place := some p, data := [] } })
/-- Move the oldest complete messages from landing to the spill area while landing is at its high-water mark (R22). -/
def State.spillLoop : Nat → State → State
  | 0, s => s
  | n + 1, s =>
    if !s.landHigh || s.spillFull then s else
    match s.port.applyQ.findSome? (fun a => match s.applyRx a with
        | some x => if x.place.isNone then some (a, x) else none
        | none => none), s.spillPlace with
    | some (a, x), some p => State.spillLoop n (s.spillOut a.ctx a.seq p x)
    | _, _ => s

/-- The acknowledgement of a message to its sender. -/
def State.ackTo (s : State) (src : Nat) (h : Hdr) (kind status epoch : Nat) : State :=
  s.addAck src h.job h.sheaf h.stripe ⟨h.sctx, kind, status, h.seq, epoch⟩

/-- A header without what may differ among the packets of one message. -/
def Hdr.fixed (h : Hdr) : Hdr := { h with pkt := 0, lag := 0, count := 0 }

/-- Take packet PKT of an ACCUM into the assembly of SEQ of context n: in landing, or by its mask into the spill area, from which a
message that is complete is read again (R149, R151). A complete message enters its apply queue. -/
def State.takePacket (s : State) (n seq : Nat) (x : Rx) (pkt : Nat) (v : List Byte) : State :=
  let w := splice (s.rxData x) (512 * pkt) (fit 512 v)
  let y := { x with mask := x.mask + 2 ^ pkt }
  if y.mask = 255 then
    let s1 := s.modRecv n (fun c => c.put seq { y with st := .applying, place := none, data := w })
    { s1 with port := { s1.port with applyQ := s1.port.applyQ ++ [⟨n, seq⟩] }, power := { s1.power with workIn := s1.power.workIn + 64 } }
  else match x.place with
    | some p => (s.toSpill p y w).modRecv n (fun c => c.put seq y)
    | none => s.modRecv n (fun c => c.put seq { y with data := w })

/-- The window check of a packet (R149): context n of a region, from a sender engine. -/
def State.window (s : State) (src n : Nat) (epoch : Nat) (h : Hdr) (v : List Byte) : State :=
  let s1 := s.floor n ((h.seq + 2 ^ 32 - h.lag) % 2 ^ 32)
  match s1.port.rctx.get n with
  | none => s1
  | some c =>
    let d := (h.seq + 2 ^ 32 - c.base) % 2 ^ 32
    if 2 ^ 31 ≤ d then s1.ackTo src h 1 0 epoch
    else if 64 ≤ d then s1.bump (qtrCnt 7)
    else
      let land := fun (x : Rx) (t : State) => State.spillLoop 2048 (t.takePacket n h.seq x h.pkt (payloadOf v))
      match c.win.get h.seq with
      | none =>
        land ⟨.assembling, 0, zeros 4096, v.take 32, s.now, none⟩ (if s1.power.lanes = .cold then s1.bump (pwrCnt 3) else s1)
      | some x =>
        match x.st with
        | .assembling =>
          if bitAt x.mask h.pkt then s1 else land x (if x.place.isSome then s1.bump (qtrCnt 11) else s1)
        | .applying => s1
        | .done => s1.ackTo src h 1 0 epoch

/-- Rows 4 to 10 of Table 5-4 for an ACCUM packet, with the hold of R382. -/
def State.accum (s : State) (src : Nat) (v : List Byte) : State :=
  let h := Hdr.parse v
  let refuse := fun st epoch => if h.pkt = 0 then s.ackTo src h 3 st epoch else s
  match s.localMember h.sheaf h.dst, s.sheaves.get h.sheaf with
  | some (j, r), some sh =>
    if h.dst < sh.k ∨ sh.k ≤ h.src then refuse stStaleEpoch 0
    else if h.job ≠ r.jobTag then refuse stNackTag r.epoch
    else if h.epoch < r.epoch then refuse stStaleEpoch r.epoch
    else if r.epoch < h.epoch then s.bump (qtrCnt 8)
    else
      let n := (s.port.rctx.find? (fun p => p.2.region == j && p.2.src == h.src)).map (·.1)
      let tiles := ((sh.mem? h.src).map (·.tiles)).getD 0
      match n with
      | none => refuse stCheckFail r.epoch
      | some n =>
        if r.tileCount ≤ h.stripe ∨ tiles ≤ h.stripe ∨ (h.bank ≠ 3 ∧ h.bank ≠ h.step % (sh.dMax + 1)) then refuse stCheckFail r.epoch
        else if !((sh.mem? h.src).map (fun x => s.isLocal x || x.matched)).getD false then s.bump (membCnt 7)
        else
          let old := (s.port.rctx.get n).bind (fun c => c.win.get h.seq)
          if old.any (fun x => x.st == .assembling && (Hdr.parse x.header).fixed != h.fixed) then s.bump (qtrCnt 6)
          else s.window src n r.epoch h v
  | _, _ => refuse stStaleEpoch 0

/-- ACCUM_PACKET_RECEIVE (R21, R24, R148 to R150, R358). Before ALIGN_ACK a packet only returns its credit (R32). -/
def execAccumPacketReceive (src : Nat) (bytes : List Byte) (s : State) : Out :=
  .next (let s0 := s.packetIn
    let h := Hdr.parse bytes
    if !s.aligned then s0
    else if !trailerOk bytes then s0.bump (qtrCnt 4)
    else if h.typ ≠ 1 then s
    else if h.cls ≠ 1 then s0.bump (clsCnt 3)
    else if s0.overflow then s0.spillDrop 1
    else
      let t := s0.accum src bytes
      { t with power := { t.power with lastAccum := some s.now } })

/-- ASSEMBLY_TIMEOUT (R151, R152): at 200 µs from its first packet an incomplete message is parked with its mask, or discarded
as spill overflow when the spill area has no room. -/
def execAssemblyTimeout (ctx seq : Nat) (s : State) : Out :=
  .next (match (s.port.rctx.get ctx).bind (fun c => c.win.get seq) with
    | some x =>
      if x.st ≠ .assembling || x.place.isSome || !s.past x.first 20000 then s
      else match s.spillPlace with
        | none => (s.modRecv ctx (fun c => c.free seq)).spillDrop 1
        | some p => (s.spillOut ctx seq p x).bump (qtrCnt 10)
    | none => s)

/-- PARK_EXPIRY (R151): at 20 ms from its first packet a parked message is discarded. -/
def execParkExpiry (ctx seq : Nat) (s : State) : Out :=
  .next (match (s.port.rctx.get ctx).bind (fun c => c.win.get seq) with
    | some x =>
      if x.st = .assembling && x.place.isSome && s.past x.first 2000000 then (s.modRecv ctx (fun c => c.free seq)).bump (qtrCnt 12) else s
    | none => s)

/-! ## Applying (R154 to R157, R191) -/

/-- The apply queue of a stripe (R154). -/
def applyQueue (stripe : Nat) : Nat := (stripe ^^^ (stripe / 64) ^^^ (stripe / 4096) ^^^ (stripe / 262144)) % 64

/-- The decisions of Table 5-5. -/
inductive BankDecision where
  | apply
  | busy
  | discard (late : Bool)
  deriving DecidableEq, Repr

/-- The bank decision for a message of step n into bank x of a parity home (R191). -/
def State.bankDecision (s : State) (r : Region) (x n : Nat) : BankDecision :=
  let t := s.setTab r.set
  let live := t.live.any (fun p => p.1 == n)
  let b := s.banks.get (bankKey r.link x)
  let below := (b.map (fun b => decide (b.step < n))).getD false
  let above := (b.map (fun b => decide (n < b.step))).getD false
  if below then .busy
  else if n ≤ t.c then .discard true
  else if above || (n ≤ t.h && !live) then .discard false
  else match b with
    | none => .apply
    | some b => if b.st = .active then .apply else .discard false

/-- The apply queue of a complete message. -/
def State.applyQueueOf (s : State) (a : Apply) : Option Nat := (s.applyRx a).map (fun x => applyQueue (Hdr.parse x.header).stripe)
/-- The message that apply queue q serves next (R154). -/
def State.applyFront (s : State) (q : Nat) : Option Apply := s.port.applyQ.find? (fun a => s.applyQueueOf a == some q)
/-- Is a message kept from its target by copy-before-write, or from the lanes at THERM_LEVEL 3? -/
def State.applyBlocked (s : State) (a : Apply) : Bool :=
  match s.port.rctx.get a.ctx, s.applyRx a with
  | some c, some x =>
    let h := Hdr.parse x.header
    match s.regions.get c.region with
    | some r =>
      if h.bank = 3 then s.cbwHolds c.region h.stripe
      else s.cbwHolds r.link (h.bank * r.tileCount + h.stripe) || !s.thermOk r.set h.step
    | none => true
  | _, _ => true
/-- Is it the turn of apply queue q: the first after the queue served last whose front message could be applied (R154)? -/
def State.applyTurn (s : State) (q : Nat) : Bool :=
  match ((List.range 64).map (fun i => (s.port.applyLast + 1 + i) % 64)).find? (fun p =>
      (s.applyFront p).any (fun a => !s.applyBlocked a)) with
  | some p => p == q
  | none => true

/-- Take a message out of its apply queue, with the state its SEQ gets: DONE, or FREE. -/
def State.applied (s : State) (a : Apply) (done : Bool) : State :=
  let s1 := { s with port := { s.port with applyQ := s.port.applyQ.erase a, applyLast := (s.applyQueueOf a).getD s.port.applyLast } }
  let s2 := s1.modRecv a.ctx (fun c => match c.win.get a.seq with
    | some x => if done then c.put a.seq { x with st := .done, data := [], place := none } else c.free a.seq
    | none => c)
  match (s2.port.rctx.get a.ctx).bind (·.floor) with
  | some f => s2.floor a.ctx f
  | none => s2

/-- Is an ENCODE_FULL of region j running (R155)? -/
def State.encoding (s : State) (j : Nat) : Bool := s.ops.any (fun o => o.opcode == 0x20 && o.stage == .walking && o.arg 16 1 == j)

/-- ACCUM_APPLY (R154 to R157, R191): on its turn the oldest complete message of apply queue q meets the bank decision, and is applied
through page guard by a lane with its APPLIED entry. With no enabled lane it is dropped (R343); it waits for a lane, for
copy-before-write, and at THERM_LEVEL 3 for a closed step. A target tile that cannot be read leaves it FREE with no entry
(log entry 17). -/
def execAccumApply (q : Nat) (ext : Ext) (f : LaneFault) (s : State) : Out :=
  .next (match s.applyFront q with
    | none => s
    | some a =>
      if !s.applyBlocked a && !s.applyTurn q then s else
      match s.port.rctx.get a.ctx with
      | none => s
      | some c =>
        match c.win.get a.seq, s.regions.get c.region with
        | some x, some r =>
          let h := Hdr.parse x.header
          let src := ((s.sheaves.get c.sheaf).bind (fun sh => sh.mem? c.src)).map (fun y => dstKey y.node y.agent)
          let ack := fun kind (t : State) => match src with
            | some k => t.ackTo k h kind 0 r.epoch
            | none => t
          let write := fun (j t : Nat) (reg : Region) =>
            if s.cbwHolds j t then s.cbwEngine j t
            else if s.boot.lanes = 0#32 then s.applied a false
            else if !s.laneReady || (h.bank != 3 && !s.thermOk r.set h.step) then s
            else
              match s.readApply ext j reg t with
              | (none, s0) => (s0.applied a false).settle
              | (some v, s0) =>
              let d := s.rxData x
              match s0.laneWork f ⟨[(xorBytes d (fit 4096 f.held), tileChecks d), (v, tileChecks v)], [[(1#8, 0), (1#8, 1)]]⟩ with
              | (none, s1) => (s1.applied a false).settle
              | (some out, s1) =>
                let new := out.headD []
                let s2 := if h.bank = 3 then s1.putParity j t reg new
                  else
                    let s2 := s1.putTile reg t new
                    if s2.banks.has (bankKey r.link h.bank) then s2
                    else { s2 with banks := s2.banks.set (bankKey r.link h.bank) ⟨.active, h.step, 0⟩ }
                (ack 0 (s2.applied a true)).settle
          if h.bank = 3 then
            (if s.encoding c.region then (s.applied a false).bump (stepCnt 5) else write c.region h.stripe r)
          else match s.bankDecision r h.bank h.step, s.regions.get r.link with
            | .busy, _ => (s.applied a false).bump (qtrCnt 13)
            | .discard late, _ =>
              let s1 := (ack 2 (s.applied a true)).bump (stepCnt 4)
              if late then (s1.bump (stepCnt 0)).event 71 (infoA c.region h.stripe) else s1
            | .apply, some p => write r.link (h.bank * r.tileCount + h.stripe) p
            | .apply, none => s
        | _, _ => s)

/-! ## Acknowledgements (R158, R160, R161) -/

/-- ACK_FLUSH (R158): 0.5 µs after the oldest waiting entry for a sender engine was formed its packets leave. -/
def execAckFlush (dst : Nat) (s : State) : Out :=
  .next (if !s.aligned then s else
    (s.port.acks.filter (fun b => b.dst == dst && s.past b.since 50)).foldl (fun t b => t.flushAck dst b.tag) s)

/-- Act on one acknowledgement entry from an engine. DESIGN CHOICE (log entry 110): a REFUSED entry with a STATUS that Table 5-6 does not
list is ignored, as one that matches no message, and counted in ACK_DUP. -/
def State.ackEntry (s : State) (src : Nat) (v : List Byte) : State :=
  let n := bits (field v 0 2) 0 10
  let kind := bits (field v 0 2) 10 2
  let status := field v 2 2
  let seq := field v 4 4
  let epoch := field v 8 4
  match s.port.sctx.get n with
  | none => s.bump (qtrCnt 2)
  | some c =>
    match c.msgs.find? (fun m => m.seq == seq && (m.st == .sent || m.st == .fenced)) with
    | none => s.bump (qtrCnt 2)
    | some m =>
      if c.key ≠ src then s.bump (qtrCnt 2)
      else if kind ≠ 3 then
        let s1 := if kind = 0 && m.tries == 1 then s.sample src (s.now - m.first) else s
        s1.endMsg n m true none
      else if status = stStaleEpoch then
        let own := ((s.regions.get c.region).map (·.epoch)).getD 0
        let s1 := s.event 69 (infoB c.sheaf c.dst 0)
        if own < epoch then
          s1.modCtx n (fun c => { c.modMsg seq (fun m => { m with st := .fenced }) with
            fencedBy := some (Nat.max epoch (c.fencedBy.getD 0)) })
        else s1.failMsg n c m stStaleEpoch
      else if status = stNackTag ∨ status = stCheckFail then s.failMsg n c m status
      else s.bump (qtrCnt 2)

/-- ACK_PACKET_RECEIVE (R148, R160, R161). Before ALIGN_ACK a packet only returns its credit (R32). -/
def execAckPacketReceive (src : Nat) (bytes : List Byte) (s : State) : Out :=
  .next (let s0 := s.packetIn
    let h := Hdr.parse bytes
    if !s.aligned then s0
    else if !trailerOk bytes then s0.bump (qtrCnt 4)
    else if h.typ ≠ 2 then s
    else ((List.range (Nat.min 32 h.count)).foldl (fun t i => t.ackEntry src (slice (payloadOf bytes) (16 * i) 16)) s0).settle)

/-! ## READ and READ_DATA (R205 to R207, R358, R366) -/

/-- Take a C0 READ into the arrival envelope of R366: 24 GB/s, 240 B in a tick, over 64 KiB; one beyond it is counted. -/
def State.c0Arrive (s : State) : State :=
  let level := Nat.min 65536 (s.port.c0Level + 240 * (s.now - s.port.c0Last))
  if level < 4096 then ({ s with port := { s.port with c0Level := level, c0Last := s.now } }).bump (clsCnt 2)
  else { s with port := { s.port with c0Level := level - 4096, c0Last := s.now } }

/-- READ_PACKET_RECEIVE (R207, R358). -/
def execReadPacketReceive (src : Nat) (bytes : List Byte) (ext : Ext) (s : State) : Out :=
  .next (let s0 := s.packetIn
    let h := Hdr.parse bytes
    if !s.aligned then s0
    else if !trailerOk bytes then s0.bump (qtrCnt 4)
    else if h.typ ≠ 3 then s
    else if h.cls ≠ 0 && h.cls ≠ 3 then s0.bump (clsCnt 3)
    else ((if h.cls = 0 then s0.c0Arrive else s0).serveRead ext src bytes s.now).settle)

/-- The end of a READ: the operation keeps it for its unit (R210); or, for a READ of a microprogram, its stream slot gets the view or the
status (R336). -/
def State.endRead (s : State) (slot : Nat) (q : ReadReq) (st : Nat) (v : List Byte) : State :=
  let s1 := { s with port := { s.port with rreq := s.port.rreq.del slot } }
  if q.keep then s1.modOp q.op (fun o => { o with got := o.got ++ [⟨q.dst, q.view, q.stripe, st, v, q.step, q.first, s.now, false⟩] }) else
  let x : Slot := if st = stOk then Slot.full v else Slot.failed st
  ((s1.modOp q.op (fun o =>
    { (if st = stOk || o.n nkFirstBad != 0 then o else o.keep nkFirstBad st) with slots := o.slots.set q.target x })).fireTrigs q.op).wakeWords

/-- READ_DATA_RECEIVE (R24, R206): packets of the first complete answer for (slot, request number) from the READ's destination
are taken; others are counted in ACK_DUP. -/
def execReadDataReceive (src : Nat) (bytes : List Byte) (s : State) : Out :=
  .next (let s0 := s.packetIn
    let h := Hdr.parse bytes
    let v := payloadOf bytes
    if !s.aligned then s0
    else if !trailerOk bytes then s0.bump (qtrCnt 4)
    else if h.typ ≠ 4 then s
    else if v.length ≠ 16 && s0.overflow then s0.spillDrop h.cls
    else match s0.port.rreq.get h.sctx with
      | none => s0.bump (qtrCnt 2)
      | some q =>
        if q.seq ≠ h.seq || dstKey q.node q.agent ≠ src then s0.bump (qtrCnt 2)
        else if v.length = 16 then s0.endRead h.sctx q (field v 0 2) []
        else if bitAt q.mask h.pkt then s0
        else
          let q' := { q with mask := q.mask + 2 ^ h.pkt, data := splice (fit 4096 q.data) (512 * h.pkt) (fit 512 v), step := h.step }
          if q'.mask = 255 then s0.endRead h.sctx q' stOk q'.data
          else { s0 with port := { s0.port with rreq := s0.port.rreq.set h.sctx q' } })

/-- READ_RETRY_TIMEOUT (R206): the READ is tried again with its request number under R145 to R147, or fails at the limit of
R144. A C0 try waits for its bucket (R364). -/
def execReadRetryTimeout (slot : Nat) (s : State) : Out :=
  .next (match s.port.rreq.get slot with
    | none => s
    | some q =>
      let dst := dstKey q.node q.agent
      let late := decide (q.due ≤ s.now)
      let s1 := s.countPath dst q.path 0 (bit late)
      if q.first + 1000000 ≤ s.now ∨ (late = true ∧ 64 ≤ q.tries) then s1.endRead slot q (if q.keep then readFailed else stPathFailed) []
      else if !late then s
      else
        if q.cls = 0 && !s.bucketOk dst 4096 then s.putBucket (s.bucketNow dst)
        else
          let p := s.nextPath dst (stripeHash q.sheaf q.stripe) q.path (q.onPath + 1)
          let t := s.backoff q.timeout
          let q' := { q with tries := q.tries + 1, path := p, onPath := if p = q.path then q.onPath + 1 else 0, timeout := t, due := s.now + t }
          let s2 := (if q.cls = 0 then s1.charge dst 4096 else s1).countPath dst p 1 0
          let op := s.op? q.op
          let me := ((s.regions.vals.find? (fun r => r.sheaf == q.sheaf && some r.jobTag == op.map (·.jobTag))).map
            (fun r => (r.jobTag, r.member, r.epoch))).getD ((op.map (·.jobTag)).getD 0, 0xFF, 0)
          ({ s2 with port := { s2.port with rreq := s2.port.rreq.set slot q' } }).sendRead slot q' me.1 me.2.1 me.2.2)

/-! ## The re-homing loop (R165, R166) -/

/-- The audit record of a path action: 1 flag, 2 unflag, 3 proposal. -/
def State.auditPath (s : State) (dst p action : Nat) : State :=
  s.auditForm 0 4 1 0x20 1 (dst / 16 + 2 ^ 18 * (dst % 16) + 2 ^ 22 * p + 2 ^ 26 * action) 0 false

/-- Is path `key` to be flagged, or a proposal due, at the end of a window (R165)? -/
def State.pathDue (s : State) (key : Nat) (c : PathCnt) : Bool :=
  c.flag.isNone && decide (8 ≤ c.timeouts) && decide (bits (s.regN 0x0130) 1 7 * c.tries < c.timeouts * 100) &&
    decide (key % 8 < s.pathCount (key / 8))
/-- Would flagging a path of this destination leave too few permitted paths (R165)? -/
def State.pathsScarce (s : State) (dst : Nat) : Bool :=
  let least := bits (s.regN 0x0130) 8 4
  decide ((s.permitted dst).length < (if s.pathCount dst < least then 1 else least) + 1)

/-- A path's record is replaced. -/
def State.setPath (s : State) (key : Nat) (c : PathCnt) : State :=
  { s with port := { s.port with paths := s.port.paths.set key c } }

/-- Evaluate one path at the end of a window: a proposal or a flag, both audited, and its counts start again. While the log is
full a due action is not taken and the path's record stays (R419, R457; log entry 23). -/
def State.judgePath (s : State) (key : Nat) (c : PathCnt) : State :=
  let dst := key / 8
  let cleared : PathCnt := { c with tries := 0, timeouts := 0 }
  if !s.pathDue key c then s.setPath key cleared
  else if s.pathsScarce dst then
    (if s.auditFull then s
     else ((s.setPath key cleared).event 92 (infoD (dst / 16) (dst % 16))).auditPath dst (key % 8) 3)
  else if !bitAt (s.regN 0x0130) 0 then s.setPath key cleared
  else if s.auditFull then s
  else ((s.setPath key { cleared with flag := some s.now }).bump (qtrCnt 15)).auditPath dst (key % 8) 1

/-- REHOME_WINDOW_END (R165): each path is judged in order and its counts start again. -/
def execRehomeWindowEnd (s : State) : Out :=
  .next (if s.past s.port.winStart (10000 * s.rf 0x0130 20 8) then
    let s1 := s.port.paths.foldl (fun t q => t.judgePath q.1 q.2) s
    { s1 with port := { s1.port with winStart := s.now } }
  else s)

/-- PATH_UNFLAG (R165): a path flagged HOLD_MS ago is unflagged; not while the log is full (R419, R457). -/
def execPathUnflag (dst path : Nat) (s : State) : Out :=
  .next (match (s.port.paths.get (pathKey dst path)).bind (·.flag) with
    | some t =>
      if s.past t (100000 * s.rf 0x0130 12 8) && !s.auditFull then
        let paths := s.port.paths.upd (pathKey dst path) (fun c => { c with flag := none })
        ({ s with port := { s.port with paths := paths } }).auditPath dst path 2
      else s
    | none => s)

/-! ## Other arrivals -/

/-- HEBRIBRY_READ_RECEIVE (R168, R311): a peer's read of a tile of this stack is answered, through guard decode in a guarded
region; a read that is no whole tile of the stack, or of a tile that stays uncorrectable, gets the error response. -/
def execHebribryReadReceive (src off : Nat) (ext : Ext) (s : State) : Out :=
  .next (let s0 := s.packetIn
    if !s.aligned then s0
    else if off % 4096 ≠ 0 || stackBytes ≤ off then s0.send (.readErrorAnswer src off) else
    match s0.regionAt (off / 4096) with
    | none =>
      let x := s0.tileRaw ext (off / 4096)
      if x.2.isEmpty then s0.send (.readAnswer src off x.1) else s0.send (.readErrorAnswer src off)
    | some (j, r) =>
      match s0.readTile ext j r (off / 4096 - r.tileBase) with
      | (some v, s1) => (s1.send (.readAnswer src off v)).settle
      | (none, s1) => (s1.send (.readErrorAnswer src off)).settle)

/-- RESERVED_TYPE_PACKET (R148): rows 1 and 2 of Table 5-4. -/
def execReservedTypePacket (_src : Nat) (bytes : List Byte) (s : State) : Out :=
  .next (let s0 := s.packetIn
    let t := (Hdr.parse bytes).typ
    if !s.aligned then s0
    else if !trailerOk bytes then s0.bump (qtrCnt 4)
    else if t = 0 ∨ 6 < t then s0.bump (qtrCnt 5)
    else s)

end Sys2Proof.Machine
end

