-- ==== Sys2Proof/Machine/Steps.lean ====
section
/-! DEFINITION. Steps (chapter 6): STEP_OPEN with its level wait (R441, R442), STEP_CLOSE, FENCE, STEP_CONFIRM, STEP_ROLLBACK,
retire work, MERGE_BANK and NORM_REDUCE. -/

namespace Sys2Proof.Machine

/-- The sets that an operation's SET_MASK names. -/
def Op.sets (o : Op) : List Nat := setsOf (o.arg 16 8)
/-- Do two operations share a set? -/
def Op.shares (a b : Op) : Bool := (a.arg 16 8 &&& b.arg 16 8) != 0
/-- Regions of set k. -/
def State.setRegions (s : State) (k : Nat) : List (Nat × Region) := s.regions.filter (fun p => p.2.set == k)
/-- An unlogged set: it holds a sheaf data member with LOG 0 (R183). -/
def State.unlogged (s : State) (k : Nat) : Bool := (s.setRegions k).any (fun p => s.codes p.2 && !p.2.log)

/-! ## STEP_OPEN (R177 to R185, R245, R441, R442) -/

/-- Is an operation a STEP_OPEN that waits? -/
def Op.opening (o : Op) : Bool := o.opcode == 0x10 && (match o.stage with
  | .waitLevel _ => true
  | .waitBank => true
  | .waitSlot => true
  | _ => false)

/-- Is row 1 of Table 6-6 met in set k? -/
def State.openRow1 (s : State) (o : Op) (k : Nat) : Bool :=
  (s.setTab k).live.any (fun p => !p.2) || s.setOpRunning 0x11 k || s.setOpRunning 0x12 k ||
  s.ops.any (fun x => x.id != o.id && x.opening && bitAt (x.arg 16 8) k)
/-- Row 2; step 0 is never opened (R178). DESIGN CHOICE (log entry 128): R178 gives its refusal no status, and this one is a step
number's. -/
def State.openRow2 (s : State) (n k : Nat) : Bool :=
  n == 0 || match (s.setTab k).n with
  | some m => n != m
  | none => (s.setRegions k).any (fun p => decide (n ≤ p.2.confirmed))
/-- Row 3. -/
def State.openRow3 (s : State) (k : Nat) : Bool := decide (s.setDepth k < ((s.setTab k).live.filter (·.2)).length)
/-- Row 4. -/
def State.openRow4 (s : State) (k : Nat) : Bool :=
  let d := s.setDepth k
  (s.setRegions k).any (fun p => match s.sheafOf p.2 with | some sh => decide (sh.dMax < d) | none => false) ||
  (decide (0 < d) && s.unlogged k)

/-- The remote alive members of the sets' sheaves, as (sheaf, index, member) (R441). -/
def State.awaited (s : State) (o : Op) : List (Nat × Nat × Member) :=
  (s.regions.vals.filter (fun r => r.inMask (o.arg 16 8))).flatMap (fun r => match s.sheafOf r with
    | some sh => (sh.members.zipIdx.filter (fun p => p.1.alive && !s.isLocal p.1)).map (fun p => (r.sheaf, p.2, p.1))
    | none => [])

/-- The record of a topology mismatch (R441, Tables 15-5 and 15-11), with its counter and event. -/
def State.topoRecord (s : State) (sheaf i : Nat) (x : Member) (node agent cause : Nat) : State :=
  let s1 := (s.setReg 0x0198 (BitVec.ofNat 32 (sheaf + 2 ^ 24 * i))).setReg 0x019C
    (BitVec.ofNat 32 (node + 2 ^ 18 * agent + 2 ^ 22 * cause + 2 ^ 24 * (x.level.getD 0)))
  (s1.bump (bootCnt 4)).event 91 (infoB sheaf i cause)

/-- The banks that step n of the sets needs and that are not ready: (PENDING region, bank), each with its state. DEDUCED (log entry 129): a
bank that an early message of step n itself has made ACTIVE was FREE before it (R191) and is ready. -/
def State.neededBanks (s : State) (o : Op) : List (Nat × Bank) :=
  (s.regions.vals.filter (fun r => r.inMask (o.arg 16 8) && r.role == .parityHome && r.sheaf != 0)).filterMap (fun r =>
    let key := bankKey r.link (s.bankOf r o.step)
    (s.banks.get key).bind (fun b => if b.st = .active && b.step == o.step then none else some (key, b)))
/-- Is no zeroing of the log bank of step n outstanding in the sets (R185)? -/
def State.logsReady (s : State) (o : Op) : Bool :=
  s.retire.all (fun w => match w with
    | .zeroLog k j x _ => !(bitAt (o.arg 16 8) k) || ((s.regions.get j).map (fun r => s.bankOf r o.step != x)).getD true
    | _ => true)
/-- Is a MERGE_BANK running on a bank? -/
def State.mergeOp (s : State) (key : Nat) : Bool :=
  s.ops.any (fun o => o.opcode == 0x22 && o.stage == .walking &&
    ((s.regions.get (o.arg 16 1)).map (fun r => bankKey r.link (s.bankOf r o.step) == key)).getD false)
/-- Start the merges that STEP_OPEN forces (R185). -/
def State.forceMerges (s : State) (o : Op) : State :=
  (s.neededBanks o).foldl (fun t p => if p.2.st = .confirmed then
      ({ t with banks := t.banks.set p.1 { p.2 with st := .merging, pos := 0 } }).bump (stepCnt 1) else t) s
/-- Is no slot of the sets' regions open (R182)? -/
def State.noSlots (s : State) (m : Nat) : Bool := s.tap.slots.vals.all (fun d => !s.deltaIn m d || d.waiting || d.msgs != 0)
/-- Does a SNAP_CUT before its freeze edge keep the sets' steps from opening (R245)? -/
def State.cutBefore (s : State) (m : Nat) : Bool :=
  match s.snap.cut with
  | some c => c.frozen.isNone && (c.mask &&& m) != 0
  | none => false
/-- Are the banks that a STEP_OPEN needs ready (R185)? -/
def State.banksReady (s : State) (o : Op) : Bool := (s.neededBanks o).isEmpty && s.logsReady o
/-- Note key: 1 once a STEP_OPEN has been counted in OPEN_WAIT. -/
def nkOpenWait : Nat := 962
/-- Count a STEP_OPEN that waits under R185 or R182, once (Table 6-11). -/
def State.countOpenWait (s : State) (o : Op) : State :=
  if ((s.op? o.id).map (fun x => x.n nkOpenWait)).getD 1 = 0 then (s.bump (stepCnt 3)).modOp o.id (fun x => x.keep nkOpenWait 1) else s
/-- The waits of a STEP_OPEN (R185, R182, R245): for its banks, whose confirmed ones it merges, and for a SNAP_CUT before its freeze edge;
then, while new slots of the sets wait at the tap, for the open slots. -/
def State.openWait (s : State) (o : Op) : State :=
  let m := o.arg 16 8
  if !s.banksReady o then ((s.forceMerges o).modOp o.id (fun o => { o with stage := .waitBank })).countOpenWait o
  else if s.cutBefore m then s.modOp o.id (fun o => { o with stage := .waitBank })
  else
    let s1 := s.modOp o.id (fun o => { o with stage := .waitSlot })
    if s.noSlots m then s1 else s1.countOpenWait o
/-- Do all waits of a STEP_OPEN end now? -/
def State.openReady (s : State) (o : Op) : Bool := s.banksReady o && s.noSlots (o.arg 16 8) && !s.cutBefore (o.arg 16 8)

/-- STEP_OPEN (R184, R441): the checks of Table 6-6, a recorded topology mismatch, then the level wait and the waits of R185. -/
def execStepOpen (op : Nat) (s : State) : Out :=
  .next (match s.work op 0x10 with
    | none => s
    | some o =>
      if o.stage ≠ .fresh then s else
      let ks := o.sets
      if ks.any (s.openRow1 o) || ks.any (s.openRow2 o.step) || ks.any s.openRow3 || ks.any s.openRow4 then s.fail o stConflict
      else
        let far := s.awaited o
        match far.find? (fun p => p.2.2.mismatch.isSome) with
        | some (sheaf, i, x) =>
          let at1 := x.mismatch.getD (0, 0)
          (s.topoRecord sheaf i x at1.1 at1.2 1).fail o stTopology
        | none =>
          (if far.all (fun p => p.2.2.matched) then (s.leaveSeq op).openWait o
           else s.park op (fun o => { o with stage := .waitLevel s.now })).settle)

/-- Open step n in set k (R185): live and OPEN, N and H, the norm slot, the fence slot and the tracker start afresh. -/
def State.openSet (s : State) (n k : Nat) : State :=
  let t := s.setTab k
  let idx := (s.setRegions k).map (·.1)
  let live := t.live ++ [(n, false)]
  let s1 := s.putSet k { t with d := s.setDepth k, h := Nat.max t.h n, n := some (n + 1), live := live, closing := none }
  let norm := s1.tap.norm.filter (fun p => !(idx.contains (p.1 / 3) && p.1 % 3 == n % 3))
  let formed := s1.tap.formed.filter (fun f => !idx.contains f.1 || live.any (fun p => p.1 == f.2.2))
  let tracker := s1.tap.tracker.filter (fun e => !idx.contains e.region)
  let fresh := fun (c : SendCtx) =>
    if idx.contains c.region then
      { c with fails := c.fails.del (n % 3), retired := c.retired.del (n % 3), late := c.late.del (n % 3) }
    else c
  let sctx := s1.port.sctx.map (fun p => (p.1, fresh p.2))
  { s1 with tap := { s1.tap with norm := norm, formed := formed, tracker := tracker }, port := { s1.port with sctx := sctx } }

/-- STEP_OPEN_EFFECT (R185): a STEP_OPEN whose level wait is over enters the waits of R185; when they are over the step is OPEN in
all the sets. -/
def execStepOpenEffect (op : Nat) (s : State) : Out :=
  .next (match s.waiting op 0x10 with
    | none => s
    | some o =>
      let matched := (s.awaited o).all (fun p => p.2.2.matched)
      let go := match o.stage with
        | .waitLevel _ => matched
        | .waitBank => true
        | .waitSlot => true
        | _ => false
      if !go then s
      else if s.openReady o then ((o.sets.foldl (fun t k => t.openSet o.step k) s).finish o stOk 0 0 0).settle
      else (s.openWait o).settle)

/-- TOPOLOGY_WAIT_TIMEOUT (R441, R442): WAIT_MS without every member level-matched ends the STEP_OPEN; so does a mismatch
recorded meanwhile, at once. -/
def execTopologyWaitTimeout (op : Nat) (s : State) : Out :=
  .next (match s.waiting op 0x10 with
    | none => s
    | some o =>
      match o.stage with
      | .waitLevel since =>
        let far := s.awaited o
        match far.find? (fun p => p.2.2.mismatch.isSome) with
        | some (sheaf, i, x) =>
          let at1 := x.mismatch.getD (0, 0)
          ((s.topoRecord sheaf i x at1.1 at1.2 1).fail o stTopology).settle
        | none =>
          match far.find? (fun p => !p.2.2.matched) with
          | some (sheaf, i, x) =>
            if s.past since (100000 * s.rf 0x0194 0 10) then
              let cause := match x.level with | some l => if l = s.ucode.level then 3 else 2 | none => 3
              (((s.topoRecord sheaf i x x.node x.agent cause).bump (bootCnt 5)).fail o stTopology).settle
            else s
          | none => s
      | _ => s)

/-! ## STEP_CLOSE, FENCE, STEP_CONFIRM (R186 to R188) -/

/-- STEP_CLOSE (R186): from its start edge the step takes no more in-step writes; the open slots of the sets close. -/
def execStepClose (op : Nat) (s : State) : Out :=
  .next (match s.work op 0x14 with
    | none => s
    | some o =>
      if o.stage ≠ .fresh then s
      else if o.sets.any (fun k => !(s.setTab k).live.contains (o.step, false)) then s.fail o stConflict
      else
        let s1 := o.sets.foldl (fun t k => t.putSet k { t.setTab k with closing := some o.step }) s
        let s2 := s1.park op (fun o => { o with stage := .closing s.now })
        (s2.closeSlots (fun d => s2.deltaIn (o.arg 16 8) d)).settle)

/-- An operation starts its fence (R163): what was handed off before now is counted. -/
def State.startFence (s : State) (o : Op) : State :=
  (s.park o.id (fun o => ({ o with stage := .fencing s.tap.nextId }).keep nkRetired 0)).settle

/-- FENCE (R187). -/
def execFence (op : Nat) (s : State) : Out :=
  .next (match s.work op 0x13 with
    | none => s
    | some o =>
      if o.stage ≠ .fresh then s
      else if o.sets.any (fun k => !(s.setTab k).live.contains (o.step, true)) then s.fail o stConflict
      else s.startFence o)

/-- Note keys of the operations that an operation waits for. -/
def nkWaits : Nat := 3000
/-- The operations that an operation waits for. -/
def Op.waitsOn (o : Op) : List Nat := (o.note.filter (fun p => decide (nkWaits ≤ p.1))).map (·.2)
/-- The operations of some opcodes on shared sets that started before an operation (R188, R194). -/
def State.startedBefore (s : State) (o : Op) (codes : List Nat) (p : Op → Bool) : List Nat :=
  (s.ops.filter (fun x => x.started && codes.contains x.opcode && x.shares o && p x && decide (x.n nkStart < o.n nkStart))).map (·.id)
/-- An operation waits for others. -/
def State.waitFor (s : State) (o : Op) (l : List Nat) : State :=
  s.park o.id (fun o => { o with stage := .waitFirst, note := l.zipIdx.foldl (fun t p => Tab.set t (nkWaits + p.2) p.1) o.note })
/-- Are the operations that one waits for final? -/
def State.waitOver (s : State) (o : Op) : Bool := o.waitsOn.all (fun i => (s.op? i).isNone)

/-- STEP_CONFIRM (R188): its conditions, the wait for earlier NORM_REDUCEs, then its fence, whose end is the commit point. -/
def execStepConfirm (op : Nat) (s : State) : Out :=
  .next (match s.waiting op 0x11 with
    | none => s
    | some o =>
      if o.stage = .waitFirst then (if s.waitOver o then s.startFence o else s)
      else if o.stage ≠ .fresh || !s.seqs.q.any (fun p => p.2 == op) then s
      else if o.sets.any (fun k =>
          !(s.setTab k).live.contains (o.step, true) || (s.setTab k).live.any (fun p => decide (p.1 < o.step))) ||
          s.ops.any (fun x => x.id != o.id && x.opcode == 0x11 && x.started && x.stage != .fresh && x.shares o)
        then s.fail o stConflict
      else
        let l := s.startedBefore o [0x53] (fun x => x.step == o.step)
        if l.isEmpty then s.startFence o else s.waitFor o l)

/-! ## STEP_ROLLBACK (R179, R194, R195) -/

/-- The smallest number above l that is congruent to f modulo 6 (R179). -/
def nextStep (f l : Nat) : Nat := l + 1 + (f % 6 + 6 - (l + 1) % 6) % 6

/-- The status of Table 6-8, row by row; 0 when none is met. -/
def State.rollbackStatus (s : State) (o : Op) : Nat :=
  let f := o.step
  let l := o.arg 24 6
  if o.sets.any s.unlogged then stNotSupported
  else if o.sets.any (fun k => decide (l < f) || decide (f ≤ (s.setTab k).c) || decide (l < (s.setTab k).h)) then stConflict
  else if s.ops.any (fun x => x.opening && x.shares o) then stConflict
  else 0

/-- Is a step among those from F to L? -/
def within (f l n : Nat) : Bool := decide (f ≤ n ∧ n ≤ l)

/-- Step 1 of R195 in set k: live steps from F to L are ROLLED_BACK. -/
def State.rollSet (s : State) (o : Op) (k : Nat) : State :=
  let t := s.setTab k
  let f := o.step
  let l := o.arg 24 6
  let gone := (t.live.filter (fun p => within f l p.1)).map (·.1)
  let s1 := s.putSet k { t with live := t.live.filter (fun p => !within f l p.1), h := Nat.max t.h l, n := some (nextStep f l)
                                closing := none }
  s1.modOp o.id (fun o => { o with note := gone.zipIdx.foldl (fun u p => Tab.set u (nkRolled + 4 * k + p.2) p.1) o.note })

/-- Steps 3 and 4 of R195: waiting deltas and parked references of the steps are discarded, their QUEUED messages DROPPED, the
ACTIVE banks of the sets' homes become ZEROING and held partial messages of the steps are discarded. -/
def State.rollTraffic (s : State) (o : Op) : State :=
  let m := o.arg 16 8
  let f := o.step
  let l := o.arg 24 6
  let s1 := (s.tap.slots.filter (fun p => p.2.waiting && p.2.bank != 3 && within f l p.2.stepNo && s.deltaIn m p.2)).foldl
    (fun t p => t.freeSlot p.1) s
  let park := s1.tap.park.filter (fun p => !(within f l p.step && ((s.regions.get p.region).map (fun r => r.inMask m)).getD false))
  let s2 := { s1 with tap := { s1.tap with park := park } }
  let s3 := (s2.maskCtxs m).foldl (fun t p => t.dropMsgs p.1 (fun x => x.st == .queued && x.bank != 3 && within f l x.step)) s2
  let homes := (s3.regions.filter (fun p => p.2.inMask m && p.2.role == .parityHome))
  let links := homes.map (fun p => p.2.link)
  let banks := s3.banks.map (fun p => (p.1,
    if links.contains (p.1 / 3) && p.2.st == .active && within f l p.2.step then { p.2 with st := .zeroing, pos := 0 } else p.2))
  let clean := fun (c : RecvCtx) =>
    if (homes.map (·.1)).contains c.region then
      { c with win := c.win.filter (fun q => !(q.2.st == .assembling && within f l (Hdr.parse q.2.header).step &&
        (Hdr.parse q.2.header).bank != 3)) }
    else c
  let rctx := s3.port.rctx.map (fun p => (p.1, clean p.2))
  { s3 with banks := banks, port := { s3.port with rctx := rctx } }

/-- Step 2 of R195 goes on: slots that carry a step from F to L close without hand-off, the others hand off. -/
def State.rollSlots (s : State) (o : Op) : State :=
  let m := o.arg 16 8
  let hit := fun (d : Delta) => match d.step with
    | some n => within o.step (o.arg 24 6) n
    | none => false
  let slots := s.tap.slots.map (fun p => (p.1,
    if s.deltaIn m p.2 && hit p.2 && !p.2.waiting && p.2.msgs == 0 then { p.2 with discard := true } else p.2))
  let s1 := { s with tap := { s.tap with slots := slots } }
  s1.closeSlots (fun d => s1.deltaIn m d)

/-- Does a write held in a step from F to L, or a slot that carries one, still stand in the way of the walk? -/
def State.rollBusy (s : State) (o : Op) : Bool :=
  let m := o.arg 16 8
  let hit := fun (n : Option Nat) => match n with
    | some n => within o.step (o.arg 24 6) n
    | none => false
  s.tap.held.any (fun h => h.cap != .none && hit h.inStep && ((s.regions.get h.region).map (fun r => r.inMask m)).getD false) ||
  s.tap.slots.vals.any (fun d => s.deltaIn m d && hit d.step && !d.waiting && d.msgs == 0)

/-- The tiles of the walk (R195 step 5): of each logged data region of the sets, the tiles of the granules whose stamp denotes a
step that was rolled back. -/
def State.rollTiles (s : State) (o : Op) : List (Nat × Nat) :=
  (s.regions.filter (fun p => p.2.inMask (o.arg 16 8) && p.2.logBlock.isSome)).flatMap (fun p =>
    let codes := (o.rolled p.2.set).map (fun n => n % 3 + 1)
    ((List.range p.2.granules).filter (fun g => codes.contains (s.dirtyAt p.2 g))).flatMap (fun g =>
      ((List.range 16).map (fun i => 16 * g + i)).filter (fun t => decide (t < p.2.tileCount)) |>.map (fun t => (p.1, t))))

/-- One tile of the walk: data ← data ⊕ the log tiles of the steps rolled back, as a restore write (R107). A tile whose data or
log cannot be read ends the operation with CHECK_FAIL (log entry 18). -/
def State.rollTile (s : State) (ext : Ext) (o : Op) (j t : Nat) : Option State :=
  match s.regions.get j with
  | none => none
  | some r =>
    match s.readTile ext j r t with
    | (none, _) => none
    | (some v, s1) =>
      match s1.xorTiles ext ((o.rolled r.set).filterMap (fun n => s1.logTile r (s1.bankOf r n) t)) v with
      | (some w, s2) => some (((s2.restoreTile j t r w).bump (stepCnt 2)).modOp o.id (fun o => { o with cursor := o.cursor + 1 }))
      | (none, _) => none

/-- End a STEP_ROLLBACK whose walk failed, with its retire work. -/
def State.rollFail (s : State) (o : Op) : State :=
  let s1 := s.rollRetire o
  match s1.op? o.id with
  | some x => s1.fail x stCheckFail
  | none => s1

/-- The walk goes on for some tiles; copy-before-write holds its restore writes. -/
def State.rollWalk (ext : Ext) (o : Op) : List (Nat × Nat) → State → State
  | [], s => s
  | (j, t) :: l, s =>
    if s.cbwHolds j t then s.cbwEngine j t
    else match s.rollTile ext o j t with
      | some s1 => State.rollWalk ext o l s1
      | none => s.rollFail o

/-- STEP_ROLLBACK (R194, R195): its waits, its checks, the effect edge with the slots, deltas, banks and messages of the steps,
then the walk in pieces and the drain. -/
def execStepRollback (op units : Nat) (ext : Ext) (s : State) : Out :=
  .next (match s.waiting op 0x12 with
    | none => s
    | some o =>
      let begin := fun (t : State) =>
        let st := t.rollbackStatus o
        if st ≠ 0 then t.fail o st
        else
          let t1 := (o.sets.foldl (fun u k => u.rollSet o k) t).modOp op (fun o => { o with stage := .walking })
          ((t1.rollTraffic o).rollSlots o).settle
      match o.stage with
      | .fresh =>
        if !s.seqs.q.any (fun p => p.2 == op) then s else
        let l := s.startedBefore o [0x14, 0x11, 0x12, 0x53] (fun _ => true)
        if l.isEmpty then begin s else s.waitFor o l
      | .waitFirst => if s.waitOver o then begin (s.unpark op (fun o => o)) else s
      | .walking =>
        if !s.seqs.q.any (fun p => p.2 == op) then s else
        if s.rollBusy o then (s.rollSlots o).settle
        else
          let todo := s.rollTiles o
          let s1 := State.rollWalk ext o ((todo.drop o.cursor).take units) s
          match s1.op? op with
          | some x =>
            if todo.length ≤ x.cursor then (s1.park op (fun o => { o with stage := .draining })).settle else s1
          | none => s1
      | _ => s)

/-! ## Retire work and merges (R124, R126, R190, R193) -/

/-- Tiles of the granules of a region that are not CLEAN. -/
def State.markedTiles (s : State) (r : Region) : List Nat :=
  ((List.range r.granules).filter (fun g => s.dirtyAt r g != 0)).flatMap (fun g =>
    ((List.range 16).map (fun i => 16 * g + i)).filter (fun t => decide (t < r.tileCount)))

/-- Zero tiles of region j as the engine's own writes; stops at one that copy-before-write holds. -/
def State.zeroTiles (s : State) (j : Nat) (q : Region) : List Nat → State × Bool
  | [] => (s, true)
  | t :: l => if s.cbwHolds j t then (s.cbwEngine j t, false) else (s.putTile q t (zeros 4096)).zeroTiles j q l

/-- Do one entry of zeroing; false when copy-before-write holds it back. -/
def State.retireOne (s : State) : Retire → State × Bool
  | .zeroLog _ j x _ =>
    match s.regions.get j with
    | none => (s, true)
    | some r =>
      match r.logBlock, s.regions.get r.link with
      | some b, some q => s.zeroTiles r.link q ((s.markedTiles r).map (fun t => b + x * r.tileCount + t))
      | _, _ => (s, true)
  | .confirmMap _ _ => (s, true)
  | .rollbackMap _ _ _ => (s, true)
  | .zeroBank j x =>
    match s.regions.get j with
    | none => ({ s with banks := s.banks.del (bankKey j x) }, true)
    | some q =>
      let n := ((s.regions.vals.find? (fun r => r.role == .parityHome && r.link == j)).map (·.tileCount)).getD 0
      let z := s.zeroTiles j q ((List.range n).map (fun t => x * n + t))
      if z.2 then ({ z.1 with banks := z.1.banks.del (bankKey j x) }, true) else z

/-- Merge the next stripe of a MERGING bank of home region j (R193): committed ← committed ⊕ bank tile, then the bank tile is
zeroed. none: it waits, or a tile cannot be read. -/
def State.mergeStripe (s : State) (ext : Ext) (j : Nat) (r : Region) (key : Nat) : Option State :=
  match s.banks.get key, s.regions.get r.link with
  | some b, some q =>
    let t := b.pos
    let bt := (key % 3) * r.tileCount + t
    let next := fun (u : State) =>
      if r.tileCount ≤ t + 1 then { u with banks := u.banks.del key }
      else { u with banks := u.banks.set key { b with pos := t + 1 } }
    if s.cbwHolds j t || s.cbwHolds r.link bt || !s.laneReady then none else
    match s.readApply ext r.link q bt with
    | (none, _) => none
    | (some v, s1) =>
      if allZero v then some (next (s1.putTile q bt (zeros 4096)))
      else match s1.readApply ext j r t with
        | (none, _) => none
        | (some c, s2) => some (next ((s2.putParity j t r (xorBytes c v)).putTile q bt (zeros 4096)))
  | _, _ => none

/-- A MERGING bank that no MERGE_BANK works on: home region, its descriptor, and the bank's key. -/
def State.forcedBank (s : State) : Option (Nat × Region × Nat) :=
  s.banks.findSome? (fun p => if p.2.st = .merging && !s.mergeOp p.1 then
      (s.regions.find? (fun q => q.2.role == .parityHome && q.2.link == p.1 / 3)).map (fun q => (q.1, q.2, p.1))
    else none)

/-- Pieces of retire work: entries of the list in order, then stripes of forced merges. -/
def State.retireLoop : Nat → State → State
  | 0, s => s
  | n + 1, s0 =>
    let s := State.retireMaps s0.retire.length s0
    match s.retire with
    | w :: l =>
      let q := s.retireOne w
      if q.2 then State.retireLoop n (State.retireMaps l.length { q.1 with retire := l }) else q.1
    | [] =>
      match s.forcedBank with
      | some (j, r, key) =>
        (match s.mergeStripe [] j r key with
         | some s1 => State.retireLoop n s1
         | none =>
           match s.banks.get key with
           | some b => (s.cbwEngine j b.pos).cbwEngine r.link ((key % 3) * r.tileCount + b.pos)
           | none => s)
      | none => s

/-- RETIRE_WORK (R124, R126, R188, R190, R195): `units` pieces of the work that confirms, rollbacks and forced merges left. -/
def execRetireWork (units : Nat) (s : State) : Out := .next (State.retireLoop units s).settle

/-- Merge stripes for an operation. -/
def State.mergeLoop (ext : Ext) (op j : Nat) (r : Region) (key : Nat) : Nat → State → State
  | 0, s => s
  | n + 1, s =>
    if (s.banks.get key).isNone then s else
    match s.mergeStripe ext j r key with
    | some s1 => State.mergeLoop ext op j r key n (s1.modOp op (fun o => { o with cursor := o.cursor + 1 }))
    | none =>
      match s.banks.get key with
      | some b => (s.cbwEngine j b.pos).cbwEngine r.link ((key % 3) * r.tileCount + b.pos)
      | none => s

/-- MERGE_BANK (R193): by the bank's state at its start it merges, waits for a merge, completes, or is refused. -/
def execMergeBank (op units : Nat) (ext : Ext) (s : State) : Out :=
  .next (match s.waiting op 0x22 with
    | none => s
    | some o =>
      let j := o.arg 16 1
      match s.regions.get j with
      | none => s.fail o stConflict
      | some r =>
        let key := bankKey r.link (s.bankOf r o.step)
        let held := s.seqs.q.any (fun p => p.2 == op)
        match o.stage with
        | .fresh =>
          if !held then s
          else if r.role ≠ .parityHome ∨ r.sheaf = 0 then s.fail o stConflict
          else match s.banks.get key with
            | none => if o.step ≤ r.confirmed then s.finish o stOk 0 0 0 else s.fail o stConflict
            | some b =>
              if b.step ≠ o.step then s.fail o stConflict
              else if b.st = .confirmed then
                ({ s with banks := s.banks.set key { b with st := .merging, pos := 0 } }).modOp op (fun o => { o with stage := .walking })
              else if b.st = .merging then s.park op (fun o => { o with stage := .waitBank })
              else s.fail o stConflict
        | .waitBank =>
          if ((s.banks.get key).map (fun b => b.st == .merging && b.step == o.step)).getD false then s else s.finish o stOk 0 0 0
        | .walking =>
          if !held then s else
          let s1 := State.mergeLoop ext op j r key units s
          match s1.op? op with
          | some x => if (s1.banks.get key).isNone then (s1.finish x stOk x.cursor 0 0).settle else s1.settle
          | none => s1
        | _ => s)

/-! ## NORM_REDUCE (R196 to R198) -/

/-- The local sum of step n over the sets: A_L, NONFIN_L and OVF. -/
def State.normLocal (s : State) (o : Op) : Nat × Nat × Bool :=
  (s.regions.filter (fun p => p.2.inMask (o.arg 16 8) && p.2.norm)).foldl (fun acc p =>
    match s.tap.norm.get (normKey p.1 o.step) with
    | some x =>
      let a := acc.1 + x.a.toNat
      (a % 2 ^ 640, acc.2.1 + x.nonfin.toNat, acc.2.2 || x.ovf || decide (2 ^ 640 ≤ a))
    | none => acc) (0, 0, false)

/-- A 64-bit reduction of an operation at a global address, an unsigned maximum or an add: in the own stack a write of the operation's
own, of the value that the writes before it leave (R14); else issued at the fabric port once, outstanding until it completes (R336). -/
def State.reduceCell (s : State) (op a : Nat) (max : Bool) (v cls : Nat) : State :=
  if s.inStack a 8 then
    let old := leNat (s.pendingRead (gOff a) 8)
    s.engineWrite op a (leBytes 8 (if max then Nat.max old v else (old + v) % 2 ^ 64)) cls
  else
    let x : Xfer := { id := s.port.nextXfer, op := op, kind := .reduce max (BitVec.ofNat 64 v), addr := a, cls := cls, tries := 1
                      path := 0, onPath := 0, timeout := 1000000, first := s.now, due := s.now + 1000000 }
    let s1 := s.send (.reduce a max v cls (s.routeTo a))
    { s1 with port := { s1.port with xfers := s1.port.xfers ++ [x], nextXfer := s1.port.nextXfer + 1 } }
/-- Note key: 1 once an operation has added to ARRIVED of its cell. -/
def nkArrived : Nat := 961
/-- Byte of ARRIVED in the cell of NORM_REDUCE (R197) or TED_PACK (Table 9-2), and the cell's address. -/
def Op.arrivedAt (o : Op) : Nat := if o.opcode = 0x53 then o.arg 24 8 + 176 else o.arg 40 8 + 16
/-- Add to ARRIVED once every reduction of the operation is acknowledged (R198, R274). -/
def State.arrive (s : State) (op : Nat) : State :=
  match s.op? op with
  | none => s
  | some o =>
    if o.n nkArrived = 1 || s.port.xfers.any (fun x => x.op == op) || s.engineHeld op then s
    else (s.reduceCell op o.arrivedAt false 1 1).modOp op (fun o => { o.keep nkArrived 1 with hold := s.now })

/-- The 22 fields that a contribution adds to its cell (R197). -/
def normFields (x : Nat × Nat × Bool) : List Nat :=
  (List.range 20).map (fun i => bits x.1 (32 * i) 32) ++ [x.2.1, bit x.2.2]

/-- NORM_REDUCE (R196, R198): the adds of the local sum at C1, then ARRIVED, then the polls. -/
def execNormReduce (op : Nat) (s : State) : Out :=
  .next (match s.work op 0x53 with
    | none => s
    | some o =>
      if o.stage ≠ .fresh then s
      else if o.sets.any (fun k => !(s.setTab k).live.contains (o.step, true)) then s.fail o stConflict
      else
        let cell := o.arg 24 8
        let s1 := (normFields (s.normLocal o)).zipIdx.foldl (fun t p => t.reduceCell op (cell + 8 * p.2) false p.1 1) s
        ((s1.park op (fun o => { o with stage := .polling, hold := s.now })).settle.arrive op).settle)

/-- The FP64 bits of a complete cell (R198). -/
def normResult (v : List Byte) : Nat :=
  let t := ((List.range 20).map (fun i => field v (8 * i) 8 * 2 ^ (32 * i))).sum
  if 0 < field v 160 8 then 0x7FF8000000000000
  else if 0 < field v 168 8 ∨ 2 ^ 640 ≤ t then 0x7FF0000000000000
  else encodeIeee 11 52 false t (-298)

/-- NORM_CELL_POLL (R198): once its own ARRIVED add is issued, the cell is read every 2.0 µs; more contributions than EXPECT end the operation with CHECK_FAIL, exactly
EXPECT give RESULT. A poll that fails ends it with the read's status (R336). -/
def execNormCellPoll (op : Nat) (ext : Ext) (s : State) : Out :=
  .next (match s.waiting op 0x53 with
    | none => s
    | some o =>
      if o.stage ≠ .polling then s
      else if 0 < o.n nkErrors then (s.fail o stCheckFail).settle
      else if o.n nkArrived = 0 then (s.arrive op).settle
      else if !s.past o.hold 200 then s
      else match s.readAt ext (o.arg 24 8) 192 1 with
        | (.data v, s1) =>
          let n := field v 176 8
          let e := o.arg 32 4
          if e < n then (s1.fail o stCheckFail).settle
          else if n = e then (s1.finish o stOk 0 (normResult v) 0).settle
          else s1.modOp op (fun o => { o with hold := s.now })
        | (.error, s1) => (s1.fail o stCheckFail).settle
        | (.path, s1) => (s1.fail o stPathFailed).settle)

end Sys2Proof.Machine
end

