-- ==== Sys2Proof/Machine/Regions.lean ====
section
/-! DEFINITION. Regions and sheaves (chapters 2 and 13): REGION_SETUP, REGION_RELEASE, SHEAF_JOIN, SHEAF_LEAVE. -/

namespace Sys2Proof.Machine

/-! ## First fit (R120, R125, R307) -/

/-- The lowest start of a free run of `n` units among `total`, beside the used (start, length) runs. -/
def firstFit (total n : Nat) (used : List (Nat × Nat)) : Option Nat :=
  ((0 :: used.map (fun u => u.1 + u.2)).filter (fun b =>
    decide (b + n ≤ total) && used.all (fun u => !overlap b n u.1 u.2))).min?

/-- Bytes of a guard line in a region's guard block: 128 in a RICK (R307). -/
def Region.lineBytes (r : Region) : Nat := if r.role = .rick then 128 else 2 * guardSymbols r.guardMax
/-- Tiles of a region's guard block. -/
def Region.guardTiles (r : Region) : Nat := ceilDiv (r.tileCount * r.lineBytes) 4096
/-- The stack tile of a new guard block: none when no run is free; 0 when the region needs no block. -/
def State.fitGuard (s : State) (r : Region) : Option Nat :=
  if r.guardTiles = 0 then some 0 else
  let base := s.guardSpan.base
  (firstFit s.guardSpan.count r.guardTiles
    (s.regions.vals.filterMap (fun q => q.guardBlock.map (fun b => (b - base, q.guardLen))))).map (base + ·)
/-- The first dirty-map entry of a new region of a captured role (R125); 0 when it needs none. -/
def State.fitDirty (s : State) (r : Region) : Option Nat :=
  if !r.role.captured then some 0 else
  firstFit 1048576 r.granules (s.regions.vals.filterMap (fun q => q.dirtyBase.map (fun b => (b, q.granules))))
/-- The first tile of a new log block in the linked DELTA_LOG (R120); 0 when the region keeps none. -/
def State.fitLog (s : State) (r : Region) (dMax : Nat) : Option Nat :=
  if !r.log then some 0 else
  match s.regions.get r.link with
  | none => none
  | some q => firstFit q.tileCount ((dMax + 1) * r.tileCount)
      ((s.regions.vals.filter (fun x => x.link == r.link)).filterMap (fun x =>
        x.logBlock.map (fun b => (b, (s.dMax x + 1) * x.tileCount))))

/-! ## REGION_SETUP (R45 to R55, R62, R115, R125, R177, R233, R238, R306 to R308, R372, R392, R393) -/

/-- Does LINK name what Table 2-2 asks of the role? -/
def State.linkOk (s : State) (r : Region) : Bool :=
  let is := fun (role : Role) => match s.regions.get r.link with
    | some q => r.link != 0xFF && q.role == role && q.jobTag == r.jobTag
    | none => false
  match r.role with
  | .data | .tedderResidue | .runtimeRecord => if r.log then is .deltaLog else r.link == 0xFF
  | .parityHome =>
    is .pending && (match s.regions.get r.link with
      | some q => q.tileCount == r.tileCount || q.tileCount == 2 * r.tileCount || q.tileCount == 3 * r.tileCount
      | none => false)
  | .tedderOut => r.link == 0xFF || is .tedderResidue
  | _ => r.link == 0xFF

/-- Does a registered region hold ledger entry e? -/
def State.ledgerHeld (s : State) (e : Nat) : Bool := s.regions.vals.any (fun r => r.ledger == some e)
/-- HELD entries that no region holds and that overlap a range, with their numbers. -/
def State.unheld (s : State) (base n : Nat) : List (Nat × Ledger) :=
  if !s.ledgerOn then [] else
  (List.range 512).filterMap (fun e => match s.ledgerEntry e with
    | some x => if x.state = 1 && !s.ledgerHeld e && overlap base n x.tileBase x.tileCount then some (e, x) else none
    | none => none)
/-- The entry that a setup of a tag takes: a free one, those of its own tag that overlap its range counted, else the RELEASED
one of the lowest RECEIPT. -/
def State.takeEntry (s : State) (base n tag : Nat) : Option Nat :=
  let own := ((s.unheld base n).filter (fun p => p.2.jobTag == tag)).map (·.1)
  match (List.range 512).find? (fun e => own.contains e || (s.ledgerEntry e).isNone) with
  | some e => some e
  | none => ((List.range 512).filterMap (fun e => match s.ledgerEntry e with
      | some x => if x.state = 2 then some (x.receipt, e) else none
      | none => none)).foldl (fun (b : Option (Nat × Nat)) p => match b with
        | some x => if p.1 < x.1 then some p else some x
        | none => some p) none |>.map (·.2)

/-- Roles whose logical ranges R47 keeps apart. -/
def Role.logical (r : Role) : Bool := r == .data || r == .tedderResidue || r == .runtimeRecord

/-- The CONFIG_CONFLICT conditions of a setup (Table 2-6, R125, R177, R233, R306, R307, R372, R392, R393). -/
def State.setupConflict (s : State) (r : Region) : Bool :=
  let me : Span := ⟨r.tileBase, r.tileCount⟩
  (s.regions.free 256).isNone ||
  s.regions.vals.any (fun q => overlap r.tileBase r.tileCount q.tileBase q.tileCount) ||
  [s.spillSpan, s.guardSpan, s.parkSpan, s.ledgerSpan].any (fun x => x.meets me) ||
  (r.role.logical && s.regions.vals.any (fun q => q.role.logical && q.jobTag == r.jobTag &&
    overlap r.logicalBase r.tileCount q.logicalBase q.tileCount)) ||
  !s.linkOk r ||
  (r.role == .rick && (!(decide (s.boot.rickBase ≤ r.tileBase ∧ r.tileBase + r.tileCount ≤ s.boot.rickBase + s.boot.rickTiles)) ||
    s.rick.isSome || r.tileCount % 2 == 1 || decide (r.tileCount < 2048) || r.guard != 0 || r.adapt)) ||
  s.setLive r.set || (s.fitGuard r).isNone || (s.fitDirty r).isNone ||
  (s.ledgerOn && (s.takeEntry r.tileBase r.tileCount r.jobTag).isNone)

/-- Is every WY_SRAM_PART field at its minimum or above (R39)? -/
def State.partOk (s : State) : Bool :=
  decide (8 ≤ s.partPair ∧ 4 ≤ s.partCode ∧ 8 ≤ s.partLand ∧ 2 ≤ s.partRbs)

/-- The status of a setup of an image; 0 when it passes. -/
def State.setupStatus (s : State) (o : Op) (r : Option Region) : Nat :=
  match r with
  | none => stNotSupported
  | some r =>
    if !s.partOk then stNotSupported
    else if r.jobTag ≠ o.jobTag then stNackTag
    else if s.setupConflict r then stConflict
    else if (s.unheld r.tileBase r.tileCount).any (fun p => p.2.jobTag != r.jobTag) then stNackTag
    else 0

/-- Drop the pairing entries of a range of stack tiles (R115). -/
def State.dropPairs (s : State) (base n : Nat) : State :=
  { s with tap := { s.tap with pairs := s.tap.pairs.filter (fun p => !(decide (base ≤ p.1 ∧ p.1 < base + n))) } }

/-- Register a region in SETUP in the lowest free slot (DESIGN CHOICE, log entry 107: the manual leaves the slot open), with its guard block, dirty-map entries and ledger entry. -/
def State.enterSetup (s : State) (op : Nat) (r : Region) : State :=
  let i := (s.regions.free 256).getD 0
  let e := if s.ledgerOn then s.takeEntry r.tileBase r.tileCount r.jobTag else none
  let own := ((s.unheld r.tileBase r.tileCount).filter (fun p => p.2.jobTag == r.jobTag)).map (·.1)
  let r1 := { r with
    guardBlock := if r.guardTiles = 0 then none else s.fitGuard r, guardLine := r.lineBytes, guardLen := r.guardTiles
    dirtyBase := if r.role.captured then s.fitDirty r else none, ledger := e, winStart := s.now }
  let s1 := own.foldl (fun t k => t.stackWrite (t.ledgerOff k) (zeros 32)) s
  let s2 := match e with
    | some k => s1.putLedger k { tileBase := r.tileBase, tileCount := r.tileCount, jobTag := r.jobTag, state := 1, receipt := 0 }
    | none => s1
  let s3 := { s2.dropPairs r.tileBase r.tileCount with regions := s2.regions.set i r1 }
  s3.modOp op (fun o => { o.keep nkRegion i with stage := .walking, aux := i })

/-- Does a setup touch the tiles of the region: read, zeroed, or read for their lines? -/
def Region.setupWalks (r : Region) : Bool := r.role == .pending || r.role.digested || decide (0 < r.guard)

/-- One tile of a setup; none when it cannot be read. -/
def State.setupTile (s : State) (ext : Ext) (j : Nat) (r : Region) (t : Nat) : Option State :=
  if r.role = .pending then some (s.putTile r t (zeros 4096)) else
  let raw := s.tileRaw ext (r.tileBase + t)
  if !raw.2.isEmpty then none else
  let s1 := s.putLine r t r.guard raw.1
  some (if r.role.digested then s1.modRegion j (fun r => { r with digest := r.digest + crc64 raw.1 * r.weight t }) else s1)

/-- Tiles of a setup until `n` are done, all are, or one fails. -/
def State.setupLoop (ext : Ext) (op j : Nat) (r : Region) : Nat → State → State × Bool
  | 0, s => (s, true)
  | n + 1, s =>
    let t := ((s.op? op).map (·.cursor)).getD 0
    if r.tileCount ≤ t then (s, true) else
    match s.setupTile ext j r t with
    | some s1 => State.setupLoop ext op j r n (s1.modOp op (fun o => { o with cursor := t + 1 }))
    | none => (s, false)

/-- Does the header at a rick slot hold: its MAGIC and CRC (Table 8-2)? -/
def State.headerOk (s : State) (x : Nat) : Bool :=
  let h := s.stackRead ((s.slotTile x).1 * 4096) 64
  field h 0 4 == 0x5759534C && (h.drop 56 == s.headerCrc x h)
/-- The state of slot x as the setup of the RICK reads it (R238). -/
def State.slotAtSetup (s : State) (x : Nat) : SnapSlot :=
  let h := s.stackRead ((s.slotTile x).1 * 4096) 64
  if !s.headerOk x then ⟨.empty, 0, 0⟩ else
  let st : SnapState := match bits (field h 4 1) 0 3 with
    | 2 => .complete | 3 => .complete | 4 => .drained | _ => .empty
  ⟨st, bits (field h 5 1) 0 2, field h 40 8⟩
/-- Read both slot headers of the RICK (R238): the sequence goes on from the highest SEQ of a valid header, and a header
whose state changes is rewritten (R235). -/
def State.readSlots (s : State) : State :=
  let a := s.slotAtSetup 0
  let b := s.slotAtSetup 1
  let turn := fun (t : State) x => if s.headerOk x && bits (field (s.stackRead ((s.slotTile x).1 * 4096) 64) 4 1) 0 3 != (t.snapSlot x).st.code
    then t.setSlotState x (t.snapSlot x).st else t
  turn (turn { s with snap := { s.snap with slot0 := a, slot1 := b, seq := Nat.max a.seq b.seq } } 0) 1

/-- Take a region whose setup ends without success out again; writes held meanwhile are performed. -/
def State.undoSetup (s : State) (j : Nat) : State :=
  match s.regions.get j with
  | none => s
  | some r =>
    let loose := s.tap.held.map (fun (h : Held) => if h.region = j then
      { h with region := looseRegion, tile := r.tileBase + h.tile, cap := .none, slot := none } else h)
    { s with regions := s.regions.del j, tap := { s.tap with held := loose, slots := s.tap.slots.filter (fun p => p.2.region != j) } }

/-- REGION_SETUP (R45): the image is read once and checked; the region stands in SETUP while its tiles are read, zeroed or given
their lines, and then becomes LIVE. A tile that returns an error response ends it with CHECK_FAIL and no region. -/
def execRegionSetup (op units : Nat) (ext : Ext) (s : State) : Out :=
  .next (match s.work op 0x01 with
    | none => s
    | some o =>
      match o.stage with
      | .fresh =>
        (match s.readAt ext (o.arg 16 8) 64 1 with
        | (.error, s1) => s1.fail o stCheckFail
        | (.path, s1) => s1.fail o stPathFailed
        | (.data v, s1) =>
          let r := parseImage v
          let st := s1.setupStatus o r
          if st ≠ 0 then s1.fail o st else
          match r with
          | some r => s1.enterSetup op r
          | none => s1)
      | .walking =>
        let j := o.n nkRegion
        (match s.regions.get j with
        | none => s
        | some r =>
          let q := if r.setupWalks then State.setupLoop ext op j r units s else (s, true)
          match q.1.op? op, q.1.regions.get j with
          | some x, some r1 =>
            if !q.2 then ((q.1.undoSetup j).fail x stCheckFail).settle
            else if r.setupWalks && decide (x.cursor < r.tileCount) then q.1.yieldPoint op
            else
              let s1 := q.1.modRegion j (fun r => { r with state := .live })
              let s2 := if r.role = .rick then s1.readSlots else s1
              (s2.finish x stOk x.cursor r1.digest.toNat j).settle
          | _, _ => q.1)
      | _ => s)

/-! ## Leaving a sheaf (R474) -/

/-- Region j leaves its sheaf: contexts, parked references and waiting deltas, log block, migration map (R224), banks, descriptor fields, decode slots,
and with its last region the membership table and dedup keys. -/
def State.leaveSheaf (s : State) (j : Nat) : State :=
  match s.regions.get j with
  | none => s
  | some r =>
    let s1 := (s.freeSend (fun c => c.region == j)).freeRecv (fun c => c.region == j)
    let s2 := { s1 with tap := { s1.tap with park := s1.tap.park.filter (fun p => p.region != j) } }
    let s3 := (s2.tap.slots.filter (fun p => p.2.region == j && p.2.waiting)).foldl (fun t p => t.freeSlot p.1) s2
    let mine := s3.banks.filter (fun p => r.role == .parityHome && p.1 / 3 == r.link)
    let banks := s3.banks.map (fun p => (p.1, if Tab.has mine p.1 then { p.2 with st := BankState.zeroing, pos := 0 } else p.2))
    let fresh := (mine.filter (fun p => !s3.retire.contains (.zeroBank (p.1 / 3) (p.1 % 3)))).map (fun p => Retire.zeroBank (p.1 / 3) (p.1 % 3))
    let dec := (s3.tables.dec.map (fun p => (p.1, if p.2.region = j then { p.2 with stale := true } else p.2))).filter
      (fun p => !(p.2.stale && p.2.refs.isEmpty))
    let s4 := { s3 with banks := banks, retire := s3.retire ++ fresh, tables := { s3.tables with dec := dec } }
    let s5 := s4.modRegion j (fun r => { r with
      member := 0xFF, sheaf := 0, epoch := 0, board := 0, shelf := 0, row := 0, domainOvr := false, logBlock := none, mig := none
      quiet := none, settleFail := false })
    if (s5.sheafRegions r.sheaf).isEmpty then
      { s5 with sheaves := s5.sheaves.del r.sheaf
                sward := { s5.sward with keys := s5.sward.keys.filter (fun k => k.sheaf != r.sheaf)
                                         sent := s5.sward.sent.filter (fun x => x.sheaf != r.sheaf) } }
    else s5

/-- The status of Table 2-13; 0 when none is met. -/
def State.leaveStatus (s : State) (o : Op) : Nat :=
  let j := o.arg 16 1
  if o.epoch = 0 then stNotSupported else
  match s.regions.get j with
  | none => stConflict
  | some r =>
    if r.sheaf = 0 then stConflict
    else if o.epoch ≠ r.epoch then stStaleEpoch
    else if s.setLive r.set || s.setOpRunning 0x11 r.set || s.setOpRunning 0x12 r.set ||
      s.ops.any (fun x => x.id != o.id && x.names j) then stConflict
    else 0

/-- SHEAF_LEAVE (R474). -/
def execSheafLeave (op : Nat) (s : State) : Out :=
  .next (match s.work op 0x04 with
    | none => s
    | some o =>
      let st := s.leaveStatus o
      if st ≠ 0 then s.fail o st else ((s.leaveSheaf (o.arg 16 1)).finish o stOk 0 0 0).settle)

/-! ## SHEAF_JOIN (R56 to R62, R138, R351, R378) -/

/-- Read a sheaf table at C1: its header gives the length of the one read (R59, R387). -/
def State.readTable (s : State) (ext : Ext) (a : Nat) : Rd × State :=
  match s.readAt ext a 16 1 with
  | (.data h, _) => s.readAt ext a (sheafTabLen h) 1
  | x => x

/-- Do two tables hold the same header and entries (R59)? -/
def Sheaf.same (a b : Sheaf) : Bool :=
  decide (a.k = b.k ∧ a.m = b.m ∧ a.dMax = b.dMax ∧ a.strict = b.strict ∧ a.coef = b.coef ∧ a.coefDigest = b.coefDigest ∧
    a.epoch = b.epoch) &&
  a.members.map (fun x => (x.triple, x.board, x.shelf, x.row, x.tiles)) ==
    b.members.map (fun x => (x.triple, x.board, x.shelf, x.row, x.tiles))

/-- The index at which region j of this engine stands in a table, when it stands there exactly once. -/
def State.placeIn (s : State) (sh : Sheaf) (j : Nat) : Option Nat :=
  match (sh.members.zipIdx.filter (fun p => s.isLocal p.1 && p.1.region == j)).map (·.2) with
  | [i] => some i
  | _ => none

/-- Does a region's role fit a member index? -/
def Sheaf.roleFits (sh : Sheaf) (r : Region) (i : Nat) : Bool := if i < sh.k then r.role.logical else r.role == .parityHome
/-- Do the TILES fields fit (R57)? -/
def Sheaf.tilesFit (sh : Sheaf) (r : Region) (i : Nat) : Bool :=
  ((sh.mem? i).map (fun x => x.tiles == r.tileCount)).getD false && (sh.members.drop sh.k).all (fun x => x.tiles == sh.stripes)
/-- Does a PARITY_HOME's PENDING region hold D_MAX + 1 banks (R62)? -/
def State.banksFit (s : State) (r : Region) (dMax : Nat) : Bool :=
  r.role != .parityHome || ((s.regions.get r.link).map (fun q => decide ((dMax + 1) * r.tileCount ≤ q.tileCount))).getD false
/-- References on the inactive row bank of a region. -/
def State.inactiveRefs (s : State) (j : Nat) : Nat := s.rowRefs j (1 - (s.rowSlot j).act)
/-- The count of lark peers would exceed 1,024 with region j in a sheaf (R378). -/
def State.peersOver (s : State) (j id : Nat) (sh : Sheaf) : Bool :=
  decide (1024 < ({ s.modRegion j (fun r => { r with sheaf := id }) with sheaves := s.sheaves.set id sh }).larkPeers.length)

/-- The CONFIG_CONFLICT conditions of Table 2-10. -/
def State.joinConflict (s : State) (j : Nat) (r : Region) (t : SheafTab) : Bool :=
  match s.placeIn t.sh j with
  | none => true
  | some i =>
    r.state != .live || r.sheaf != 0 || !t.sh.roleFits r i || !t.sh.tilesFit r i || !s.banksFit r t.sh.dMax || s.setLive r.set ||
    ((s.sheaves.get t.id).map (fun x => !(x.same t.sh))).getD false ||
    (t.sh.coef == 0 && s.inactiveRefs j != 0) || s.peersOver j t.id t.sh

/-- The labels that STRICT compares, with their codes (Table 2-9, Table 16-3). -/
def Sheaf.labels (sh : Sheaf) (x : Member) : List (Nat × Nat) := [(1, x.board), (2, x.shelf), (3, x.row)].take sh.strict
/-- The first label conflict of member i: the other member, the label's code, the value (R60). -/
def Sheaf.labelConflict (sh : Sheaf) (i : Nat) : Option (Nat × Nat × Nat) :=
  match sh.mem? i with
  | none => none
  | some x =>
    (sh.members.zipIdx.filter (fun p => p.2 != i)).findSome? (fun p =>
      ((sh.labels x).zip (sh.labels p.1)).findSome? (fun q =>
        if q.1.2 = q.2.2 ∨ q.1.2 = 0 ∨ q.2.2 = 0 then some (p.2, q.1.1, Nat.min q.1.2 q.2.2) else none))

/-- The row block that a join would use: Cauchy rows, or the active ones. -/
def State.joinRows (s : State) (j : Nat) (sh : Sheaf) : List Byte :=
  if sh.coef = 0 then cauchyBlock sh.k sh.m else (s.rowSlot j).active

/-- Install a row block as a TABLE_LOAD does: into the inactive bank, which becomes active with the next generation (R350). -/
def TabSlot.install (t : TabSlot) (v : List Byte) : TabSlot :=
  if t.act = 0 then { t with act := 1, gen := (t.gen + 1) % 16, bank1 := v } else { t with act := 0, gen := (t.gen + 1) % 16, bank0 := v }
/-- Install a region's row block; the decode slots keyed by its older generations take no new reference, and those without one are
freed (R345). -/
def State.installRows (s : State) (j : Nat) (v : List Byte) : State :=
  let t := (s.rowSlot j).install v
  let dec := (s.tables.dec.map (fun p => (p.1, if p.2.region = j ∧ p.2.gen ≠ t.gen then { p.2 with stale := true } else p.2))).filter
    (fun p => !(p.2.stale && p.2.refs.isEmpty))
  { s with tables := { s.tables with rows := s.tables.rows.set j t, dec := dec } }

/-- The status of a join after the table has been read; 0 when it passes. -/
def State.joinStatus (s : State) (o : Op) (t : Option SheafTab) : Nat :=
  let j := o.arg 16 1
  match t, s.regions.get j with
  | none, _ => stNotSupported
  | some _, none => stConflict
  | some t, some r =>
    if s.joinConflict j r t then stConflict else
    let i := (s.placeIn t.sh j).getD 0
    if (t.sh.labelConflict i).isSome && !o.fOverride then stDomain
    else if t.sh.coefDigest ≠ (crc32c (coefBytes (s.joinRows j t.sh) t.sh.m t.sh.k)).toNat then stCheckFail
    else if !s.ctxRoom ((s.sheaves.get t.id).getD t.sh) i then stConflict
    else if (s.fitLog r t.sh.dMax).isNone then stLogFull
    else 0

/-- Zero the new log block of region j: R121 and R124 keep its banks zero outside the sectors of their steps (DEDUCED, log entry 130).
A tile that copy-before-write holds is zeroed after its copy. -/
def State.zeroBlock (s : State) (r : Region) (b dMax : Nat) : State :=
  match s.regions.get r.link with
  | some q => (List.range ((dMax + 1) * r.tileCount)).foldl (fun t i => t.repairTile r.link (b + i) q (zeros 4096)) s
  | none => s
/-- Put region j into a sheaf at member index i: its descriptor fields, rows, contexts and log block. The sheaf table that the
engine holds already stays. -/
def State.enterSheaf (s : State) (j i : Nat) (t : SheafTab) (ovr : Bool) : State :=
  match s.regions.get j, t.sh.mem? i with
  | some r, some x =>
    let sh := (s.sheaves.get t.id).getD t.sh
    let block := s.fitLog r t.sh.dMax
    let s1 := { s with sheaves := s.sheaves.set t.id sh }
    let s2 := s1.modRegion j (fun r => { r with
      member := i, sheaf := t.id, epoch := sh.epoch, board := x.board, shelf := x.shelf, row := x.row, domainOvr := ovr
      logBlock := if r.log then block else none })
    let s3 := if t.sh.coef = 0 then s2.installRows j (cauchyBlock t.sh.k t.sh.m) else s2
    let s4 := s3.addCtxs j t.id sh i
    match block with
    | some b => if r.log then s4.zeroBlock r b t.sh.dMax else s4
    | none => s4
  | _, _ => s

/-- An operation that carries a domain conflict set aside by OVERRIDE: DETAIL and OBJECT of its record (Table 16-3). -/
def Op.keepDomain (o : Op) (sheaf own : Nat) (c : Nat × Nat × Nat) : Op :=
  (o.keep nkDomain (sheaf + 2 ^ 24 * c.2.1 + 2 ^ 26 * c.2.2 + 1)).keep nkDomainObj (own + 2 ^ 8 * c.1)

/-- The lark time of every member of a sheaf becomes the present (R381). -/
def State.larkNow (s : State) (id : Nat) : State :=
  s.modSheaf id (fun sh => { sh with members := sh.members.map (fun x => { x with lark := s.now }) })

/-- SHEAF_JOIN (R59 to R61). A join by another region of a sheaf that the engine holds keeps its lark times (R59). -/
def execSheafJoin (op : Nat) (ext : Ext) (s0 : State) : Out :=
  .next (match s0.work op 0x03 with
    | none => s0
    | some o =>
      match s0.readTable ext (o.arg 24 8) with
      | (.error, s) => s.fail o stCheckFail
      | (.path, s) => s.fail o stPathFailed
      | (.data v, s) =>
        let t := parseSheaf v s.now
        let st := s.joinStatus o t
        if st ≠ 0 then s.fail o st else
        match t with
        | none => s
        | some t =>
          let j := o.arg 16 1
          let i := (s.placeIn t.sh j).getD 0
          let c := t.sh.labelConflict i
          let o1 := match c with
            | some c => o.keepDomain t.id i c
            | none => o
          let s1 := s.enterSheaf j i t c.isSome
          ((if s.sheaves.has t.id then s1 else s1.larkNow t.id).finish o1 stOk 0 0 i).settle)

/-! ## REGION_RELEASE (R394, R395) -/

/-- The status of a release; 0 when it passes. -/
def State.releaseStatus (s : State) (o : Op) : Nat :=
  let j := o.arg 16 1
  let e := o.arg 18 2
  if bitAt (o.arg 17 1) 0 then
    if j ≠ 0 then stNotSupported else
    match (if s.ledgerOn then s.ledgerEntry e else none) with
    | none => stConflict
    | some x =>
      if x.state ≠ 1 || s.ledgerHeld e then stConflict
      else if x.jobTag ≠ o.jobTag then stNackTag else 0
  else if e ≠ 0 then stNotSupported
  else match s.regions.get j with
    | none => stConflict
    | some r =>
      let busy := fun (x : SnapSlot) => x.st == .filling || x.st == .draining
      if r.state = .setup || r.state = .releasing || s.ops.any (fun x => x.id != o.id && x.names j) ||
        s.regions.any (fun p => p.1 != j && p.2.link != 0xFF && p.2.link == j) || s.setLive r.set ||
        (r.role == .rick && (busy s.snap.slot0 || busy s.snap.slot1)) ||
        ((s.snap.cut.map (fun c => c.frozen.isSome && c.regions.contains j)).getD false) then stConflict
      else 0

/-- Step 1 of R395 for a region: RELEASING, out of its sheaf, with its entries, slots and held writes dropped (Table 4-5). -/
def State.beginRelease (s : State) (j : Nat) : State :=
  match s.regions.get j with
  | none => s
  | some r =>
    let s1 := (s.leaveSheaf j).modRegion j (fun r => { r with state := .releasing, mig := none, reguard := none })
    let s2 := (s1.tap.slots.filter (fun p => p.2.region == j)).foldl (fun t p => t.freeSlot p.1) (s1.dropPairs r.tileBase r.tileCount)
    (s2.tap.held.filter (fun h => h.region == j)).foldl (fun t h =>
      ((t.refuseWrite h (r.tileBase + h.tile)).bump (faultCnt 1)).event 65 (infoA j h.tile)) s2

/-- The range and the strength that a release zeroises. -/
def State.releaseRange (s : State) (o : Op) : Nat × Nat :=
  if bitAt (o.arg 17 1) 0 then ((s.ledgerEntry (o.arg 18 2)).map (fun x => (x.tileBase, x.tileCount))).getD (0, 0)
  else ((s.regions.get (o.arg 16 1)).map (fun r => (r.tileBase, r.tileCount))).getD (0, 0)

/-- Zero tile t of a release: with its guard line for a region; tiles beyond the stack do not exist. -/
def State.releaseTile (s : State) (o : Op) (t : Nat) : State :=
  let base := (s.releaseRange o).1
  match (if bitAt (o.arg 17 1) 0 then none else s.regions.get (o.arg 16 1)) with
  | some r => s.putTile r t (zeros 4096)
  | none => if base + t < stackTiles then s.stackZero ((base + t) * 4096) 4096 else s

/-- Zero up to `n` more tiles. -/
def State.releaseLoop (op : Nat) (o : Op) (total : Nat) : Nat → State → State
  | 0, s => s
  | n + 1, s =>
    let t := ((s.op? op).map (·.cursor)).getD 0
    if total ≤ t then s else
    State.releaseLoop op o total n ((s.releaseTile o t).modOp op (fun o => { o with cursor := t + 1 }))

/-- Event lines of a job tag without a region lose their owner (R447). -/
def State.freeLines (s : State) (tag : Nat) : State :=
  if tag = 0 || s.regions.vals.any (fun r => r.jobTag == tag) then s else
  (List.range 16).foldl (fun t i => if t.lineOwnedBy (i / 2) (i % 2) tag then
    t.setReg (0x0400 + 4 * i) (t.reg (0x0400 + 4 * i) &&& 0xFFFEFFFF#32) else t) s
/-- Free a region's slot and all it held (R395 step 3, R40, R179, R447); the lines follow their sources' routes (R28). -/
def State.freeRegion (s : State) (j : Nat) : State :=
  match s.regions.get j with
  | none => s
  | some r =>
    let dirty := match r.dirtyBase with
      | some b => s.tap.dirty.filter (fun p => !(decide (b ≤ p.1 ∧ p.1 < b + r.granules)))
      | none => s.tap.dirty
    let s1 := { s.dropPairs r.tileBase r.tileCount with regions := s.regions.del j }
    let tap := { s1.tap with
      dirty := dirty, tracker := s1.tap.tracker.filter (fun e => e.region != j)
      norm := s1.tap.norm.filter (fun p => p.1 / 3 != j), formed := s1.tap.formed.filter (fun f => f.1 != j) }
    let own := (s1.evt.cmpOwn.filter (fun p => p.2 == j)).map (fun p => p.1)
    let s2 := own.foldl (fun (t : State) n => t.setReg (0x0220 + 4 * (n - 10)) (t.reg (0x0220 + 4 * (n - 10)) &&& 0xFFFFFFFE#32))
      { s1 with tap := tap, evt := { s1.evt with cmpOwn := s1.evt.cmpOwn.filter (fun p => p.2 != j) } }
    let s3 := if r.role = .rick then
      { s2 with snap := { s2.snap with slot0 := ⟨.empty, 0, 0⟩, slot1 := ⟨.empty, 0, 0⟩ } } else s2
    let s4 := if (s3.setRegions r.set).isEmpty && s3.sets.has r.set then s3.modSet r.set (fun t => { t with n := none }) else s3
    (s4.freeLines r.jobTag).settleLines

/-- Steps 3 and 4 of R395: the ledger entry, the receipt, its audit record, the descriptor slot, the final record. -/
def State.endRelease (s : State) (o : Op) : State :=
  let form1 := bitAt (o.arg 17 1) 0
  let j := o.arg 16 1
  let n := s.receipt + 1
  let e := if form1 then some (o.arg 18 2) else (s.regions.get j).bind (·.ledger)
  let rng := s.releaseRange o
  let s1 := match e with
    | some k => if s.ledgerOn then s.putLedger k
        { tileBase := rng.1, tileCount := rng.2, jobTag := o.jobTag, state := 2, receipt := n } else s
    | none => s
  let s2 := { s1 with receipt := n }
  let s3 := s2.auditForm stOk 3 o.ring 0x11 (if form1 then 0xFF else j) n 0 o.resv
  ((if form1 then s3 else s3.freeRegion j).finish o stOk o.cursor n 0).settle

/-- REGION_RELEASE (R394, R395): the checks, step 1 on the first run, the zero writes in pieces, then the receipt. The banks of a
parity home's PENDING region are zeroed before its slot is freed. -/
def execRegionRelease (op units : Nat) (s : State) : Out :=
  .next (match s.work op 0x02 with
    | none => s
    | some o =>
      match o.stage with
      | .fresh =>
        let st := s.releaseStatus o
        if st ≠ 0 then s.fail o st
        else
          let s1 := if bitAt (o.arg 17 1) 0 then s else s.beginRelease (o.arg 16 1)
          (s1.modOp op (fun o => { o with stage := .walking })).settle
      | .walking =>
        let total := (s.releaseRange o).2
        let s1 := State.releaseLoop op o total units s
        let link := ((s.regions.get (o.arg 16 1)).map (fun r => if r.role = .parityHome then r.link else 256)).getD 256
        (match s1.op? op with
        | some x =>
          if total ≤ x.cursor && !(s1.retire.any (fun w => match w with | .zeroBank k _ => k == link | _ => false))
          then s1.endRelease x else s1.yieldPoint op
        | none => s1)
      | _ => s)

end Sys2Proof.Machine
end

