-- ==== Sys2Proof/Machine/Walk.lean ====
section
/-! DEFINITION. Walks of long operations over their units, and the engine's own writes to global addresses, which the tap sees
where they meet a registered region (R14). -/

namespace Sys2Proof.Machine

/-- Is a COUNT operand within its range (R10)? -/
def countOk (n : Nat) : Bool := decide (1 ≤ n ∧ n ≤ 16777216)

/-- A walk's outcome for one unit: the next state, a status that ends the operation, or a wait. -/
inductive Walk where
  | go (s : State)
  | stop (st : Nat) (s : State)
  | wait (s : State)

/-- Run a walk up to CURSOR `last` for at most `n` more chunks: one from CURSOR c takes `size c` units. -/
def State.walkBy (op last : Nat) (size : Nat → Nat) (f : Nat → State → Walk) : Nat → State → Walk
  | 0, s => .go s
  | n + 1, s =>
    let c := ((s.op? op).map (·.cursor)).getD last
    if last ≤ c then .go s else
    match f c s with
    | .go s1 => State.walkBy op last size f n (s1.modOp op (fun o => { o with cursor := c + size c }))
    | x => x
/-- Run a walk up to unit `last` for at most `n` more units: CURSOR is the number of the next one. -/
def State.walk (op last : Nat) (f : Nat → State → Walk) (n : Nat) (s : State) : Walk := State.walkBy op last (fun _ => 1) f n s
/-- Tiles of a 64 KiB chunk (R373). -/
def chunkTiles : Nat := 16

/-- End a piece of a walk: the operation fails, waits, goes on past a YIELD point, or is over. -/
def State.endWalk (op last : Nat) (done : State → Op → State) : Walk → State
  | .go s => match s.op? op with
    | some o => if last ≤ o.cursor then (done s o).settle else (s.yieldPoint op).settle
    | none => s
  | .stop st s => match s.op? op with
    | some o => (s.fail o st).settle
    | none => s
  | .wait s => s

/-! ## Units that write through the tap (R14, R92, R336) -/

/-- The status with which a write at a global address completes (log entry 16): an answer list may give the error response, or,
by an empty answer, no acknowledgement up to the retry limit. -/
def writeStatus (ext : Ext) (a : Nat) : Nat :=
  match extFind ext a with
  | some .error => stCheckFail
  | some (.data []) => stPathFailed
  | _ => stOk

/-- Note key of a unit whose writes are issued: its number plus 1. -/
def nkIssued : Nat := 907

/-- One unit whose writes go through the tap: they are issued once, and the unit is done when all are released; one that was
released with the error response ends the operation with CHECK_FAIL (R92, R336). -/
def State.unitWrites (op c : Nat) (f : State → Walk) (s : State) : Walk :=
  let done := fun (t : State) =>
    if t.engineHeld op then Walk.wait t
    else if ((t.op? op).map (fun o => decide (0 < o.n nkErrors))).getD false then Walk.stop stCheckFail t else Walk.go t
  match s.op? op with
  | none => .wait s
  | some o =>
    if o.n nkIssued = c + 1 then done s else
    match f (s.modOp op (fun o => o.keep nkErrors 0)) with
    | .go s1 => done (s1.modOp op (fun o => o.keep nkIssued (c + 1))).settle
    | x => x

/-- Two units whose writes go through the tap, numbered from c: the second one's are issued once the first one's are done. -/
def State.unitWrites2 (op c : Nat) (f g : State → Walk) (s : State) : Walk :=
  if ((s.op? op).map (fun o => o.n nkIssued == c + 2)).getD false then s.unitWrites op (c + 1) g else
  match s.unitWrites op c f with
  | .go s1 => s1.unitWrites op (c + 1) g
  | x => x

/-- Note keys: the sheaf and member index at which an operation started plus 1, and attempts at the present unit (R210, R212). -/
def nkSheaf : Nat := 911
def nkMember : Nat := 912
def nkTries : Nat := 913

/-- Is region j still the member that it was when the operation started (R212)? -/
def Op.sameMember (o : Op) (r : Region) : Bool := r.sheaf != 0 && r.sheaf + 1 == o.n nkSheaf && r.member + 1 == o.n nkMember
/-- Another attempt at a stripe whose STEP values differ or whose answers came late, with fresh READs: 16 attempts at most (R210, R232). -/
def State.tryAgain (s : State) (op : Nat) : Walk :=
  match s.op? op with
  | none => .wait s
  | some o =>
    if 15 ≤ o.n nkTries then .stop stCheckFail s else .wait ((s.modOp op (fun o => { o.keep nkTries (o.n nkTries + 1) with got := [] })).bump (rbldCnt 2))
/-- Attempts and READs start afresh with the next unit. -/
def State.freshTries (s : State) (op : Nat) : State := s.modOp op (fun o => { o with note := o.note.del nkTries, got := [] })
/-- Note key: the epoch under which the present unit's READs were issued, plus 1. -/
def nkEpoch : Nat := 914
/-- Under a new epoch the stripe in flight is read again (R212). -/
def State.freshEpoch (s : State) (op epoch : Nat) : State :=
  match s.op? op with
  | none => s
  | some o =>
    if o.n nkEpoch = epoch + 1 then s else
    let s1 := s.modOp op (fun o => { o.keep nkEpoch (epoch + 1) with got := [] })
    { s1 with port := { s1.port with rreq := s1.port.rreq.filter (fun p => !(p.2.keep && p.2.op == op)) } }
/-- Has the present unit of an operation begun: has it READs or writes on their way (R101)? -/
def State.inFlight (s : State) (o : Op) : Bool :=
  !o.got.isEmpty || s.port.rreq.vals.any (fun q => q.keep && q.op == o.id) || s.engineHeld o.id || o.n nkIssued == o.cursor + 1
/-- A failure of a decode or build: UNRECOVERABLE raises its event (R222). -/
def State.decodeFail (s : State) (st region t : Nat) : Walk :=
  .stop st (if st = stUnrecoverable then s.event 75 (infoA region t) else s)

end Sys2Proof.Machine
end

