-- ==== Sys2Proof/Machine/Loads.lean ====
section
/-! DEFINITION. Table loads (R345 to R351), and microcode: staging, chunk stores, activation and its verdict (R352, R353, R434 to
R439). -/

namespace Sys2Proof.Machine

/-! ## TABLE_LOAD (R348 to R350) -/

/-- Operands of Table 11-7. -/
def Op.tabKind (o : Op) : Nat := o.arg 16 1
def Op.tabSlot (o : Op) : Nat := o.arg 17 1
def Op.tabM (o : Op) : Nat := bits (o.arg 18 1) 0 3
def Op.tabK (o : Op) : Nat := bits (o.arg 19 1) 0 6
/-- Bytes of a table of a kind (R348). -/
def tabBytes (kind : Nat) : Nat := if kind = 1 then 128 else if kind = 2 then 336 else 2048

/-- Row 1 of Table 11-8. -/
def Op.loadMalformed (o : Op) : Bool :=
  let m := o.tabM
  let k := o.tabK
  if o.tabKind = 1 then !decide (1 ≤ m ∧ m ≤ 4 ∧ 2 ≤ k ∧ k ≤ 32 ∧ m + k ≤ 36)
  else if o.tabKind = 2 then decide (3 < o.tabSlot) || m != 0 || k != 0
  else if o.tabKind = 3 then decide (15 < o.tabSlot) || m != 0 || k != 0
  else true

/-- Row 2 of Table 11-8. Another TABLE_LOAD of the slot stands in the way once it has passed its own checks. -/
def State.loadConflict (s : State) (o : Op) : Bool :=
  s.ops.any (fun x => x.id != o.id && x.opcode == 0x70 && x.stage == .waitRef && x.tabKind == o.tabKind && x.tabSlot == o.tabSlot) ||
  (o.tabKind == 1 && (match s.regions.get o.tabSlot with
    | none => true
    | some r => match s.sheafOf r with
      | none => false
      | some sh => sh.m != o.tabM || sh.k != o.tabK ||
          (s.sheafRegions r.sheaf).any (fun p => s.setLive p.2.set ||
            (p.2.role == .parityHome && (List.range 3).any (fun x => s.banks.has (bankKey p.2.link x))))))

/-- Is a list of code lengths absent or a complete prefix code, with [7:4] of every byte 0 (R346)? -/
def lengthsOk (v : List Byte) : Bool :=
  let l := v.map (·.toNat)
  l.all (fun n => decide (n < 16)) &&
  (l.all (fun n => n == 0) || (l.map (fun n => if n = 0 then 0 else 2 ^ (15 - n))).sum == 2 ^ 15)
/-- Do the contents of an entropy slot hold (R346)? -/
def entropyOk (v : List Byte) : Bool := lengthsOk (slice v 0 16) && lengthsOk (slice v 16 64) && lengthsOk (slice v 80 256)
/-- The bits that a placement entry may set (Table 11-6). -/
def placeMask : Nat := layoutMask [(0, 0, 22), (0, 31, 1), (4, 0, 4), (16, 0, 128)]
/-- Does a placement entry hold? -/
def placeOk (e : List Byte) : Bool :=
  let n := bits (field e 4 1) 0 4
  (leNat e &&& placeMask == leNat e) &&
  (!bitAt (field e 0 4) 31 || (decide (1 ≤ n ∧ n ≤ 8) && (List.range 8).all (fun i => decide (i < n) || field e (16 + 2 * i) 2 == 0)))
/-- The contents part of row 3 of Table 11-8. -/
def Op.tableOk (o : Op) (v : List Byte) : Bool :=
  if o.tabKind = 1 then
    rowsGood o.tabM o.tabK (rowAt v) &&
    (List.range 128).all (fun b => decide (b / 32 < o.tabM ∧ b % 32 < o.tabK) || v.getD b 0#8 == 0#8)
  else if o.tabKind = 2 then entropyOk v
  else (List.range 64).all (fun i => placeOk (slice v (32 * i) 32))

/-- A table slot of a kind; one that no load wrote is zeros (log entry 8). -/
def State.tableSlot (s : State) (kind slot : Nat) : TabSlot :=
  let none := TabSlot.mk 0 0 (zeros (tabBytes kind)) (zeros (tabBytes kind)) 0 0
  if kind = 1 then s.rowSlot slot else if kind = 2 then (s.tables.entropy.get slot).getD none else (s.tables.place.get slot).getD none
/-- References on the inactive bank of a table slot (R345). -/
def State.loadRefs (s : State) (kind slot : Nat) : Nat :=
  if kind = 1 then s.inactiveRefs slot
  else if kind = 2 then s.opRefs 2 slot (1 - (s.tableSlot 2 slot).act) else 0

/-- Place among a TABLE_LOAD's own slots, beyond the 64 of R335, of the table that it has read. -/
def tablePlace : Nat := 64

/-- TABLE_LOAD (R348 to R350): the checks of Table 11-8, then the wait for the references on the inactive bank, with its interim
record. -/
def execTableLoad (op : Nat) (ext : Ext) (s : State) : Out :=
  .next (match s.work op 0x70 with
    | none => s
    | some o =>
      if o.stage ≠ .fresh then s
      else if o.loadMalformed then s.fail o stNotSupported
      else if s.loadConflict o then s.fail o stConflict
      else match s.readAt ext (o.arg 24 8) (tabBytes o.tabKind) 1 with
        | (.data v, s) =>
          if (crc32c v).toNat ≠ o.arg 32 4 || !o.tableOk v then s.fail o stCheckFail
          else
            let keep := fun (x : Op) => { x with stage := .waitRef, slots := [(tablePlace, Slot.full v)] }
            if s.loadRefs o.tabKind o.tabSlot = 0 then s.modOp op keep else (s.interim o stWaitRef 0).park op keep
        | (_, s) => s.fail o stCheckFail)

/-- A destination's flags go when its placement entry changes (R347). -/
def State.reflag (s t : State) : State :=
  let flag := fun (p : Nat × PathCnt) =>
    let d := p.1 / 8
    if s.placement (d / 16) (d % 16) = t.placement (d / 16) (d % 16) then p else (p.1, { p.2 with flag := none })
  { t with port := { t.port with paths := t.port.paths.map flag } }

/-- Put a table into the inactive bank of its slot, which becomes active with the next generation (R350). -/
def State.install (s : State) (kind slot : Nat) (v : List Byte) : State :=
  let x := (s.tableSlot kind slot).install v
  if kind = 1 then s.installRows slot v
  else if kind = 2 then { s with tables := { s.tables with entropy := s.tables.entropy.set slot x } }
  else s.reflag { s with tables := { s.tables with place := s.tables.place.set slot x } }

/-- TABLE_INSTALL (R350): with no reference on the inactive bank, the table that was read becomes the active one; AUX is the new
generation. -/
def execTableInstall (op : Nat) (s : State) : Out :=
  .next (match s.waiting op 0x70 with
    | none => s
    | some o =>
      match o.stage, o.slots.get tablePlace with
      | .waitRef, some x =>
        if s.loadRefs o.tabKind o.tabSlot ≠ 0 then s else
        let s1 := s.install o.tabKind o.tabSlot x.data
        (s1.finish o stOk 0 0 (s1.tableSlot o.tabKind o.tabSlot).gen).settle
      | _, _ => s)

/-! ## Staging (R352, R436, R437) -/

/-- Is a UCODE_STAGE at work? -/
def State.stageBusy (s : State) : Bool := s.ops.any (fun o => o.opcode == 0x71 && o.stage == .walking)
/-- Chunk c of the inactive bank. -/
def Ucode.chunk (u : Ucode) (c : Nat) : List Byte :=
  (List.range 32).flatMap (fun i => leBytes 16 (u.word u.inactive (32 * c + i)).toNat)
/-- Write chunk c into the inactive bank and set its bit. -/
def Ucode.putChunk (u : Ucode) (c : Nat) (v : List Byte) : Ucode :=
  let put := fun (t : Tab (BitVec 128)) (i : Nat) =>
    let w := BitVec.ofNat 128 (field v (16 * i) 16)
    let k := u.inactive * 8192 + 32 * c + i
    if w = 0#128 then t.del k else t.set k w
  { u with store := (List.range 32).foldl put u.store, present := u.present ||| (1#256 <<< c) }
/-- The first `n` bytes of the inactive bank. -/
def Ucode.staged (u : Ucode) (n : Nat) : List Byte := (List.range (n / 512)).flatMap u.chunk

/-- The microcode window of the agent's address space (R434). -/
def ucodeWindow : Nat := 0x020000000000
/-- Is a UCODE_STAGE one of a distributor (R436)? -/
def State.distributes (s : State) (o : Op) : Bool := o.arg 28 1 % 2 == 1 && bitAt (s.regN 0x01A4) 0 && s.own (o.arg 16 8)
/-- The status of UCODE_STAGE; 0 when it passes (R352, R437). -/
def State.stageStatus (s : State) (o : Op) : Nat :=
  let l := o.arg 24 4
  if l = 0 ∨ 131072 < l ∨ l % 512 ≠ 0 then stNotSupported
  else if s.oldBound then stConflict
  else if o.arg 28 1 % 2 = 0 ∧ s.ucode.length.isSome ∧ s.ucode.length ≠ some l then stConflict
  else 0
/-- What a UCODE_STAGE does to the bitmap, LENGTH and TAG when it starts (R352, R436, R437). -/
def State.beginStage (s : State) (o : Op) : State :=
  let u := s.ucode
  let u1 := if o.arg 28 1 % 2 = 1 then
      { u with present := 0#256, length := some (o.arg 24 4), tag := if s.distributes o then some (s.rf 0x01A4 1 8) else none }
    else { u with length := some (u.length.getD (o.arg 24 4)) }
  ({ s with ucode := u1 }).modOp o.id (fun o => { o with stage := .walking })

/-- Note key of the next chunk of a UCODE_STAGE. -/
def nkChunk : Nat := 970
/-- The group address of chunk c of a distributor (R434). -/
def State.groupAddr (s : State) (c : Nat) : Nat :=
  s.reg64 0x01A8 / 2 ^ 42 * 2 ^ 42 + ucodeWindow + s.rf 0x01A4 1 8 * 2 ^ 17 + 512 * c
/-- Chunk c of a UCODE_STAGE: pulled at C3 when its bit is clear; a distributor then issues it to its group as a multicast store at C3,
for which it waits for a credit (R167, R361, R362). -/
def State.stageChunk (s : State) (ext : Ext) (o : Op) (c : Nat) : Walk :=
  let a := s.groupAddr c
  if s.distributes o && !s.creditOk (s.level a) 3 1 then .wait (s.bump (clsCnt 4)) else
  let hand := fun (t : State) => if t.distributes o then t.send (.mcast a (t.ucode.chunk c) 3 (t.routeTo a)) else t
  if s.ucode.present.getLsbD c then .go (hand s) else
  match s.readAt ext (o.arg 16 8 + 512 * c) 512 3 with
  | (.data v, s) => .go (hand (({ s with ucode := s.ucode.putChunk c v }).bump (bootCnt 1)))
  | (.error, s) => .stop stCheckFail s
  | (.path, s) => .stop stPathFailed s
/-- Chunks of a UCODE_STAGE, up to `n` more of its `total`; CURSOR counts the chunks present. -/
def State.stageLoop (ext : Ext) (op total : Nat) : Nat → State → Walk
  | 0, s => .go s
  | n + 1, s =>
    match s.op? op with
    | none => .go s
    | some o =>
      let c := o.n nkChunk
      if total ≤ c then .go s else
      match s.stageChunk ext o c with
      | .go s1 => State.stageLoop ext op total n
          (s1.modOp op (fun o => { o.keep nkChunk (c + 1) with cursor := popcount s1.ucode.present }))
      | x => x

/-- UCODE_STAGE (R352, R436, R437). -/
def execUcodeStage (op units : Nat) (ext : Ext) (s : State) : Out :=
  .next (match s.work op 0x71 with
    | none => s
    | some o =>
      match o.stage with
      | .fresh =>
        let st := s.stageStatus o
        if st ≠ 0 then s.fail o st else s.beginStage o
      | .walking =>
        let total := o.arg 24 4 / 512
        (match State.stageLoop ext op total units s with
        | .go s1 => (match s1.op? op with
          | some x =>
            if total ≤ x.n nkChunk then (s1.finish x stOk (popcount s1.ucode.present) 0 0).settle else (s1.yieldPoint op).settle
          | none => s1)
        | .stop st s1 => (match s1.op? op with
          | some x => (s1.finish x st (popcount s1.ucode.present) 0 0).settle
          | none => s1)
        | .wait s1 => s1)
      | _ => s)

/-! ## Chunk stores (R434, R435) -/

/-- Drop a chunk store. -/
def State.dropChunk (s : State) : State := s.bump (bootCnt 3)
/-- Rows 6 to 8 of Table 15-4. -/
def State.landChunk (s : State) (c : Nat) (v : List Byte) : State :=
  if (s.ucode.length.map (fun l => decide (l / 512 ≤ c))).getD false then s.dropChunk
  else if s.ucode.present.getLsbD c then s.bump (bootCnt 2)
  else ({ s with ucode := s.ucode.putChunk c v }).bump (bootCnt 0)

/-- CHUNK_STORE_RECEIVE (R434, R435): a store at the agent's address in the microcode window, by the first row of Table 15-4. `src`
is the source's node and agent. -/
def execChunkStoreReceive (src addr : Nat) (bytes : List Byte) (s : State) : Out :=
  let off := gOff addr
  let rel := off - ucodeWindow
  let tag := bits rel 17 8
  let c := bits rel 9 8
  .next (if !s.own addr || decide (off < ucodeWindow) || decide (0x2000000 ≤ rel) then s
    else
      let s := s.packetIn
      let early := s.boot.phase = .reset || s.boot.phase = .align || s.boot.phase = .fuse || s.boot.phase = .failed
      let other := s.ucode.tag ≠ some tag
      if early || bytes.length ≠ 512 || off % 512 ≠ 0 then s.dropChunk
      else if s.oldBound || s.ops.any (fun o => o.opcode == 0x72 && o.started) then s.dropChunk
      else if other && s.stageBusy then s.dropChunk
      else if other && s.auditFull then s.dropChunk
      else if other then
        let id := src / 16 % 2 ^ 18 + 2 ^ 18 * (src % 16)
        let s1 := { s with ucode := { s.ucode with present := 0#256, length := none, tag := some tag } }
        (s1.auditForm 0 2 id 0x31 tag id 0 false).landChunk c bytes
      else s.landChunk c bytes)

/-! ## Activation (R34, R353, R438, R439) -/

/-- Is the identity word of an image valid (R438)? -/
def identityOk (w : Nat) : Bool :=
  bits w 0 8 == 0 && decide (1 ≤ bits w 8 8) && bits w 32 32 == 0x57594944 && bits w 64 64 == 0
/-- The identity word of the staged image: its last 16 bytes. -/
def Ucode.identity (u : Ucode) (len : Nat) : Nat := (u.word u.inactive (len / 16 - 1)).toNat
/-- DIGEST of UCODE_ACTIVATE. -/
def Op.wantDigest (o : Op) : List Byte := slice o.desc 16 32
/-- The engine's own conditions of R353 and R438. -/
def Ucode.imageOk (u : Ucode) (digest : List Byte) : Bool :=
  match u.length with
  | none => false
  | some l =>
    (List.range (l / 512)).all u.present.getLsbD && sha256 (u.staged l) == digest &&
    opRows.all (fun r => entryValid (u.entry u.inactive false r.code)) && identityOk (u.identity l)
/-- Set LAST_FAIL. -/
def State.lastFail (s : State) (b : Bool) : State := { s with ucode := { s.ucode with lastFail := b } }

/-- UCODE_ACTIVATE (R34, R353): the staged image is checked and its digest presented on AUTH_DIGEST; one at a time. -/
def execUcodeActivate (op : Nat) (s : State) : Out :=
  .next (match s.work op 0x72 with
    | none => s
    | some o =>
      if o.stage ≠ .fresh || s.ucode.presented.isSome then s
      else if !s.ucode.imageOk o.wantDigest then (s.lastFail true).fail o stCheckFail
      else ({ s with ucode := { s.ucode with presented := some (op, o.wantDigest) } }).park op (fun o => { o with stage := .waitAuth }))

/-- The bank switch (R353, R439): the banks exchange roles, the new LEVEL holds, the bitmap, LENGTH and TAG are cleared, and no peer is
level-matched. -/
def State.switchBank (s : State) (digest : List Byte) : State :=
  let u := s.ucode
  let u1 := { u with
    active := u.inactive, boot := false, present := 0#256, length := none, tag := none
    level := bits (u.identity (u.length.getD 512)) 8 8, digest := digest, lastFail := false, presented := none }
  let peers := fun (x : Member) => if s.isLocal x then x else { x with matched := false }
  { s with ucode := u1, sheaves := s.sheaves.map (fun p => (p.1, { p.2 with members := p.2.members.map peers })) }

/-- AUTH_VERDICT (R34, R353, R439): PASS for the digest presented switches the banks and may bring READY; any other verdict for it
fails the UCODE_ACTIVATE, changing nothing. -/
def execAuthVerdict (digest : List Byte) (pass : Bool) (s : State) : Out :=
  .next (match s.ucode.presented with
    | none => s
    | some (op, d) =>
      match s.waiting op 0x72 with
      | none => s
      | some o =>
        if digest ≠ d then s
        else if pass then ((s.switchBank d).finish o stOk 0 (field d 16 8) 0).settleReady.settle
        else
          let s1 := { s with ucode := { s.ucode with presented := none } }
          ((s1.lastFail true).fail o stCheckFail).settle)

end Sys2Proof.Machine
end

