-- ==== Sys2Proof/Machine/Rings.lean ====
section
/-! DEFINITION. Ring pairs, doorbells, descriptor fetch, starts and completion records (chapter 3). -/

namespace Sys2Proof.Machine

/-- Fields of a WY_RING_CFG word (Table 3-2). -/
def cfgTag (c : Nat) : Nat := bits c 16 16
def cfgSq (c : Nat) : Nat := bits c 4 5
def cfgCq (c : Nat) : Nat := bits c 9 5
def cfgSys (c : Nat) : Bool := bitAt c 3
/-- WY_RING_CFG of ring n. -/
def State.ringCfg (s : State) (n : Nat) : Nat := s.regN (ringReg n 0x18)

/-- Byte ranges of ring n under a configuration word. -/
def State.spansWith (s : State) (n c : Nat) : List (Nat × Nat) :=
  [(s.reg64 (ringReg n 0), 64 * 2 ^ cfgSq c), (s.reg64 (ringReg n 8), 32 * 2 ^ cfgCq c), (s.reg64 (ringReg n 16), 8)]

/-- Do no two of the ranges overlap? -/
def disjointSpans (l : List (Nat × Nat)) : Bool :=
  (List.range l.length).all (fun i => (List.range i).all (fun j =>
    !overlap (l.getD i (0, 0)).1 (l.getD i (0, 0)).2 (l.getD j (0, 0)).1 (l.getD j (0, 0)).2))

/-- The conditions of R75 and R430 for setting EN of ring n with a configuration word. -/
def State.ringOk (s : State) (n c : Nat) : Bool :=
  let sp := s.spansWith n c
  (s.boot.phase == .load || s.boot.phase == .ready) &&
  decide (4 ≤ cfgSq c ∧ cfgSq c ≤ 16 ∧ 4 ≤ cfgCq c ∧ cfgCq c ≤ 16) &&
  decide (s.reg64 (ringReg n 0) % 4096 = 0 ∧ s.reg64 (ringReg n 8) % 4096 = 0 ∧ s.reg64 (ringReg n 16) % 8 = 0) &&
  sp.all (fun q => gNode q.1 == s.strap.node) &&
  (if cfgSys c then !bitAt c 2 && cfgTag c == 0 else cfgTag c != 0) &&
  disjointSpans sp &&
  (List.range 64).all (fun j => j == n || !s.ringEn j ||
    (s.ringSpans j).all (fun p => sp.all (fun q => !overlap p.1 p.2 q.1 q.2))) &&
  s.regions.all (fun p => sp.all (fun q =>
    !overlap q.1 q.2 (s.tileAddr p.2.tileBase) (p.2.tileCount * 4096))) &&
  sp.all (fun q => !overlap q.1 q.2 (s.tileAddr s.spillSpan.base) (s.spillSpan.count * 4096))

/-- A ring that no doorbell has touched, with a stop cause. -/
def Ring.new (cause : Nat) : Ring :=
  { tail := 0#32, head := 0#32, cqTail := 0#32, cqHead := 0#32, stopped := false, cause := cause, watched := false
    polling := false, due := 0 }

/-- Change a ring. -/
def State.modRing (s : State) (n : Nat) (f : Ring → Ring) : State := { s with rings := s.rings.upd n f }

/-- The counts of an enabled ring lie in the ranges of R81. -/
def State.countsOk (s : State) (n : Nat) (r : Ring) : Bool :=
  decide ((r.tail - r.head).toNat ≤ 2 ^ cfgSq (s.ringCfg n) ∧ (r.cqTail - r.cqHead).toNat ≤ 2 ^ cfgCq (s.ringCfg n))

/-- POLL_US of ring n in ticks (Table 3-3). -/
def State.pollTicks (s : State) (n : Nat) : Nat := us (s.rf (ringReg n 0x1C) 0 7)

/-- RING_ENABLE (R75, R76, R430): a WY_RING_CFG write with EN 1. While EN is 1 already it changes nothing (R74). DESIGN CHOICE (log entry
133): where the doorbell read gives no counts EN stays set and the ring stops with cause 4. -/
def execRingEnable (req n : Nat) (w : Word) (ext : Ext) (s : State) : Out :=
  let off := ringReg n 0x18
  let new := w &&& 0xFFFF3FFF#32
  .next (if 64 ≤ n ∨ !w.getLsbD 0 then s
    else if s.auditFull then s.auditForm stLogFull (reqOrigin req) (reqIndex req) 0x02 off w.toNat 0 false
    else if s.ringEn n then s.auditRefuse req off w.toNat
    else if !s.ringOk n new.toNat then
      ({ s with rings := s.rings.set n (Ring.new 5) }).auditRefuse req off w.toNat
    else
      let db := s.reg64 (ringReg n 16)
      let s1 := (s.setReg off new).auditWrite req off (s.regN off) new.toNat
      let r0 := { Ring.new 0 with watched := s.inStack db 8, due := s.now + s.pollTicks n }
      match s1.readAt ext db 8 1 with
      | (.data v, s2) =>
        let t := BitVec.ofNat 32 (field v 0 4)
        let h := BitVec.ofNat 32 (field v 4 4)
        ({ s2 with rings := s2.rings.set n { r0 with tail := t, head := t, cqTail := h, cqHead := h } }).settleLines
      | (_, s2) => (({ s2 with rings := s2.rings.set n r0 }).stopRing n 4).settleLines)

/-- RING_DISABLE (R77): a WY_RING_CFG write that clears EN takes effect only while LIVE is 0 and with the other fields
unchanged (R74); it clears STOPPED and STOP_CAUSE. Records that still wait for the ring stay, and are written once it is enabled again
(log entry 32). DESIGN CHOICE (log entry 134): the counts of a disabled ring read 0. -/
def execRingDisable (req n : Nat) (w : Word) (s : State) : Out :=
  let off := ringReg n 0x18
  let new := w &&& 0xFFFF3FFF#32
  .next (if 64 ≤ n ∨ w.getLsbD 0 ∨ !s.ringEn n then s
    else if s.auditFull then s.auditForm stLogFull (reqOrigin req) (reqIndex req) 0x02 off w.toNat 0 false
    else if s.live n ≠ 0 ∨ new ||| 1#32 ≠ s.reg off then s.auditRefuse req off w.toNat
    else
      ((({ s with rings := s.rings.del n }).setReg off new).auditWrite req off (s.regN off) new.toNat).settleLines)

/-- RING_POLL_WRITE (R9, R74): 1 to 100 takes effect whatever EN is, and bounds the next poll; other values are refused. -/
def execRingPollWrite (req n : Nat) (w : Word) (s : State) : Out :=
  let off := ringReg n 0x1C
  let new := w &&& 0x7F#32
  .next (if 64 ≤ n then s
    else if s.auditFull then s.auditForm stLogFull (reqOrigin req) (reqIndex req) 0x02 off w.toNat 0 false
    else if new.toNat = 0 ∨ 100 < new.toNat then s.auditRefuse req off w.toNat
    else
      ((s.setReg off new).modRing n (fun r => { r with due := Nat.min r.due (s.now + us new.toNat) })).auditWrite req off
        (s.regN off) new.toNat)

/-- What the engine does when it sees a doorbell pair (R80, R81): it takes both counts, and stops the ring when either is
out of range. -/
def State.seeDoorbell (s : State) (n : Nat) (tail head : Word) : State :=
  match s.rings.get n with
  | none => s
  | some r =>
    let r' := { r with tail := tail, cqHead := head }
    let s1 := { s with rings := s.rings.set n r' }
    if s.countsOk n r' then s1 else s1.stopRing n 1

/-- DOORBELL_WRITE (R78, R80, R81): a snooped write to a watched doorbell pair, which lies in the engine's own stack; it goes through the
tap like any other write there. DESIGN CHOICE (log entry 135): its agent is agent 0. -/
def execDoorbellWrite (n : Nat) (tail head : Word) (s : State) : Out :=
  .next (if s.ringEn n && ((s.rings.get n).map (·.watched)).getD false then
    ((s.seen.putWrite 0 none (gOff (s.reg64 (ringReg n 16))) ((leBytes 4 tail.toNat ++ leBytes 4 head.toNat).map some)).seeDoorbell n
      tail head).settle
  else s)

/-- DOORBELL_POLL (R80): the poll timer of a doorbell pair elsewhere expires and the pair is read. DESIGN CHOICE (log entry 135): no poll
is issued while an earlier one has no answer. -/
def execDoorbellPoll (n : Nat) (s : State) : Out :=
  .next (match s.rings.get n with
    | some r =>
      if s.ringEn n && !r.watched && !r.polling && decide (r.due ≤ s.now) then
        ((s.modRing n (fun x => { x with polling := true, due := s.now + s.pollTicks n })).send
          (.read (s.reg64 (ringReg n 16)) 8 1 (s.routeTo (s.reg64 (ringReg n 16)))))
      else s
    | none => s)

/-- DOORBELL_POLL_RETURN (R81, R82): the counts are checked, or an error response stops the ring. -/
def execDoorbellPollReturn (n : Nat) (resp : Resp) (s : State) : Out :=
  .next (match s.rings.get n with
    | some r =>
      if s.ringEn n && r.polling then
        let s1 := s.modRing n (fun x => { x with polling := false })
        match resp with
        | .data v => s1.seeDoorbell n (BitVec.ofNat 32 (field v 0 4)) (BitVec.ofNat 32 (field v 4 4))
        | .error => s1.stopRing n 4
      else s
    | none => s)

/-! ## Fetch (R85 to R87) -/

/-- Reserved encodings of defined fields that chapters 6 and 9 name for their descriptors (R10, R180, R269). -/
def encodingOk (d : List Byte) : Bool :=
  let c := field d 0 1
  (if (0x10 ≤ c ∧ c ≤ 0x14) ∨ c = 0x53 then field d 16 8 != 0 else true) &&
  (if c = 0x53 then field d 32 4 != 0 else true) &&
  (if 0x50 ≤ c ∧ c ≤ 0x52 then field d 8 4 != 0 else true)

/-- The status of a descriptor at fetch on ring n (Table 3-8); 0 when it is accepted. -/
def State.fetchStatus (s : State) (n : Nat) (d : List Byte) : Nat :=
  let c := field d 0 1
  let cfg := s.ringCfg n
  match opRow c with
  | none => stNotSupported
  | some row =>
    if !entryValid (s.ucode.entry s.ucode.active s.ucode.boot c) || !row.reservedClear d || !encodingOk d then stNotSupported
    else if (row.cfg && !bitAt cfg 1) || (row.coord && (!bitAt cfg 2 || cfgSys cfg)) then stNotSupported
    else
      let tag := field d 2 2
      let named := (namedRegions d).filterMap (fun i => s.regions.get i)
      let wrong := (!cfgSys cfg && tag != cfgTag cfg) || named.any (fun r => r.jobTag != tag) ||
        (decide (0x7D ≤ c ∧ c ≤ 0x7F) && !cfgSys cfg &&
          s.ops.any (fun o => o.ring == field d 20 1 && o.opTag == field d 16 4) &&
          cfgTag (s.ringCfg (field d 20 1)) != cfgTag cfg)
      if wrong then stNackTag
      else if s.ops.any (fun o => o.ring == n && o.opTag == field d 4 4) then stConflict
      else if s.auditFull && (decide (1 ≤ c ∧ c ≤ 6) || c == 0x61 || decide (0x70 ≤ c ∧ c ≤ 0x72) || bitAt (field d 1 1) 3)
        then stLogFull
      else 0

/-- Is the opcode ORDERED, by its flag or by its row (R96)? -/
def Op.ordered (o : Op) : Bool := o.fOrdered || ((opRow o.opcode).map (fun r => r.cfg || r.coord)).getD false
/-- Does a BARRIER on ring a cover ring b (R97)? -/
def State.barrierCovers (s : State) (a b : Nat) : Bool :=
  a == b || cfgSys (s.ringCfg a) || cfgTag (s.ringCfg a) == cfgTag (s.ringCfg b)
/-- May a QUEUED operation start as to order (R95 to R97, R245)? Control descriptors neither wait nor delay (R98). -/
def State.orderOk (s : State) (o : Op) : Bool :=
  o.isControl ||
  (s.ops.filter (fun e => decide (e.id < o.id) && !e.isControl)).all (fun e =>
    (e.ring != o.ring || (e.started && !o.ordered)) &&
    (!o.fBarrier || !s.barrierCovers o.ring e.ring) &&
    (!e.fBarrier || !s.barrierCovers e.ring o.ring) &&
    !(e.ring == o.ring && e.opcode == 0x40 && e.started &&
      !((s.snap.cut.map (fun c => c.op == e.id && c.frozen.isSome)).getD false)))
/-- The limit of 64 long operations that have left QUEUED (R86). -/
def State.longOk (s : State) (o : Op) : Bool :=
  !o.long || decide ((s.ops.filter (fun x => x.long && x.st != .queued)).length < 64)
/-- Does a descriptor of ring n wait in QUEUED for the limit on long operations, which pauses fetching from the ring (R86)? -/
def State.longHeld (s : State) (n : Nat) : Bool :=
  s.ops.any (fun o => o.ring == n && o.st == .queued && s.orderOk o && !s.longOk o)
/-- Is ring n one from which a descriptor may be fetched now (R82, R86)? -/
def State.canFetch (s : State) (n : Nat) : Bool :=
  match s.rings.get n with
  | some r => s.ringEn n && !r.stopped && r.tail != r.head && !s.longHeld n &&
      decide ((s.ops.filter (fun o => o.ring == n && !o.started)).length < 16) && decide (s.ops.length < 512)
  | none => false

/-- The next ring in round-robin order after the ring last served (R86). -/
def State.nextRing (s : State) : Option Nat :=
  ((List.range 64).map (fun i => (s.fetchLast + 1 + i) % 64)).find? s.canFetch

/-- A fetched descriptor as an operation, not started (R83, R329). -/
def State.newOp (s : State) (n count : Nat) (d : List Byte) : Op :=
  { id := s.nextOp, ring := n, desc := d, bank := s.ucode.active, boot := s.ucode.boot, st := .queued, started := false
    stage := .fresh, cursor := 0, result := 0, aux := 0, pc := 0, regs := [], slots := [], bufs := 0, part := 0, got := [], refs := []
    note := [(nkCount, count)], hold := 0, control := none, resv := false }

/-- Completion slots of ring n that hold no unconsumed record. -/
def State.cqFree (s : State) (n : Nat) : Nat :=
  match s.rings.get n with
  | some r => 2 ^ cfgCq (s.ringCfg n) - (r.cqTail - r.cqHead).toNat
  | none => 0
/-- Completion slots of ring n that started operations have reserved (R93): one for each that is not final, and one for
each final record of one that waits. -/
def State.cqReserved (s : State) (n : Nat) : Nat :=
  (s.ops.filter (fun o => o.ring == n && o.started)).length +
  (s.recs.filter (fun r => r.ring == n && r.final && r.resv)).length
/-- Is a slot free that no started operation has reserved (R93)? -/
def State.cqSlot (s : State) (n : Nat) : Bool := decide (s.cqReserved n < s.cqFree n)

/-- The bank's entry word of an operation (R329). -/
def State.opEntry (s : State) (o : Op) : Nat := s.ucode.entry o.bank o.boot o.opcode

/-- The S-registers at entry (Table 11-3). -/
def Op.entryRegs (o : Op) : Tab Word64 :=
  ((List.range 6).map (fun i => (i, BitVec.ofNat 64 (field o.desc (16 + 8 * i) 8)))) ++
  [(6, BitVec.ofNat 64 (field o.desc 8 8)), (7, BitVec.ofNat 64 (o.opTag + 2 ^ 32 * o.jobTag + 2 ^ 48 * o.ring))]

/-- The table references that an operation takes at its start (R345): each TED_PACK on its slot ETAB, each TED_APPLY,
whose blocks name any slot, on all four. -/
def State.startRefs (s : State) (o : Op) : List TabRef :=
  let act := fun k => ((s.tables.entropy.get k).map (·.act)).getD 0
  if o.opcode = 0x50 then let k := bits (o.arg 20 1) 5 2; [⟨2, k, act k⟩]
  else if o.opcode = 0x51 then (List.range 4).map (fun k => ⟨2, k, act k⟩)
  else []

/-- Start an operation: RUNNING with its registers, buffers and references; it joins the ready queue (R100, R333, R334). -/
def State.startOp (s : State) (o : Op) : State :=
  let w := s.opEntry o
  let s1 := s.modOp o.id (fun x => { x with
    started := true, st := .running, stage := .fresh, pc := entryStart w, regs := o.entryRegs, bufs := entryBufs w
    part := entryPart w, refs := s.startRefs o, hold := s.now, note := x.note.set nkStart s.starts })
  let s2 := { s1 with starts := s1.starts + 1 }
  if o.isControl then s2 else s2.makeReady o.id

/-- DESCRIPTOR_FETCH (R85 to R87): the descriptor at the head of the next ring is read once and checked; it is accepted as
QUEUED, or completes with a refusal. A read that fails stops the ring (R82). A control descriptor starts at once (R98). A
configuration change reserves an audit entry (R456). DESIGN CHOICE (log entry 139): records of refusals wait in the engine without a limit
while no completion slot is free. -/
def execDescriptorFetch (ext : Ext) (s : State) : Out :=
  .next (match s.nextRing with
    | none => s
    | some n =>
      match s.rings.get n with
      | none => s
      | some r =>
        match State.readAt { s with fetchLast := n } ext (s.reg64 (ringReg n 0) + 64 * (r.head.toNat % 2 ^ cfgSq (s.ringCfg n))) 64 1 with
        | (.data d, s0) =>
          let o := s.newOp n r.head.toNat d
          let s1 := { s0 with rings := s0.rings.set n { r with head := r.head + 1#32 }, nextOp := s.nextOp + 1 }
          let st := s.fetchStatus n d
          if st ≠ 0 then { s1 with recs := s1.recs ++ [s1.mkRec o st 0 0 0 true] }
          else
            let s2 := if o.configChange then
              ({ s1 with ops := s1.ops ++ [{ o with resv := true }], audit := { s1.audit with resv := s1.audit.resv + 1 } }).settleAudit
              else { s1 with ops := s1.ops ++ [o] }
            if o.isControl && s.cqSlot n then s2.startOp o else s2
        | (_, s0) => s0.stopRing n 2)

/-! ## Start (R93, R95 to R97) -/

/-- Free 4 KiB buffers of a partition (R118, R330). -/
def State.freeBufs (s : State) (part : Nat) : Nat :=
  let used := ((s.ops.filter (fun o => o.part == part)).map (·.bufs)).sum
  (if part = 0 then 32 * s.partCode - (s.tap.slots.vals.map (fun d => 1 + bit (d.readback || d.base.isSome))).sum else if part = 1 then 32 * s.partRbs else 32 * s.partTed) - used

/-- May an operation start now (R86, R93, R95 to R97, R330)? -/
def State.canStart (s : State) (o : Op) : Bool :=
  o.st == .queued && !o.started && s.orderOk o && s.longOk o && s.cqSlot o.ring &&
  decide (entryBufs (s.opEntry o) ≤ s.freeBufs (entryPart (s.opEntry o)))

/-- OPERATION_START: a QUEUED operation starts when the rules permit. -/
def execOperationStart (op : Nat) (s : State) : Out :=
  .next (match s.op? op with
    | some o => if s.canStart o then s.startOp o else s
    | none => s)

/-- SEQUENCER_DISPATCH (R334): the lowest-numbered idle sequencer takes the operation at the head of the ready queue. Gated and
relocking sequencers take none (R16, R405). -/
def execSequencerDispatch (s : State) : Out :=
  .next (if !s.seqReady then s else match s.seqs.ready, s.seqs.q.free 4 with
    | id :: rest, some q =>
      let s1 := { s with seqs := { s.seqs with q := s.seqs.q.set q id, ready := rest }, power := { s.power with lastWork := s.now } }
      s1.modOp id (fun o => { o with hold := s.now })
    | _, _ => s)

/-! ## Completion records (R89 to R93) -/

/-- The 32 bytes of a record with its PHASE (Table 3-10). -/
def Rec.bytes (r : Rec) (phase : Nat) : List Byte :=
  leBytes 4 r.opTag ++ leBytes 2 r.status ++ leBytes 1 (r.ring + 64 * bit r.final + 128 * phase) ++ leBytes 1 r.opcode ++
  leBytes 8 r.cursor ++ leBytes 6 r.time ++ leBytes 2 r.aux ++ leBytes 8 r.result

/-- Can the engine write records to ring n (R82)? -/
def State.cqUsable (s : State) (n : Nat) : Bool :=
  match s.rings.get n with
  | some r => !(r.stopped && (r.cause == 3 || decide (2 ^ cfgCq (s.ringCfg n) < (r.cqTail - r.cqHead).toNat)))
  | none => false

/-- The waiting record of ring n that is written next: the oldest that a slot serves and that
waits for no other (R91, R93, R103); while the completion ring
is not usable, the oldest. -/
def State.nextRec (s : State) (n : Nat) : Option Rec :=
  s.recs.find? (fun r => r.ring == n && (!s.cqUsable n ||
    (((r.final && r.resv && decide (0 < s.cqFree n)) || s.cqSlot n) &&
      (match r.after with | some i => !(s.recs.any (fun x => x.op == i)) | none => true))))

/-- PHASE of completion count c (R90). -/
def phaseOf (c log2 : Nat) : Nat := 1 - c / 2 ^ log2 % 2

/-- COMPLETION_RECORD_WRITE (R82, R89 to R93): the next record of ring n is written as one aligned 32-byte write and its
event raised. While the ring is not usable the record is discarded, a final one counted; an error response stops it. -/
def execCompletionRecordWrite (n : Nat) (error : Bool) (s : State) : Out :=
  .next (match s.nextRec n, s.rings.get n with
    | some x, some r =>
      if !s.ringEn n then s else
      let s1 := { s with recs := s.recs.erase x }
      if !s.cqUsable n then (if x.final then s1.bump (ringLost n) else s1)
      else if error then
        let s2 := s1.stopRing n 3
        if x.final then s2.bump (ringLost n) else s2
      else
        let k := cfgCq (s.ringCfg n)
        let c := r.cqTail.toNat
        let s2 := s1.store (s.reg64 (ringReg n 8) + 32 * (c % 2 ^ k)) (x.bytes (phaseOf c k)) 1
        ((s2.modRing n (fun y => { y with cqTail := y.cqTail + 1#32 })).occur n (infoC x.opTag x.status) (x.final && x.fast)).settle
    | _, _ => s)

end Sys2Proof.Machine
end

