-- ==== Sys2Proof/Machine/Float.lean ====
section
/-! DEFINITION. Floating values and their rounding (R7, R53, R276, R294): IEEE 754 values with exact magnitudes, the MX element
codes, and the canonical Huffman code of R281. -/

namespace Sys2Proof.Machine

/-- A floating value: a sign with an exact magnitude, an infinity, or a NaN. -/
inductive Fv where
  | fin (neg : Bool) (m : Rat)
  | inf (neg : Bool)
  | nan
  deriving DecidableEq, Repr

/-- Powers of two. -/
def pow2 (x : Int) : Rat := if 0 ≤ x then (2 ^ x.toNat : Nat) else 1 / ((2 ^ (-x).toNat : Nat) : Rat)

/-- The value of a word of e exponent and f fraction bits. -/
def Fv.of (e f w : Nat) : Fv :=
  let p := fpParts e f w
  if p.2.1 = 2 ^ e - 1 then (if p.2.2 = 0 then .inf p.1 else .nan)
  else .fin p.1 ((((if p.2.1 = 0 then p.2.2 else (2 ^ f + p.2.2) * 2 ^ (p.2.1 - 1) : Nat) : Rat)) *
    pow2 (2 - 2 ^ (e - 1) - (f : Int)))

/-- Is the value an infinity or NaN? -/
def Fv.bad : Fv → Bool
  | .fin _ _ => false
  | _ => true
/-- Change of sign. -/
def Fv.negate : Fv → Fv
  | .fin n m => .fin (!n) m
  | .inf n => .inf (!n)
  | .nan => .nan
/-- A signed rational; zero takes the sign given. -/
def Fv.real (q : Rat) (zneg : Bool) : Fv := if q = 0 then .fin zneg 0 else if q < 0 then .fin true (-q) else .fin false q
/-- The exact sum. A zero sum is negative only when both are negative zeros. -/
def Fv.add (a b : Fv) : Fv :=
  match a, b with
  | .fin n m, .fin k l => Fv.real ((if n then -m else m) + (if k then -l else l)) (n && k)
  | .inf n, .inf k => if n = k then .inf n else .nan
  | .inf n, .fin _ _ => .inf n
  | .fin _ _, .inf k => .inf k
  | _, _ => .nan
/-- The exact product. -/
def Fv.mul (a b : Fv) : Fv :=
  match a, b with
  | .fin n m, .fin k l => .fin (n != k) (m * l)
  | .inf n, .inf k => .inf (n != k)
  | .inf n, .fin k l => if l = 0 then .nan else .inf (n != k)
  | .fin n m, .inf k => if m = 0 then .nan else .inf (n != k)
  | _, _ => .nan
/-- The exact quotient. -/
def Fv.div (a b : Fv) : Fv :=
  match a, b with
  | .fin n m, .fin k l => if l = 0 then (if m = 0 then .nan else .inf (n != k)) else .fin (n != k) (m / l)
  | .inf n, .fin k _ => .inf (n != k)
  | .fin n _, .inf k => .fin (n != k) 0
  | _, _ => .nan

/-- ⌊log2⌋ of a positive rational. -/
def log2Rat (m : Rat) : Int :=
  let n := m.num.natAbs
  let e : Int := (Nat.log2 n : Int) - (Nat.log2 m.den : Int)
  if pow2 e ≤ m then e else e - 1

/-- A positive rational rounded to nearest even with p significand bits above the unit 2^emin: significand and unit (R7). -/
def roundRat (p : Nat) (emin : Int) (m : Rat) : Nat × Int :=
  let u : Int := max (log2Rat m - ((p : Int) - 1)) emin
  let q := m / pow2 u
  let lo := q.num.natAbs / q.den
  let twice := 2 * (q.num.natAbs % q.den)
  ((if q.den < twice ∨ (twice = q.den ∧ lo % 2 = 1) then lo + 1 else lo), u)

/-- The magnitude code of a positive rational in a format of e exponent and f fraction bits: codes rise with the value. -/
def magCode (e f : Nat) (m : Rat) : Nat :=
  if m = 0 then 0 else
  let emin : Int := 2 - 2 ^ (e - 1) - (f : Int)
  let q := roundRat (f + 1) emin m
  if q.1 < 2 ^ f then q.1 else (q.2 - emin).toNat * 2 ^ f + q.1

/-- The word of a value in an IEEE format, rounded once; beyond the largest finite value it is an infinity. A NaN's sign and
fraction are the free value of `key` (log entry 2). -/
def Fv.word (e f : Nat) (key : Nat × Nat) : Fv → Nat
  | .fin n m => bit n * 2 ^ (e + f) + Nat.min (magCode e f m) ((2 ^ e - 1) * 2 ^ f)
  | .inf n => bit n * 2 ^ (e + f) + (2 ^ e - 1) * 2 ^ f
  | .nan =>
    let x := Config.nan key.1 key.2
    (x % 2) * 2 ^ (e + f) + (2 ^ e - 1) * 2 ^ f + 1 + (x / 2) % (2 ^ f - 1)

/-- FP32, FP64 and FP40 words of values, and FP32 and FP40 values of words. -/
def fvOf32 (w : Nat) : Fv := Fv.of 8 23 w
def fvOf40 (w : Nat) : Fv := Fv.of 8 31 w
/-- A value rounded to FP32 or FP64, as a value. -/
def Fv.rn32 (v : Fv) : Fv := match v with
  | .nan => .nan
  | _ => Fv.of 8 23 (v.word 8 23 (0, 0))
def Fv.rn64 (v : Fv) : Fv := match v with
  | .nan => .nan
  | _ => Fv.of 11 52 (v.word 11 52 (0, 0))

/-- BF16 of an FP32 word (R252). -/
def toBf16 (w : Nat) : Nat := (fvOf32 w).word 8 7 (w, 16)
/-- FP32 words to BF16 bytes, and back with 16 zero low bits (R259). -/
def narrowBytes (v : List Byte) : List Byte := (List.range (v.length / 4)).flatMap (fun i => leBytes 2 (toBf16 (field v (4 * i) 4)))
def widenBytes (v : List Byte) : List Byte := (List.range (v.length / 2)).flatMap (fun i => zeros 2 ++ slice v (2 * i) 2)

/-! ## MX elements of the Tedder (R276, R281) -/

/-- An element format of Table 2-3 codes 0x06 to 0x0A: width, exponent and fraction bits, largest finite code, emax. -/
structure TedFmt where
  width : Nat
  e : Nat
  f : Nat
  top : Nat
  emax : Int

/-- The format of a code. -/
def tedFmt (c : Nat) : Option TedFmt :=
  match c with
  | 0x06 => some ⟨8, 4, 3, 0x7E, 8⟩
  | 0x07 => some ⟨8, 5, 2, 0x7B, 15⟩
  | 0x08 => some ⟨6, 2, 3, 0x1F, 2⟩
  | 0x09 => some ⟨6, 3, 2, 0x1F, 4⟩
  | 0x0A => some ⟨4, 2, 1, 0x7, 2⟩
  | _ => none

/-- The value of an element code: E4M3 has NaN alone at its top code, E5M2 infinities and NaNs, the others neither. -/
def TedFmt.val (k : TedFmt) (c : Nat) : Fv :=
  if k.e = 4 then (if bits c 0 7 = 127 then .nan else .real (((fpUnits 4 3 c : Int) : Rat) / 512) (bitAt c 7))
  else if k.e = 5 then Fv.of 5 2 c
  else .real ((fpUnits k.e k.f c : Int) * pow2 (2 - 2 ^ (k.e - 1) - (k.f : Int))) (bitAt c (k.e + k.f))

/-- The code of a value, rounded, with values beyond the largest finite magnitude saturated. -/
def TedFmt.code (k : TedFmt) (key : Nat × Nat) (v : Fv) : Nat :=
  match v with
  | .fin n m => bit n * 2 ^ (k.width - 1) + Nat.min (magCode k.e k.f m) k.top
  | .inf n => bit n * 2 ^ (k.width - 1) + k.top
  | .nan => Config.nan key.1 key.2 % 2 ^ k.width

/-- Bytes of the elements of a Tedder block, and the raw payload (Table 9-4). -/
def TedFmt.elemBytes (k : TedFmt) : Nat := 128 * k.width
def TedFmt.rawD (k : TedFmt) : Nat := k.elemBytes + 32
/-- L of a payload of D bytes (R280), and the slot size Z. -/
def blockLen (d : Nat) : Nat := 32 * ceilDiv (20 + d) 32
def TedFmt.slotBytes (k : TedFmt) : Nat := blockLen k.rawD

/-- Pack codes of w bits, code 0 lowest (R52). -/
def packCodes (w : Nat) (cs : List Nat) : Nat := cs.foldr (fun c a => c + 2 ^ w * a) 0
/-- The element bytes of 1,024 codes: 32 MX blocks in order. -/
def TedFmt.pack (k : TedFmt) (cs : List Nat) : List Byte :=
  (List.range 32).flatMap (fun i => leBytes (4 * k.width) (packCodes k.width ((cs.drop (32 * i)).take 32)))
/-- The codes of element bytes. -/
def TedFmt.unpack (k : TedFmt) (v : List Byte) : List Nat :=
  (List.range 32).flatMap (fun i =>
    let n := leNat (slice v (4 * k.width * i) (4 * k.width))
    (List.range 32).map (fun j => bits n (k.width * j) k.width))

/-! ## The canonical Huffman code of RFC 1951, section 3.2.2 -/

/-- First codes by length: code(n + 1) = (code(n) + count(n)) × 2. -/
def firstCodes (lens : List Nat) : Nat → Nat
  | 0 => 0
  | n + 1 => 2 * (firstCodes lens n + (if n = 0 then 0 else lens.count n))
/-- The code word of symbol c, as bits from the most significant; none for a symbol without a code. -/
def codeWord (lens : List Nat) (c : Nat) : List Bool :=
  let n := lens.getD c 0
  let code := firstCodes lens n + (lens.take c).count n
  (List.range n).map (fun i => bitAt code (n - 1 - i))
/-- Bits packed into bytes from bit 0 up, the last byte padded with zeros (section 3.1.1). -/
def packBits (v : List Bool) : List Byte :=
  (List.range (ceilDiv v.length 8)).map (fun i => (List.range 8).foldl (fun (b : Byte) j =>
    if v.getD (8 * i + j) false then b ||| (1#8 <<< j) else b) 0#8)
/-- The bits of bytes, bit 0 first. -/
def unpackBits (v : List Byte) : List Bool := v.flatMap (fun b => (List.range 8).map (fun j => b.getLsbD j))
/-- Take one symbol off a bit stream: follow the lengths 1 to 15. -/
def takeSymbol (lens : List Nat) : Nat → Nat → Nat → List Bool → Option (Nat × List Bool)
  | 0, _, _, _ => none
  | _ + 1, _, _, [] => none
  | fuel + 1, len, code, b :: rest =>
    let code' := 2 * code + bit b
    let at' := (List.range lens.length).filter (fun c => lens.getD c 0 == len + 1)
    if firstCodes lens (len + 1) ≤ code' ∧ code' < firstCodes lens (len + 1) + at'.length
    then some (at'.getD (code' - firstCodes lens (len + 1)) 0, rest)
    else takeSymbol lens fuel (len + 1) code' rest
/-- Take n symbols off. -/
def takeSymbols (lens : List Nat) : Nat → List Bool → Option (List Nat × List Bool)
  | 0, v => some ([], v)
  | n + 1, v =>
    match takeSymbol lens 15 0 0 v with
    | none => none
    | some (c, rest) => (takeSymbols lens n rest).map (fun p => (c :: p.1, p.2))

/-- The code lengths of a width in an entropy slot's 336 bytes (R346); none when all are 0. -/
def entropyList (v : List Byte) (w : Nat) : Option (List Nat) :=
  let l := ((match w with
    | 4 => slice v 0 16
    | 6 => slice v 16 64
    | _ => slice v 80 256) : List Byte).map (fun b => bits b.toNat 0 4)
  if l.all (· == 0) then none else some l

end Sys2Proof.Machine
end

