-- ==== Sys2Proof/Machine/Member.lean ====
section
/-! DEFINITION. Membership and liveness (chapter 13): MEMBERSHIP_UPDATE, larks, suspicion and reports. -/

namespace Sys2Proof.Machine

/-! ## Installing a table (R164, R389) -/

/-- Members whose state or triple differs between two tables. -/
def Sheaf.changed (a b : Sheaf) : List Nat :=
  (List.range b.members.length).filter (fun i => match a.mem? i, b.mem? i with
    | some x, some y => x.st != y.st || x.triple != y.triple
    | _, _ => true)

/-- A table with its member states. -/
def Sheaf.withStates (sh : Sheaf) (states : Nat) : Sheaf :=
  { sh with members := sh.members.zipIdx.map (fun p => { p.1 with st := MemState.ofCode (statesCode states p.2) }) }

/-- The members of a new table take along the marks of unchanged members; every lark time is the present (R381, R389). -/
def Sheaf.carry (old new : Sheaf) (now : Nat) : Sheaf :=
  { new with members := new.members.zipIdx.map (fun p => match old.mem? p.2 with
      | some x =>
        let y := { p.1 with lark := now }
        if x.st == y.st && x.triple == y.triple then
          { y with suspect := x.suspect, level := x.level, matched := x.matched, mismatch := x.mismatch }
        else y
      | none => { p.1 with lark := now }) }

/-- Free a context's messages and the context of every far end of a sheaf that satisfies p (R164). -/
def State.dropPeers (s : State) (id : Nat) (p : Nat → Bool) : State :=
  (s.freeSend (fun c => c.sheaf == id && p c.dst)).freeRecv (fun c => c.sheaf == id && p c.src)

/-- Create the contexts of the local regions of a sheaf to the members of a list (R138, R164). -/
def State.addPeers (s : State) (id : Nat) (sh : Sheaf) (l : List Nat) : State :=
  (s.sheafRegions id).foldl (fun t p =>
    (sh.peersOf p.2.member).foldl (fun u q =>
      if l.contains q.1 then
        (if p.2.member < sh.k then u.addSend p.1 id (q.1 - sh.k) sh.k q.2 else u.addRecv p.1 id q.1)
      else u) t) s

/-- Send a context's messages again under a new epoch: the SENT ones, and the FENCED ones when the epoch reaches the one that
fenced it (R143, R164). A try that cannot be issued now is due at once. -/
def State.resend (s : State) (id epoch : Nat) : State :=
  let wake := fun (c : SendCtx) =>
    if c.sheaf = id && (match c.fencedBy with | some e => decide (e ≤ epoch) | none => true) then
      { c with fencedBy := none
               msgs := c.msgs.map (fun m => if m.st = .sent ∨ m.st = .fenced then { m with st := MsgState.sent, due := s.now } else m) }
    else c
  let sctx := s.port.sctx.map (fun p => (p.1, wake p.2))
  let s1 := { s with port := { s.port with sctx := sctx } }
  (s1.port.sctx.filter (fun p => p.2.sheaf == id && p.2.fencedBy.isNone)).foldl (fun t p =>
    (p.2.msgs.filter (fun m => m.st == .sent)).foldl (fun u m => if u.mayTry p.2 m then u.tryMsg p.1 m.seq else u) t) s1

/-- Old-epoch work of a sheaf ends: partial messages (R153), decode slots (R70), dedup keys (R385). -/
def State.endEpoch (s : State) (id epoch : Nat) : State :=
  let idx := (s.sheafRegions id).map (·.1)
  let clean := fun (c : RecvCtx) => if c.sheaf = id then { c with win := c.win.filter (fun q => q.2.st != .assembling) } else c
  let dec := (s.tables.dec.map (fun p => (p.1, if idx.contains p.2.region && p.2.epoch != epoch then { p.2 with stale := true } else p.2))).filter
    (fun p => !(p.2.stale && p.2.refs.isEmpty))
  let rctx := s.port.rctx.map (fun p => (p.1, clean p.2))
  ({ s with port := { s.port with rctx := rctx }
            tables := { s.tables with dec := dec } }).closeKeys (fun k => k.sheaf == id)

/-- Install a new table of a sheaf under its epoch: the changed members' contexts go, and come again for those of `added`; the
messages of the others are sent again. -/
def State.installSheaf (s : State) (id : Nat) (sh : Sheaf) (changed added : List Nat) : State :=
  let s1 := s.dropPeers id (fun i => changed.contains i)
  let regs := s1.regions.map (fun p => (p.1, if p.2.sheaf = id then { p.2 with epoch := sh.epoch } else p.2))
  let s2 := { s1 with regions := regs, sheaves := s1.sheaves.set id sh }
  ((s2.addPeers id sh added).endEpoch id sh.epoch).resend id sh.epoch

/-! ## MEMBERSHIP_UPDATE (R387 to R389) -/

/-- Are STATES within Table 13-1 and 0 above the members? -/
def statesOk (v n : Nat) : Bool :=
  (List.range 36).all (fun i => statesCode v i != 3 && (decide (i < n) || statesCode v i == 0))

/-- Row 3 of Table 13-7 beyond the missing local region. -/
def State.updateConflict (s : State) (id : Nat) (a b : Sheaf) : Bool :=
  !(decide (a.k = b.k ∧ a.m = b.m ∧ a.dMax = b.dMax ∧ a.strict = b.strict ∧ a.coef = b.coef ∧ a.coefDigest = b.coefDigest)) ||
  (a.members.zip b.members).any (fun q =>
    (q.1.st == .alive && q.2.st == .alive && q.1.triple != q.2.triple) ||
    (q.1.st != .alive && q.2.st == .alive) ||
    (s.isLocal q.1 && q.1.alive && (q.1.triple != q.2.triple || (q.2.st == .replaced && q.1.st != .replaced))) ||
    (q.2.st == .replaced && q.1.tiles != q.2.tiles)) ||
  decide (1024 < ({ s with sheaves := s.sheaves.set id b }).larkPeers.length) ||
  (s.sheafRegions id).any (fun p => s.setOpRunning 0x11 p.2.set || s.setOpRunning 0x12 p.2.set)

/-- The status of an update after its table has been read; 0 when it passes. -/
def State.updateStatus (s : State) (o : Op) (t : Option SheafTab) : Nat :=
  match t with
  | none => stNotSupported
  | some t =>
    let id := o.arg 16 3
    if !statesOk (o.arg 32 9) (t.sh.k + t.sh.m) || t.sh.epoch != o.epoch || t.id != id then stNotSupported
    else match s.sheaves.get id with
      | none => stConflict
      | some a =>
        if o.epoch ≤ a.epoch then stStaleEpoch
        else if s.updateConflict id a (t.sh.withStates (o.arg 32 9)) then stConflict else 0

/-- Does STATES hold a reserved code (Table 13-1)? -/
def statesReserved (v : Nat) : Bool := (List.range 36).any (fun i => statesCode v i == 3)
/-- MEMBERSHIP_UPDATE (R387 to R389): the table is read once at start; a reserved code of STATES needs no read (R10). -/
def execMembershipUpdate (op : Nat) (ext : Ext) (si : State) : Out :=
  .next (match si.work op 0x05 with
    | none => si
    | some o =>
      if statesReserved (o.arg 32 9) then si.fail o stNotSupported else
      match si.readTable ext (o.arg 24 8) with
      | (.error, s) => s.fail o stCheckFail
      | (.path, s) => s.fail o stPathFailed
      | (.data v, s) =>
        let t := parseSheaf v s.now
        let st := s.updateStatus o t
        if st ≠ 0 then s.fail o st else
        let id := o.arg 16 3
        match t, s.sheaves.get id with
        | some t, some a =>
          let b := t.sh.withStates (o.arg 32 9)
          let ch := a.changed b
          let new := a.carry b s.now
          let added := ch.filter (fun i => ((new.mem? i).map (fun x => x.st == .replaced)).getD false)
          let lost := ch.filter (fun i => ((new.mem? i).map (fun x => x.st != .alive)).getD false)
          let s0 := { s with snap := { s.snap with losses := s.snap.losses ++ lost.map (fun _ => s.now) } }
          let s1 := s0.installSheaf id new ch added
          let gone := (s1.sheafRegions id).filter (fun p => ((new.mem? p.2.member).map (fun x => x.st == .removed)).getD false)
          let s2 := gone.foldl (fun u p => u.leaveSheaf p.1) s1
          (s2.finish o stOk 0 ch.length 0).settle
        | _, _ => s)

/-! ## Larks (R378 to R382, R396) -/

/-- The entries of a lark to a peer: (sheaf, member, epoch) of each local region of the job that shares a sheaf with it. -/
def State.larkEntries (s : State) (dst job : Nat) : List (Nat × Nat × Nat) :=
  (s.regions.vals.filter (fun r => r.jobTag == job && (match s.sheafOf r with
    | some sh => sh.members.any (fun x => x.alive && dstKey x.node x.agent == dst)
    | none => false))).map (fun r => (r.sheaf, r.member, r.epoch))

/-- Cut a list into pieces of `n`, for at most `f` pieces. -/
def chunks {α : Type} (n : Nat) : Nat → List α → List (List α)
  | 0, _ => []
  | f + 1, l => if l.isEmpty then [] else l.take n :: chunks n f (l.drop n)

/-- Key of a lark peer's round number. -/
def peerKey (dst job : Nat) : Nat := dst * 65536 + job

/-- Send one lark to a peer (R379). -/
def State.sendLark (s : State) (p : Nat × Nat) : State :=
  let es := s.larkEntries p.1 p.2
  let round := (s.sward.rounds.get (peerKey p.1 p.2)).getD 0
  let route := s.routeOf p.1 (s.firstPath p.1 (stripeHash ((es.head?.map (·.1)).getD 0) 0))
  let pk := (chunks 32 8 es).zipIdx.map (fun q =>
    let h : Hdr := { typ := 5, pkt := q.2, cls := 1, job := p.2, count := q.1.length, seq := round }
    let body := leBytes 1 s.ucode.level ++ zeros 15 ++
      q.1.flatMap (fun e => leBytes 3 e.1 ++ leBytes 1 e.2.1 ++ leBytes 4 e.2.2 ++ zeros 8)
    Tx.packet (gaddr (p.1 / 16) (p.1 % 16) 0) route (h.packet body))
  let rounds := s.sward.rounds.set (peerKey p.1 p.2) ((round + 1) % 2 ^ 32)
  ({ s with port := { s.port with tx := s.port.tx ++ pk }, sward := { s.sward with rounds := rounds } }).bumpBy (membCnt 0) pk.length

/-- Change a member of a sheaf. -/
def State.modMember (s : State) (id i : Nat) (f : Member → Member) : State := s.modSheaf id (fun sh => sh.modMember i f)

/-- Mark a silent member SUSPECT, and report it (R381, R384). -/
def State.markSilent (s : State) (ticks id i : Nat) (x : Member) : State :=
  if x.alive && !s.isLocal x && !x.suspect && s.past x.lark ticks then
    ((s.modMember id i (fun x => { x with suspect := true })).bump (membCnt 3)).report id 1 i 0
  else s

/-- LARK_INTERVAL_TICK (R379, R381, R396): INTERVAL µs after the last one, one lark to each peer, and the SUSPECT marks. A write of
WY_LARK_CFG takes effect here. -/
def execLarkIntervalTick (s : State) : Out :=
  .next (if !s.past s.sward.tick (us (bits s.sward.cfg.toNat 0 10)) then s else
    let cfg := s.reg 0x0180
    let s1 := { s with sward := { s.sward with tick := s.now, cfg := cfg } }
    let s2 := s1.larkPeers.foldl (fun t p => t.sendLark p) s1
    let ticks := us (bits cfg.toNat 0 10) * bits cfg.toNat 10 4
    s2.sheaves.foldl (fun t p => p.2.members.zipIdx.foldl (fun u q => u.markSilent ticks p.1 q.2 q.1) t) s2)

/-- A valid lark entry: the lark time, the level, the mark, and the level match (R380, R382). -/
def State.larkValid (s : State) (id i level : Nat) (x : Member) : State :=
  let own := s.ucode.level
  let s1 := s.modMember id i (fun x => { x with lark := s.now, level := some level, suspect := false, matched := level == own })
  let s2 := if x.suspect then s1.bump (membCnt 4) else s1
  if level = own then s2 else (s2.event 88 (infoB id i level)).report id 3 i level

/-- One lark entry (R380, R442). -/
def State.larkEntry (s : State) (src job level : Nat) (e : List Byte) : State :=
  let id := field e 0 3
  let i := field e 3 1
  if !((s.sheafRegions id).any (fun p => p.2.jobTag == job)) then s.bump (membCnt 1) else
  match s.sheaves.get id with
  | none => s.bump (membCnt 1)
  | some sh =>
    if field e 4 4 ≠ sh.epoch then s.bump (membCnt 2) else
    match sh.mem? i with
    | none => s.bump (membCnt 1)
    | some x =>
      if !x.alive then s.bump (membCnt 1)
      else if dstKey x.node x.agent ≠ src then
        (s.modMember id i (fun x => { x with mismatch := some (src / 16, src % 16) })).bump (membCnt 1)
      else s.larkValid id i level x

/-- LARK_RECEIVE (R148, R380, R382, R442). -/
def execLarkReceive (src : Nat) (bytes : List Byte) (s : State) : Out :=
  .next (let s0 := s.packetIn
    let h := Hdr.parse bytes
    let v := payloadOf bytes
    if !s.aligned then s0
    else if !trailerOk bytes then s0.bump (qtrCnt 4)
    else if h.typ ≠ 5 then s
    else ((List.range (Nat.min h.count ((v.length - 16) / 16))).foldl (fun t e =>
      t.larkEntry src h.job (field v 0 1) (slice v (16 + 16 * e) 16)) s0).settle)

/-! ## Reports (R383 to R386) -/

/-- REPORT_RECEIVE (R148, R385). -/
def execReportReceive (_src : Nat) (bytes : List Byte) (s : State) : Out :=
  .next (let s0 := s.packetIn
    let h := Hdr.parse bytes
    let v := payloadOf bytes
    if !s.aligned then s0
    else if !trailerOk bytes then s0.bump (qtrCnt 4)
    else if h.typ ≠ 6 then s
    else s0.takeReport h.sheaf h.dst h.job h.epoch (field v 0 1) (field v 1 1) h.src)

/-- REPORT_REPEAT_TIMER (R384): the reports of marks and level mismatches that last are sent again every 1,000 µs. -/
def execReportRepeatTimer (s : State) : Out :=
  .next (s.sheaves.foldl (fun t p => p.2.members.zipIdx.foldl (fun u q =>
    let a := if q.1.suspect then u.report p.1 1 q.2 0 else u
    match q.1.level with
    | some l => if l = s.ucode.level then a else a.report p.1 3 q.2 l
    | none => a) t) s)

/-- REPORT_RECORD_REWRITE (R385): a key whose mask has grown is written again, 100 µs after its last write at the soonest. -/
def execReportRecordRewrite (key : Nat) (s : State) : Out :=
  .next (match s.sward.keys[key]? with
    | some k =>
      if k.due && s.past k.written 10000 then
        let s1 := s.writeReport k
        { s1 with sward := { s1.sward with keys := s1.sward.keys.modify key (fun k => { k with due := false, written := s.now }) } }
      else s
    | none => s)

end Sys2Proof.Machine
end

