-- ==== Sys2Proof/Machine/Rebuild.lean ====
section
/-! DEFINITION. Degraded reads, fostering, rebuild, migration and REGROUP (chapter 7). -/

namespace Sys2Proof.Machine

/-! ## DEGRADED_READ (R208 to R212) -/

/-- The status of a DEGRADED_READ at its start; 0 when it passes. -/
def State.degradedStatus (s : State) (o : Op) : Nat :=
  let target := o.arg 17 1
  if 1 < o.arg 18 1 ∨ !countOk (o.arg 24 4) then stNotSupported else
  match s.regions.get (o.arg 16 1) with
  | none => stConflict
  | some r =>
    match s.sheafOf r with
    | none => stConflict
    | some sh =>
      match sh.mem? target with
      | none => stConflict
      | some x =>
        if sh.stripes < o.arg 20 4 + o.arg 24 4 then stConflict
        else if o.epoch ≠ r.epoch then stStaleEpoch
        else if o.arg 18 1 = 0 && (x.st != .alive || x.suspect) then stNotSupported
        else 0

/-- Decode a TARGET tile for DEGRADED_READ and write it to its place. -/
def State.degradedDecode (s : State) (ext : Ext) (op j : Nat) (r : Region) (sh : Sheaf) (target t : Nat) (put : List Byte → State → Walk) : Walk :=
  if !s.laneReady then .wait s else
  match s.targetTile ext (some op) 0 j r sh target t with
  | (.tile v d, s1) =>
    put v ((s1.bumpBy (rbldCnt 0) (bit d)).modOp op (fun o => { o with result := o.result + bit d }))
  | (.fail st, s1) => s1.decodeFail st j t
  | (.again, s1) => s1.tryAgain op
  | (.wait, s1) => .wait s1

/-- One tile of a DEGRADED_READ (R209 to R212). A write to DEST on another engine waits for its bucket (R364). -/
def State.degradedTile (ext : Ext) (op : Nat) (o : Op) (t : Nat) (s : State) : Walk :=
  let j := o.arg 16 1
  let target := o.arg 17 1
  let view := o.arg 18 1
  let dest := o.arg 28 8 + 4096 * (t - o.arg 20 4)
  match s.regions.get j with
  | none => .stop stStaleEpoch s
  | some r =>
    match s.sheafOf r with
    | none => .stop stStaleEpoch s
    | some sh =>
      match sh.mem? target with
      | none => .stop stStaleEpoch s
      | some x =>
        if !o.sameMember r then .stop stStaleEpoch s else
        let dst := dstKey (gNode dest) (gAgent dest)
        let put := fun (v : List Byte) (u : State) =>
          let st := writeStatus ext dest
          if st ≠ stOk then Walk.stop st u
          else if u.own dest then Walk.go ((u.engineWrite op dest v 0).freshTries op)
          else if !u.bucketOk dst 4096 then Walk.wait (u.putBucket (u.bucketNow dst))
          else Walk.go (((u.charge dst 4096).engineWrite op dest v 0).freshTries op)
        let decode := fun (u : State) => u.degradedDecode ext op j r sh target t put
        (s.freshEpoch op r.epoch).unitWrites op t (fun s =>
          if sh.virtual target t then put (zeros 4096) s
          else if x.st = .removed ∨ x.suspect then decode s
          else
            let first := if x.st = .replaced then 1 else view
            match s.readMember ext (some op) 0 first r.sheaf r target t x with
            | (.data v _, s1) => put v s1
            | (.wait, s1) => .wait s1
            | (.path, s1) => if first = 0 then .stop stPathFailed s1 else decode (s1.reselect (some op) t [target])
            | (.refused st, s1) =>
              if x.st = .replaced ∧ st = stUnrecoverable then decode s1
              else if first = 0 ∨ (target < sh.k ∧ (st = stPathFailed ∨ st = stCheckFail)) then .stop st s1
              else decode (s1.reselect (some op) t [target]))

/-- DEGRADED_READ (R208). One that is CANCELLING starts no further tile (R101). -/
def execDegradedRead (op units : Nat) (ext : Ext) (s : State) : Out :=
  .next (match s.work op 0x30 with
    | none => s
    | some o =>
      if o.stage = .fresh then
        let st := s.degradedStatus o
        if st ≠ 0 then s.fail o st else
        match s.regions.get (o.arg 16 1) with
        | some r => s.modOp op (fun o =>
            { (o.keep nkSheaf (r.sheaf + 1)).keep nkMember (r.member + 1) with stage := .walking, cursor := o.arg 20 4 })
        | none => s
      else if o.stage = .walking then
        let last := o.arg 20 4 + o.arg 24 4
        State.endWalk op last (fun t x => t.finish x stOk x.cursor x.result 0)
          (State.walk op last (fun t u => match u.op? op with
            | some x => u.degradedTile ext op x t
            | none => .wait u) (if o.st = .cancelling then 1 else units) s)
      else s)

/-! ## FOSTER (R213 to R215) -/

/-- The IMAGE conditions of Table 7-6 row 3, with that of R307. -/
def State.imageConflict (s : State) (j : Nat) (r img : Region) : Bool :=
  img.tileBase != r.tileBase || decide (r.tileCount < img.tileCount) || img.jobTag != r.jobTag || s.setLive img.set ||
  !s.linkOk img || decide (r.guardMax < img.guardMax) ||
  (img.role.logical && s.regions.any (fun p => p.1 != j && p.2.role.logical && p.2.jobTag == img.jobTag &&
    overlap img.logicalBase img.tileCount p.2.logicalBase p.2.tileCount))

/-- The built-map limit (R215) with one more region of `n` tiles. -/
def State.builtRoom (s : State) (n : Nat) : Bool :=
  decide (((s.regions.vals.filter (fun r => r.state == .fostering)).map (·.tileCount)).sum + n ≤ s.partRbs * 524288)

/-- The other regions of a sheaf. -/
def State.others (s : State) (id j : Nat) : List (Nat × Region) := (s.sheafRegions id).filter (fun p => p.1 != j)

/-- Row 3 of Table 7-6. -/
def State.fosterConflict (s : State) (o : Op) (j : Nat) (r img : Region) (t : SheafTab) : Bool :=
  let i := o.arg 17 1
  match t.sh.mem? i with
  | none => true
  | some x =>
    let sh := t.sh.withStates (o.arg 40 9)
    r.role != .foster || !(s.isLocal x && x.region == j) || img.tileCount != x.tiles || s.imageConflict j r img ||
    !t.sh.roleFits img i || !s.banksFit img t.sh.dMax || (s.fitLog img t.sh.dMax).isNone || (s.fitDirty img).isNone ||
    !s.ctxRoom sh i || !s.builtRoom img.tileCount || statesCode (o.arg 40 9) i != 2 ||
    (!(s.others t.id j).isEmpty &&
      (((s.sheaves.get t.id).map (fun a => a.members.map (·.st) != sh.members.map (·.st))).getD true)) ||
    s.peersOver j t.id sh || (s.others t.id j).any (fun p => p.2.member == i) ||
    (t.sh.coef == 0 && s.inactiveRefs j != 0)

/-- The status of a FOSTER; 0 when it passes. -/
def State.fosterStatus (s : State) (o : Op) (img : Option Region) (t : Option SheafTab) : Nat :=
  let j := o.arg 16 1
  match img, t with
  | some img, some t =>
    if !s.partOk || !statesOk (o.arg 40 9) (t.sh.k + t.sh.m) then stNotSupported
    else if t.sh.epoch ≠ o.epoch || (s.others t.id j).any (fun p => p.2.epoch != o.epoch) then stStaleEpoch
    else match s.regions.get j with
      | none => stConflict
      | some r =>
        if s.fosterConflict o j r img t then stConflict
        else if t.sh.coefDigest ≠ (crc32c (coefBytes (s.joinRows j t.sh) t.sh.m t.sh.k)).toNat then stCheckFail
        else 0
  | _, _ => stNotSupported

/-- An image in the place of the FOSTER region that it takes: guard block, ledger entry and window start stay. -/
def Region.placed (r img : Region) (now : Nat) : Region :=
  { img with guardBlock := r.guardBlock, guardLine := r.guardLine, guardLen := r.guardLen, ledger := r.ledger, winStart := now, confirmed := r.confirmed }

/-- A region takes a member index with an image: descriptor, log block, dirty-map entries, rows. -/
def State.takeImage (s : State) (j i id : Nat) (r img : Region) (sh : Sheaf) (st : RegState) (d : Word64) : State :=
  let x := sh.mem? i
  let r1 := { r.placed img s.now with
    state := st, sheaf := id, member := i, epoch := sh.epoch, board := (x.map (·.board)).getD 0
    shelf := (x.map (·.shelf)).getD 0, row := (x.map (·.row)).getD 0, domainOvr := (sh.labelConflict i).isSome, digest := d
    logBlock := if img.log then s.fitLog img sh.dMax else none, dirtyBase := if img.role.captured then s.fitDirty img else none }
  let s1 := { s with regions := s.regions.set j r1 }
  if sh.coef = 0 then s1.installRows j (cauchyBlock sh.k sh.m) else s1

/-- FOSTER (R213, R214). A reserved code of STATES needs no read (R10). -/
def execFoster (op : Nat) (ext : Ext) (s0 : State) : Out :=
  .next (match s0.work op 0x32 with
    | none => s0
    | some o =>
      if statesReserved (o.arg 40 9) then s0.fail o stNotSupported else
      let a := s0.readAt ext (o.arg 24 8) 64 1
      let b := a.2.readTable ext (o.arg 32 8)
      let s := b.2
      match a.1, b.1 with
      | .data v, .data w =>
        let img := parseImage v
        let t := parseSheaf w s.now
        let st := s.fosterStatus o img t
        if st ≠ 0 then s.fail o st else
        match img, t, s.regions.get (o.arg 16 1) with
        | some img, some t, some r =>
          let j := o.arg 16 1
          let i := o.arg 17 1
          let sh := if (s.others t.id j).isEmpty then t.sh.withStates (o.arg 40 9)
            else (s.sheaves.get t.id).getD (t.sh.withStates (o.arg 40 9))
          let s1 := { s with sheaves := s.sheaves.set t.id sh }
          let s2 := (s1.takeImage j i t.id r img sh .fostering 0#64).addCtxs j t.id sh i
          let s3 := match sh.labelConflict i with
            | some c => s2.auditForm stOk 3 o.ring 0x12 (i + 2 ^ 8 * c.1) (t.id + 2 ^ 24 * c.2.1 + 2 ^ 26 * c.2.2) sh.epoch false
            | none => s2
          (s3.finish o stOk 0 0 j).settle
        | _, _, _ => s
      | .path, _ => s.fail o stPathFailed
      | .data _, .path => s.fail o stPathFailed
      | _, _ => s.fail o stCheckFail)

/-! ## REBUILD (R219 to R222) -/

/-- The status of a REBUILD at its start; 0 when it passes. -/
def State.rebuildStatus (s : State) (o : Op) : Nat :=
  if !countOk (o.arg 24 4) then stNotSupported else
  match s.regions.get (o.arg 16 1) with
  | none => stConflict
  | some r =>
    if r.state ≠ .fostering ∨ r.tileCount < o.arg 20 4 + o.arg 24 4 then stConflict
    else if o.epoch ≠ r.epoch then stStaleEpoch else 0

/-- One tile of a REBUILD: built by R216 unless it is built (R220, R231). -/
def State.rebuildTile (ext : Ext) (op : Nat) (o : Op) (t : Nat) (s : State) : Walk :=
  let j := o.arg 16 1
  match s.regions.get j with
  | none => .stop stStaleEpoch s
  | some r =>
    match s.sheafOf r with
    | none => .stop stStaleEpoch s
    | some sh =>
      if !o.sameMember r then .stop stStaleEpoch s
      else if r.state ≠ .fostering ∨ r.built.has t then .go (s.freshTries op)
      else if s.cbwHolds j t then .wait (s.cbwEngine j t)
      else if !s.laneReady then .wait s
      else match (s.freshEpoch op r.epoch).buildValue ext (some op) 3 j r sh t with
        | (.tile v d, s1) => .go (((s1.acceptBuild j t v).bumpBy (rbldCnt 0) (bit d)).freshTries op)
        | (.fail st, s1) => s1.decodeFail st j t
        | (.again, s1) => s1.tryAgain op
        | (.wait, s1) => .wait s1

/-- The end of a REBUILD (R221). -/
def State.rebuildEnd (s : State) (o : Op) : State :=
  let j := o.arg 16 1
  match s.regions.get j with
  | none => s.fail o stStaleEpoch
  | some r =>
    let ok := s.finish o stOk o.cursor r.rebuildDigest.toNat 0
    if r.built.length < r.tileCount then ok
    else if bitAt (o.arg 30 1) 0 && r.rebuildDigest.toNat != o.arg 32 8 then
      (s.event 74 (infoA j 0)).finish o stRebuildMismatch o.cursor r.rebuildDigest.toNat 0
    else ok.modRegion j (fun r => { r with state := .live })

/-- REBUILD (R219). -/
def execRebuild (op units : Nat) (ext : Ext) (s : State) : Out :=
  .next (match s.work op 0x31 with
    | none => s
    | some o =>
      if o.stage = .fresh then
        let st := s.rebuildStatus o
        if st ≠ 0 then s.fail o st else
        match s.regions.get (o.arg 16 1) with
        | some r => s.modOp op (fun o =>
            { (o.keep nkSheaf (r.sheaf + 1)).keep nkMember (r.member + 1) with stage := .walking, cursor := o.arg 20 4 })
        | none => s
      else if o.stage = .walking then
        let last := o.arg 20 4 + o.arg 24 4
        State.endWalk op last State.rebuildEnd
          (State.walk op last (fun t u => match u.op? op with
            | some x => u.rebuildTile ext op x t
            | none => .wait u) units s)
      else s)

/-! ## MIGRATE (R223 to R226) -/

/-- A member known by its triple word alone. -/
def tripleMember (w : Nat) : Member :=
  { node := bits w 0 18, agent := bits w 18 4, region := bits w 22 8, board := 0, shelf := 0, row := 0, tiles := 0, st := .alive
    suspect := false, level := none, matched := false, lark := 0, mismatch := none }

/-- Read a tile in view MIGRATE (2), or a chunk in view MAP (3), of a source region, for an operation: a local one by the rows of Table 7-3,
a remote one by a READ at C3 (R207, R223 to R225). -/
def State.migRead (s : State) (ext : Ext) (op job sheaf member source view t : Nat) : MemRd × State :=
  let x := tripleMember source
  if s.isLocal x then
    match s.localMember sheaf member with
    | none => (.refused stStaleEpoch, s)
    | some (j, r) =>
      if r.jobTag ≠ job then (.refused stNackTag, s)
      else if (if view = 3 then r.chunks else r.tileCount) ≤ t then (.refused stCheckFail, s)
      else if view ≠ 3 ∧ r.state = .fostering ∧ !r.built.has t then (.refused stUnrecoverable, s) else
      match s.armMap j r with
      | none => (.refused stConflict, s)
      | some s1 =>
        if view = 3 then
          match (s1.regions.get j).bind (·.mig) with
          | some m => (.data (r.mapChunk m t) 0, s1)
          | none => (.refused stConflict, s1)
        else
          let clear := fun (q : Region) => { q with mig := q.mig.map (fun m => { m with clear := m.clear.set (t / 16) () }) }
          let s2 := if t % 16 = 0 then s1.modRegion j clear else s1
          match s2.viewTile ext j r 2 t with
          | (some v, s3) => (.data v r.confirmed, s3)
          | (none, s3) => (.refused stUnrecoverable, s3)
  else s.askMember op 3 view sheaf t job 0xFF 0 member x

/-- What the reading of a source's map gives: the set granules, FROZEN and DIGEST; a failure; or a wait. -/
inductive MapRd where
  | map (set : List Nat) (frozen : Bool) (digest : Nat)
  | fail (st : Nat)
  | wait

/-- A map with a chunk still on its way, or the failure of another chunk. -/
def MapRd.orWait : MapRd → MapRd
  | .fail st => .fail st
  | _ => .wait

/-- Read the chunks of a source's map: the set granules below `g`, FROZEN and DIGEST of the last chunk. -/
def State.readMap (s : State) (ext : Ext) (op job : Nat) (m : Migrated) (g : Nat) : List Nat → MapRd × State
  | [] => (.map [] true 0, s)
  | c :: l =>
    match s.migRead ext op job m.sheaf m.member m.source 3 c with
    | (.data v _, s1) =>
      let set := ((List.range 32640).filter (fun i => decide (32640 * c + i < g) && bitAt (field v (i / 8) 1) (i % 8))).map (32640 * c + ·)
      let fr := bitAt (field v 4080 1) 0
      let dg := field v 4088 8
      (match s1.readMap ext op job m g l with
       | (.map xs b d, s2) => (.map (set ++ xs) (fr && b) (if l.isEmpty then dg else d), s2)
       | x => x)
    | (.refused st, s1) => (.fail st, s1)
    | (.path, s1) => (.fail stPathFailed, s1)
    | (.wait, s1) => ((s1.readMap ext op job m g l).1.orWait, (s1.readMap ext op job m g l).2)

/-- Copy tile t from the source into the FOSTER region: an engine write under the image's strength, and the copy's digest. -/
def State.copyTile (s : State) (ext : Ext) (op job j t : Nat) (first : Bool) : Walk :=
  match s.regions.get j with
  | none => .stop stConflict s
  | some r =>
    match r.migrated with
    | none => .stop stConflict s
    | some m =>
      match parseImage m.image with
      | none => .stop stConflict s
      | some img =>
        match s.migRead ext op job m.sheaf m.member m.source 2 t with
        | (.refused st, s1) => .stop st s1
        | (.path, s1) => .stop stPathFailed s1
        | (.wait, s1) => .wait s1
        | (.data v _, s1) =>
          let old := s1.tileBytes r t
          let d := if first then m.digest + crc64 v * img.weight t else digestStep m.digest (img.weight t) old v
          .go (((s1.putTile (r.placed img s.now) t v).modRegion j (fun r => { r with migrated := some { m with digest := d } })).freshTries op)

/-- Note keys of a MIGRATE: the number of the pass, the granules set when it began, its tiles and the place in them. -/
def nkPass : Nat := 920
def nkBegan : Nat := 921
def nkPos : Nat := 922
def nkLen : Nat := 923
def nkTodo : Nat := 1048576

/-- The tiles of granules below a count. -/
def granuleTiles (n : Nat) (gs : List Nat) : List Nat :=
  gs.flatMap (fun g => ((List.range 16).map (fun i => 16 * g + i)).filter (fun t => decide (t < n)))

/-- The conditions of Table 7-6 row 3 on the IMAGE of a MIGRATE that its sheaf's table shows; the table is known where the engine holds a
region of the sheaf. -/
def State.migrateMisfit (s : State) (o : Op) (r img : Region) (sh : Sheaf) : Bool :=
  let i := o.arg 17 1
  match sh.mem? i with
  | none => true
  | some x => decide (r.tileCount < x.tiles) || img.tileCount != x.tiles || !sh.roleFits img i || !s.banksFit img sh.dMax ||
      (s.fitLog img sh.dMax).isNone || !s.ctxRoom sh i || (!o.fOverride && (x.suspect || x.st == .replaced))
/-- The status of a MIGRATE at its start; 0 when it passes. -/
def State.migrateStatus (s : State) (o : Op) (img : Option Region) : Nat :=
  let j := o.arg 16 1
  match img with
  | none => stNotSupported
  | some img =>
    if !s.partOk then stNotSupported else
    match s.regions.get j with
    | none => stConflict
    | some r =>
      if r.role != .foster || s.imageConflict j r img || (s.fitDirty img).isNone ||
        ((s.sheaves.get (o.arg 18 3)).map (s.migrateMisfit o r img)).getD false then stConflict
      else 0

/-- Begin a later pass: the map is read, and the tiles of its set granules are copied again (R226). -/
def State.nextPass (s : State) (ext : Ext) (op : Nat) (o : Op) (m : Migrated) (img : Region) : Walk :=
  match s.readMap ext op o.jobTag m img.granules (List.range img.chunks) with
  | (.fail st, s1) => .stop st s1
  | (.wait, s1) => .wait s1
  | (.map gs _ _, s1) =>
    let tiles := granuleTiles img.tileCount gs
    let base := o.note.filter (fun p => decide (p.1 < nkTodo))
    let note : Tab Nat := base ++ tiles.zipIdx.map (fun p => (nkTodo + p.2, p.1))
    .go ((s1.freshTries op).modOp op (fun o => (((({ o with note := note }).keep nkPass (o.n nkPass + 1)).keep
      nkBegan gs.length).keep nkPos 0).keep nkLen tiles.length))

/-- One piece of a MIGRATE: a tile of the first pass, a tile of a later one, or the start of the next. -/
def State.migrateUnit (ext : Ext) (op : Nat) (s : State) : Walk :=
  match s.op? op with
  | none => .wait s
  | some o =>
    let j := o.arg 16 1
    match (s.regions.get j).bind (·.migrated) with
    | none => .stop stConflict s
    | some m =>
      match parseImage m.image with
      | none => .stop stConflict s
      | some img =>
        let thresh := if o.arg 30 2 = 0 then 64 else o.arg 30 2
        let fin := fun (t : State) =>
          let t1 := t.modRegion j (fun r => { r with migrated := r.migrated.map (fun m => { m with done := true }) })
          Walk.go (t1.finish o stOk o.cursor o.result 0)
        if o.n nkPass = 0 then
          (if o.cursor < img.tileCount then
            (match s.copyTile ext op o.jobTag j o.cursor true with
             | .go s1 => .go (s1.modOp op (fun o => { o with cursor := o.cursor + 1 }))
             | x => x)
          else if img.granules ≤ thresh then fin s else s.nextPass ext op o m img)
        else if o.n nkPos < o.n nkLen then
          match s.copyTile ext op o.jobTag j (o.n (nkTodo + o.n nkPos)) false with
          | .go s1 => .go ((s1.bump (rbldCnt 7)).modOp op (fun o => { o.keep nkPos (o.n nkPos + 1) with result := o.result + 1 }))
          | x => x
        else if o.n nkBegan ≤ thresh then fin s else s.nextPass ext op o m img

/-- Pieces of a MIGRATE. -/
def State.migrateLoop (ext : Ext) (op : Nat) : Nat → State → Walk
  | 0, s => .go s
  | n + 1, s => if (s.op? op).isNone then .go s else
    match s.migrateUnit ext op with
    | .go s1 => State.migrateLoop ext op n s1
    | x => x

/-- MIGRATE (R223, R226). -/
def execMigrate (op units : Nat) (ext : Ext) (s : State) : Out :=
  .next (match s.work op 0x33 with
    | none => s
    | some o =>
      if o.stage = .fresh then
        match s.readAt ext (o.arg 32 8) 64 1 with
        | (.error, s) => s.fail o stCheckFail
        | (.path, s) => s.fail o stPathFailed
        | (.data v, s) =>
          let st := s.migrateStatus o (parseImage v)
          if st ≠ 0 then s.fail o st else
          let m : Migrated := { sheaf := o.arg 18 3, member := o.arg 17 1, source := o.arg 24 4, image := v, digest := 0#64, done := false }
          (s.modRegion (o.arg 16 1) (fun r => { r with migrated := some m })).modOp op (fun o => { o with stage := .walking })
      else if o.stage = .walking then
        match State.migrateLoop ext op units s with
        | .go s1 => (s1.yieldPoint op).settle
        | x => State.endWalk op 0 (fun t _ => t) x
      else s)

/-! ## REGROUP (R227 to R230) -/

/-- Read `n` concatenated sheaf tables. -/
def State.readTables (s : State) (ext : Ext) : Nat → Nat → (List (List Byte) ⊕ Nat) × State
  | 0, _ => (.inl [], s)
  | n + 1, a =>
    match s.readTable ext a with
    | (.error, s1) => (.inr stCheckFail, s1)
    | (.path, s1) => (.inr stPathFailed, s1)
    | (.data v, s1) => match s1.readTables ext n (a + v.length) with
      | (.inl vs, s2) => (.inl (v :: vs), s2)
      | x => x

/-- The local regions that a table names, as (region index, member index). -/
def State.namedBy (s : State) (sh : Sheaf) : List (Nat × Nat) :=
  (sh.members.zipIdx.filter (fun p => s.isLocal p.1)).map (fun p => (p.1.region, p.2))
/-- Is a listed sheaf one that this engine has a region in, or gains one in? -/
def State.concerns (s : State) (t : SheafTab) : Bool := s.sheaves.has t.id || !(s.namedBy t.sh).isEmpty
/-- Does local region j gain member index i of a sheaf as the destination of a completed MIGRATE? -/
def State.gains (s : State) (id j i : Nat) : Bool :=
  match s.regions.get j with
  | some r => match r.migrated with
    | some m => m.done && m.sheaf == id && m.member == i && r.role == .foster
    | none => false
  | none => false
/-- Does local region j hold member index i of a sheaf, LIVE? -/
def State.holdsIndex (s : State) (id j i : Nat) : Bool :=
  match s.regions.get j with
  | some r => r.sheaf == id && r.member == i && r.state == .live
  | none => false
/-- Local regions of a sheaf that its new table does not name at their index. -/
def State.leavers (s : State) (t : SheafTab) : List Nat :=
  ((s.sheafRegions t.id).filter (fun p => !(s.namedBy t.sh).contains (p.1, p.2.member))).map (·.1)

/-- Do the bytes of a table name a sheaf in which this engine holds a region, or this engine itself? -/
def State.concernsRaw (s : State) (v : List Byte) : Bool :=
  s.sheaves.has (field v 0 3) || (List.range (field v 3 1 + field v 4 1)).any (fun i => s.isLocal (parseMember (slice v (16 + 16 * i) 16) .alive 0))
/-- The status of a REGROUP over the tables read (Table 7-9, R227, R378); 0 when it passes. Only the sheaves that the engine has a region in,
or gains one in, are checked (R228). -/
def State.regroupStatus (s : State) (o : Op) (vs : List (List Byte)) : Nat :=
  let ts := (vs.filter s.concernsRaw).map (fun v => parseSheaf v s.now)
  if ts.any (fun t => match t with | some t => t.sh.epoch != o.epoch | none => true) then stNotSupported
  else
    let mine := (ts.filterMap id).filter s.concerns
    let after := mine.foldl (fun (u : Tab Sheaf) (t : SheafTab) => Tab.set u t.id t.sh) s.sheaves
    if mine.any (fun t => ((s.sheaves.get t.id).map (fun a => decide (o.epoch ≤ a.epoch))).getD false) ||
      mine.any (fun t => (s.sheafRegions t.id).any (fun p => s.setLive p.2.set)) ||
      mine.any (fun t => (s.namedBy t.sh).any (fun p => !(s.holdsIndex t.id p.1 p.2 || s.gains t.id p.1 p.2))) ||
      decide (1024 < ({ s with sheaves := after }).larkPeers.length)
    then stConflict
    else if !o.fOverride && mine.any (fun t => (s.namedBy t.sh).any (fun p => (t.sh.labelConflict p.2).isSome)) then stDomain
    else 0

/-- Note key of the tables that a REGROUP has read, as numbers. -/
def nkTables : Nat := 4000
/-- The tables of a REGROUP. -/
def Op.tables (o : Op) : List SheafTab :=
  ((List.range (o.arg 24 2)).filterMap (fun i => o.note.get (nkTables + i))).filterMap (fun v => parseSheaf (leBytes 592 v) 0)

/-- Stage 1 of R229: the regions that leave with an armed map hold every write, and FROZEN is set. -/
def State.freezeMaps (s : State) (l : List Nat) : State :=
  l.foldl (fun t j => t.modRegion j (fun r => { r with mig := r.mig.map (fun m => { m with frozen := true }) })) s

/-- Note keys of a REGROUP: the region whose last copy goes on plus 1, the DIGEST that it must reach, and those whose copy is done. -/
def nkLast : Nat := 924
def nkGoal : Nat := 925
def nkCopied : Nat := 3000

/-- Copy the tiles that a REGROUP still has to copy for region j. -/
def State.copyTiles (ext : Ext) (op job j : Nat) : Nat → State → Walk
  | 0, s => .go s
  | n + 1, s =>
    match s.op? op with
    | none => .wait s
    | some o =>
      if o.n nkLen ≤ o.n nkPos then .go s else
      match s.copyTile ext op job j (o.n (nkTodo + o.n nkPos)) false with
      | .go s1 => State.copyTiles ext op job j n ((s1.bump (rbldCnt 7)).modOp op (fun o => o.keep nkPos (o.n nkPos + 1)))
      | x => x
/-- The copy of region j, and the comparison of the digests at its end. -/
def State.lastTiles (ext : Ext) (op job j : Nat) (s : State) : Walk :=
  match State.copyTiles ext op job j (((s.op? op).map (fun o => o.n nkLen)).getD 0) s with
  | .go s1 =>
    let d := (((s1.regions.get j).bind (·.migrated)).map (·.digest.toNat)).getD 0
    if ((s1.op? op).map (fun o => o.n nkGoal == d)).getD false then .go (s1.modOp op (fun o => (o.keep nkLast 0).keep (nkCopied + j) 1))
    else .stop stRebuildMismatch s1
  | x => x

/-- Stage 2 of R229 for one region that gains an index: the map is read until FROZEN, the set granules are copied, and the digests
compared. -/
def State.lastCopy (ext : Ext) (op job j : Nat) (s : State) : Walk :=
  match s.op? op, (s.regions.get j).bind (·.migrated) with
  | some o, some m =>
    (match parseImage m.image with
    | none => .go s
    | some img =>
      if o.n (nkCopied + j) = 1 then .go s
      else if o.n nkLast = j + 1 then State.lastTiles ext op job j s
      else match s.readMap ext op job m img.granules (List.range img.chunks) with
      | (.fail st, s1) => .stop st s1
      | (.wait, s1) => .wait s1
      | (.map gs fr dg, s1) =>
        if !fr then .wait (s1.freshTries op) else
        let tiles := granuleTiles img.tileCount gs
        let todo := tiles.zipIdx.map (fun p => (nkTodo + p.2, p.1))
        State.lastTiles ext op job j ((s1.freshTries op).modOp op (fun o =>
          (((({ o with note := o.note.filter (fun (p : Nat × Nat) => decide (p.1 < nkTodo)) ++ todo }).keep nkLast (j + 1)).keep nkGoal dg).keep
            nkPos 0).keep nkLen tiles.length)))
  | _, _ => .go s

/-- One listed sheaf of a REGROUP before the commit point. -/
def State.regroupUnit (ext : Ext) (o : Op) (c : Nat) (s : State) : Walk :=
  match o.tables[c]? with
  | none => .go s
  | some t =>
    let s1 := s.freezeMaps (s.leavers t)
    ((s.namedBy t.sh).filter (fun p => s.gains t.id p.1 p.2 && !s.holdsIndex t.id p.1 p.2)).foldl (fun (w : Walk) p => match w with
      | .go u => u.lastCopy ext o.id o.jobTag p.1
      | x => x) (.go s1)

/-- End a REGROUP that failed: the holds of its frozen maps are released. -/
def State.regroupFail (s : State) (op st : Nat) : State :=
  match s.op? op with
  | some o => ((s.cancelClean o).fail o st).settle
  | none => s

/-- REGROUP (R227 to R229): the tables are read once and checked; then the two stages, one sheaf at a time, to the commit point. -/
def execRegroup (op units : Nat) (ext : Ext) (s : State) : Out :=
  .next (match s.work op 0x06 with
    | none => s
    | some o =>
      if o.stage = .fresh then
        if o.arg 24 2 = 0 ∨ 256 < o.arg 24 2 then s.fail o stNotSupported else
        match s.readTables ext (o.arg 24 2) (o.arg 16 8) with
        | (.inr st, s) => s.fail o st
        | (.inl vs, s) =>
          let st := s.regroupStatus o vs
          if st ≠ 0 then s.fail o st else
          (s.freezeMaps ((vs.filterMap (fun v => parseSheaf v s.now)).flatMap s.leavers)).modOp op (fun o => { o with
            stage := .walking, note := vs.zipIdx.foldl (fun n p => Tab.set n (nkTables + p.2) (leNat p.1)) o.note })
      else if o.stage = .walking then
        match State.walk op (o.arg 24 2) (fun c u => u.regroupUnit ext o c) units s with
        | .go s1 =>
          if ((s1.op? op).map (·.cursor)).getD 0 < o.arg 24 2 then (s1.yieldPoint op).settle
          else (s1.modOp op (fun o => { o with stage := .prepared })).settle
        | .wait s1 => s1
        | .stop st s1 => s1.regroupFail op st
      else s)

/-- The members whose triple changes, or who come back from REMOVED. -/
def Sheaf.moved (a b : Sheaf) : List Nat :=
  (List.range (Nat.max a.members.length b.members.length)).filter (fun i => match a.mem? i, b.mem? i with
    | some x, some y => x.triple != y.triple || x.st == .removed
    | _, _ => true)

/-- The commit point for one sheaf (R230). -/
def State.regroupSheaf (s : State) (t : SheafTab) : State :=
  let named := s.namedBy t.sh
  let new := named.filter (fun p => s.gains t.id p.1 p.2 && !s.holdsIndex t.id p.1 p.2)
  let old := (s.sheaves.get t.id).getD t.sh
  let sh := (old.withStates 0x555555555555555555).carry { t.sh with members := t.sh.members } s.now
  let moved := old.moved sh
  let s1 := (s.leavers t).foldl (fun u j => (u.leaveSheaf j).modRegion j (fun r => { r with mig := none })) s
  if named.isEmpty then s1 else
  let s2 := { s1 with sheaves := s1.sheaves.set t.id sh }
  let s3 := new.foldl (fun u p => match u.regions.get p.1 with
    | some r => match r.migrated.bind (fun m => (parseImage m.image).map (fun img => (m, img))) with
      | some (m, img) => u.takeImage p.1 p.2 t.id r img sh .live m.digest
      | none => u
    | none => u) s2
  let hide := s3.regions.map (fun p => (p.1,
    if p.2.sheaf = t.id && new.any (fun q => q.1 == p.1) then { p.2 with sheaf := 0 } else p.2))
  let s4 := if new.length = named.length then s3 else ({ s3 with regions := hide }).installSheaf t.id sh moved moved
  let s5 := new.foldl (fun u p => (u.modRegion p.1 (fun r => { r with sheaf := t.id })).addCtxs p.1 t.id sh p.2) s4
  s5.modSheaf t.id (fun _ => sh)

/-- REGROUP_COMMIT (R230): the commit point, on one edge, for every listed sheaf. -/
def execRegroupCommit (op : Nat) (_ext : Ext) (s : State) : Out :=
  .next (match s.work op 0x06 with
    | none => s
    | some o =>
      if o.stage ≠ .prepared then s else
      let mine := o.tables.filter s.concerns
      let c := mine.findSome? (fun t => (s.namedBy t.sh).findSome? (fun p => (t.sh.labelConflict p.2).map (fun c => (t.id, p.2, c))))
      let o1 := match c with
        | some (id, i, c) => o.keepDomain id i c
        | none => o
      let s1 := mine.foldl (fun u t => u.regroupSheaf t) s
      (s1.finish o1 stOk o.cursor 0 0).settle)

end Sys2Proof.Machine
end

