-- ==== Sys2Proof/Machine/Guard.lean ====
section
/-! DEFINITION. Scrubbing, re-guarding and the adaptive guard loop (R316 to R321). -/

namespace Sys2Proof.Machine

/-! ## SCRUB (R316 to R318) -/

/-- Note keys of a pass: tiles visited and corrected, symbols, tiles repaired and lost, the first one lost plus 1, the peak load, the
pass number, and the time at which the pass began. -/
def nkTiles : Nat := 930
def nkCorrected : Nat := 931
def nkSymbols : Nat := 932
def nkRepaired : Nat := 933
def nkLost : Nat := 934
def nkFirstLost : Nat := 935
def nkPeak : Nat := 936
def nkPassNo : Nat := 937
def nkPassStart : Nat := 938

/-- Add to a number that an operation keeps. -/
def Op.add (o : Op) (k v : Nat) : Op := o.keep k (o.n k + v)

/-- A pass begins: its counts are 0 (R318). -/
def Op.beginPass (o : Op) (now : Nat) : Op :=
  let zeroed := [nkTiles, nkCorrected, nkSymbols, nkRepaired, nkLost, nkFirstLost, nkPeak].foldl (fun (x : Op) k => x.keep k 0) o
  let y := (zeroed.keep nkPassStart now).add nkPassNo 1
  { y with cursor := o.arg 20 4, result := 0 }

/-- The summary record (Table 10-6). -/
def Op.summary (o : Op) (guard now : Nat) : List Byte :=
  leBytes 4 (o.n nkTiles) ++ leBytes 4 (o.n nkCorrected) ++ leBytes 8 (o.n nkSymbols) ++ leBytes 4 (o.n nkRepaired) ++
  leBytes 4 (o.n nkLost) ++ leBytes 4 (if o.n nkFirstLost = 0 then 0xFFFFFFFF else o.n nkFirstLost - 1) ++
  leBytes 1 (Nat.min (o.n nkPeak) 255) ++ leBytes 1 guard ++ leBytes 2 (o.n nkPassNo) ++ leBytes 6 (o.n nkPassStart) ++ zeros 2 ++
  leBytes 6 now ++ zeros 18

/-- One tile of a scrub: skipped while unbuilt, written back when corrected, repaired with REPAIR, otherwise left and
reported (R317). A write-back waits for copy-before-write (R248). -/
def State.scrubTile (ext : Ext) (op j : Nat) (o : Op) (t : Nat) (s : State) : Walk :=
  match s.regions.get j with
  | none => .stop stConflict s
  | some r =>
    if r.state = .fostering && !r.built.has t then .go s else
    let x := s.readGuard ext r t
    if (!x.ok || x.lineBad || decide (0 < x.symbols)) && s.cbwHolds j t then .wait (s.cbwEngine j t) else
    let s1 := (s.noteRead j t r x).modOp op (fun o => o.add nkTiles 1)
    if x.ok then
      .go (s1.modOp op (fun o =>
        { ((o.add nkSymbols x.symbols).add nkCorrected (bit (decide (0 < x.symbols)))).keep nkPeak (Nat.max (o.n nkPeak) x.load) with
          result := o.result + x.symbols }))
    else
      let lost := fun (u : State) => Walk.go ((u.giveUp j t).modOp op (fun o =>
        (o.add nkLost 1).keep nkFirstLost (if o.n nkFirstLost = 0 then t + 1 else o.n nkFirstLost)))
      if !bitAt (o.arg 17 1) 0 then lost s1
      else match s1.repairValue ext j r t with
        | (some v, s2) => .go (((s2.putTile r t v).bump (guardCnt 3)).modOp op (fun o => o.add nkRepaired 1))
        | (none, s2) => lost s2

/-- Write the summary record of a pass. -/
def State.putSummary (ext : Ext) (j : Nat) (o : Op) (s : State) : Walk :=
  let a := o.arg 28 8
  let g := ((s.regions.get j).map (·.guard)).getD 0
  if a = 0 then .go s
  else if writeStatus ext a ≠ stOk then .stop (writeStatus ext a) s
  else .go (s.engineWrite o.id a (o.summary g s.now) 3)
/-- The end of a pass: the summary record is written, and once its write is performed AUTO begins again at FIRST, and otherwise the final
record is formed (R92, R317, R318). -/
def State.scrubEnd (ext : Ext) (j : Nat) (s : State) (o : Op) : State :=
  match s.unitWrites o.id o.cursor (State.putSummary ext j o) with
  | .wait s1 => s1
  | .stop st s1 => s1.fail o st
  | .go s1 =>
    if o.fAuto then (s1.modOp o.id (fun x => (x.beginPass s.now).keep nkIssued 0)).yieldPoint o.id
    else s1.finish o stOk o.cursor o.result 0

/-- SCRUB (R316, R317). -/
def execScrub (op units : Nat) (ext : Ext) (s : State) : Out :=
  .next (match s.work op 0x60 with
    | none => s
    | some o =>
      let j := o.arg 16 1
      let last := o.arg 20 4 + o.arg 24 4
      if o.stage = .fresh then
        (if !countOk (o.arg 24 4) then s.fail o stNotSupported
         else match s.regions.get j with
          | none => s.fail o stConflict
          | some r =>
            if r.guard = 0 || decide (r.tileCount < last) then s.fail o stConflict
            else s.modOp op (fun o => { o.beginPass s.now with stage := .walking }))
      else if o.stage = .walking then
        State.endWalk op last (State.scrubEnd ext j) (State.walk op last (fun t u => u.scrubTile ext op j o t) units s)
      else s)

/-! ## GUARD_SET (R319) -/

/-- Is region j in scope of a FILLING slot (Table 10-7)? -/
def State.filling (s : State) (j : Nat) : Bool :=
  match s.snap.cut with
  | some c => c.frozen.isSome && c.regions.contains j
  | none => false

/-- One tile of a re-guard walk: for a new strength above 0 the tile is decoded at the old strength and its line written at the
new. DESIGN CHOICE (log entry 19): a tile that stays uncorrectable is left as stored and the walk goes on. -/
def State.reguardTile (s : State) (ext : Ext) (j t g : Nat) : State :=
  match s.regions.get j with
  | none => s
  | some r =>
    if g = 0 then s else
    let unbuilt := r.state == .fostering && !r.built.has t
    match (if unbuilt then s.readPlain ext j r t else s.readTile ext j r t) with
    | (some v, s1) => s1.putLine r t g v
    | (none, s1) => s1

/-- One unit of GUARD_SET: it waits while a cut in whose scope the region lies is FILLING. -/
def State.reguardUnit (ext : Ext) (j t : Nat) (s : State) : Walk :=
  if s.filling j then .wait s else
  let g := (((s.regions.get j).bind (·.reguard)).map (·.guard)).getD 0
  .go ((s.reguardTile ext j t g).modRegion j (fun r => { r with reguard := r.reguard.map (fun w => { w with pos := t + 1 }) }))

/-- The end of a re-guard walk: GUARD takes the new value. -/
def State.reguardEnd (s : State) (j : Nat) : State :=
  s.modRegion j (fun r => { r with guard := (r.reguard.map (·.guard)).getD r.guard, reguard := none })

/-- GUARD_SET (R319): ADAPT is set and every tile re-guarded; CURSOR counts the tiles. -/
def execGuardSet (op units : Nat) (ext : Ext) (s : State) : Out :=
  .next (match s.work op 0x61 with
    | none => s
    | some o =>
      let j := o.arg 16 1
      let g := bits (o.arg 17 1) 0 3
      match s.regions.get j with
      | none => s.fail o stConflict
      | some r =>
        if o.stage = .fresh then
          (if r.role = .rick || decide (r.guardMax < g) || r.reguard.isSome then s.fail o stConflict
           else (s.modRegion j (fun r => { r with adapt := bitAt (o.arg 17 1) 3, reguard := some ⟨g, 0⟩ })).modOp op
             (fun o => { o with stage := .walking, cursor := 0 }))
        else if o.stage = .walking then
          State.endWalk op r.tileCount (fun t x => (t.reguardEnd j).finish x stOk x.cursor 0 0)
            (State.walk op r.tileCount (fun t u => u.reguardUnit ext j t) units s)
        else s)

/-! ## The adaptive loop (R320, R321) -/

/-- Is a raise due at the end of a window? -/
def State.raiseDue (s : State) (r : Region) : Bool :=
  let c := s.cal.set
  decide (c.raiseTiles * r.tileCount ≤ r.winTiles * 1048576) ||
  (decide (0 < r.guard) && decide (c.raiseLoad * guardSymbols r.guard ≤ 16 * r.winLoad)) ||
  (r.guard == 0 && decide (c.raiseCtrl ≤ r.winCtrl))

/-- A raise by one code: the re-guard walk, the audit record, the count and the event. -/
def State.raiseGuard (s : State) (j : Nat) (r : Region) : State :=
  let g := r.guard + 1
  let s0 := s.modRegion j (fun r => { r with reguard := some ⟨g, 0⟩ })
  let s1 := (List.range r.tileCount).foldl (fun (u : State) t =>
    (u.reguardTile [] j t g).modRegion j (fun r => { r with reguard := some ⟨g, t + 1⟩ })) s0
  (((s1.reguardEnd j).auditForm 0 4 2 0x20 2 (j + 2 ^ 8 * g) 0 false).bump (guardCnt 7)).event 79 (infoA j g)

/-- GUARD_WINDOW_END (R320, R324): WIN hours after the window began, a raise that is due is made, or the guard-limit event
raised at GUARD_MAX, and the counts begin again. It waits for a re-guard walk and for a FILLING slot (log entry 20). While the log
is full a raise is not taken and the counts stay for the next window (R419, R457; log entry 23). -/
def execGuardWindowEnd (region : Nat) (s : State) : Out :=
  .next (match s.regions.get region with
    | none => s
    | some r =>
      if !s.past r.winStart (bits (s.regN 0x011C) 1 8 * 360000000000) || r.reguard.isSome || s.filling region then s else
      let s1 := s.modRegion region (fun r => { r with winStart := s.now, winTiles := 0, winLoad := 0, winCtrl := 0 })
      if !r.adapt || r.role == .rick || !bitAt (s.regN 0x011C) 0 || !s.raiseDue r then s1
      else if r.guard < r.guardMax then
        (if s.auditFull then s.modRegion region (fun r => { r with winStart := s.now }) else (s1.raiseGuard region r).settle)
      else (s1.event 80 (infoA region 0)).settle)

end Sys2Proof.Machine
end

