-- ==== Sys2Proof/Machine/Snap.lean ====
section
/-! DEFINITION. Snapshots: SNAP_CUT and the base-die copy, SNAP_DRAIN, SNAP_RESTORE, SNAP_DISCARD and the interval estimator
(chapter 8). -/

namespace Sys2Proof.Machine

/-! ## Slots and directories (R233 to R239) -/

/-- A directory or manifest entry (Table 8-3). -/
structure SnapEntry where
  region : Nat
  role : Nat
  format : Nat
  narrow : Nat
  guard : Nat
  tiles : Nat
  logicalBase : Nat
  stored : Nat
  addr : Nat
  digest : Nat
  deriving DecidableEq, Repr

/-- The 32 bytes of an entry. -/
def SnapEntry.bytes (e : SnapEntry) : List Byte :=
  leBytes 1 e.region ++ leBytes 1 e.role ++ leBytes 1 e.format ++ leBytes 1 (e.narrow + 16 * e.guard) ++ leBytes 4 e.tiles ++
  leBytes 4 e.logicalBase ++ leBytes 4 e.stored ++ leBytes 8 e.addr ++ leBytes 8 e.digest
/-- An entry of 32 bytes. -/
def SnapEntry.parse (v : List Byte) : SnapEntry :=
  { region := field v 0 1, role := field v 1 1, format := field v 2 1, narrow := bits (field v 3 1) 0 4
    guard := bits (field v 3 1) 4 3, tiles := bits (field v 4 4) 0 25, logicalBase := field v 8 4, stored := bits (field v 12 4) 0 25
    addr := field v 16 8, digest := field v 24 8 }
/-- `n` entries from the start of a byte list. -/
def parseEntries (v : List Byte) (n : Nat) : List SnapEntry := (List.range n).map (fun i => SnapEntry.parse (slice v (32 * i) 32))

/-- Roles whose digests DIGEST_SUM adds (Table 8-2). -/
def summedRole (c : Nat) : Bool := c == 1 || c == 8 || c == 9 || c == 10
/-- DIGEST_SUM of entries. -/
def digestSumOf (es : List SnapEntry) : Nat := ((es.filter (fun e => summedRole e.role)).map (·.digest)).sum % 2 ^ 64

/-- Tiles of one slot's context save area (Table 8-1). -/
def contextTiles : Nat := 256
/-- SOURCE: this engine (Table 8-2). -/
def State.sourceWord (s : State) : Nat := s.strap.node + 2 ^ 18 * s.strap.engine

/-- Bytes of a slot header. -/
def State.slotHeader (s : State) (x : Nat) : List Byte := s.stackRead ((s.slotTile x).1 * 4096) 64
/-- The directory entries of a slot. -/
def State.slotEntries (s : State) (x : Nat) : List SnapEntry :=
  parseEntries (s.stackRead ((s.slotTile x).1 * 4096 + 4096) 8192) (field (s.slotHeader x) 6 2)

/-! ## SNAP_CUT (R240 to R246) -/

/-- The scoped regions, in ascending index (R241). -/
def State.scoped (s : State) (scope mask : Nat) : List Nat :=
  (s.regions.filter (fun p => p.2.state != .setup && (if scope = 1 then
      p.2.inMask mask && (p.2.role == .runtimeRecord ||
        (p.2.snap && (p.2.role == .data || p.2.role == .tedderResidue || p.2.role == .watch)))
    else p.2.role != .rick && p.2.role != .foster))).map (·.1)
/-- The slot that a SLOT operand takes (R243). -/
def State.pickSlot (s : State) (x : Nat) : Option Nat :=
  let free := fun (i : Nat) => (s.snapSlot i).st == .empty || (s.snapSlot i).st == .drained
  if x ≤ 1 then (if free x then some x else none)
  else if (s.snapSlot 0).st = .empty then some 0
  else if (s.snapSlot 1).st = .empty then some 1
  else if free 0 && (!free 1 || decide ((s.snapSlot 0).seq < (s.snapSlot 1).seq)) then some 0
  else if free 1 then some 1 else none
/-- Row 1 of Table 8-6. -/
def Op.cutMalformed (o : Op) : Bool :=
  let scope := o.arg 24 1
  let slot := o.arg 25 1
  scope == 0 || scope == 3 || (decide (1 < slot) && slot != 0xFF) || decide (800 < o.arg 26 2) || ((scope == 1) == (o.arg 16 8 == 0))
/-- Row 3 of Table 8-6. -/
def State.cutConflict (s : State) (o : Op) : Bool :=
  let scope := o.arg 24 1
  let l := s.scoped scope (o.arg 16 8)
  let t := s.tilesOf l
  s.rick.isNone || s.snap.cut.isSome || (s.pickSlot (o.arg 25 1)).isNone || l.isEmpty ||
  l.any (fun i => ((s.regions.get i).map (fun r => r.state == .fostering)).getD false) ||
  (scope == 1 && (setsOf (o.arg 16 8)).any (fun k =>
    let x := s.setTab k
    x.c != o.step || x.h != o.step || !x.live.isEmpty || s.setOpRunning 0x11 k || s.setOpRunning 0x12 k)) ||
  decide ((s.slotTile 0).2 < 3 + mapTiles t + t + (if scope = 2 then contextTiles else 0))

/-- A cut begins: its map tiles are zeroed and it waits for its freeze edge (R244). -/
def State.beginCut (s : State) (o : Op) (x : Nat) : State :=
  let scope := o.arg 24 1
  let l := s.scoped scope (o.arg 16 8)
  let c : Cut := { op := o.id, slot := x, step := o.step, scope := scope, mask := o.arg 16 8, regions := l, frozen := none, seq := 0
                   next := 0, held := s.tap.nextId }
  let s1 := s.zeroMap c
  ({ s1 with snap := { s1.snap with cut := some c } }).park o.id (fun o => { o with stage := .waitStill s.now, cursor := 0 })

/-! ### The background copy (R249) -/

/-- The region and region tile of a copy index. -/
def State.copyPlace (s : State) : List Nat → Nat → Option (Nat × Region × Nat)
  | [], _ => none
  | j :: l, i =>
    match s.regions.get j with
    | none => s.copyPlace l i
    | some r => if i < r.tileCount then some (j, r, i) else s.copyPlace l (i - r.tileCount)
/-- The next run of tiles that no copy command covers: its copy index and length, at most 256 and in one region. -/
def State.nextRun (s : State) (c : Cut) : Option (Nat × Nat) :=
  let total := s.tilesOf c.regions
  match ((List.range (total - c.next)).map (· + c.next)).find? (fun i => s.mapCode c i == 0) with
  | none => none
  | some i =>
    match s.copyPlace c.regions i with
    | none => none
    | some (_, r, t) =>
      some (i, ((List.range (Nat.min 256 (r.tileCount - t))).takeWhile (fun k => s.mapCode c (i + k) == 0)).length)
/-- Issue up to n background commands, of which at most 63 are outstanding. -/
def State.background : Nat → State → State
  | 0, s => s
  | n + 1, s =>
    match s.snap.cut with
    | none => s
    | some c =>
      if 63 ≤ (s.snap.copies.filter (fun p => !p.2.priority)).length then s else
      match s.nextRun c, s.snap.copies.free 64 with
      | some (i, k), some tag => State.background n (s.issueCopy { c with next := i + k } tag i k false)
      | _, _ => s

/-- SNAP_CUT (R240 to R249): the checks of Table 8-6 and the wait for the freeze edge; after it, the next `units` background
copy commands. With AUTO and a full log no cut is taken (R419, R457; log entry 23). -/
def execSnapCut (op units : Nat) (s : State) : Out :=
  .next (match s.work op 0x40 with
    | some o =>
      if o.stage ≠ .fresh then s
      else if o.cutMalformed then s.fail o stNotSupported
      else if o.fAuto && (decide (s.elapsed < s.snap.interval) || s.auditFull) then s.finish o stOk 0 0 0xFF
      else if s.cutConflict o then s.fail o stConflict
      else match s.pickSlot (o.arg 25 1) with
        | some x => (s.beginCut o x).settle
        | none => s.fail o stConflict
    | none => match s.waiting op 0x40 with
      | some o => if o.stage = .copying && o.st == .running then State.background units s else s
      | none => s)

/-- Is the slot of a cut one that a cut may take, with the RICK still there (R243)? -/
def State.cutSlotOk (s : State) (c : Cut) : Bool :=
  s.rick.isSome && ((s.snapSlot c.slot).st == .empty || (s.snapSlot c.slot).st == .drained)
/-- Is the engine still, but for the writes that the cut holds (R246)? -/
def State.still (s : State) (c : Cut) : Bool :=
  s.port.sctx.vals.all (fun x => x.msgs.isEmpty) &&
  s.port.rctx.vals.all (fun x => x.win.vals.all (fun w => w.st == .done)) && s.tap.park.isEmpty &&
  s.tap.slots.vals.all (fun d => d.waiting || d.msgs != 0) && s.tap.held.all (fun h => decide (c.held ≤ h.id))
/-- May a cut freeze (R244)? -/
def State.freezeReady (s : State) (c : Cut) : Bool :=
  s.tap.slots.vals.all (fun d => !(c.regions.contains d.region) || d.waiting || d.msgs != 0) && (c.scope != 2 || s.still c)

/-- The entries of a slot directory but for the context entry; `off` is the copy index of the first tile. -/
def State.directory (s : State) (base : Nat) : List Nat → Nat → List SnapEntry
  | [], _ => []
  | j :: l, off =>
    match s.regions.get j with
    | none => s.directory base l off
    | some r =>
      { region := j, role := r.role.code, format := r.format.code, narrow := 0, guard := r.guard, tiles := r.tileCount
        logicalBase := r.logicalBase, stored := r.tileCount, addr := s.tileAddr (base + off), digest := r.digest.toNat } ::
        s.directory base l (off + r.tileCount)

/-- The bytes of a context save area (Table 8-7): section contents are free values (log entry 2), the rest zero. -/
def contextArea (n : Nat) : List Byte := (List.range 831488).map (Config.contextByte n) ++ zeros 217088
/-- What a DEVICE cut saves. -/
def State.saved (s : State) (n : Nat) : Saved :=
  { number := n, regions := s.regions, sheaves := s.sheaves, sets := s.sets, banks := s.banks, dirty := s.tap.dirty
    tracker := s.tap.tracker, norm := s.tap.norm, sctx := s.port.sctx, rctx := s.port.rctx, rows := s.tables.rows, rtt := s.port.rtt
    paths := s.port.paths, digest := s.ucode.digest }

/-- The freeze edge and the directory and header after it (R244). -/
def State.freeze (s : State) (o : Op) (c : Cut) : State :=
  let seq := s.snap.seq + 1
  let t := s.tilesOf c.regions
  let first := (s.slotTile c.slot).1
  let base := first + 3 + mapTiles t
  let s0 := if c.scope = 2 then
    ({ s with free := s.free + 1, saves := s.saves ++ [s.saved s.free] }).stackWrite ((base + t) * 4096) (contextArea s.free) else s
  let ctx : List SnapEntry := if c.scope = 2 then
    [{ region := 0xFF, role := 0, format := 0, narrow := 0, guard := 0, tiles := contextTiles, logicalBase := 0, stored := contextTiles
       addr := s.tileAddr (base + t), digest := (crc64 (contextArea s.free)).toNat }] else []
  let es := s.directory base c.regions 0 ++ ctx
  let s1 := s0.stackWrite ((first + 1) * 4096) (fit 8192 (es.flatMap SnapEntry.bytes))
  let h := leBytes 4 0x5759534C ++ leBytes 1 1 ++ leBytes 1 c.scope ++ leBytes 2 es.length ++ leBytes 6 c.step ++ leBytes 2 o.jobTag ++
    leBytes 8 c.mask ++ leBytes 6 s.now ++ zeros 2 ++ leBytes 8 (digestSumOf es) ++ leBytes 8 seq ++ leBytes 4 s.sourceWord ++ zeros 4
  let s2 := s1.stackWrite (first * 4096) (h ++ s1.headerCrc c.slot h)
  let s3 := s2.putSlot c.slot ⟨.filling, c.scope, seq⟩
  let s4 := { s3 with snap := { s3.snap with seq := seq, lastFreeze := some s.now, cut := some { c with frozen := some s.now, seq := seq } } }
  let s5 := s4.modOp o.id (fun o => { o with stage := .copying })
  if o.fAuto then s5.auditForm 0 4 4 0x20 4 (c.slot + 2 * c.step) 0 false else s5

/-- A cut ends before its freeze edge with CONFIG_CONFLICT, and its holds with it. -/
def State.endEarly (s : State) (o : Op) : State := (({ s with snap := { s.snap with cut := none } }).fail o stConflict).settle

/-- SNAP_FREEZE (R244 to R246): the freeze edge of a cut whose waits are over, for DEVICE scope within 10 ms of the start; an AUTO cut
waits while the log is full (log entry 23), and a cut whose slot a SNAP_DRAIN has taken waits for its end. DESIGN CHOICE (log entry 144):
where the slot is then no more one that a cut may take, the cut ends with CONFIG_CONFLICT. -/
def execSnapFreeze (op : Nat) (s : State) : Out :=
  .next (match s.waiting op 0x40, s.snap.cut with
    | some o, some c =>
      let late := match o.stage with
        | .waitStill t => c.scope == 2 && decide (t + 1000000 < s.now)
        | _ => false
      if c.op == op && c.frozen.isNone && o.st == .running && s.freezeReady c && !late && (s.snapSlot c.slot).st != .draining &&
          !(o.fAuto && s.auditFull) then
        (if s.cutSlotOk c then (s.freeze o c).settle else s.endEarly o)
      else s
    | _, _ => s)

/-- SNAP_STILLNESS_TIMEOUT (R246): a DEVICE cut whose engine is not still 10 ms after its start. -/
def execSnapStillnessTimeout (op : Nat) (s : State) : Out :=
  .next (match s.waiting op 0x40, s.snap.cut with
    | some o, some c =>
      (match o.stage with
      | .waitStill t =>
        if c.op == op && c.frozen.isNone && c.scope == 2 && s.past t 1000000 && (!s.freezeReady c || decide (t + 1000000 < s.now)) then
          s.endEarly o else s
      | _ => s)
    | _, _ => s)

/-! ### Copy completions (R239, R248 to R250) -/

/-- Move one frozen tile with its guard line into the slot (R239, R308). A tile that a suspended re-guard walk holds at another
strength takes a line at its entry's GUARD (log entry 22). -/
def State.moveTile (s : State) (c : Cut) (i : Nat) : State :=
  match s.copyPlace c.regions i, s.rick with
  | some (_, r, t), some (_, q) =>
    let k := (s.slotTile c.slot).1 + 3 + mapTiles (s.tilesOf c.regions) + i
    let v := s.tileBytes r t
    let s1 := s.stackWrite (k * 4096) v
    let line := match r.lineOff t with
      | some off => if r.strengthAt t = r.guard then s.stackRead off (2 * guardSymbols r.guard) else guardLine r.guard v
      | none => []
    match q.lineOff (k - q.tileBase) with
    | some off => if r.guard = 0 then s1 else s1.stackWrite off line
    | none => s1
  | _, _ => s

/-- The end of a cut: header COMPLETE, the final record with the tiles copied and the slot, the map zeroed (R244). -/
def State.endCut (s : State) (o : Op) (c : Cut) : State :=
  let t := s.tilesOf c.regions
  let s1 := ((s.setSlotState c.slot .complete).zeroMap c).bump (snapCnt 2)
  let s2 := { s1 with snap := { s1.snap with cut := none, tcut := some (s.now - c.frozen.getD s.now) } }
  s2.finish o stOk t 0 c.slot

/-- COPY_COMPLETION (R20, R248 to R250): a command's tiles are COPIED and their holds lift; with non-zero status the cut fails.
The last completion ends the cut, or carries out its CANCEL. -/
def execCopyCompletion (tag : Nat) (status : Nat) (s : State) : Out :=
  .next (match s.snap.copies.get tag with
    | none => s
    | some k =>
      let s0 := { s with snap := { s.snap with copies := s.snap.copies.del tag } }
      match s0.snap.cut, s0.op? k.op with
      | some c, some o =>
        if c.op ≠ k.op then s0
        else if status ≠ 0 then
          ((((s0.dropCut o.id).fail o stCheckFail).bump (snapCnt 3)).event 76 c.slot).settle
        else
          let s1 := (List.range k.count).foldl (fun (u : State) n => u.moveTile c (k.first + n)) s0
          let o' := { o with cursor := o.cursor + k.count }
          let s2 := (s1.setCodes c k.first k.count 2).modOp o.id (fun _ => o')
          let idle := s2.snap.copies.vals.all (fun x => x.op != c.op)
          (if idle && o.st == .cancelling then s2.cancelOp o'
           else if idle && o'.cursor == s2.tilesOf c.regions then s2.endCut o' c
           else s2).settle
      | _, _ => s0)

/-! ## Manifests (R254, R255) -/

/-- Bytes of a manifest cell. -/
def cellBytes : Nat := 12288
/-- Is a cell valid (R255)? -/
def cellValid (v : List Byte) : Bool :=
  let n := field v 6 2
  field v 0 4 == 0x57594D46 && field v 4 1 == 1 && decide (1 ≤ n ∧ n ≤ 256) &&
  field v 56 8 == (crc64 (v.take 56 ++ slice v 64 (32 * n))).toNat
/-- The manifest in force of a pair: the valid cell with the higher SEQ. -/
def inForce (pair : List Byte) : Option (List Byte) :=
  let a := slice pair 0 cellBytes
  let b := slice pair cellBytes cellBytes
  if cellValid a && (!cellValid b || decide (field b 8 8 < field a 8 8)) then some a else if cellValid b then some b else none
/-- The entries of a cell. -/
def cellEntries (v : List Byte) : List SnapEntry := parseEntries (v.drop 64) (field v 6 2)

/-! ## SNAP_DRAIN (R251 to R256) -/

/-- Stored tiles of n source tiles under a narrowing code (Table 8-10). -/
def narrowCount (code n : Nat) : Nat := if code = 1 then ceilDiv n 2 else if code = 2 then n * 4 / 5 else n
/-- Does a code match an entry's FORMAT, and the scope? -/
def narrowOk (scope code : Nat) (e : SnapEntry) : Bool :=
  code == 0 || (scope != 2 && ((code == 1 && e.format == Fmt.fp32.code) || (code == 2 && e.format == Fmt.fp40.code)))
/-- Note keys of a drain: SEQ of the manifest in force, the start time, and, by entry, its narrowing code and stored digest. -/
def nkSeq : Nat := 940
def nkSince : Nat := 941
def nkCode : Nat := 5000
def nkDigest : Nat := 6000
/-- The code that a narrowing table gives an entry (R252); the context entry has none. -/
def tableCode (codes : List Byte) (e : SnapEntry) : Nat := if e.role = 0 then 0 else field codes e.region 1
/-- The narrowing code of an entry. -/
def Op.narrow (o : Op) (i : Nat) : Nat := o.n (nkCode + i)
/-- Entries as stored by a drain: narrowed, at consecutive addresses from STORE. -/
def Op.storeEntries (o : Op) : List SnapEntry → Nat → Nat → List SnapEntry
  | [], _, _ => []
  | e :: l, i, a =>
    let n := narrowCount (o.narrow i) e.stored
    { e with narrow := o.narrow i, stored := n, addr := a, digest := o.n (nkDigest + i) } :: o.storeEntries l (i + 1) (a + 4096 * n)
/-- The entry, its number, and the tile in it that a walk's unit c names, by the tile counts given. -/
def entryAt : List (SnapEntry × Nat) → Nat → Nat → Option (Nat × SnapEntry × Nat)
  | [], _, _ => none
  | (e, n) :: l, i, c => if c < n then some (i, e, c) else entryAt l (i + 1) (c - n)
/-- Entries with their source tiles. -/
def withTiles (es : List SnapEntry) : List (SnapEntry × Nat) := es.map (fun e => (e, e.tiles))
/-- Sum of the tile counts. -/
def entryTiles (es : List SnapEntry) : Nat := (es.map (·.tiles)).sum

/-- Read a slot tile at the GUARD of its entry (R239); none when it is uncorrectable. -/
def State.readSlot (s : State) (ext : Ext) (e : SnapEntry) (t : Nat) : Option (List Byte) × State :=
  match s.rick with
  | none => (none, s)
  | some (j, q) =>
    let r := { q with guard := e.guard, reguard := none }
    let k := gOff e.addr / 4096 + t - q.tileBase
    let x := s.readGuard ext r k
    if x.ok then (some x.data, s.noteRead j k r x) else (none, (s.noteRead j k r x).giveUp j k)

/-- The checks of R253 once the narrowing table and the manifest pair are read; 0 when the drain passes. -/
def State.drainStatus (s : State) (o : Op) (codes : List Byte) (pair : List Byte) : Nat :=
  let x := o.arg 16 1
  let es := s.slotEntries x
  let st := (s.snapSlot x).st
  let ok := st == .complete || st == .drained
  let code := tableCode codes
  let total := 4096 * (es.map (fun e => narrowCount (code e) e.stored)).sum
  let hit := fun (a n : Nat) => overlap (o.arg 24 8) total a n
  if st ≠ .empty && es.any (fun e => !narrowOk (s.snapSlot x).scope (code e) e) then stNotSupported
  else if !ok || s.rick.isNone || decide (o.arg 48 8 < total) || hit (o.arg 32 8) (2 * cellBytes) ||
    (((inForce pair).map cellEntries).getD []).any (fun e => hit e.addr (4096 * e.stored)) then stConflict
  else 0

/-- SNAP_DRAIN starts: the slot becomes DRAINING (R254). -/
def State.beginDrain (s : State) (o : Op) (codes pair : List Byte) : State :=
  let x := o.arg 16 1
  let p := ((inForce pair).map (fun c => field c 8 8)).getD 0
  let note := (s.slotEntries x).zipIdx.foldl (fun (n : Tab Nat) q =>
    Tab.set n (nkCode + q.2) (tableCode codes q.1)) o.note
  (s.setSlotState x .draining).modOp o.id (fun o =>
    { o with stage := .walking, cursor := 0, note := (Tab.set note nkSeq p).set nkSince s.now })

/-- A drain that ends before its commit point: the slot is COMPLETE again (R256). -/
def State.drainBack (s : State) (x : Nat) : State :=
  if (s.snapSlot x).st = .draining then (s.setSlotState x .complete).bump (snapCnt 5) else s

/-- Source tiles of the chunk of a walk that begins at tile t of an entry: 16, and none of another entry (R373). -/
def chunkLen (e : SnapEntry) (t : Nat) : Nat := Nat.min chunkTiles (e.tiles - t)
/-- Tiles of the chunk that begins at CURSOR c. -/
def chunkAt (es : List SnapEntry) (c : Nat) : Nat := ((entryAt (withTiles es) 0 c).map (fun q => chunkLen q.2.1 q.2.2)).getD 1
/-- The tiles of a slot from tile t of an entry; none when one is uncorrectable. -/
def State.readSlotTiles (s : State) (ext : Ext) (e : SnapEntry) : Nat → Nat → Option (List (List Byte)) × State
  | 0, _ => (some [], s)
  | n + 1, t =>
    match s.readSlot ext e t with
    | (none, s1) => (none, s1)
    | (some v, s1) =>
      match s1.readSlotTiles ext e n (t + 1) with
      | (some l, s2) => (some (v :: l), s2)
      | (none, s2) => (none, s2)
/-- Source tiles rounded to BF16, two to a stored tile; a missing odd tile leaves zeros (Table 8-10). -/
def narrowPairs : List (List Byte) → List (List Byte)
  | u :: v :: l => (narrowBytes u ++ narrowBytes v) :: narrowPairs l
  | [u] => [narrowBytes u ++ zeros 2048]
  | [] => []
/-- The stored tiles that source tiles from tile t give under a code, and the number of the first (Table 8-10). -/
def storedForm (code t : Nat) (l : List (List Byte)) : Nat × List (List Byte) :=
  if code = 1 then (t / 2, narrowPairs l)
  else if code = 2 then
    (4 * (t / 5) + t % 5, (l.zipIdx.filter (fun q => (t + q.2) % 5 != 4)).map (·.1))
  else (t, l)
/-- The stored digest of entry `e` with more tiles, from stored tile k (R236): for the context save area its CRC-64. -/
def digestMore (e : SnapEntry) (d k : Nat) (l : List (List Byte)) : Nat :=
  if e.role = 0 then (l.foldl crc64From (BitVec.ofNat 64 d)).toNat
  else (d + (l.zipIdx.map (fun q => (crc64 q.1).toNat * (2 * (e.logicalBase + k + q.2) + 1))).sum) % 2 ^ 64

/-- One chunk of a drain (R254 step 3, R373): its tiles are read from the slot and written to the store by one write. -/
def State.drainChunk (ext : Ext) (op : Nat) (o : Op) (es : List SnapEntry) (c : Nat) (s : State) : Walk :=
  match entryAt (withTiles es) 0 c with
  | none => .stop stCheckFail s
  | some (i, e, t) =>
    let code := o.narrow i
    if code ≠ 0 && !s.laneReady then .wait s else
    match s.readSlotTiles ext e (chunkLen e t) t, (o.storeEntries es 0 (o.arg 24 8))[i]? with
    | (some l, s1), some w =>
      let q := storedForm code t l
      let a := w.addr + 4096 * q.1
      if q.2.isEmpty then .go s1 else
      let s2 := s1.engineWrite op a q.2.flatten 3
      if writeStatus ext a ≠ stOk then .stop (writeStatus ext a) s2 else
      .go (s2.modOp op (fun o => o.keep (nkDigest + i) (digestMore e (o.n (nkDigest + i)) q.1 q.2)))
    | (_, s1), _ => .stop stCheckFail s1

/-- A walk's failure ends the drain. -/
def Walk.orBack (x : Nat) : Walk → Walk
  | .stop st s => .stop st (s.drainBack x)
  | w => w

/-- The header of a drain's manifest cell, and its CRC (Table 8-11). -/
def State.manifestHead (s : State) (o : Op) (es : List SnapEntry) : List Byte × Nat :=
  let h := s.slotHeader (o.arg 16 1)
  let hd := leBytes 4 0x57594D46 ++ leBytes 1 1 ++ slice h 5 1 ++ leBytes 2 es.length ++ leBytes 8 (o.n nkSeq + 1) ++ slice h 8 8 ++
    slice h 40 8 ++ slice h 48 4 ++ zeros 4 ++ leBytes 8 (digestSumOf es) ++ slice h 24 6 ++ zeros 2
  (hd, (crc64 (hd ++ es.flatMap SnapEntry.bytes)).toNat)
/-- A write of an operation at C3 as a unit of its own. -/
def State.putOne (ext : Ext) (op a : Nat) (v : List Byte) (s : State) : Walk :=
  let s1 := s.engineWrite op a v 3
  if writeStatus ext a ≠ stOk then .stop (writeStatus ext a) s1 else .go s1
/-- The entries with zeros to the end of the cell, and once they are acknowledged the header, whose acknowledgement is the commit point
of a drain (R254 steps 5 to 7). -/
def State.commitDrain (ext : Ext) (s : State) (o : Op) : State :=
  let x := o.arg 16 1
  let es := o.storeEntries (s.slotEntries x) 0 (o.arg 24 8)
  let a := o.arg 32 8 + cellBytes * ((o.n nkSeq + 1) % 2)
  let m := s.manifestHead o es
  match s.unitWrites2 o.id o.cursor (State.putOne ext o.id (a + 64) (fit (cellBytes - 64) (es.flatMap SnapEntry.bytes)))
      (State.putOne ext o.id a (m.1 ++ leBytes 8 m.2)) with
  | .wait s1 => s1
  | .stop st s1 => (s1.drainBack x).fail o st
  | .go s1 =>
    let s2 := (s1.setSlotState x .drained).bump (snapCnt 4)
    ({ s2 with snap := { s2.snap with tdrain := s.now - o.n nkSince } }).finish o stOk o.cursor m.2 0

/-- SNAP_DRAIN (R251 to R256). -/
def execSnapDrain (op units : Nat) (ext : Ext) (s : State) : Out :=
  .next (match s.work op 0x41 with
    | none => s
    | some o =>
      let x := o.arg 16 1
      if o.stage = .fresh then
        (match (if o.arg 40 8 = 0 then (Rd.data (zeros 256), s) else s.readAt ext (o.arg 40 8) 256 3) with
         | (.error, s1) => s1.fail o stCheckFail
         | (.path, s1) => s1.fail o stPathFailed
         | (.data codes, s1) =>
           match s1.readAt ext (o.arg 32 8) (2 * cellBytes) 3 with
           | (.data pair, s2) =>
             let st := s2.drainStatus o codes pair
             if st ≠ 0 then s2.fail o st else s2.beginDrain o codes pair
           | (.error, s2) =>
             let st := s2.drainStatus o codes []
             s2.fail o (if st ≠ 0 then st else stCheckFail)
           | (.path, s2) =>
             let st := s2.drainStatus o codes []
             s2.fail o (if st ≠ 0 then st else stPathFailed))
      else if o.stage = .walking then
        let es := s.slotEntries x
        let f := fun (c : Nat) (u : State) => (u.unitWrites op c (State.drainChunk ext op o es c)).orBack x
        State.endWalk op (entryTiles es) (State.commitDrain ext) (State.walkBy op (entryTiles es) (chunkAt es) f units s)
      else s)

/-! ## SNAP_RESTORE (R257 to R260) -/

/-- A snapshot as a restore reads it: its header of 64 bytes, its entries, and whether it lies in a slot. -/
structure Snapshot where
  step : Nat
  job : Nat
  scope : Nat
  source : Nat
  entries : List SnapEntry
  slot : Bool
  deriving DecidableEq, Repr

/-- The snapshot of a slot, from its header and directory. -/
def slotSnapshot (v : List Byte) : Snapshot :=
  { step := field v 8 6, job := field v 14 2, scope := bits (field v 5 1) 0 2, source := field v 48 4
    entries := parseEntries (v.drop 64) (field v 6 2), slot := true }
/-- The snapshot of a manifest cell. -/
def cellSnapshot (v : List Byte) : Snapshot :=
  { step := field v 16 6, job := field v 22 2, scope := bits (field v 5 1) 0 2, source := field v 32 4, entries := cellEntries v
    slot := false }

/-- Note keys under which a restore keeps the bytes that describe its source, and the number of the save it installs plus 1. -/
def nkSource : Nat := 950
def nkSaved : Nat := 951
/-- The snapshot that a running restore reads. -/
def Op.snapshot (o : Op) : Snapshot :=
  if o.arg 16 1 = 2 then cellSnapshot (leBytes cellBytes (o.n nkSource)) else slotSnapshot (leBytes 8256 (o.n nkSource))

/-- Read the context save area of a DEVICE snapshot. -/
def State.readContext (s : State) (ext : Ext) (p : Snapshot) : Rd × State :=
  match p.entries.find? (fun e => e.role == 0) with
  | none => (.error, s)
  | some e => s.readAt ext e.addr (contextTiles * 4096) 3
/-- What a DEVICE cut saved under the bytes of a context save area; none is no area that this engine wrote. -/
def State.savedOf (s : State) (area : List Byte) : Option Saved := s.saves.find? (fun v => contextArea v.number == area)

/-- The target of an entry (R258). -/
def State.target (s : State) (p : Snapshot) (v : Option Saved) (e : SnapEntry) : Option Nat :=
  if p.scope = 2 then
    match s.regions.get e.region, v.bind (fun v => v.regions.get e.region) with
    | some r, some q => if leNat r.bytes &&& imageMask = leNat q.bytes &&& imageMask then some e.region else none
    | _, _ => none
  else (s.regions.find? (fun q => q.2.jobTag == p.job && q.2.role.code == e.role && q.2.format.code == e.format &&
      q.2.logicalBase == e.logicalBase && q.2.tileCount == e.tiles && q.2.state != .setup)).map (·.1)
/-- The entries that have tiles to restore. -/
def Snapshot.tiled (p : Snapshot) : List SnapEntry := p.entries.filter (fun e => e.role != 0)

/-- Rows 2 to 4 of R258; 0 when the restore passes. `area` is what the read of the context save area gave; the sections of another
engine's area are taken as good, since R246 gives no layout by which this engine could test them (log entry 2). -/
def State.restoreStatus (s : State) (o : Op) (p : Snapshot) (area : Rd) : Nat :=
  let x := o.arg 16 1
  let v := match area with
    | .data a => s.savedOf a
    | _ => none
  let ts := p.tiled.map (s.target p v)
  let st := (s.snapSlot x).st
  let bad := fun (j : Nat) => match s.regions.get j with
    | none => true
    | some r => s.setLive r.set || s.setOpRunning 0x11 r.set || s.setOpRunning 0x12 r.set || r.state == .fostering || s.filling j ||
        (p.scope == 2 && r.sheaf != 0)
  if p.job ≠ o.jobTag then stNackTag
  else if p.slot && !s.headerOk x then stCheckFail
  else if p.scope = 2 && area = .path then stPathFailed
  else if p.scope = 2 && area = .error then stCheckFail
  else if p.scope = 2 && p.source == s.sourceWord && ((v.map (fun v => v.digest != s.ucode.digest)).getD true) then stCheckFail
  else if (p.slot && (s.rick.isNone || st == .empty || st == .filling)) || ts.any (·.isNone) || (ts.filterMap id).any bad ||
    (p.scope == 2 && p.source != s.sourceWord) then stConflict
  else 0

/-- SNAP_RESTORE starts: it keeps its source and its targets. -/
def State.beginRestore (s : State) (o : Op) (bytes : List Byte) (p : Snapshot) (v : Option Saved) : State :=
  let note := (p.tiled.map (s.target p v)).zipIdx.foldl (fun (n : Tab Nat) q => match q.1 with
    | some j => Tab.set n (nkTargets + q.2) j
    | none => n) o.note
  s.modOp o.id (fun o => { o with
    stage := .walking, cursor := o.arg 20 4
    note := (Tab.set note nkSource (leNat bytes)).set nkSaved ((v.map (fun v => v.number + 1)).getD 0) })

/-- The stored tile that holds target tile t of an entry; none for an extension-plane tile that FP40_FP32 leaves out (Table 8-10). -/
def SnapEntry.place (e : SnapEntry) (t : Nat) : Option Nat :=
  if e.narrow = 2 then (if t % 5 = 4 then none else some (4 * (t / 5) + t % 5)) else if e.narrow = 1 then some (t / 2) else some t
/-- Stored tiles of an entry from tile k: a slot is read tile by tile, the store by one read at C3 (R259, R373). -/
def State.readStoredTiles (s : State) (ext : Ext) (p : Snapshot) (e : SnapEntry) (n k : Nat) : (List Byte ⊕ Nat) × State :=
  if n = 0 then (.inl [], s)
  else if p.slot then
    match s.readSlotTiles ext e n k with
    | (some l, s1) => (.inl l.flatten, s1)
    | (none, s1) => (.inr stCheckFail, s1)
  else match s.readAt ext (e.addr + 4096 * k) (4096 * n) 3 with
    | (.data v, s1) => (.inl v, s1)
    | (.error, s1) => (.inr stCheckFail, s1)
    | (.path, s1) => (.inr stPathFailed, s1)
/-- Target tile t of an entry from its stored tiles, which begin at tile k, widened (R259). -/
def SnapEntry.widen (e : SnapEntry) (k t : Nat) (v : List Byte) : List Byte :=
  match e.place t with
  | none => zeros 4096
  | some x => if e.narrow = 1 then widenBytes (slice v (4096 * (x - k) + 2048 * (t % 2)) 2048) else slice v (4096 * (x - k)) 4096

/-- A restore write (R107, R259): the digest of a role that carries one follows. -/
def State.restoreWrite (s : State) (j t : Nat) (r : Region) (v : List Byte) : State :=
  if r.role.digested then s.restoreTile j t r v else s.release j t r true v
/-- The restore writes of target tiles from tile t. -/
def State.restoreWrites (s : State) (j : Nat) (r : Region) (e : SnapEntry) (k : Nat) (v : List Byte) : List Nat → State
  | [] => s
  | t :: l => (s.restoreWrite j t ((s.regions.get j).getD r) (e.widen k t v)).restoreWrites j r e k v l

/-- One chunk of a restore; after an entry's last tile CONFIRMED_STEP is set and, with CHECK, the digests compared. -/
def State.restoreChunk (ext : Ext) (op : Nat) (o : Op) (p : Snapshot) (c : Nat) (s : State) : Walk :=
  match entryAt (withTiles p.tiled) 0 c with
  | none => .stop stCheckFail s
  | some (i, e, t) =>
    let j := o.n (nkTargets + i)
    let ts := (List.range (chunkLen e t)).map (· + t)
    let places := ts.filterMap e.place
    let k := places.headD 0
    match s.regions.get j with
    | none => .stop stConflict s
    | some r =>
      let held := ts.filter (s.cbwHolds j)
      if !held.isEmpty then .wait (held.foldl (fun u x => u.cbwEngine j x) s) else
      match s.readStoredTiles ext p e (if places.isEmpty then 0 else places.getLastD 0 + 1 - k) k with
      | (.inr st, s1) => .stop st s1
      | (.inl v, s1) =>
        let s2 := s1.restoreWrites j r e k v ts
        if t + ts.length < e.tiles then .go s2 else
        let s3 := s2.modRegion j (fun r => { r with confirmed := p.step })
        let d := ((s3.regions.get j).map (·.digest.toNat)).getD 0
        if bitAt (o.arg 17 1) 0 && e.narrow == 0 && d != e.digest then
          .stop stCheckFail (s3.modOp op (fun o => { o with cursor := c + ts.length }))
        else .go s3

/-- A table with the pairs of another put over it. -/
def Tab.cover {α : Type} (old new : Tab α) : Tab α := new.foldl (fun (t : Tab α) x => Tab.set t x.1 x.2) old

/-- Install what a DEVICE cut saved (R259): the engine's descriptor fields of the targets, sheaves, contexts and windows, step
tables with the bank states, dirty map, tracker, accumulators, row blocks and path state. -/
def State.installSaved (s : State) (v : Saved) (targets : List Nat) : State :=
  let put := fun (j : Nat) (r : Region) => match v.regions.get j with
    | none => r
    | some q => if targets.contains j then
        { r with member := q.member, sheaf := q.sheaf, board := q.board, shelf := q.shelf, row := q.row, digest := q.digest
                 confirmed := q.confirmed, epoch := q.epoch, state := q.state, domainOvr := q.domainOvr, logBlock := q.logBlock
                 built := q.built, rebuildDigest := q.rebuildDigest, anchorInvalid := q.anchorInvalid } else r
  let regs := s.regions.map (fun x => (x.1, put x.1 x.2))
  let dirty := targets.foldl (fun (t : Tab Nat) j =>
    match s.regions.get j, v.regions.get j with
    | some r, some q => (match r.dirtyBase, q.dirtyBase with
      | some b, some a => (v.dirty.filter (fun x => decide (a ≤ x.1 ∧ x.1 < a + q.granules))).foldl
          (fun (t : Tab Nat) x => Tab.set t (x.1 - a + b) x.2) t
      | _, _ => t)
    | _, _ => t) s.tap.dirty
  { s with
    regions := regs, sheaves := Tab.cover s.sheaves v.sheaves, sets := v.sets, banks := Tab.cover s.banks v.banks
    tap := { s.tap with dirty := dirty, tracker := v.tracker, norm := v.norm }
    port := { s.port with sctx := Tab.cover s.port.sctx v.sctx, rctx := Tab.cover s.port.rctx v.rctx, rtt := v.rtt, paths := v.paths }
    tables := { s.tables with rows := Tab.cover s.tables.rows v.rows } }

/-- The end of a restore: RESULT is the sum of the targets' digests (R259). -/
def State.endRestore (p : Snapshot) (s : State) (o : Op) : State :=
  let js := (List.range p.tiled.length).map (fun i => o.n (nkTargets + i))
  let s1 := match s.saves.find? (fun v => v.number + 1 == o.n nkSaved) with
    | some v => s.installSaved v js
    | none => s
  s1.finish o stOk o.cursor ((js.map (fun j => ((s1.regions.get j).map (·.digest.toNat)).getD 0)).sum % 2 ^ 64) 0

/-- SNAP_RESTORE at its start: the source is read and checked. -/
def State.startRestore (s : State) (ext : Ext) (o : Op) : State :=
  let x := o.arg 16 1
  if x = 3 || (x != 2 && o.arg 24 8 != 0) then s.fail o stNotSupported else
  let src : (List Byte ⊕ Nat) × State := if x ≠ 2 then (.inl (s.stackRead ((s.slotTile x).1 * 4096) 64 ++
      s.stackRead ((s.slotTile x).1 * 4096 + 4096) 8192), s) else
    match s.readAt ext (o.arg 24 8) (2 * cellBytes) 3 with
    | (.data pair, s1) => (match inForce pair with
      | some c => (.inl c, s1)
      | none => (.inr stCheckFail, s1))
    | (.error, s1) => (.inr stCheckFail, s1)
    | (.path, s1) => (.inr stPathFailed, s1)
  match src with
  | (.inr st, s1) => s1.fail o st
  | (.inl v, s1) =>
    let p := if x = 2 then cellSnapshot v else slotSnapshot v
    let area := if p.scope = 2 && p.job == o.jobTag then s1.readContext ext p else (.error, s1)
    let st := area.2.restoreStatus o p area.1
    if st ≠ 0 then area.2.fail o st else
    area.2.beginRestore o v p (match area.1 with
      | .data a => area.2.savedOf a
      | _ => none)

/-- SNAP_RESTORE (R257 to R259). -/
def execSnapRestore (op units : Nat) (ext : Ext) (s : State) : Out :=
  .next (match s.work op 0x42 with
    | none => s
    | some o =>
      if o.stage = .fresh then s.startRestore ext o
      else if o.stage = .walking then
        let p := o.snapshot
        State.endWalk op (entryTiles p.tiled) (State.endRestore p)
          (State.walkBy op (entryTiles p.tiled) (chunkAt p.tiled) (State.restoreChunk ext op o p) units s)
      else s)

/-! ## SNAP_DISCARD and the estimator (R261, R262) -/

/-- SNAP_DISCARD (R261). -/
def execSnapDiscard (op : Nat) (s : State) : Out :=
  .next (match s.work op 0x43 with
    | none => s
    | some o =>
      let x := o.arg 16 1
      let st := (s.snapSlot x).st
      if st = .empty then s.finish o stOk 0 0 0
      else if st = .filling || st == .draining then s.fail o stConflict
      else (s.setSlotState x .empty).finish o stOk 0 0 0)

/-- An FP32 word's exact value. -/
def fp32Rat (w : Word) : Rat := ((((fp32Val w.toNat).getD 0 : Int)) : Rat) * pow2 (-149)
/-- 1.0 in fixed point of 256 fraction bits. -/
def fixOne : Nat := 2 ^ 256
/-- The series of e^(−y), by Horner's rule from its term n: 1 − (y ÷ k)(1 − (y ÷ (k + 1))(…)). -/
def expSeries (y : Nat) : Nat → Nat → Nat
  | 0, _ => fixOne
  | n + 1, k => fixOne - y * expSeries y n (k + 1) / (k * fixOne)
/-- v^(2^n) in fixed point. -/
def squares : Nat → Nat → Nat
  | 0, v => v
  | n + 1, v => squares n (v * v / fixOne)
/-- e^(−num ÷ den) in fixed point: the series at an argument halved below 1/2, squared as often. From num ÷ den = 256 on it is below the
last fraction bit. DESIGN CHOICE (log entry 145): the manual states no precision, and this one errs by less than 2^−240. -/
def expFix (num den : Nat) : Nat :=
  if 256 ≤ num / den then 0 else
  let m := Nat.log2 (num / den) + 2
  squares m (expSeries (num * fixOne / (den * 2 ^ m)) 60 1)
/-- e^(−t ÷ TAU) for t ticks (R262). -/
def State.decay (s : State) (t : Nat) : Rat :=
  let x := (t : Rat) / 100000000 / fp32Rat s.cal.set.tau
  ((expFix x.num.natAbs x.den : Nat) : Rat) / ((fixOne : Nat) : Rat)
/-- λ of R262. -/
def State.lossRate (s : State) : Rat :=
  let c := s.cal.set
  fp32Rat c.lambda0 * s.decay (s.now - s.snap.cleared) +
    ((s.rf 0x0164 12 16 : Nat) : Rat) / 16 * fp32Rat c.wLoss / fp32Rat c.tau * (s.snap.losses.map (fun t => s.decay (s.now - t))).sum
/-- ⌊√(2C ÷ λ)⌋ of R262, clamped; with C above 0 a λ that is not above 0 gives T_MAX. -/
def State.freshInterval (s : State) (tcut : Nat) : Nat :=
  let c := s.cal.set
  let cost := fp32Rat c.cutW * (tcut : Rat) / 100000000 + fp32Rat c.drainW * (s.snap.tdrain : Rat) / 100000000
  let lo := 10 * s.rf 0x0160 1 12
  let hi := 10 * s.rf 0x0160 13 12
  if cost ≤ 0 then Nat.max lo (Nat.min hi 0) else if s.lossRate ≤ 0 then hi else
  let q := 2 * cost / s.lossRate
  Nat.max lo (Nat.min hi (Nat.sqrt (q.num.natAbs / q.den)))

/-- INTERVAL_RECOMPUTE (R262). -/
def execIntervalRecompute (s : State) : Out :=
  .next ({ s with snap := { s.snap with interval :=
    match s.snap.tcut with
    | none => 10 * s.rf 0x0164 0 12
    | some t => if bitAt (s.regN 0x0160) 0 then 10 * s.rf 0x0164 0 12 else s.freshInterval t } })

end Sys2Proof.Machine
end

