-- ==== Sys2Proof/Machine/Control.lean ====
section
/-! DEFINITION. CANCEL, SUSPEND and RESUME (R98 to R104, Tables 3-12 to 3-15). -/

namespace Sys2Proof.Machine

/-- The target of a control descriptor: the non-final operation with TARGET_TAG on TARGET_RING (R99). -/
def State.controlTarget (s : State) (c : Op) : Option Op :=
  s.ops.find? (fun t => t.ring == c.arg 20 1 % 64 && t.opTag == c.arg 16 4)

/-- May CANCEL act on a target in its present state (Table 3-9)? REGROUP and STEP_CONFIRM are final at their commit point. DESIGN CHOICE
(log entry 140): an opcode whose Cancel column says No is not cancelled while it is QUEUED either. -/
def State.cancelAllowed (s : State) (t : Op) : Bool :=
  match (opRow t.opcode).map (fun (r : OpRow) => r.canc) with
  | some .yes => true
  | some .beforeCommit => true
  | some .waitRef => t.st == .queued || (t.stage == .waitRef && s.loadRefs t.tabKind t.tabSlot != 0)
  | _ => false

/-- Is a RUNNING or SUSPENDING target one that CANCEL ends at once (R101)? Long operations go on to their next YIELD point, but one
that polls its cell; a SNAP_CUT past its freeze edge waits for its copies, and a DEGRADED_READ for its tile in flight. -/
def State.cancelNow (s : State) (t : Op) : Bool :=
  if t.opcode = 0x40 then !((s.snap.cut.map (fun c => c.op == t.id && c.frozen.isSome)).getD false) ||
    s.snap.copies.vals.all (fun x => x.op != t.id)
  else if t.opcode = 0x30 then !s.inFlight t
  else !t.long || t.stage == .polling

/-- A control descriptor waits for its target. -/
def State.waitTarget (s : State) (c t : Op) : State :=
  s.modOp c.id (fun c => { (c.keep nkTarget t.id).keep nkAfter t.id with stage := .waitTarget })
/-- Change a target's state under a control that takes effect now. -/
def State.steer (s : State) (t : Op) (st : OpState) : State := s.modOp t.id (fun t => { t with st := st, control := some s.now })

/-- CANCEL takes effect on a permitted target. -/
def State.cancelTarget (s : State) (c t : Op) : State :=
  if t.st = .cancelling then s.finish c stOk t.cursor 2 0
  else
    let s1 := s.waitTarget c t
    if t.st = .queued || t.st = .suspended || s.cancelNow t then s1.cancelOp t else s1.steer t .cancelling

/-- SUSPEND takes effect on a permitted target. A target that polls its cell stands at a YIELD point. DESIGN CHOICE (log entry 137): a
QUEUED target becomes SUSPENDED though 64 long operations have left QUEUED already. -/
def State.suspendTarget (s : State) (c t : Op) : State :=
  match t.st with
  | .suspending => s.finish c stOk t.cursor 2 0
  | .suspended => s.finish c stOk t.cursor 2 0
  | .cancelling => s.waitTarget c t
  | .queued =>
    let s1 := (s.interim t stSuspended 0).modOp t.id (fun t => { t with st := .suspended })
    s1.finish (c.keep nkAfter t.id) stOk 0 1 0
  | .running =>
    let s1 := (s.waitTarget c t).steer t .suspending
    if t.stage = .polling then s1.yieldPoint t.id else s1

/-- RESUME takes effect on a permitted target. -/
def State.resumeTarget (s : State) (c t : Op) : State :=
  match t.st with
  | .queued => s.finish c stOk t.cursor 2 0
  | .running => s.finish c stOk t.cursor 2 0
  | .cancelling => s.waitTarget c t
  | .suspending =>
    let s1 := s.modOp t.id (fun t => { t with st := .running, control := none })
    let held := s1.ops.filter (fun x => x.opcode == 0x7E && x.stage == .waitTarget && x.note.get nkTarget == some t.id)
    let c1 := match held.head? with
      | some x => c.keep nkAfter x.id
      | none => c
    (held.foldl (fun u x => u.finishOne x stOk t.cursor 1 0) s1).finish c1 stOk t.cursor 1 0
  | .suspended =>
    let s1 := s.modOp t.id (fun t => { t with st := if t.started then .running else .queued, control := none })
    (if t.started && t.stage != .polling then s1.makeReady t.id else s1).finish c stOk t.cursor 1 0

/-- A control descriptor that has started: an unknown or final target gives RESULT 0, one of another job NACK_TAG unless the issuing ring
is SYS (R99), one on which Table 3-9 permits no such control NOT_SUPPORTED. -/
def State.controlStart (s : State) (op code : Nat) (ok : Op → Bool) (act : Op → Op → State) : State :=
  match s.op? op with
  | none => s
  | some c =>
    if c.opcode ≠ code || !c.started || c.stage ≠ .fresh then s else
    match s.controlTarget c with
    | none => s.finish c stOk 0 0 0
    | some t =>
      let cfg := s.ringCfg c.ring
      if !cfgSys cfg && cfgTag (s.ringCfg t.ring) != cfgTag cfg then s.finish c stNackTag t.cursor 0 0
      else if ok t then (act c t).settle else s.finish c stNotSupported t.cursor 0 0

/-- CANCEL (R99 to R104). -/
def execCancel (op : Nat) (s : State) : Out := .next (s.controlStart op 0x7D s.cancelAllowed s.cancelTarget)
/-- SUSPEND (R99 to R103). -/
def execSuspend (op : Nat) (s : State) : Out := .next (s.controlStart op 0x7E (fun t => t.long) s.suspendTarget)
/-- RESUME (R99 to R103). -/
def execResume (op : Nat) (s : State) : Out := .next (s.controlStart op 0x7F (fun t => t.long) s.resumeTarget)

end Sys2Proof.Machine
end

