-- ==== Sys2Proof/Machine/Parity.lean ====
section
/-! DEFINITION. Full encoding and verification of stripes (R168 to R170). -/

namespace Sys2Proof.Machine

/-- The global address of a tile of a remote member's region, or of its PENDING region (R168; log entry 132). -/
def Member.tileAddr (x : Member) (kind t : Nat) : Nat :=
  gaddr x.node x.agent (4096 * ((Config.remoteTile kind x.node x.agent x.region + t) % 2 ^ 30))

/-- A Hebribry read of a whole remote tile at C3 (R168); none of its data comes with an error response or at the retry limit. -/
def State.readRemote (s : State) (ext : Ext) (a : Nat) : (List Byte ⊕ Nat) × State :=
  match s.readAt ext a 4096 3 with
  | (.data v, s1) => (.inl v, s1)
  | (.error, s1) => (.inr stCheckFail, s1)
  | (.path, s1) => (.inr stPathFailed, s1)

/-- Read a member's tile as stored: a local region through page guard, a remote one by a Hebribry read at C3 (R168). -/
def State.readStored (s : State) (ext : Ext) (sheaf i t : Nat) (x : Member) : (List Byte ⊕ Nat) × State :=
  if s.isLocal x then
    match s.localMember sheaf i with
    | none => (.inr stCheckFail, s)
    | some (j, r) => match s.readTile ext j r t with
      | (some v, s1) => (.inl v, s1)
      | (none, s1) => (.inr stCheckFail, s1)
  else s.readRemote ext (x.tileAddr 0 t)

/-- The data tiles of stripe t as stored, virtual ones zero. -/
def State.storedData (s : State) (ext : Ext) (sheaf t : Nat) (sh : Sheaf) : List Nat → (List (List Byte) ⊕ Nat) × State
  | [] => (.inl [], s)
  | i :: l =>
    match sh.mem? i with
    | none => (.inr stCheckFail, s)
    | some x =>
      match (if sh.virtual i t then (.inl (zeros 4096), s) else s.readStored ext sheaf i t x) with
      | (.inr st, s1) => (.inr st, s1)
      | (.inl v, s1) => match s1.storedData ext sheaf t sh l with
        | (.inl vs, s2) => (.inl (v :: vs), s2)
        | (.inr st, s2) => (.inr st, s2)

/-- Are all the data members, or all members, in state ALIVE? -/
def Sheaf.allAlive (sh : Sheaf) (n : Nat) : Bool := (sh.members.take n).all (fun x => x.st == .alive)

/-- The refusals of ENCODE_FULL (R169). -/
def State.encodeRefused (s : State) (o : Op) (r : Region) (sh : Sheaf) : Bool :=
  r.role != .parityHome || decide (r.tileCount < o.arg 20 3 + o.arg 24 4) || !sh.allAlive sh.k ||
  (List.range 3).any (fun x => s.banks.has (bankKey r.link x))

/-- One stripe of ENCODE_FULL: it waits for copy-before-write and for a lane. -/
def State.encodeStripe (ext : Ext) (j : Nat) (r : Region) (sh : Sheaf) (t : Nat) (s : State) : Walk :=
  if s.cbwHolds j t then .wait (s.cbwEngine j t) else if !s.laneReady then .wait s else
  match s.storedData ext r.sheaf t sh (List.range sh.k) with
  | (.inr st, s1) => .stop st s1
  | (.inl d, s1) => .go (s1.putParity j t r (s1.encodeRow j (r.member - sh.k) d))

/-- ENCODE_FULL (R168, R169). -/
def execEncodeFull (op units : Nat) (ext : Ext) (s : State) : Out :=
  .next (match s.work op 0x20 with
    | none => s
    | some o =>
      let j := o.arg 16 1
      match s.regions.get j with
      | none => s.fail o stConflict
      | some r =>
        match s.sheafOf r with
        | none => s.fail o stConflict
        | some sh =>
          if o.stage = .fresh then
            (if !countOk (o.arg 24 4) || o.arg 28 8 != 0 || o.arg 36 4 != 0 then s.fail o stNotSupported
             else if s.encodeRefused o r sh then s.fail o stConflict
             else s.modOp op (fun o => { o with stage := .walking, cursor := o.arg 20 3 }))
          else if o.stage = .walking then
            State.endWalk op (o.arg 20 3 + o.arg 24 4)
              (fun t x => t.finish x stOk x.cursor (((t.regions.get j).map (·.digest.toNat)).getD 0) 0)
              (State.walk op (o.arg 20 3 + o.arg 24 4) (fun t u => u.encodeStripe ext j r sh t) units s)
          else s)

/-- The tiles of the pending banks of a local parity home that hold a live step (R170). -/
def State.liveBanks (s : State) (r : Region) (t : Nat) : List (Nat × Region × Nat) :=
  match s.regions.get r.link with
  | none => []
  | some q => (List.range 3).filterMap (fun x => match s.banks.get (bankKey r.link x) with
      | some b => if b.st = .active then some (r.link, q, x * r.tileCount + t) else none
      | none => none)

/-- XOR the tile of each pending bank of a remote parity home that holds a live step of a set: bank n mod (D_MAX + 1) for step n
(R170, R185). -/
def State.remoteBanks (s : State) (ext : Ext) (t : Nat) (sh : Sheaf) (x : Member) : List Nat → List Byte → (List Byte ⊕ Nat) × State
  | [], v => (.inl v, s)
  | n :: l, v =>
    match s.readRemote ext (x.tileAddr 1 (n % (sh.dMax + 1) * x.tiles + t)) with
    | (.inl w, s1) => s1.remoteBanks ext t sh x l (xorBytes v w)
    | (.inr st, s1) => (.inr st, s1)

/-- The value of parity row j of stripe t, for a member of set k (R170): the committed tile XOR the tiles of the pending banks that hold
unconfirmed steps. -/
def State.rowValue (s : State) (ext : Ext) (k sheaf t j : Nat) (sh : Sheaf) : (List Byte ⊕ Nat) × State :=
  match sh.mem? (sh.k + j) with
  | none => (.inr stCheckFail, s)
  | some x =>
    match s.readStored ext sheaf (sh.k + j) t x with
    | (.inr st, s1) => (.inr st, s1)
    | (.inl v, s1) =>
      if !s.isLocal x then s1.remoteBanks ext t sh x ((s.setTab k).live.map (·.1)) v else
      match s1.localMember sheaf (sh.k + j) with
      | none => (.inl v, s1)
      | some (_, r) => match s1.xorTiles ext (s1.liveBanks r t) v with
        | (some w, s2) => (.inl w, s2)
        | (none, s2) => (.inr stCheckFail, s2)

/-- Do the parity rows of a stripe equal the encode of its data? -/
def State.rowsAgree (s : State) (ext : Ext) (k region sheaf t : Nat) (sh : Sheaf) (d : List (List Byte)) : List Nat → (Bool ⊕ Nat) × State
  | [] => (.inl true, s)
  | j :: l =>
    match s.rowValue ext k sheaf t j sh with
    | (.inr st, s1) => (.inr st, s1)
    | (.inl v, s1) => match s1.rowsAgree ext k region sheaf t sh d l with
      | (.inl b, s2) => (.inl (b && s.encodeRow region j d == v), s2)
      | (.inr st, s2) => (.inr st, s2)

/-- One stripe of VERIFY_STRIPES: a mismatch is counted, listed while entries remain, and the first one raised. A list entry counts as
written once it is acknowledged (R92, R336). -/
def State.verifyStripe (ext : Ext) (op j : Nat) (r : Region) (sh : Sheaf) (t : Nat) (s : State) : Walk :=
  s.unitWrites op t (fun s =>
  if !s.laneReady then .wait s else
  match s.storedData ext r.sheaf t sh (List.range sh.k) with
  | (.inr st, s1) => .stop st s1
  | (.inl d, s1) => match s1.rowsAgree ext r.set j r.sheaf t sh d (List.range sh.m) with
    | (.inr st, s2) => .stop st s2
    | (.inl true, s2) => .go s2
    | (.inl false, s2) =>
      match s2.op? op with
      | none => .go s2
      | some o =>
        let a := o.arg 28 8 + 4 * o.result
        let listed := o.arg 28 8 ≠ 0 ∧ o.result < o.arg 36 4
        let s3 := if o.result = 0 then s2.event 70 (infoA j t) else s2
        if listed ∧ writeStatus ext a ≠ stOk then .stop (writeStatus ext a) s3 else
        let s4 := if listed then s3.engineWrite op a (leBytes 4 t) 3 else s3
        .go (s4.modOp op (fun o => { o with result := o.result + 1 })))

/-- VERIFY_STRIPES (R168, R170). -/
def execVerifyStripes (op units : Nat) (ext : Ext) (s : State) : Out :=
  .next (match s.work op 0x21 with
    | none => s
    | some o =>
      let j := o.arg 16 1
      match s.regions.get j with
      | none => s.fail o stConflict
      | some r =>
        match s.sheafOf r with
        | none => s.fail o stConflict
        | some sh =>
          if o.stage = .fresh then
            (if !countOk (o.arg 24 4) || o.arg 28 8 % 4 != 0 then s.fail o stNotSupported
             else if !sh.allAlive (sh.k + sh.m) || decide (sh.stripes < o.arg 20 3 + o.arg 24 4) then s.fail o stConflict
             else s.modOp op (fun o => { o with stage := .walking, cursor := o.arg 20 3 }))
          else if o.stage = .walking then
            State.endWalk op (o.arg 20 3 + o.arg 24 4) (fun t x => t.finish x stOk x.cursor x.result 0)
              (State.walk op (o.arg 20 3 + o.arg 24 4) (fun t u => u.verifyStripe ext op j r sh t) units s)
          else s)

end Sys2Proof.Machine
end

