-- ==== Sys2Proof/Machine/Ted.lean ====
section
/-! DEFINITION. The Tedder: TED_PACK, its scale cell, TED_APPLY and TED_ANCHOR_LOAD (chapter 9). -/

namespace Sys2Proof.Machine

/-! ## Objects and operands (R269 to R273) -/

/-- The region operands of a Tedder operation. -/
def Op.theta (o : Op) : Nat := if o.opcode = 0x52 then o.arg 17 1 else o.arg 16 1
def Op.anchor (o : Op) : Nat := if o.opcode = 0x52 then o.arg 16 1 else o.arg 17 1
def Op.residue (o : Op) : Nat := o.arg 18 1
/-- The θ and the residue region that an operation names; TED_ANCHOR_LOAD may name none (Table 9-10). -/
def Op.thetaOf (o : Op) : Option Nat := if o.opcode = 0x52 && o.theta == 0xFF then none else some o.theta
def Op.residueOf (o : Op) : Option Nat := if o.opcode = 0x52 && o.residue == 0xFF then none else some o.residue
/-- The regions among θ, anchor and residue that an operation names. -/
def Op.tedNames (o : Op) : List Nat := o.thetaOf.toList ++ [o.anchor] ++ o.residueOf.toList
def Op.tedFirst (o : Op) : Nat := if o.opcode = 0x50 then o.arg 28 4 else if o.opcode = 0x51 then o.arg 24 4 else o.arg 20 4
def Op.tedCount (o : Op) : Nat := if o.opcode = 0x50 then o.arg 32 4 else if o.opcode = 0x51 then o.arg 28 4 else o.arg 24 4
def Op.tedLast (o : Op) : Nat := o.tedFirst + o.tedCount
def Op.outRegion (o : Op) : Nat := o.arg 19 1
def Op.outAddr (o : Op) : Nat := if o.opcode = 0x50 then o.arg 48 8 else o.arg 56 8
def Op.tedFormat (o : Op) : Nat := bits (o.arg 20 1) 0 4
def Op.site (o : Op) : Nat := bits (o.arg 21 1) 0 4
def Op.outer (o : Op) : Nat := o.arg 8 4

/-- NB: the blocks of a θ region (R270). -/
def Region.blocks (r : Region) : Nat := if r.format = .fp40 then r.tileCount * 4 / 5 else r.tileCount
/-- The region tile that holds block b's words, and the one that holds its extension bytes. -/
def Region.blockTile (r : Region) (b : Nat) : Nat := if r.format = .fp40 then 5 * (b / 4) + b % 4 else b
def Region.extTile (b : Nat) : Nat := 5 * (b / 4) + 4
/-- LT: tiles of the length array for NA blocks, and the area size (R283). -/
def lengthTiles (na : Nat) : Nat := ceilDiv (2 * na) 4096
def areaSize (k : TedFmt) (na : Nat) : Nat := 4096 * lengthTiles na + k.slotBytes * na
/-- Byte offsets of length word b and slot b in an area. -/
def lengthOff (b : Nat) : Nat := 2 * b
def slotOff (k : TedFmt) (na b : Nat) : Nat := 4096 * lengthTiles na + k.slotBytes * b

/-- Does another Tedder operation that passed its checks name the anchor or the residue (Table 9-8 row 3)? -/
def State.tedShared (s : State) (o : Op) : Bool :=
  s.ops.any (fun x => x.id != o.id && (decide (0x50 ≤ x.opcode ∧ x.opcode ≤ 0x52)) && x.started && x.stage != .fresh &&
    (x.anchor == o.anchor || (x.residueOf == o.residueOf && o.residueOf.isSome)))
/-- The bytes of the entropy slot's bank that an operation holds (R345). -/
def State.entropyBytes (s : State) (o : Op) (k : Nat) : List Byte :=
  match s.tables.entropy.get k with
  | none => []
  | some t =>
    let bank := ((o.refs.find? (fun r => r.kind == 2 && r.slot == k)).map (·.bank)).getD t.act
    if bank = 0 then t.bank0 else t.bank1
/-- Row 2 of Table 9-8: the regions and their sizes. -/
def State.tedRegions (s : State) (o : Op) (k : Option TedFmt) : Bool :=
  match s.regions.get o.anchor with
  | none => false
  | some a =>
    a.role == .watch && a.format == .fp32 && decide (1 ≤ a.tileCount ∧ o.tedLast ≤ a.tileCount) &&
    (match o.thetaOf with
     | none => true
     | some i => match s.regions.get i with
       | some r => r.role == .data && (r.format == .fp32 || r.format == .fp40) && decide (a.tileCount ≤ r.blocks)
       | none => false) &&
    (match o.residueOf with
     | none => true
     | some i => match s.regions.get i with
       | some r => r.role == .tedderResidue && r.format == .fp32 && r.tileCount == a.tileCount && r.logicalBase == a.logicalBase
       | none => false) &&
    (o.opcode == 0x52 || o.outRegion == 0xFF ||
      (match s.regions.get o.outRegion, k with
       | some r, some k => r.role == .tedderOut && r.link == o.residue && decide (areaSize k a.tileCount ≤ 4096 * r.tileCount)
       | _, _ => false)) &&
    (o.opcode != 0x51 || (match k with
       | some k => decide (areaSize k a.tileCount ≤ o.arg 48 8)
       | none => false))

/-- Row 3 of Table 9-8 but for the entropy list and the trigger counter. -/
def State.tedBusy (s : State) (o : Op) : Bool :=
  o.tedNames.any (fun i => match s.regions.get i with
    | some r => s.setLive r.set
    | none => false) || s.tedShared o
/-- Is the anchor marked invalid (R298)? -/
def State.anchorBad (s : State) (o : Op) : Bool := ((s.regions.get o.anchor).map (·.anchorInvalid)).getD false

/-! ## Reads and writes of blocks -/

/-- The status of a read that gave no data. -/
def Rd.status : Rd → Nat
  | .data _ => stOk
  | .error => stCheckFail
  | .path => stPathFailed

/-- The tiles that give the differences of a block: θ's words and its extension bytes (none for FP32), the anchor, the residue. -/
structure BlockIn where
  theta : List Byte
  extra : List Byte
  anchor : List Byte
  residue : List Byte
/-- Read tile t of region j through page guard, none where the region is not registered. -/
def State.readOf (s : State) (ext : Ext) (j t : Nat) : Option (List Byte) × State :=
  match s.regions.get j with
  | some r => s.readTile ext j r t
  | none => (none, s)
/-- Read tiles (region, tile) in order; none when one cannot be read. -/
def State.readMany (ext : Ext) : List (Nat × Nat) → State → Option (List (List Byte)) × State
  | [], s => (some [], s)
  | (j, t) :: l, s =>
    match s.readOf ext j t with
    | (none, s1) => (none, s1)
    | (some v, s1) => match State.readMany ext l s1 with
      | (some vs, s2) => (some (v :: vs), s2)
      | (none, s2) => (none, s2)
/-- Read what block b's differences come from. -/
def State.readBlock (s : State) (ext : Ext) (o : Op) (b : Nat) : Option BlockIn × State :=
  match s.regions.get o.theta with
  | none => (none, s)
  | some rt =>
    let x := if rt.format = .fp40 then [(o.theta, Region.extTile b)] else []
    match State.readMany ext ([(o.theta, rt.blockTile b), (o.anchor, b), (o.residue, b)] ++ x) s with
    | (some (t :: a :: r :: l), s1) => (some ⟨t, slice (l.headD []) (1024 * (b % 4)) (if l.isEmpty then 0 else 1024), a, r⟩, s1)
    | (_, s1) => (none, s1)
/-- The FP32 elements of a tile. -/
def tileWords (v : List Byte) : List Fv := (List.range 1024).map (fun i => fvOf32 (field v (4 * i) 4))
/-- The exact values of θ's elements, with their extension bytes for FP40 (R270). -/
def BlockIn.values (x : BlockIn) : List Fv :=
  if x.extra.isEmpty then tileWords x.theta
  else (List.range 1024).map (fun i => fvOf40 (field x.theta (4 * i) 4 * 256 + field x.extra i 1))
/-- The differences of a block (R274): d rounded once, and whether d or an input is an infinity or NaN. -/
def BlockIn.diff (x : BlockIn) : List (Fv × Bool) :=
  let one := fun (t : Fv) (y : Fv × Fv) =>
    let d := ((t.add y.1.negate).add y.2).rn32
    (d, d.bad || t.bad || y.1.bad || y.2.bad)
  List.zipWith one x.values ((tileWords x.anchor).zip (tileWords x.residue))
/-- The contents that a block's bytes depend on, as a number: the key of its free NaN bits (R272; log entry 2). -/
def BlockIn.key (x : BlockIn) (o : Op) (tscale : Nat) : Nat :=
  leNat (x.theta ++ x.extra ++ x.anchor ++ x.residue ++ leBytes 4 tscale ++ leBytes 2 (o.arg 20 2) ++ leBytes 4 o.outer)

/-- A list of an operation's writes at global addresses on C2; none pass on when one fails. -/
def State.writeAll (ext : Ext) (op : Nat) : List (Nat × List Byte) → State → Walk
  | [], s => .go s
  | (a, v) :: l, s =>
    let s1 := s.engineWrite op a v 2
    if writeStatus ext a ≠ stOk then .stop (writeStatus ext a) s1 else State.writeAll ext op l s1

/-- Blocks b to b + n − 1 that meet a quiet region wait; each is counted once (R300). -/
def nkDelayed : Nat := 962
def State.quietWait (op b n : Nat) (js : List Nat) (f : State → Walk) (s : State) : Walk :=
  if js.any (fun j => ((s.regions.get j).bind (·.quiet)).isSome) then
    .wait (match s.op? op with
      | some o => if o.n nkDelayed = b + 1 then s else (s.modOp op (fun o => o.keep nkDelayed (b + 1))).bumpBy (tedCnt 7) n
      | none => s)
  else f s
/-- Is the unit of blocks that begins at b past its first writes? -/
def State.unitBegun (s : State) (op b : Nat) : Bool :=
  ((s.op? op).map (fun o => o.n nkIssued == 2 * b + 1 || o.n nkIssued == 2 * b + 2)).getD false
/-- A unit of blocks b to b + n − 1, begun only while the regions it writes are not quiet (R300): its writes f, and once they are done its
writes g. -/
def State.blockUnit (op n : Nat) (js : List Nat) (f g : Nat → State → Walk) (b : Nat) (s : State) : Walk :=
  let run := fun (u : State) => u.unitWrites2 op (2 * b) (f b) (g b)
  if s.unitBegun op b then run s else State.quietWait op b n js run s

/-! ## TED_PACK (R274 to R287) -/

/-- Note keys: 2 in pass 2, the next block of pass 1, MAXL, NONF, TSCALE, blocks since the last trigger increment, and of the present
unit the length words, the blocks ESCAPE and the 32-byte units saved. -/
def nkPassTwo : Nat := 963
def nkBlock : Nat := 964
def nkMaxl : Nat := 965
def nkNonf : Nat := 966
def nkScale : Nat := 967
def nkGroup : Nat := 968
def nkLens : Nat := 972
def nkEscaped : Nat := 973
def nkUnits : Nat := 974

/-- The checks of TED_PACK (Table 9-8); 0 when it passes. -/
def State.packStatus (s : State) (o : Op) : Nat :=
  let k := tedFmt o.tedFormat
  let trig := o.arg 22 1
  let lost := match k with
    | some k => bitAt (o.arg 20 1) 4 && (entropyList (s.entropyBytes o (bits (o.arg 20 1) 5 2)) k.width).isNone
    | none => false
  if k.isNone || !countOk o.tedCount || (o.outRegion != 0xFF && o.outAddr != 0) || (o.outRegion == 0xFF && s.partTed == 0)
  then stNotSupported
  else if !s.tedRegions o k then stConflict
  else if s.tedBusy o || lost || (o.arg 24 2 != 0 && ((s.seqs.trigOwn.get trig).map (fun x => x != o.id)).getD false) then stConflict
  else if s.anchorBad o then stCheckFail else 0

/-- One block of pass 1. -/
def State.passOne (ext : Ext) (op : Nat) (s : State) : Walk :=
  match s.op? op with
  | none => .wait s
  | some o =>
    if !s.laneFree then .wait s else
    match s.readBlock ext o (o.n nkBlock) with
    | (none, s1) => .stop stCheckFail s1
    | (some x, s1) =>
      let d := x.diff
      let pat := fun (y : Fv × Bool) => y.1.word 8 23 (x.key o 0, 2048) % 2 ^ 31
      .go (s1.modOp op (fun o => ((o.keep nkMaxl ((d.map pat).foldl Nat.max (o.n nkMaxl))).keep nkNonf
        (o.n nkNonf + (d.filter (·.2)).length)).keep nkBlock (o.n nkBlock + 1)))

/-- The end of pass 1: the contribution, unless RESUME, and the polls (R274). -/
def State.contribute (s : State) (o : Op) : State :=
  let cell := o.arg 40 8
  let s1 := if bitAt (o.arg 21 1) 4 then s
    else ((s.reduceCell o.id cell true (o.n nkMaxl) 1).reduceCell o.id (cell + 8) false (o.n nkNonf) 1).arrive o.id
  s1.park o.id (fun o => { o with stage := .polling, hold := s.now })

/-- Up to n blocks of pass 1. -/
def State.passOneLoop (ext : Ext) (op : Nat) : Nat → State → State
  | 0, s => (s.yieldPoint op).settle
  | n + 1, s =>
    match s.op? op with
    | none => s
    | some o =>
      if o.tedLast ≤ o.n nkBlock then (s.contribute o).settle else
      match s.passOne ext op with
      | .go s1 => State.passOneLoop ext op n s1
      | .stop st s1 => (match s1.op? op with
        | some o => (s1.fail o st).settle
        | none => s1)
      | .wait s1 => s1

/-- SCALE_CELL_POLL (R274, R275): once the operation's own ARRIVED add is issued, or with RESUME 1 at once, the cell is read every 2.0 µs;
ARRIVED above EXPECT or NONFIN above 0 ends the operation, ARRIVED equal to EXPECT begins pass 2 with the tensor scale. -/
def execScaleCellPoll (op : Nat) (ext : Ext) (s : State) : Out :=
  .next (match s.waiting op 0x50 with
    | none => s
    | some o =>
      if o.stage ≠ .polling then s
      else if 0 < o.n nkErrors then (s.fail o stCheckFail).settle
      else if o.n nkArrived = 0 && !bitAt (o.arg 21 1) 4 then (s.arrive op).settle
      else if !s.past o.hold 200 then s
      else match s.readAt ext (o.arg 40 8) 64 1 with
        | (.data v, s1) =>
          let n := field v 16 8
          let e := o.arg 36 4
          if e < n ∨ 0 < field v 8 8 then (s1.fail o stCheckFail).settle
          else if n < e then s1.modOp op (fun o => { o with hold := s.now })
          else
            let w := field v 0 4
            s1.unpark op (fun o => { ((o.keep nkPassTwo 2).keep nkScale (if w = 0 then 0x3F800000 else w)) with
              stage := .walking, cursor := o.tedFirst })
        | (.error, s1) => (s1.fail o stCheckFail).settle
        | (.path, s1) => (s1.fail o stPathFailed).settle)

/-- The scale byte of an MX block of values x (R276). -/
def TedFmt.scaleByte (k : TedFmt) (xs : List Fv) : Nat :=
  let mag := fun (v : Fv) => match v with
    | .fin _ m => m
    | .inf _ => (2 - pow2 (-23)) * pow2 127
    | .nan => 0
  let a := (xs.map mag).foldl max 0
  if a = 0 then 0 else Nat.min (log2Rat a - k.emax + 127).toNat 254
/-- Are all the values of an MX block zero? -/
def zeroBlock (xs : List Fv) : Bool := xs.all (fun v => match v with
  | .fin _ m => m == 0
  | .inf _ => false
  | .nan => true)
/-- The dequantised value of a code under a scale byte and a tensor scale, rounded once to FP32 (R276). -/
def TedFmt.deq (k : TedFmt) (tscale : Fv) (sc c : Nat) : Fv :=
  if sc = 255 then .nan else ((tscale.mul (.fin false (pow2 ((sc : Int) - 127)))).mul (k.val c)).rn32
/-- Quantise the MX block of elements from e on: its scale byte and codes. -/
def TedFmt.quantise (k : TedFmt) (key e : Nat) (xs : List Fv) : Nat × List Nat :=
  if zeroBlock xs then (0, xs.map (fun _ => 0)) else
  let sc := k.scaleByte xs
  (sc, xs.zipIdx.map (fun p => k.code (key, e + p.2) (p.1.mul (.fin false (pow2 (127 - (sc : Int)))))))

/-- A quantised block: codes, scale bytes, and the new residue tile (R275, R276); `key` is of its free NaN bits. -/
def TedFmt.block (k : TedFmt) (key : Nat) (tscale : Fv) (d : List Fv) : List Nat × List Nat × List Byte :=
  let xs := d.map (fun v => (v.div tscale).rn32)
  let parts := (List.range 32).map (fun i => k.quantise key (32 * i) ((xs.drop (32 * i)).take 32))
  let codes := parts.flatMap (·.2)
  let res := (d.zip codes).zipIdx.map (fun p =>
    ((p.1.1.add (k.deq tscale ((parts.map (·.1)).getD (p.2 / 32) 0) p.1.2).negate)).word 8 23 (key, 1024 + p.2))
  (codes, parts.map (·.1), res.flatMap (fun w => leBytes 4 w))

/-- The payload of a block and whether it is entropy-coded (R281, R282): raw when no list is asked for, when the coded bytes exceed
the raw ones, or when a code has no code word. -/
def TedFmt.payload (k : TedFmt) (lens : Option (List Nat)) (codes scales : List Nat) : List Byte × Bool :=
  let raw := k.pack codes ++ scales.flatMap (fun x => leBytes 1 x)
  match lens with
  | none => (raw, false)
  | some l =>
    let v := scales.flatMap (fun x => leBytes 1 x) ++ packBits (codes.flatMap (codeWord l))
    if k.rawD < v.length || codes.any (fun c => l.getD c 0 == 0) then (raw, false) else (v, true)

/-- The bytes of a block (R280). -/
def blockBytes (o : Op) (ltile tscale : Nat) (asked : Bool) (p : List Byte × Bool) : List Byte :=
  let etab := bits (o.arg 20 1) 5 2
  let h := leBytes 1 0xD7 ++ leBytes 1 (o.tedFormat + 16 * bit p.2 + 32 * bit (asked && !p.2) + (if p.2 then 64 * etab else 0)) ++
    leBytes 2 (p.1.length + 2 ^ 11 * o.site) ++ leBytes 4 ltile ++ leBytes 4 o.outer ++ leBytes 4 tscale
  fit (blockLen p.1.length) (h ++ p.1 ++ leBytes 4 (crc32c (h ++ p.1)).toNat)

/-- The global address of the out area. -/
def State.outBase (s : State) (o : Op) : Nat :=
  if o.outRegion = 0xFF then o.outAddr else s.tileAddr (((s.regions.get o.outRegion).map (·.tileBase)).getD 0)

/-- Blocks of the unit of pass 2 that begins at block c: one, or with staging as many slots as a 64 KiB chunk holds (R287, R373;
DESIGN CHOICE, log entry 146). -/
def Op.packSize (o : Op) (c : Nat) : Nat :=
  match tedFmt o.tedFormat with
  | some k => if o.outRegion = 0xFF then Nat.min (65536 / k.slotBytes) (o.tedLast - c) else 1
  | none => 1

/-- What blocks of pass 2 give: residue tiles by address, the bytes for their slots, the length words, and the counts. -/
structure Packed where
  residue : List (Nat × List Byte)
  slots : List Byte
  lens : List Byte
  escaped : Nat
  saved : Nat

/-- The block that pass 2 forms from its tiles (R275 to R282): its bytes, whether its payload is coded, and the residue tile. -/
def State.formBlock (s : State) (o : Op) (k : TedFmt) (rr : Region) (b : Nat) (x : BlockIn) : List Byte × Bool × List Byte :=
  let q := k.block (x.key o (o.n nkScale)) (fvOf32 (o.n nkScale)) (x.diff.map (·.1))
  let asked := bitAt (o.arg 20 1) 4
  let p := k.payload (if asked then entropyList (s.entropyBytes o (bits (o.arg 20 1) 5 2)) k.width else none) q.1 q.2.1
  (blockBytes o (rr.logicalBase + b) (o.n nkScale) asked p, p.2, q.2.2)

/-- Form n blocks from block b on; none when a tile cannot be read. -/
def State.packBlocks (ext : Ext) (o : Op) (k : TedFmt) (rr : Region) : Nat → Nat → Packed → State → Option Packed × State
  | 0, _, p, s => (some p, s)
  | n + 1, b, p, s =>
    match s.readBlock ext o b with
    | (none, s1) => (none, s1)
    | (some x, s1) =>
      let q := s1.formBlock o k rr b x
      let l := q.1.length
      State.packBlocks ext o k rr n (b + 1)
        { residue := p.residue ++ [(s1.tileAddr (rr.tileBase + b), q.2.2)]
          slots := p.slots ++ (if o.outRegion = 0xFF then fit k.slotBytes q.1 else q.1)
          lens := p.lens ++ leBytes 2 l
          escaped := p.escaped + bit (bitAt (o.arg 20 1) 4 && !q.2.1)
          saved := p.saved + (if q.2.1 then (k.slotBytes - l) / 32 else 0) } s1

/-- Pass 2 of a unit from block b on: the residue tiles and the blocks in their slots (R275 to R283). -/
def State.packSlots (ext : Ext) (op b : Nat) (s : State) : Walk :=
  match s.op? op with
  | none => .wait s
  | some o =>
    match tedFmt o.tedFormat, s.regions.get o.residue with
    | some k, some rr =>
      if !s.laneFree then .wait s else
      match State.packBlocks ext o k rr (o.packSize b) b ⟨[], [], [], 0, 0⟩ s with
      | (none, s1) => .stop stCheckFail s1
      | (some p, s1) =>
        let s2 := s1.modOp op (fun o => ((o.keep nkLens (leNat p.lens)).keep nkEscaped p.escaped).keep nkUnits p.saved)
        State.writeAll ext op (p.residue ++ [(s.outBase o + slotOff k rr.tileCount b, p.slots)]) s2
    | _, _ => .stop stConflict s
/-- The length words of a unit, written once its slots are (R283, R287). -/
def State.packLens (ext : Ext) (op b : Nat) (s : State) : Walk :=
  match s.op? op with
  | none => .wait s
  | some o => State.writeAll ext op [(s.outBase o + lengthOff b, leBytes (2 * o.packSize b) (o.n nkLens))] s

/-- Add to a trigger counter. -/
def State.triggerBy (s : State) (k n : Nat) : State := (List.range n).foldl (fun t _ => t.trigger k) s
/-- A unit of pass 2 that is visible: the counts of R278 and Table 9-12, and the trigger increments for each TRIG_N further blocks (R285). -/
def State.packDone (s : State) (op b : Nat) : State :=
  match s.op? op with
  | none => s
  | some o =>
    let m := o.packSize b
    let l := leBytes (2 * m) (o.n nkLens)
    let g := o.n nkGroup + m
    let n := o.arg 24 2
    let s1 := ((s.bumpBy (tedCnt 0) m).bumpBy (tedCnt 1) (o.n nkEscaped)).bumpBy (tedCnt 2) (o.n nkUnits)
    let s2 := s1.modOp op (fun o => { (if n = 0 then o else o.keep nkGroup (g % n)) with
      result := o.result + ((List.range m).map (fun i => field l (2 * i) 2)).sum, aux := o.aux + o.n nkEscaped })
    if n = 0 then s2 else s2.triggerBy (o.arg 22 1) (g / n)
/-- A unit of pass 2 with its counts and trigger increments. -/
def State.packUnit (ext : Ext) (op : Nat) (b : Nat) (s : State) : Walk :=
  let res := ((s.op? op).map (fun o => (o.residue, o.packSize b))).getD (0, 1)
  match s.blockUnit op res.2 [res.1] (State.packSlots ext op) (State.packLens ext op) b with
  | .go s1 => .go (s1.packDone op b)
  | x => x

/-- The end of a pack: the increment for a short final group, and the record with AUX as R278 gives it (DESIGN CHOICE, log entry 138). -/
def State.packEnd (s : State) (o : Op) : State :=
  let s1 := if o.arg 24 2 ≠ 0 && o.n nkGroup != 0 then s.trigger (o.arg 22 1) else s
  s1.finish o stOk o.cursor o.result o.aux

/-- TED_PACK (R273 to R287). -/
def execTedPack (op units : Nat) (ext : Ext) (s : State) : Out :=
  .next (match s.work op 0x50 with
    | none => s
    | some o =>
      if o.stage = .fresh then
        let st := s.packStatus o
        if st ≠ 0 then s.fail o st else
        let s1 := if o.arg 24 2 ≠ 0 then { s with seqs := { s.seqs with trigOwn := s.seqs.trigOwn.set (o.arg 22 1) op } } else s
        s1.modOp op (fun o => { (o.keep nkBlock o.tedFirst) with stage := .walking, cursor := 0 })
      else if o.stage = .walking then
        (if o.n nkPassTwo = 2 then
          State.endWalk op o.tedLast State.packEnd (State.walkBy op o.tedLast o.packSize (State.packUnit ext op) units s)
         else State.passOneLoop ext op units s)
      else s)

/-! ## TED_APPLY (R288 to R295) -/

/-- The apply table that a running operation keeps (Table 9-7), and the numbers of R293. -/
def nkApply : Nat := 970
def Op.applyTable (o : Op) : List Byte := leBytes 128 (o.n nkApply)
def weightOf (t : List Byte) (i : Nat) : Nat := field t (4 * i) 4
def decayOf (t : List Byte) (j : Nat) : Nat := field t (64 + 4 * j) 4
def staleLimit (t : List Byte) : Nat := field t 84 1
def etaOf (t : List Byte) : Nat := field t 88 4
/-- A weight above 0. -/
def takesPart (t : List Byte) (i : Nat) : Bool := fp32Pos (weightOf t i)
/-- The address of the inbound area of site i and generation g (R289). -/
def Op.inbound (o : Op) (i g : Nat) : Nat := o.arg 40 8 + o.arg 48 8 * (bits (o.arg 22 1) 0 3 * i + g)

/-- Does an apply need staging: does an own area named by OUT_ADDR, or a partner's area, lie outside the stack (R287)? -/
def State.needsStaging (s : State) (o : Op) (t : List Byte) : Bool :=
  let n := match tedFmt o.tedFormat, s.regions.get o.anchor with
    | some k, some ra => areaSize k ra.tileCount
    | _, _ => 1
  (o.outRegion == 0xFF && !s.inStack o.outAddr n) || (List.range 16).any (fun i => i != o.site && takesPart t i &&
    (List.range (bits (o.arg 22 1) 0 3)).any (fun g => !s.inStack (o.inbound i g) n))
/-- Are the operands of a TED_APPLY within their encodings (Table 9-6, row 1 of Table 9-8)? -/
def Op.applyEncoded (o : Op) : Bool :=
  let gens := bits (o.arg 22 1) 0 3
  (tedFmt o.tedFormat).isSome && gens != 0 && decide (gens ≤ 5) && o.arg 48 8 % 4096 == 0 && (o.outRegion == 0xFF || o.outAddr == 0)
/-- The checks of TED_APPLY once its table is read (Table 9-8); 0 when it passes. -/
def State.applyStatus (s : State) (o : Op) (t : List Byte) : Nat :=
  let gens := bits (o.arg 22 1) 0 3
  let k := tedFmt o.tedFormat
  let fpOk := fun (w : Nat) => fp32Finite w && fp32NonNeg w
  if !o.applyEncoded || !allZero (slice t 85 3) || !allZero (slice t 92 36) ||
     decide (4 < staleLimit t ∨ gens ≤ staleLimit t) || !takesPart t o.site ||
     !((List.range 16).all (fun i => fpOk (weightOf t i)) && (List.range 5).all (fun j => fpOk (decayOf t j)) && fpOk (etaOf t)) ||
     (s.needsStaging o t && s.partTed == 0) then stNotSupported
  else if !s.tedRegions o k then stConflict
  else if s.tedBusy o then stConflict
  else if s.anchorBad o then stCheckFail else 0

/-- What Table 9-9 makes of a slot. -/
inductive Slot9 where
  | absent | lost | stale
  | accepted (q : List Fv)
  deriving DecidableEq, Repr

/-- A slot as it is read: its length word, and the bytes that the word says it holds. -/
abbrev SlotRead := Nat × List Byte
/-- The bytes of a block up to its CRC (R280). -/
def blockBody (v : List Byte) : List Byte := v.take (16 + bits (field v 2 2) 0 11)
/-- The payload of a raw block at its full size; bytes that a short one does not hold are free values of its contents (R272; log entry
2). -/
def TedFmt.rawPayload (k : TedFmt) (v : List Byte) : List Byte :=
  let p := (blockBody v).drop 16
  p ++ (List.range (k.rawD - p.length)).map (Config.payloadByte (leNat v))

/-- The dequantised values of an accepted block: raw, or by the Huffman code; none when the stream does not decode. -/
def State.blockValues (s : State) (o : Op) (k : TedFmt) (v : List Byte) : Option (List Fv) :=
  let ts := fvOf32 (field v 12 4)
  let out := fun (codes : List Nat) (scales : List Byte) =>
    codes.zipIdx.map (fun c => k.deq ts ((scales.getD (c.2 / 32) 0#8).toNat) c.1)
  if bitAt (field v 1 1) 4 then
    let p := (blockBody v).drop 16
    match entropyList (s.entropyBytes o (bits (field v 1 1) 6 2)) k.width with
    | none => none
    | some l =>
      match takeSymbols l 1024 (unpackBits (p.drop 32)) with
      | none => none
      | some (codes, rest) => if rest.any id then none else some (out codes (p.take 32))
  else
    let raw := k.rawPayload v
    some (out (k.unpack (raw.take k.elemBytes)) (slice raw k.elemBytes 32))

/-- Is a length word within the bounds that need no header (rows 1 and 2 of Table 9-9)? -/
def TedFmt.lengthOk (k : TedFmt) (len : Nat) : Bool := decide (20 ≤ len ∧ len ≤ k.slotBytes)
/-- Treat a slot by Table 9-9: the first row that matches, for site i, outer step n, block b. -/
def State.treatSlot (s : State) (o : Op) (k : TedFmt) (i : Nat) (n : Int) (ltile : Nat) (x : SlotRead) : Slot9 :=
  let v := x.2
  let d := bits (field v 2 2) 0 11
  let f1 := field v 1 1
  let ts := field v 12 4
  if x.1 = 0 then .absent
  else if !k.lengthOk x.1 || decide (x.1 < 20 + d) then .lost
  else if field v 0 1 ≠ 0xD7 ∨ bits f1 0 4 ≠ o.tedFormat ∨ (bitAt f1 4 ∧ bitAt f1 5) ∨ k.rawD < d ∨ (bitAt f1 4 ∧ d < 32) ∨
    !fp32Finite ts ∨ !fp32Pos ts then .lost
  else if field v (16 + d) 4 ≠ (crc32c (blockBody v)).toNat then .lost
  else if bits (field v 2 2) 11 4 ≠ i ∨ field v 4 4 ≠ ltile then .lost
  else if (field v 8 4 : Int) ≠ n then .stale
  else match s.blockValues o k v with
    | none => .lost
    | some q => .accepted q

/-- Read a length word and, where it is within bounds, the bytes that it gives of the slot; the status when a read fails (R292). -/
def State.readArea (s : State) (ext : Ext) (k : TedFmt) (na base b : Nat) : (SlotRead ⊕ Nat) × State :=
  match s.readAt ext (base + lengthOff b) 2 2 with
  | (.data w, s1) =>
    let len := leNat w
    if !k.lengthOk len then (.inl (len, []), s1) else
    (match s1.readAt ext (base + slotOff k na b) len 2 with
    | (.data v, s2) => (.inl (len, v), s2)
    | (x, s2) => (.inr x.status, s2))
  | (x, s1) => (.inr x.status, s1)

/-- What the slots of a block give: accepted blocks by site and lag, their bytes, addresses of the length words to clear, the
counts accepted, lost, stale, late, and missing at lag 0, and the status of a read that failed, 0 for none. -/
structure Gather where
  blocks : List (Nat × Nat × List Fv)
  body : List Byte
  clear : List Nat
  lost : Nat
  stale : Nat
  late : Nat
  missing : Nat
  fault : Nat

/-- What the treatment of the slot of a site at lag j with its length word at `a` adds. -/
def Gather.add (g : Gather) (i j a : Nat) (v : List Byte) : Slot9 → Gather
  | .absent => { g with missing := g.missing + bit (j == 0) }
  | .lost => { g with lost := g.lost + 1, clear := g.clear ++ [a], missing := g.missing + bit (j == 0) }
  | .stale => { g with stale := g.stale + 1, clear := g.clear ++ [a], missing := g.missing + bit (j == 0) }
  | .accepted q => { g with
      blocks := g.blocks ++ [(i, j, q)], body := g.body ++ blockBody v, clear := g.clear ++ [a], late := g.late + bit (j != 0) }

/-- Examine the slots of partners at (site, lag) pairs in order, up to a read that fails (R292). -/
def State.gather (ext : Ext) (o : Op) (k : TedFmt) (na ltile b : Nat) : List (Nat × Nat) → Gather → State → Gather × State
  | [], g, s => (g, s)
  | (i, j) :: l, g, s =>
    let n : Int := (o.outer : Int) - j
    let base := o.inbound i (n % (bits (o.arg 22 1) 0 3 : Nat)).toNat
    match s.readArea ext k na base b with
    | (.inr st, s1) => ({ g with fault := st }, s1)
    | (.inl x, s1) => State.gather ext o k na ltile b l (g.add i j (base + lengthOff b) x.2 (s1.treatSlot o k i n ltile x)) s1

/-- The arithmetic of R294 for one element: θ's new value before its format, from the anchor and the weighted values. -/
def applyElement (eta : Fv) (anchor : Fv) (wq : List (Fv × Fv)) : Fv :=
  let r := wq.foldl (fun (a : Fv × Fv) p => ((a.1.add (p.1.mul p.2).rn64).rn64, (a.2.add p.1).rn64)) (.fin false 0, .fin false 0)
  anchor.add (eta.mul (r.1.div r.2).rn32).rn32

/-- The bytes that an apply writes for a block: θ's words, its extension bytes, the anchor tile; `key` is of the free NaN bits. -/
def applyBytes (fp40 : Bool) (key : Nat) (eta : Fv) (anchor : List Fv) (blocks : List (Fv × List Fv)) : List Byte × List Byte × List Byte :=
  let vals := anchor.zipIdx.map (fun p => applyElement eta p.1 (blocks.map (fun x => (x.1, x.2.getD p.2 .nan))))
  let th := vals.zipIdx.map (fun p => p.1.word 8 (if fp40 then 31 else 23) (key, p.2))
  let an := th.zipIdx.map (fun p => (Fv.of 8 (if fp40 then 31 else 23) p.1).word 8 23 (key, 1024 + p.2))
  (th.flatMap (fun w => leBytes 4 (if fp40 then w / 256 else w)), (if fp40 then th.flatMap (fun w => leBytes 1 (w % 256)) else []),
   an.flatMap (fun w => leBytes 4 w))

/-- The writes of θ block b and then of the anchor tile (R295). -/
def State.blockWritesOf (s : State) (rt ra : Region) (b : Nat) (v : List Byte × List Byte × List Byte) : List (Nat × List Byte) :=
  [(s.tileAddr (rt.tileBase + rt.blockTile b), v.1)] ++
  (if v.2.1.isEmpty then [] else [(s.tileAddr (rt.tileBase + Region.extTile b) + 1024 * (b % 4), v.2.1)]) ++
  [(s.tileAddr (ra.tileBase + b), v.2.2)]

/-- The partners' slots that an apply examines for a block: sites that take part, each at the lags 0 to S (R292). -/
def Op.slotPairs (o : Op) : List (Nat × Nat) :=
  ((List.range 16).filter (fun i => i != o.site && takesPart o.applyTable i)).flatMap
    (fun i => (List.range (staleLimit o.applyTable + 1)).map (fun j => (i, j)))

/-- Count what a block's slots gave and write 0 to the length words of those that were treated (R292, R293). -/
def State.countSlots (ext : Ext) (op : Nat) (g : Gather) (s : State) : Walk :=
  let s1 := (((s.bumpBy (tedCnt 3) (g.blocks.length + 1)).bumpBy (tedCnt 4) g.lost).bumpBy (tedCnt 5) g.stale).bumpBy (tedCnt 6) g.late
  let s2 := s1.modOp op (fun o =>
    { (if 0 < g.missing + g.lost + g.stale then o.keep nkLoss 1 else o) with result := o.result + g.missing, aux := o.aux + g.late })
  State.writeAll ext op (g.clear.map (fun a => (a, zeros 2))) s2

/-- One block of an apply: the own block must be accepted before any partner's slot is touched. -/
def State.applyBlock (ext : Ext) (op b : Nat) (s : State) : Walk :=
  match s.op? op with
  | none => .wait s
  | some o =>
    match tedFmt o.tedFormat, s.regions.get o.theta, s.regions.get o.anchor with
    | some k, some rt, some ra =>
      if !s.laneFree then .wait s else
      let t := o.applyTable
      let ltile := ra.logicalBase + b
      match s.readArea ext k ra.tileCount (s.outBase o) b with
      | (.inr st, s1) => .stop st s1
      | (.inl x, s1) =>
        match s1.treatSlot o k o.site o.outer ltile x with
        | .absent => .stop stCheckFail s1
        | .accepted own =>
          let g := State.gather ext o k ra.tileCount ltile b o.slotPairs ⟨[], [], [], 0, 0, 0, 0, 0⟩ s1
          (match State.countSlots ext op g.1 g.2 with
          | .go s2 =>
            if g.1.fault ≠ 0 then .stop g.1.fault s2 else
            (match s2.readTile ext o.anchor ra b with
            | (none, s3) => .stop stCheckFail s3
            | (some an, s3) =>
              let all := (g.1.blocks.filter (fun x => decide (x.1 < o.site))) ++ [(o.site, 0, own)] ++
                g.1.blocks.filter (fun x => decide (o.site < x.1))
              let wq := all.map (fun x => ((fvOf32 (weightOf t x.1)).mul (fvOf32 (decayOf t x.2.1)), x.2.2))
              let key := leNat (an ++ t ++ blockBody x.2 ++ g.1.body)
              State.writeAll ext op
                (s3.blockWritesOf rt ra b (applyBytes (rt.format == .fp40) key (fvOf32 (etaOf t)) (tileWords an) wq)) s3)
          | w => w)
        | _ => .stop stCheckFail (s1.modOp op (fun o => o.keep nkLoss 1))
    | _, _, _ => .stop stConflict s

/-- The tedder-loss event, once for an operation that has met its cause (R293). -/
def State.lossEvent (s : State) (o : Op) (st : Nat) : State := if o.n nkLoss = 1 then s.event 77 (infoC o.opTag st) else s

/-- A failed apply reports its losses too. -/
def Walk.orLoss (op : Nat) : Walk → Walk
  | .stop st s => .stop st (match s.op? op with
    | some o => s.lossEvent o st
    | none => s)
  | w => w

/-- Blocks and tiles whose writes are all issued at once. -/
def noMore (_ : Nat) (s : State) : Walk := .go s

/-- TED_APPLY (R288 to R295): the apply table is read once, at the start, after the checks of the operands alone (R10). -/
def execTedApply (op units : Nat) (ext : Ext) (s : State) : Out :=
  .next (match s.work op 0x51 with
    | none => s
    | some o =>
      if o.stage = .fresh then
        (if !o.applyEncoded then s.fail o stNotSupported else
         match s.readAt ext (o.arg 32 8) 128 2 with
         | (.data t, s1) =>
           let st := s1.applyStatus o t
           if st ≠ 0 then s1.fail o st
           else s1.modOp op (fun o => { (o.keep nkApply (leNat t)) with stage := .walking, cursor := o.tedFirst })
         | (x, s1) => s1.fail o x.status)
      else if o.stage = .walking then
        let f := fun (b : Nat) (u : State) => (u.blockUnit op 1 [o.theta, o.anchor] (State.applyBlock ext op) noMore b).orLoss op
        State.endWalk op o.tedLast (fun t x => (t.lossEvent x stOk).finish x stOk x.cursor x.result x.aux)
          (State.walk op o.tedLast f units s)
      else s)

/-! ## TED_ANCHOR_LOAD (R296 to R298) -/

/-- Tiles of the chunk of an anchor load that begins at tile c (R373). -/
def Op.loadSize (o : Op) (c : Nat) : Nat := Nat.min chunkTiles (o.tedLast - c)
/-- The writes of tile b of an anchor load, from image tile v (R297). -/
def State.loadWrites (s : State) (o : Op) (b : Nat) (v : List Byte) : List (Nat × List Byte) :=
  let at' := fun (i : Option Nat) (f : Region → List (Nat × List Byte)) => ((i.bind s.regions.get).map f).getD []
  at' (some o.anchor) (fun ra => [(s.tileAddr (ra.tileBase + b), v)]) ++
  at' o.thetaOf (fun rt => [(s.tileAddr (rt.tileBase + rt.blockTile b), v)] ++
    (if rt.format = .fp40 then [(s.tileAddr (rt.tileBase + Region.extTile b) + 1024 * (b % 4), zeros 1024)] else [])) ++
  at' o.residueOf (fun rr => [(s.tileAddr (rr.tileBase + b), zeros 4096)])
/-- One chunk of an anchor load: its image tiles are read at C2 and written. -/
def State.loadChunk (ext : Ext) (op b : Nat) (s : State) : Walk :=
  match s.op? op with
  | none => .wait s
  | some o =>
    match s.readAt ext (o.arg 32 8 + 4096 * b) (4096 * o.loadSize b) 2 with
    | (.data v, s1) =>
      State.writeAll ext op ((List.range (o.loadSize b)).flatMap (fun i => s1.loadWrites o (b + i) (slice v (4096 * i) 4096))) s1
    | (x, s1) => .stop x.status s1

/-- The end of a load: with the last tile loaded, CHECK compares the digest, and the invalid mark is cleared (R298). -/
def State.loadEnd (s : State) (o : Op) : State :=
  match s.regions.get o.anchor with
  | none => s.fail o stConflict
  | some ra =>
    let whole := o.tedLast == ra.tileCount && o.tedCount != 0
    if whole && bitAt (o.arg 19 1) 0 && ra.digest.toNat != o.arg 40 8 then s.fail o stCheckFail else
    let s1 := if whole then s.modRegion o.anchor (fun r => { r with anchorInvalid := false }) else s
    s1.finish o stOk o.cursor ra.digest.toNat 0

/-- TED_ANCHOR_LOAD (R296 to R298). -/
def execTedAnchorLoad (op units : Nat) (ext : Ext) (s : State) : Out :=
  .next (match s.work op 0x52 with
    | none => s
    | some o =>
      if o.stage = .fresh then
        (if !s.tedRegions o none || s.tedBusy o then s.fail o stConflict
         else
           let s1 := if o.tedFirst = 0 then s.modRegion o.anchor (fun r => { r with anchorInvalid := true }) else s
           s1.modOp op (fun o => { o with stage := .walking, cursor := o.tedFirst }))
      else if o.stage = .walking then
        let f := fun (b : Nat) (u : State) => u.blockUnit op (o.loadSize b) o.tedNames (State.loadChunk ext op) noMore b
        State.endWalk op o.tedLast State.loadEnd (State.walkBy op o.tedLast o.loadSize f units s)
      else s)

end Sys2Proof.Machine
end

