-- ==== Sys2Proof/Machine/Power.lean ====
section
/-! DEFINITION. Lane states, wakes, relocks, the deadline governor, thermal levels, and the SCLK tick (chapter 14, R16, R29, R30). -/

namespace Sys2Proof.Machine

/-! ## Operating points (R409, R414) -/

/-- The VLANE code requested at point F. -/
def State.code (s : State) (f : Nat) : Nat :=
  s.cal.set.vf.getD f 0 + (if s.power.therm = 1 then s.cal.set.ofs1 else if s.power.therm = 2 then s.cal.set.ofs2 else 0)
/-- Is a point usable? -/
def State.usable (s : State) (f : Nat) : Bool := s.cal.set.valid.getD f false && decide (s.code f ≤ 60)
/-- The highest usable point. -/
def State.highest (s : State) : Nat := ((List.range 9).filter s.usable).getLastD 0
/-- The caps that conditions set: 4 under the safe table, THROT_F, 0 at level 3. -/
def State.cap (s : State) : Nat :=
  let a := if s.cal.safe then 4 else 8
  let b := if s.power.throt || s.power.therm == 2 then s.cal.set.throtF else 8
  if s.power.therm = 3 then 0 else Nat.min a b
/-- The ceiling without those caps. -/
def State.openCeiling (s : State) : Nat := Nat.min (s.rf 0x0204 9 4) s.highest
/-- The governor's ceiling and floor (R414). -/
def State.ceiling (s : State) : Nat := Nat.min s.openCeiling s.cap
def State.govFloor (s : State) : Nat := Nat.min (s.rf 0x0204 5 4) s.ceiling
/-- LCLK cycles in a tick at point F: 0.4 GHz and 0.2 GHz for each point. -/
def lclk (f : Nat) : Nat := 4 + 2 * f

/-- Set the governor's point. -/
def State.setPoint (s : State) (f : Nat) : State :=
  if f = s.power.target then s else { s with power := { s.power with target := f, lastChange := s.now } }
/-- Bring the governor's point under the ceiling. -/
def State.applyCap (s : State) : State := s.setPoint (Nat.min s.power.target s.ceiling)

/-! ## Relocks and voltages (R16, R29, R409, R410) -/

/-- Request an LCLK point: lanes and sequencers hold until LCLK_LOCK; a relock between two points is counted. -/
def State.relockTo (s : State) (f : Nat) : State :=
  ({ s with power := { s.power with lclkReq := f, relock := true } }).bump (pwrCnt 4)
/-- Request the present point's own code, when it has one. -/
def State.holdVoltage (s : State) : State :=
  if s.code s.power.f ≤ 60 then { s with power := { s.power with vlane := s.code s.power.f } } else s
/-- Move toward the governor's point while lanes are ACTIVE or in FALLOW_WARM and nothing is awaited: a raise requests the higher
voltage and waits for VLANE_ACK; a lowering requests the lower point first. -/
def State.steerPoint (s : State) : State :=
  let p := s.power
  if (p.lanes != .active && p.lanes != .warm) || !p.pll || p.wantV || p.relock then s
  else if p.target = p.f then s.holdVoltage
  else if p.f < p.target && p.vlane < s.code p.target then
    { s with power := { p with vlane := s.code p.target, wantV := true } }
  else s.relockTo p.target

/-- Begin to start the PLL at the governor's point within its envelope: its voltage is requested (R406). -/
def State.startPll (s : State) : State :=
  if s.power.pll || s.power.wantV || s.power.relock then s else
  let f := Nat.min (Nat.max s.power.target s.govFloor) s.ceiling
  let s1 := s.setPoint f
  { s1 with power := { s1.power with wakeF := f, vlane := s.code f, wantV := true } }

/-- VLANE_ACK (R29, R406): a raise requests its LCLK point, and a start of the PLL its point. -/
def execVlaneAck (s : State) : Out :=
  .next (if !s.power.wantV then s else
    let s1 := { s with power := { s.power with wantV := false } }
    if s.power.pll then s1.steerPoint
    else { s1 with power := { s1.power with lclkReq := s1.power.wakeF, relock := true } })

/-- LCLK_LOCK (R29, R406, R410): the point is the one requested and its code stands; lanes resume, the waves of a wake begin, or a
return to FALLOW_WARM ends. Caps that arose meanwhile apply now. -/
def execLclkLock (s : State) : Out :=
  .next (if !s.power.relock then s else
    let p := s.power
    let f := p.lclkReq
    let p1 : Power := { p with relock := false, f := f, pll := true }
    let p2 : Power := if p.lanes = .cold then { p1 with lanes := .warm, warmSince := s.now, gated := false }
      else if p.lanes = .waking then { p1 with waveDue := s.now } else p1
    let s1 := { s with power := p2 }
    s1.applyCap.holdVoltage.steerPoint.wakeWords)

/-! ## Sleep and wake (R401 to R407) -/

/-- Tile deltas whose products are due. -/
def State.productsDue (s : State) : Nat :=
  (s.tap.slots.filter (fun p => p.2.waiting ||
    s.port.sctx.vals.any (fun c => c.msgs.any (fun m => m.slot == p.1 && m.st == .queued)))).length
/-- Is lane work queued: products, complete messages, merges, builds for held writes? -/
def State.laneQueued (s : State) : Bool :=
  decide (0 < s.productsDue) || !s.port.applyQ.isEmpty || s.forcedBank.isSome || s.regions.vals.any (fun r => !r.builds.isEmpty)
/-- Does landing or the spill area hold a message? -/
def State.holdsMessage (s : State) : Bool := s.rxAll.any (fun x => x.st != .done)
/-- Is there what starts a wake (R404)? -/
def State.wakeCause (s : State) : Bool :=
  s.laneQueued || s.holdsMessage || !s.seqs.ready.isEmpty || !s.seqs.q.isEmpty

def State.warmIdle (s : State) : Nat := us (s.rf 0x0200 2 10)
def State.coldIdle (s : State) : Nat := us (s.rf 0x0200 12 12)

/-- Is traffic expected (R403)? -/
def State.expected (s : State) : Bool :=
  s.regions.vals.any (fun r => s.setLive r.set || r.state == .fostering) ||
  s.port.sctx.vals.any (fun c => !c.msgs.isEmpty) || s.tap.slots.vals.any (fun d => d.waiting) || !s.tap.park.isEmpty ||
  (match s.power.lastAccum with | some t => decide (s.now < t + s.coldIdle) | none => false) ||
  s.holdsMessage || s.ops.any (fun o => o.long) ||
  (match s.power.deadline with | some d => decide (s.now < d) | none => false)

/-- Traffic expected during FALLOW_COLD starts the return to FALLOW_WARM (R403). -/
def State.coldReturn (s : State) : State := if s.power.lanes = .cold && s.expected then s.startPll else s

/-- FALLOW_WARM_ENTRY (R402). -/
def execFallowWarmEntry (s : State) : Out :=
  .next (let p := s.power
    if p.lanes = .active && bitAt (s.regN 0x0200) 0 && !p.relock && !p.wantV && !s.wakeCause && s.past p.lastWork s.warmIdle then
      ({ s with power := { p with lanes := .warm, warmSince := s.now, workIn := 0 } }).bump (pwrCnt 0)
    else s)

/-- FALLOW_COLD_ENTRY (R403): the PLL goes off and VLANE_REQ to code 0. -/
def execFallowColdEntry (s : State) : Out :=
  .next (let p := s.power
    if p.lanes = .warm && bitAt (s.regN 0x0200) 1 && !p.relock && !p.wantV && s.past p.warmSince s.coldIdle && !s.expected then
      ({ s with power := { p with lanes := .cold, pll := false, vlane := 0, coldSince := s.now } }).bump (pwrCnt 1)
    else s)

/-- MCLK_UNIT_GATE (R15, R407): after 1,000 µs in FALLOW_COLD without an arrival. -/
def execMclkUnitGate (s : State) : Out :=
  .next (if s.power.lanes = .cold && s.past s.power.coldSince (us 1000) && s.past s.power.lastArrival (us 1000) then
    { s with power := { s.power with gated := true } } else s)

/-- WAKE_TRIGGER (R404 to R406): from FALLOW_WARM the first wave is due at once; from FALLOW_COLD the voltage is requested first,
unless a return to FALLOW_WARM has requested it. -/
def execWakeTrigger (s : State) : Out :=
  .next (if !s.wakeCause || s.boot.lanes = 0#32 then s else
    let p := s.power
    let go := fun (old : LaneState) =>
      ({ s with power := { p with lanes := .waking, wakeFrom := old, wave := 0, waveDue := s.now, gated := false } }).bump (pwrCnt 2)
    match p.lanes with
    | .warm => go .warm
    | .cold => (go .cold).startPll
    | _ => s)

/-- WAKE_WAVE (R405): the next four lanes accept work, the sequencers with the first; the last wave ends the wake, and a point
that the governor has raised meanwhile is then taken (Table 14-6). -/
def execWakeWave (s : State) : Out :=
  .next (let p := s.power
    if p.lanes != .waking || !p.pll || p.relock || p.wantV || s.now < p.waveDue then s else
    let n := p.wave + 1
    let p1 : Power := { p with wave := n, waveDue := s.now + 20 }
    let s1 := { s with power := p1 }
    if popcount s.boot.lanes ≤ 4 * n then
      ({ s1 with power := { p1 with lanes := .active, lastWork := s.now } }).steerPoint.wakeWords
    else s1.wakeWords)

/-! ## The governor (R411 to R415) -/

/-- FORECAST_WRITE (R411): the word is stored; LEAD sets the deadline, 0 clears it, and a word with a reserved bit is ignored. -/
def execForecastWrite (w : Word) (s : State) : Out :=
  .next (let a := s.reg64 0x0210
    if a = 0 then s else
    let s1 := (s.seen.putWrite 0 none (gOff a) ((leBytes 4 w.toNat).map some)).settle
    if bits w.toNat 24 8 ≠ 0 then s1
    else
      let lead := bits w.toNat 0 24
      let d := if lead = 0 then none else some (s.now + us lead)
      ({ s1 with power := { s1.power with deadline := d, missed := false } }).coldReturn)

/-- Blocks that a running Tedder pass has left (R412). -/
def Op.blocksLeft (o : Op) : Nat :=
  if o.stage ≠ .walking || o.st ≠ .running then 0
  else if o.opcode = 0x50 then (if o.n nkPassTwo = 2 then o.tedLast - o.cursor else o.tedLast - o.n nkBlock)
  else if o.opcode = 0x51 then o.tedLast - o.cursor
  else 0
/-- The cycles of lane work L, before their division among the lanes. -/
def State.laneCycles (s : State) : Nat := 64 * (s.productsDue + s.port.applyQ.length)
/-- The cycles of the Tedder pass with the most blocks left. -/
def State.tedCycles (s : State) : Nat := 128 * (s.ops.map Op.blocksLeft).foldl Nat.max 0
/-- The lowest point from `lo` to `hi` that meets a requirement, else `hi`. -/
def pickPoint (lo hi : Nat) (meets : Nat → Bool) : Nat :=
  ((List.range (hi + 1)).find? (fun f => decide (lo ≤ f) && meets f)).getD hi

/-- The point that the governor chooses under a floor and a ceiling, and whether the deadline cannot be met (R413, R415). -/
def State.choose (s : State) (lo hi : Nat) : Nat × Bool :=
  let n := Nat.max 1 (popcount s.boot.lanes)
  if bitAt (s.regN 0x0204) 0 then (Nat.min (s.rf 0x0204 1 4) hi, false) else
  match s.power.deadline with
  | some d =>
    let lead := us s.cal.set.margin + s.cal.set.tRelock
    let late := decide (d ≤ s.now + lead) && decide (0 < s.laneCycles + s.tedCycles)
    let t := d - s.now - lead
    if late then (hi, true)
    else (pickPoint lo hi (fun f => decide (s.laneCycles ≤ lclk f * t * n) && decide (s.tedCycles ≤ lclk f * t)), false)
  | none => (pickPoint lo hi (fun f => decide (s.power.workIn ≤ lclk f * 1000 * n)), false)

/-- GOVERNOR_EVALUATION (R413 to R415): a point is raised at once, lowered when 100 µs have passed since the last change; a cap that
lowers the choice is counted, and a missed deadline once. -/
def execGovernorEvaluation (s : State) : Out :=
  .next (let p := s.power
    if (p.lanes != .active && p.lanes != .waking) || !s.past p.lastEval 1000 then s else
    let c := s.choose s.govFloor s.ceiling
    let free := s.choose (Nat.min (s.rf 0x0204 5 4) s.openCeiling) s.openCeiling
    let s1 := if c.1 < free.1 then s.bump (pwrCnt 6) else s
    let s2 := if c.2 && !p.missed then s1.bump (pwrCnt 5) else s1
    let s3 := { s2 with power := { s2.power with lastEval := s.now, workIn := 0, missed := s2.power.missed || c.2 } }
    (if p.target < c.1 || s.past p.lastChange 10000 then s3.setPoint c.1 else s3).applyCap.steerPoint)

/-! ## Thermal levels (R30, R417) -/

/-- A voltage already awaited follows a change of offsets: the code of the point that it serves. -/
def State.newOffsets (s : State) : State :=
  let p := s.power
  if !p.wantV then s
  else if p.pll then { s with power := { p with vlane := Nat.min 60 (Nat.max p.vlane (s.code p.target)) } }
  else
    let f := Nat.min p.wakeF s.ceiling
    { s with power := { p with wakeF := f, vlane := Nat.min 60 (s.code f) } }

/-- THERM_LEVEL_CHANGE (R30, R417): offsets and caps apply; entry to and exit from level 3 are recorded and raised, other changes
raise the thermal-level event. -/
def execThermLevelChange (level : Nat) (s : State) : Out :=
  .next (let old := s.power.therm
    let l := level % 4
    if l = old then s else
    let s1 := { s with power := { s.power with therm := l } }
    let s2 := if old = 3 ∨ l = 3 then (s1.auditForm 0 5 0 0x41 (bit (l == 3)) 0 0 false).event 89 (bit (l == 3)) else s1.event 88 l
    s2.newOffsets.applyCap.steerPoint.wakeWords)

/-- THROT_REQ_CHANGE (R30, R417). -/
def execThrotReqChange (b : Bool) (s : State) : Out :=
  .next (({ s with power := { s.power with throt := b } }).newOffsets.applyCap.steerPoint)

/-! ## The tick (R5, R398, R431) -/

/-- One SCLK tick: WY_TIME counts one, and WY_MCLK_EDGE counts the 16 MCLK edges of the tick once it runs; while lane work is queued
or a sequencer is held the idle time of R402 starts anew, expected traffic ends FALLOW_COLD (R403), and 16 MCLK edges of hold
back-pressure count once while a write waits at the tap's input (R18, R134). DESIGN CHOICE (log entry 3):
the table has no row for a tick, so it is the step on an empty queue. -/
def State.tick (s : State) : State :=
  let s1 : State := { s with
    time := s.time + 1#64
    boot := if s.boot.phase == .reset || s.boot.phase == .align then s.boot
            else { s.boot with mclk := s.boot.mclk + 16#64 } }
  let s2 := if s1.laneQueued || !s1.seqs.q.isEmpty then { s1 with power := { s1.power with lastWork := s1.now } } else s1
  let s3 := s2.coldReturn
  if s3.tap.queue.isEmpty then s3 else
  let s4 := s3.settle
  if s4.tap.queue.isEmpty then s4 else s4.bump (tapCnt 8)

end Sys2Proof.Machine
end

