-- ==== Sys2Proof/Machine/Seq.lean ====
section
/-! DEFINITION. Microprograms: the primitives of Table 11-4, user entries and their watchdog, and the transfers that primitives issue
(R327 to R344). -/

namespace Sys2Proof.Machine

/-! ## Running a word (R332 to R337) -/

/-- The operation that a sequencer runs, with no relock on. -/
def State.primOp (s : State) (q : Nat) : Option Op :=
  if s.power.relock then none else
  match (s.seqs.q.get q).bind s.op? with
  | some o => if o.started && (o.st == .running || o.st == .suspending || o.st == .cancelling) then some o else none
  | none => none

/-- A program ends: its final record, with CURSOR, RESULT and AUX from the registers that its entry names (R328). -/
def State.progEnd (s : State) (o : Op) (st : Nat) : State :=
  let w := s.opEntry o
  (s.finish o st (o.s (entryCur w)) (o.s (entryRes w)) (o.s (entryAux w) % 2 ^ 16)).settle
/-- A word that R332 refuses ends its operation: counted, with the microcode-fault event. -/
def State.progFault (s : State) (o : Op) : State := ((s.bump (seqCnt 2)).event 82 (infoC o.opTag stCheckFail)).progEnd o stCheckFail

/-- The status of a slot in ERROR that a word reads (R335). -/
def Op.badSlot (o : Op) (w : Nat) : Option Nat :=
  (o.slotsRead w).findSome? (fun i => match o.slots.get i with
    | some x => if x.st = .error then some x.status else none
    | none => none)

/-- Keep a number under a key, or nothing for 0. -/
def Op.mark (o : Op) (k v : Nat) : Op := { o with note := if v = 0 then o.note.del k else o.note.set k v }
/-- What follows a word: the transfer that a SYNC waits for, and the end of a program that passes word 8,191. -/
def State.afterWord (s s0 : State) (id w : Nat) : State :=
  let x := if uwSync w && s0.port.nextXfer != s.port.nextXfer then s.port.nextXfer else 0
  let r := if uwSync w && uwOpc w == 0x42 then (s0.port.rreq.free 1024).elim 0 (fun k => if s.port.rreq.has k then k + 1 else 0) else 0
  let s1 := s.modOp id (fun o => (o.mark nkSync x).mark nkSyncRead r)
  match s1.op? id with
  | some o => if 8191 < o.pc then s1.progFault o else s1
  | none => s1

/-- What a primitive does: on its operation, its word and the state. -/
abbrev Prim := Op → Nat → State → State

/-- Run the word at an operation's program counter by a primitive's action: the checks of R332, the waits, the slots in ERROR. -/
def State.runWord (s : State) (o : Op) (w : Nat) (f : Prim) : State :=
  if !o.wordOk w then s.progFault o
  else if s.wordWaits o w then s.parkWord o.id
  else match o.badSlot w with
    | some st => s.progEnd o st
    | none => (f o w s).afterWord s o.id w

/-- The primitive with an OPC at the word that sequencer q executes; a reserved OPC ends the operation. -/
def State.prim (s : State) (q opc : Nat) (f : Prim) : State :=
  match s.primOp q with
  | none => s
  | some o =>
    match s.codeWord o with
    | none => s
    | some w => if uwOpc w = opc then s.runWord o w f else if (primRow (uwOpc w)).isNone then s.progFault o else s

/-- Go on to the next word. -/
def State.advance (s : State) (id : Nat) : State := s.modOp id (fun o => { o with pc := o.pc + 1 })
/-- Sc ← v, and the next word. -/
def State.setS (s : State) (id c v : Nat) : State := s.modOp id (fun o => { o.setSreg c (BitVec.ofNat 64 v) with pc := o.pc + 1 })
/-- Put a slot FULL with contents. -/
def State.setSlot (s : State) (id k : Nat) (v : List Byte) : State := s.modOp id (fun o => { o with slots := o.slots.set k (Slot.full v) })
/-- The contents of a slot; those of one that is EMPTY are free values (log entry 2). -/
def State.slotData (s : State) (o : Op) (k : Nat) : List Byte × State :=
  match o.slots.get k with
  | some x => if x.st = .full then (x.data, s) else s.freeBytes 4096
  | none => s.freeBytes 4096

/-- A primitive that sets Sc to a function of the operation and the word. -/
def alu (f : Op → Nat → Nat) : Prim := fun o w s => s.setS o.id (uwFc w) (f o w)
/-- Sa and Sb. -/
def Op.sa (o : Op) (w : Nat) : Nat := o.s (uwFa w)
def Op.sb (o : Op) (w : Nat) : Nat := o.s (uwFb w)
def Op.sc (o : Op) (w : Nat) : Nat := o.s (uwFc w)

/-! ## Register and control primitives -/

def primMovi : Prim := alu (fun _ w => uwImm w + 2 ^ 32 * uwImm2 w)
def primAdd : Prim := alu (fun o w => o.sa w + o.sb w)
def primAddi : Prim := alu (fun o w => o.sa w + uwImm w + (if bitAt (uwImm w) 31 then 2 ^ 64 - 2 ^ 32 else 0))
def primSub : Prim := alu (fun o w => o.sa w + 2 ^ 64 - o.sb w)
def primAnd : Prim := alu (fun o w => o.sa w &&& o.sb w)
def primOr : Prim := alu (fun o w => o.sa w ||| o.sb w)
def primXor : Prim := alu (fun o w => o.sa w ^^^ o.sb w)
def primShl : Prim := alu (fun o w => o.sa w * 2 ^ bits (uwImm w) 0 6)
def primShr : Prim := alu (fun o w => o.sa w / 2 ^ bits (uwImm w) 0 6)
def primMul : Prim := alu (fun o w => o.sa w * o.sb w)
def primField : Prim := alu (fun o w => bits (o.sa w) (bits (uwImm w) 0 6) (bits (uwImm w) 6 7))

/-- Does a condition of Table 11-5 hold? -/
def condHolds (c : Nat) (a b : Word64) : Bool :=
  match c with
  | 0 => true | 1 => a == b | 2 => a != b | 3 => a.ult b | 4 => !a.ult b | 5 => a.slt b | 6 => !a.slt b
  | 7 => a == 0#64 | 8 => a != 0#64 | _ => false
/-- BR: the next word is TARGET when COND holds. -/
def primBr : Prim := fun o w s =>
  if condHolds (uwCond w) (o.sreg (uwFa w)) (o.sreg (uwFb w)) then s.modOp o.id (fun o => { o with pc := uwTarget w }) else s.advance o.id
/-- YIELD (R337): the CUR register is the CURSOR of what follows. -/
def primYield : Prim := fun o _ s =>
  let c := o.s (entryCur (s.opEntry o))
  let s1 := (s.modOp o.id (fun o => { o with pc := o.pc + 1, cursor := c, hold := s.now })).yieldPoint o.id
  if o.st = .cancelling then s1.settle else s1
/-- END: the status is IMM[15:0], or Sa[15:0] when IMM[31] is 1. -/
def primEnd : Prim := fun o w s => s.progEnd o (if bitAt (uwImm w) 31 then o.sa w % 2 ^ 16 else bits (uwImm w) 0 16)

/-! ## Transfers (R336) -/

/-- A transfer completes with a status and data: its slot or register, and the status that WAITALL gives. -/
def State.endXfer (s : State) (x : Xfer) (st : Nat) (v : List Byte) : State :=
  (s.dropXfer x.id).modOp x.op (fun o =>
    let o1 := if st = stOk || o.n nkFirstBad != 0 then o else o.keep nkFirstBad st
    match x.kind with
    | .loadTile k => { o1 with slots := o1.slots.set k (if st = stOk then Slot.full (fit 4096 v) else Slot.failed st) }
    | .load64 r => if st = stOk then o1.setSreg r (BitVec.ofNat 64 (leNat (fit 8 v))) else o1
    | _ => o1)

/-- The status with which a transfer completes at its issue; 0 when it is issued. A misaligned address gives CHECK_FAIL. -/
def State.xferStatus (s : State) (o : Op) (a n : Nat) : Nat :=
  if a % n ≠ 0 then stCheckFail
  else if s.own a && !((s.regionAt (gOff a / 4096)).map (fun p => p.2.jobTag == o.jobTag)).getD false then stNackTag
  else 0

/-- The transfer of a word: its first try (R145, R147, R336). -/
def State.newXfer (s : State) (o : Op) (kind : XferKind) (a cls : Nat) : Xfer :=
  let dst := dstKey (gNode a) (gAgent a)
  { id := s.port.nextXfer, op := o.id, kind := kind, addr := a, cls := cls, tries := 1
    path := s.firstPath dst (crc32c (leBytes 8 a)), onPath := 0, timeout := s.rto dst, first := s.now, due := s.now + s.rto dst }
/-- Packets, or requests of the stack, that a transfer holds credits for (R360). -/
def State.xferCredits (s : State) (a n : Nat) : Nat := if s.level a = 0 || n ≤ 512 then 1 else 8
/-- Put a transfer among the outstanding ones; a remote one counts its try. -/
def State.addXfer (s : State) (x : Xfer) : State :=
  let s1 := { s with port := { s.port with xfers := s.port.xfers ++ [x], nextXfer := s.port.nextXfer + 1 } }
  if s.own x.addr then s1 else s1.countPath (dstKey (gNode x.addr) (gAgent x.addr)) x.path 1 0
/-- The route selector of a transfer's try. -/
def State.xferRoute (s : State) (x : Xfer) : Nat := s.routeOf (dstKey (gNode x.addr) (gAgent x.addr)) x.path

/-- A transfer of n bytes by a primitive: refused at issue, short of a credit, which is counted (R362), or issued by `go`. -/
def State.issueXfer (s : State) (o : Op) (kind : XferKind) (a n cls : Nat) (go : Xfer → State → State) : State :=
  let st := s.xferStatus o a n
  let x := s.newXfer o kind a cls
  if st ≠ 0 then (s.endXfer x st []).advance o.id
  else if !s.creditOk (s.level a) cls (s.xferCredits a n) then s.bump (clsCnt 4)
  else go x s

/-- The agent number under which the tap holds the write of a transfer: an agent other than the engine (R336). -/
def Xfer.tapAgent (x : Xfer) : Nat := engineAgent + 1 + x.id
/-- A write in the own stack goes through the tap: a built-in entry's is the engine's own, a user entry's that of another agent. -/
def State.storeLocal (s : State) (o : Op) (x : Xfer) (v : List Byte) : State :=
  let s1 := s.addXfer x
  ((if o.user then s1.putWrite x.tapAgent none (gOff x.addr) (v.map some)
    else s1.putWrite engineAgent (some o.id) (gOff x.addr) (v.map some)).advance o.id).settle
/-- Does the tap still have the write of a local transfer? -/
def State.storePends (s : State) (o : Op) (x : Xfer) : Bool :=
  if o.user then s.tap.held.any (fun h => h.agent == x.tapAgent) || s.tap.queue.any (fun q => q.agent == x.tapAgent)
  else s.engineHeld o.id
/-- Was a local write answered with the error response? -/
def State.storeFailed (s : State) (o : Op) (x : Xfer) : Bool :=
  if o.user then s.port.tx.any (fun t => match t with | .agentError a _ => a == x.tapAgent | _ => false) else decide (0 < o.n nkErrors)
/-- A write at a global address. A remote one on C0 waits for its bucket (R364). -/
def State.storeXfer (s : State) (o : Op) (x : Xfer) (v : List Byte) : State :=
  if s.own x.addr then s.storeLocal o x v else
  let dst := dstKey (gNode x.addr) (gAgent x.addr)
  if x.cls = 0 && !s.bucketOk dst v.length then s.putBucket (s.bucketNow dst) else
  let s1 := if x.cls = 0 then s.charge dst v.length else s
  ((s1.addXfer x).send (.write x.addr v x.cls (s.xferRoute x))).advance o.id

/-- LDT: slot A is LOADING until the tile arrives. -/
def primLdt : Prim := fun o w s =>
  let k := o.slotA w
  s.issueXfer o (.loadTile k) (o.sb w) 4096 (uwCls w) (fun x s =>
    let s1 := (s.addXfer x).modOp o.id (fun o => { o with slots := o.slots.set k Slot.loading, pc := o.pc + 1 })
    if s.own x.addr then s1 else s1.send (.read x.addr 4096 x.cls (s.xferRoute x)))
/-- STT: the tile at Sb ← slot A. -/
def primStt : Prim := fun o w s =>
  let d := s.slotData o (o.slotA w)
  d.2.issueXfer o (.storeTile (o.slotA w) d.1) (o.sb w) 4096 (uwCls w) (fun x s => s.storeXfer o x d.1)
/-- LD64: Sc ← 8 bytes at Sa, when they arrive. -/
def primLd64 : Prim := fun o w s =>
  s.issueXfer o (.load64 (uwFc w)) (o.sa w) 8 (uwCls w) (fun x s =>
    let s1 := (s.addXfer x).advance o.id
    if s.own x.addr then s1 else s1.send (.read x.addr 8 x.cls (s.xferRoute x)))
/-- ST64: 8 bytes at Sa ← Sb. -/
def primSt64 : Prim := fun o w s =>
  s.issueXfer o (.store64 (o.sreg (uwFb w))) (o.sa w) 8 (uwCls w) (fun x s => s.storeXfer o x (leBytes 8 (o.sb w)))
/-- RED: a 64-bit reduction of Sb at Sa, an add or a maximum; in the own stack a write of the value that the writes before it leave. -/
def primRed : Prim := fun o w s =>
  let max := bitAt (uwImm w) 0
  s.issueXfer o (.reduce max (o.sreg (uwFb w))) (o.sa w) 8 (uwCls w) (fun y s =>
    let x := { y with due := s.now + 1000000 }
    if s.own x.addr then
      let old := leNat (s.pendingRead (gOff x.addr) 8)
      s.storeXfer o x (leBytes 8 (if max then Nat.max old (o.sb w) else old + o.sb w))
    else ((s.addXfer x).send (.reduce x.addr max (o.sb w) x.cls (s.xferRoute x))).advance o.id)

/-! ## Waits and queries -/

/-- WAITT: Sc ← the status of slot A. -/
def primWaitt : Prim := alu (fun o w => match o.slots.get (o.slotA w) with
  | some x => if x.st = .error then x.status else 0
  | none => 0)
/-- WAITALL: Sc ← the first status other than OK since the last one. -/
def primWaitall : Prim := fun o w s => (s.modOp o.id (fun o => o.mark nkFirstBad 0)).setS o.id (uwFc w) (o.n nkFirstBad)
/-- ZERO. -/
def primZero : Prim := fun o w s => (s.setSlot o.id (o.slotA w) (zeros 4096)).advance o.id
/-- RTILE: the global address of tile Sb of local region Sa[7:0]; 0 beyond its tiles. -/
def primRtile : Prim := fun o w s => alu (fun o w => match s.regions.get (bits (o.sa w) 0 8) with
  | some r => if o.sb w < r.tileCount then s.tileAddr (r.tileBase + o.sb w) else 0
  | none => 0) o w s
/-- SHINFO: k, m and the member index of region Sa[7:0]; 0 in no sheaf. -/
def primShinfo : Prim := fun o w s => alu (fun o w => match s.regions.get (bits (o.sa w) 0 8) with
  | some r => (match s.sheafOf r with
    | some sh => sh.k + 2 ^ 8 * sh.m + 2 ^ 16 * r.member
    | none => 0)
  | none => 0) o w s
/-- DIGEST of region Sa[7:0]; that of an unregistered slot reads 0 (R470). -/
def primDigest : Prim := fun o w s => alu (fun o w => ((s.regions.get (bits (o.sa w) 0 8)).map (fun r => r.digest.toNat)).getD 0) o w s
/-- TIME. -/
def primTime : Prim := fun o w s => s.setS o.id (uwFc w) s.now
/-- TRIG (R344): 1 is added to counter Sa[7:0] once every earlier transfer is visible. -/
def primTrig : Prim := fun o w s =>
  let c := bits (o.sa w) 0 8
  if ((s.seqs.trigOwn.get c).map (fun x => x != o.id)).getD false then s.progEnd o stConflict else
  let s1 := { s with seqs := { s.seqs with trigOwn := s.seqs.trigOwn.set c o.id } }
  if s.outstanding o.id then (s1.addXfer (s1.newXfer o (.trig c) (s.stackAddr 0) 1)).advance o.id else (s1.trigger c).advance o.id

/-! ## Lane work (R340) -/

/-- A primitive's work on a lane, whose outputs `g` takes: with no enabled lane left the operation ends with LANE_QUARANTINED (R343). -/
def State.onLane (s : State) (o : Op) (f : LaneFault) (j : LaneJob) (g : List (List Byte) → State → State) : State :=
  match s.laneWork f j with
  | (some v, s1) => g v { s1 with power := { s1.power with workIn := s1.power.workIn + 64 } }
  | (none, s1) => s1.progEnd o stQuarantined
/-- A slot as a lane reads it, with the checks that it carries; those of an EMPTY one are free values (log entry 2). -/
def State.laneIn (s : State) (o : Op) (k : Nat) : (List Byte × List (Byte × Byte)) × State :=
  match o.slots.get k with
  | some x => if x.st = .full then ((x.data, x.checks), s) else let f := s.freeBytes 4096; ((f.1, tileChecks f.1), f.2)
  | none => let f := s.freeBytes 4096; ((f.1, tileChecks f.1), f.2)
/-- Slots as a lane reads them. -/
def State.laneIns (s : State) (o : Op) : List Nat → List (List Byte × List (Byte × Byte)) × State
  | [] => ([], s)
  | k :: l =>
    let d := s.laneIn o k
    let r := d.2.laneIns o l
    (d.1 :: r.1, r.2)
/-- A fault's change of a slot's bytes as held; its checks stay (R343). -/
def State.upset (s : State) (o : Op) (f : LaneFault) (k : Nat) : Op × State :=
  let g := fun (o : Op) => { o with slots := o.slots.upd k (fun x => { x with data := xorBytes x.data f.held }) }
  (g o, s.modOp o.id g)

/-- The reference that an operation takes on the bank of a row block that it reads (R345): the bank, and the operation. -/
def State.useRows (s : State) (o : Op) (region : Nat) : Nat × State :=
  match o.refs.find? (fun r => r.kind == 1 && r.slot == region) with
  | some r => (r.bank, s)
  | none =>
    let b := (s.rowSlot region).act
    (b, s.modOp o.id (fun o => { o with refs := o.refs ++ [⟨1, region, b⟩] }))
/-- The coefficients of a GFMUL: from IMM2, the generator rows, or a decode slot; one that lies outside them is a free value (log
entry 2). -/
def State.gfCoefs (s : State) (o : Op) (w : Nat) : List Byte × State :=
  let n := uwRows w
  let b := o.sb w
  let f := s.freshNat
  let free := fun r => BitVec.ofNat 8 (f.1 / 256 ^ r)
  if uwCsrc w = 0 then (leBytes n (uwImm2 w), s)
  else if uwCsrc w = 1 then
    let region := bits b 0 8
    let u := f.2.useRows o region
    let block := if u.1 = 0 then (s.rowSlot region).bank0 else (s.rowSlot region).bank1
    ((List.range n).map (fun r =>
      if bits b 16 2 + r < 4 ∧ bits b 8 8 < 32 then rowAt block (bits b 16 2 + r) (bits b 8 8) else free r), u.2)
  else
    let m := ((s.tables.dec.get (bits b 0 6)).map (·.matrix)).getD []
    ((List.range n).map (fun r => (m.getD (bits b 16 2 + r) []).getD (bits b 8 6) (free r)), f.2)
/-- GFMUL: each output is a product of slot A, and with ACC the old contents of its slot besides. -/
def primGfmul (f : LaneFault) : Prim := fun o w s =>
  let u := s.upset o f (o.slotA w)
  let c := u.2.gfCoefs u.1 w
  let a := c.2.laneIn u.1 (o.slotA w)
  let out := o.slotsWritten w
  let old := if uwAcc w then a.2.laneIns u.1 out else ([], a.2)
  let terms := c.1.zipIdx.map (fun (p : Byte × Nat) => (p.1, 0) :: (if uwAcc w then [(1#8, p.2 + 1)] else []))
  old.2.onLane u.1 f ⟨a.1 :: old.1, terms⟩ (fun v t => ((out.zip v).foldl (fun t p => t.setSlot o.id p.1 p.2) t).advance o.id)
/-- XORT. -/
def primXort (f : LaneFault) : Prim := fun o w s =>
  let u := s.upset o f (o.slotA w)
  let a := u.2.laneIns u.1 [o.slotA w, uwFb w]
  a.2.onLane u.1 f ⟨a.1, [[(1#8, 0), (1#8, 1)]]⟩ (fun v t => (t.setSlot o.id (o.slotC w) (v.headD [])).advance o.id)
/-- CRC. It has no output vector, so its lane compares the checks of its input alone; so with CMPT, TEDQ and TEDA (R342). -/
def primCrc (f : LaneFault) : Prim := fun o w s =>
  let u := s.upset o f (o.slotA w)
  let a := u.2.laneIn u.1 (o.slotA w)
  a.2.onLane u.1 f ⟨[a.1], []⟩ (fun _ t => t.setS o.id (uwFc w) (crc64 a.1.1).toNat)
/-- CMPT. -/
def primCmpt (f : LaneFault) : Prim := fun o w s =>
  let u := s.upset o f (o.slotA w)
  let a := u.2.laneIn u.1 (o.slotA w)
  let b := a.2.laneIn u.1 (uwFb w)
  b.2.onLane u.1 f ⟨[a.1, b.1], []⟩ (fun _ t => t.setS o.id (uwFc w) (bit (a.1.1 == b.1.1)))

/-! ## Primitives of built-in entries -/

/-- A region, its sheaf and a member of it. -/
def State.memberOf (s : State) (region i : Nat) : Option (Region × Sheaf × Member) :=
  match s.regions.get region with
  | none => none
  | some r => match s.sheafOf r with
    | none => none
    | some sh => (sh.mem? i).map (fun x => (r, sh, x))
/-- MTILE. The offset of a remote member's tile, and a member that the sheaf lacks, are free values (log entries 2 and 16). -/
def primMtile : Prim := fun o w s =>
  let i := bits (o.sa w) 8 8
  let t := o.sb w
  let f := s.freshNat
  match s.memberOf (bits (o.sa w) 0 8) i with
  | none => f.2.setS o.id (uwFc w) f.1
  | some (r, sh, x) =>
    if sh.virtual i t then s.setS o.id (uwFc w) 0
    else if s.isLocal x then
      (match s.localMember r.sheaf i with
       | some (_, q) => s.setS o.id (uwFc w) (s.tileAddr (q.tileBase + t))
       | none => f.2.setS o.id (uwFc w) f.1)
    else f.2.setS o.id (uwFc w) (gaddr x.node x.agent (4096 * bits f.1 0 30))
/-- APPLY: after the messages of its apply queue, the target tile ← slot C, or ← itself ⊕ slot C. A tile that cannot be read ends the
operation; where no region or tile is named nothing is written. -/
def primApply (ext : Ext) : Prim := fun o w s =>
  let j0 := bits (o.sa w) 0 8
  let t0 := o.sb w
  let bank := bits (uwImm w) 4 2
  let d := s.slotData o (o.slotC w)
  match s.regions.get j0 with
  | none => s.advance o.id
  | some r0 =>
    if s.port.applyQ.any (fun a => ((s.port.rctx.get a.ctx).bind (fun c => c.win.get a.seq)).any (fun x =>
        applyQueue (Hdr.parse x.header).stripe == applyQueue t0)) then s
    else
      let j := if bank = 3 then j0 else r0.link
      let t := if bank = 3 then t0 else bank * r0.tileCount + t0
      match s.regions.get j with
      | none => s.advance o.id
      | some r =>
        if r0.tileCount ≤ t0 ∨ r.tileCount ≤ t then s.advance o.id
        else if s.cbwHolds j t then s.cbwEngine j t
        else
          let put := fun (u : State) (v : List Byte) =>
            let u1 := if r.role.digested then u.putParity j t r v else u.putTile r t v
            let u2 := if bank = 3 || u1.banks.has (bankKey j bank) then u1
              else { u1 with banks := u1.banks.set (bankKey j bank) ⟨.active, o.step, 0⟩ }
            (u2.advance o.id).settle
          if bitAt (uwImm w) 0 then put d.2 d.1
          else match d.2.readTile ext j r t with
            | (some v, s1) => put s1 (xorBytes v d.1)
            | (none, s1) => s1.progEnd o stCheckFail
/-- QREAD: a READ of member Sb[15:8] of the sheaf of region Sb[7:0]; the engine's own member is read under the same rules. A slot for
a member that the sheaf lacks holds free values (log entry 2). -/
def primQread : Prim := fun o w s =>
  let i := bits (o.sb w) 8 8
  let t := o.sc w
  let view := bits (uwImm w) 0 8
  let cls := uwCls w
  let k := o.slotA w
  match s.memberOf (bits (o.sb w) 0 8) i with
  | none => let f := s.freeBytes 4096; (f.2.setSlot o.id k f.1).advance o.id
  | some (r, _, x) =>
    let bad := fun (u : State) (st : Nat) => (u.modOp o.id (fun o =>
      { (if o.n nkFirstBad != 0 then o else o.keep nkFirstBad st) with slots := o.slots.set k (Slot.failed st) })).advance o.id
    if s.isLocal x then
      match s.readOwnMember [] view r.sheaf i t with
      | (.data v _, s1) => (s1.setSlot o.id k v).advance o.id
      | (.refused st, s1) => bad s1 st
      | (.path, s1) => bad s1 stPathFailed
      | (.wait, s1) => s1
    else
      let dst := dstKey x.node x.agent
      match s.port.rreq.free 1024 with
      | none => s
      | some slot =>
        if !s.creditOk (s.level (gaddr x.node x.agent 0)) cls 1 then s.bump (clsCnt 4)
        else if cls = 0 && !s.bucketOk dst 4096 then s.putBucket (s.bucketNow dst)
        else
          let seq := (s.port.readSeq.get slot).getD 0
          let p := s.firstPath dst (stripeHash r.sheaf t)
          let q : ReadReq := { op := o.id, sheaf := r.sheaf, dst := i, node := x.node, agent := x.agent, cls := cls, view := view
                               stripe := t % 2 ^ 24, seq := seq, keep := false, target := k, mask := 0, data := [], step := 0, tries := 1, path := p
                               onPath := 0, timeout := s.rto dst, first := s.now, due := s.now + s.rto dst }
          let s1 := (((if cls = 0 then s.charge dst 4096 else s).countPath dst p 1 0).sendRead slot q r.jobTag r.member r.epoch)
          let s2 := { s1 with port := { s1.port with rreq := s1.port.rreq.set slot q
                                                     readSeq := s1.port.readSeq.set slot ((seq + 1) % 2 ^ 32) } }
          (s2.modOp o.id (fun o => { o with slots := o.slots.set k Slot.loading })).advance o.id
/-- QSEND: a message of slot A's bytes with the next SEQ of a send context; it takes a coding slot and completes when it retires. Its
STRIPE and STEP, which no operand gives, are free values (log entry 2); a context that does not exist gives CHECK_FAIL. -/
def primQsend : Prim := fun o w s =>
  let n := bits (o.sb w) 0 10
  let d := s.slotData o (o.slotA w)
  match s.port.sctx.get n with
  | none => (s.endXfer (s.newXfer o (.message n 0) 0 1) stCheckFail []).advance o.id
  | some c =>
    if !s.ctxTakes c || s.codeFree = 0 then s.bump (clsCnt 4) else
    let f := d.2.freshNat
    let k := s.slotFree
    let slot := s.rowSlot c.region
    let slot' := if slot.act = 0 then { slot with ref0 := slot.ref0 + 1 } else { slot with ref1 := slot.ref1 + 1 }
    let stripe := bits f.1 0 24
    let step := bits f.1 24 48
    let dl : Delta := { region := c.region, tile := stripe, delta := d.1, written := allSectors, opened := s.now, step := none, base := none
                        readback := false, closed := true, discard := false, waiting := false, bank := 3, stepNo := step
                        gen := slot.gen, tbank := slot.act, msgs := 1, order := s.tap.nextId, noted := false, settle := false
                        carried := none }
    let m : Msg := dl.msg k c.next 1#8
    let x := f.2.newXfer o (.message n c.next) (gaddr c.node c.agent 0) (uwCls w)
    let s1 := { f.2 with tables := { f.2.tables with rows := f.2.tables.rows.set c.region slot' }
                         tap := { f.2.tap with slots := f.2.tap.slots.set k dl, nextId := f.2.tap.nextId + 1 } }
    let s2 := (s1.modCtx n (fun c => { c with next := (c.next + 1) % 2 ^ 32, msgs := c.msgs ++ [m] })).bump (qtrCnt 0)
    let s3 := { s2 with port := { s2.port with xfers := s2.port.xfers ++ [x], nextXfer := s2.port.nextXfer + 1 } }
    s3.advance o.id
/-- DECODE (R68 to R70): the decode slot for a region and a mask of selected members. With no slot, or no solution, Sc is a free value
(log entry 2). -/
def primDecode : Prim := fun o w s =>
  let j := bits (o.sa w) 0 8
  let mask := o.sb w
  let f := s.freshNat
  match s.memberOf j 0 with
  | none => f.2.setS o.id (uwFc w) f.1
  | some (r, sh, _) =>
    let known := (List.range sh.k).filter (bitAt mask)
    let er := (List.range sh.k).filter (fun i => !bitAt mask i)
    let js := (List.range sh.m).filter (fun i => bitAt mask (sh.k + i))
    match (if js.length = er.length then s.recovery j js known er else none) with
    | none => f.2.setS o.id (uwFc w) f.1
    | some m =>
      let d : DecSlot := { region := j, epoch := r.epoch, mask := mask, gen := (s.rowSlot j).gen, erased := er
                           cols := js.map (fun i => i + sh.k) ++ known, matrix := m, refs := [], last := 0, stale := false }
      let s1 := s.useSlot (some o.id) d
      let is := fun (p : Nat × DecSlot) => !p.2.stale && p.2.region == j && p.2.epoch == r.epoch && p.2.mask == mask && p.2.gen == d.gen
      match s1.tables.dec.find? is with
      | some (k, _) => s1.setS o.id (uwFc w) k
      | none =>
        let g := s1.freshNat
        g.2.setS o.id (uwFc w) g.1
/-- TEDQ: slot B ← the block of a TED_PACK at its CURSOR from the differences in slot A, under its tensor scale. In an operation of
another opcode the block is a free value (log entry 2). -/
def primTedq (lf : LaneFault) : Prim := fun o w s =>
  let u := s.upset o lf (o.slotA w)
  let x := u.2.laneIn u.1 (o.slotA w)
  x.2.onLane u.1 lf ⟨[x.1], []⟩ (fun _ t =>
  let a := (x.1.1, t)
  let f := a.2.freeBytes 4096
  match (if o.opcode = 0x50 then tedFmt o.tedFormat else none), s.regions.get o.residue with
  | some k, some rr =>
    let d := (List.range 1024).map (fun i => fvOf32 (field a.1 (4 * i) 4))
    let q := k.block (leNat a.1) (fvOf32 (o.n nkScale)) d
    let asked := bitAt (o.arg 20 1) 4
    let lens := if asked then entropyList (s.entropyBytes o (bits (o.arg 20 1) 5 2)) k.width else none
    let v := blockBytes o (rr.logicalBase + o.cursor) (o.n nkScale) asked (k.payload lens q.1 q.2.1)
    (a.2.setSlot o.id (uwFb w) (fit 4096 v)).advance o.id
  | _, _ => (f.2.setSlot o.id (uwFb w) f.1).advance o.id)
/-- TEDA: the tiles of θ and the anchor for the block at the CURSOR of a TED_APPLY are written. The manual does not give the layout in
which the slots hold the accepted blocks, so the bytes are free values (log entry 2). -/
def primTeda (lf : LaneFault) : Prim := fun o w s =>
  let u := s.upset o lf (o.slotA w)
  let x := u.2.laneIns u.1 (o.slotsRead w)
  x.2.onLane u.1 lf ⟨x.1, []⟩ (fun _ s =>
  match (if o.opcode = 0x51 then s.regions.get o.theta else none), s.regions.get o.anchor with
  | some rt, some ra =>
    let f := s.freeBytes 9216
    let v := (f.1.take 4096, (if rt.format = .fp40 then (f.1.drop 4096).take 1024 else []), f.1.drop 5120)
    let s1 := (f.2.blockWritesOf rt ra o.cursor v).foldl (fun t p => t.engineWrite o.id p.1 p.2 2) f.2
    (s1.advance o.id).settle
  | _, _ => s.advance o.id)

/-! ## The primitives' commands (Table 11-4); `f` is what goes wrong in their lane work (R343) -/

def execUMovi (q : Nat) (s : State) : Out := .next (s.prim q 0x01 primMovi)
def execUAdd (q : Nat) (s : State) : Out := .next (s.prim q 0x02 primAdd)
def execUAddi (q : Nat) (s : State) : Out := .next (s.prim q 0x03 primAddi)
def execUSub (q : Nat) (s : State) : Out := .next (s.prim q 0x04 primSub)
def execUAnd (q : Nat) (s : State) : Out := .next (s.prim q 0x05 primAnd)
def execUOr (q : Nat) (s : State) : Out := .next (s.prim q 0x06 primOr)
def execUXor (q : Nat) (s : State) : Out := .next (s.prim q 0x07 primXor)
def execUShl (q : Nat) (s : State) : Out := .next (s.prim q 0x08 primShl)
def execUShr (q : Nat) (s : State) : Out := .next (s.prim q 0x09 primShr)
def execUMul (q : Nat) (s : State) : Out := .next (s.prim q 0x0A primMul)
def execUField (q : Nat) (s : State) : Out := .next (s.prim q 0x0B primField)
def execUBr (q : Nat) (s : State) : Out := .next (s.prim q 0x10 primBr)
def execUYield (q : Nat) (s : State) : Out := .next (s.prim q 0x11 primYield)
def execUEnd (q : Nat) (s : State) : Out := .next (s.prim q 0x12 primEnd)
def execULdt (q : Nat) (s : State) : Out := .next (s.prim q 0x20 primLdt)
def execUStt (q : Nat) (s : State) : Out := .next (s.prim q 0x21 primStt)
def execULd64 (q : Nat) (s : State) : Out := .next (s.prim q 0x22 primLd64)
def execUSt64 (q : Nat) (s : State) : Out := .next (s.prim q 0x23 primSt64)
def execURed (q : Nat) (s : State) : Out := .next (s.prim q 0x24 primRed)
def execUWaitt (q : Nat) (s : State) : Out := .next (s.prim q 0x25 primWaitt)
def execUWaitall (q : Nat) (s : State) : Out := .next (s.prim q 0x26 primWaitall)
def execUZero (q : Nat) (s : State) : Out := .next (s.prim q 0x27 primZero)
def execURtile (q : Nat) (s : State) : Out := .next (s.prim q 0x28 primRtile)
def execUShinfo (q : Nat) (s : State) : Out := .next (s.prim q 0x29 primShinfo)
def execUDigest (q : Nat) (s : State) : Out := .next (s.prim q 0x2A primDigest)
def execUTime (q : Nat) (s : State) : Out := .next (s.prim q 0x2B primTime)
def execUTrig (q : Nat) (s : State) : Out := .next (s.prim q 0x2C primTrig)
def execUGfmul (q : Nat) (f : LaneFault) (s : State) : Out := .next (s.prim q 0x30 (primGfmul f))
def execUXort (q : Nat) (f : LaneFault) (s : State) : Out := .next (s.prim q 0x31 (primXort f))
def execUCrc (q : Nat) (s : State) (f : LaneFault := ⟨[], []⟩) : Out := .next (s.prim q 0x32 (primCrc f))
def execUCmpt (q : Nat) (s : State) (f : LaneFault := ⟨[], []⟩) : Out := .next (s.prim q 0x33 (primCmpt f))
def execUMtile (q : Nat) (s : State) : Out := .next (s.prim q 0x40 primMtile)
def execUApply (q : Nat) (ext : Ext) (s : State) : Out := .next (s.prim q 0x41 (primApply ext))
def execUQread (q : Nat) (s : State) : Out := .next (s.prim q 0x42 primQread)
def execUQsend (q : Nat) (s : State) : Out := .next (s.prim q 0x43 primQsend)
def execUDecode (q : Nat) (s : State) : Out := .next (s.prim q 0x44 primDecode)
def execUTedq (q : Nat) (s : State) (f : LaneFault := ⟨[], []⟩) : Out := .next (s.prim q 0x48 (primTedq f))
def execUTeda (q : Nat) (s : State) (f : LaneFault := ⟨[], []⟩) : Out := .next (s.prim q 0x49 (primTeda f))

/-! ## User entries (R329, R338) -/

/-- No fault. -/
def noFault : LaneFault := ⟨[], []⟩
/-- The primitive of an OPC that a user entry may run. -/
def userPrim (c : Nat) : Option Prim :=
  match c with
  | 0x01 => some primMovi | 0x02 => some primAdd | 0x03 => some primAddi | 0x04 => some primSub | 0x05 => some primAnd
  | 0x06 => some primOr | 0x07 => some primXor | 0x08 => some primShl | 0x09 => some primShr | 0x0A => some primMul
  | 0x0B => some primField | 0x10 => some primBr | 0x11 => some primYield | 0x12 => some primEnd | 0x20 => some primLdt
  | 0x21 => some primStt | 0x22 => some primLd64 | 0x23 => some primSt64 | 0x24 => some primRed | 0x25 => some primWaitt
  | 0x26 => some primWaitall | 0x27 => some primZero | 0x28 => some primRtile | 0x29 => some primShinfo | 0x2A => some primDigest
  | 0x2B => some primTime | 0x2C => some primTrig | 0x30 => some (primGfmul noFault) | 0x31 => some (primXort noFault)
  | 0x32 => some (primCrc noFault) | 0x33 => some (primCmpt noFault) | _ => none
/-- Up to n words of a user entry while it holds its sequencer; it stops at a word that stays. -/
def State.runUser (op : Nat) : Nat → State → State
  | 0, s => s
  | n + 1, s =>
    match s.seqs.q.find? (fun p => p.2 == op) with
    | none => s
    | some (q, _) =>
      match s.primOp q with
      | none => s
      | some o =>
        match s.codeWord o with
        | none => s
        | some w =>
          match userPrim (uwOpc w) with
          | some f =>
            let s1 := s.runWord o w f
            if uwOpc w != 0x10 && (s1.op? op).map (fun (x : Op) => x.pc) == some o.pc then s1 else State.runUser op n s1
          | none => s.progFault o
/-- USER_ENTRY (R329): the microprogram of an opcode from 0x80 runs word by word. -/
def execUserEntry (op fuel : Nat) (s : State) : Out :=
  .next (match s.op? op with
    | some o => if o.user then s.runUser op fuel else s
    | none => s)

/-- USER_ENTRY_WATCHDOG (R338). -/
def execUserEntryWatchdog (op : Nat) (s : State) : Out :=
  .next (match s.op? op with
    | some o =>
      let holds := s.seqs.q.any (fun p => p.2 == op) && s.past o.hold 10000
      let ignores := (o.st == .suspending || o.st == .cancelling) && (match o.control with | some t => s.past t 10000 | none => false)
      if o.user && o.started && (holds || ignores) then
        ((s.bump (seqCnt 3)).event 82 (infoC o.opTag stCheckFail)).progEnd o stCheckFail
      else s
    | none => s)

/-! ## The transfers' commands (R336) -/

/-- An outstanding transfer completes, and what waited for it goes on. -/
def State.closeXfer (s : State) (x : Xfer) (st : Nat) (v : List Byte) : State := (((s.endXfer x st v).fireTrigs x.op).wakeWords).settle
/-- The bytes of a local transfer's read: through page guard and repair. -/
def State.readLocal (s : State) (a : Nat) (bad : Bool) : Option (List Byte) × State :=
  let tile := gOff a / 4096
  match s.regionAt tile with
  | none => (none, s)
  | some (j, r) =>
    let ext : Ext := if bad then (List.range 64).map (fun i => (s.tileAddr tile + 64 * i, .error)) else []
    s.readTile ext j r (tile - r.tileBase)
/-- Does an operation wait for its reductions by its opcode's rules (R198, R274)? -/
def Op.reduces (o : Op) : Bool := o.opcode == 0x50 || o.opcode == 0x53
/-- An operation whose reduction failed ends with a status. -/
def State.reduceFail (s : State) (op st : Nat) : State :=
  match s.op? op with
  | some o => if o.reduces then (s.fail o st).settle else s.progEnd o st
  | none => s

/-- TRANSFER_COMPLETE (R336): the answer to an outstanding transfer. A local load reads the tile now; a local store is complete once
the tap has released it, with CHECK_FAIL when that was with the error response. -/
def execTransferComplete (x : Nat) (resp : Resp) (s : State) : Out :=
  .next (match s.port.xfers.find? (fun y => y.id == x) with
    | none => s
    | some y =>
      let load := fun (off n : Nat) =>
        if s.own y.addr then
          match s.readLocal y.addr (resp == .error) with
          | (some v, s1) => s1.closeXfer y stOk (slice v off n)
          | (none, s1) => s1.closeXfer y stCheckFail []
        else match resp with
          | .data v => s.closeXfer y stOk v
          | .error => s.closeXfer y stCheckFail []
      let store :=
        if s.own y.addr then
          match s.op? y.op with
          | none => s.closeXfer y stOk []
          | some o => if s.storePends o y then s else s.closeXfer y (if s.storeFailed o y then stCheckFail else stOk) []
        else s.closeXfer y (if resp = .error then stCheckFail else stOk) []
      match y.kind with
      | .loadTile _ => load 0 4096
      | .load64 _ => load (gOff y.addr % 4096) 8
      | .storeTile _ _ => store
      | .store64 _ => store
      | .reduce _ _ =>
        if ((s.op? y.op).map (fun o => o.reduces)).getD false then
          (if resp = .error then (s.dropXfer x).reduceFail y.op stCheckFail else (s.dropXfer x).arrive y.op)
        else store
      | .ended st => s.closeXfer y st []
      | .message _ _ => s
      | .trig _ => s)

/-- FABRIC_RETRY_TIMEOUT (R144 to R147, R336): a fabric read or write is issued again with a doubled timeout, or fails at the retry
limit. A C0 write waits for its bucket. -/
def execFabricRetryTimeout (x : Nat) (s : State) : Out :=
  .next (match s.port.xfers.find? (fun y => y.id == x) with
    | none => s
    | some y =>
      let dst := dstKey (gNode y.addr) (gAgent y.addr)
      let again := fun (issue : Nat → Tx) (n : Nat) =>
        let late := decide (y.due ≤ s.now)
        if s.own y.addr then s
        else if y.first + 1000000 ≤ s.now ∨ (late = true ∧ 64 ≤ y.tries) then
          (s.countPath dst y.path 0 (bit late)).closeXfer y stPathFailed []
        else if !late then s
        else if y.cls = 0 && n != 0 && !s.bucketOk dst n then s.putBucket (s.bucketNow dst)
        else
          let s1 := s.countPath dst y.path 0 1
          let p := s1.nextPath dst (crc32c (leBytes 8 y.addr)) y.path (y.onPath + 1)
          let t := s.backoff y.timeout
          let y' : Xfer := { y with tries := y.tries + 1, path := p, onPath := if p = y.path then y.onPath + 1 else 0
                                    timeout := t, due := s.now + t }
          let s2 := (if y.cls = 0 && n != 0 then s1.charge dst n else s1).countPath dst p 1 0
          let xs := s2.port.xfers.map (fun (z : Xfer) => if z.id = x then y' else z)
          ({ s2 with port := { s2.port with xfers := xs } }).send (issue (s2.routeOf dst p))
      match y.kind with
      | .loadTile _ => again (fun r => .read y.addr 4096 y.cls r) 0
      | .load64 _ => again (fun r => .read y.addr 8 y.cls r) 0
      | .storeTile _ d => again (fun r => .write y.addr d y.cls r) 4096
      | .store64 v => again (fun r => .write y.addr (leBytes 8 v.toNat) y.cls r) 8
      | _ => s)

/-- REDUCTION_TIMEOUT (R336): 10 ms after its issue a reduction completes with PATH_FAILED and ends its operation so. -/
def execReductionTimeout (x : Nat) (s : State) : Out :=
  .next (match s.port.xfers.find? (fun y => y.id == x) with
    | none => s
    | some y =>
      match y.kind with
      | .reduce _ _ => if s.own y.addr || s.now < y.due then s else (s.dropXfer x).reduceFail y.op stPathFailed
      | _ => s)

end Sys2Proof.Machine
end

