-- ==== Sys2Proof/Machine/Dispatch.lean ====
section
/-! DEFINITION. The one dispatch from a command to its meaning: one arm per row of the opcode table. -/

namespace Sys2Proof.Machine

def exec (i : Instr) (s : State) : Host.Outcome State Fault Refusal :=
  match i with
  | .coldReset => Sys2Proof.Machine.execColdReset s
  | .warmReset => Sys2Proof.Machine.execWarmReset s
  | .resetRelease => Sys2Proof.Machine.execResetRelease s
  | .alignAck lanes rickBase rickTiles => Sys2Proof.Machine.execAlignAck lanes rickBase rickTiles s
  | .fuseDone flashError => Sys2Proof.Machine.execFuseDone flashError s
  | .bistStart req w => Sys2Proof.Machine.execBistStart req w s
  | .bistDone pass guardOk => Sys2Proof.Machine.execBistDone pass guardOk s
  | .controlBusReject req addr we => Sys2Proof.Machine.execControlBusReject req addr we s
  | .registerWrite req off w => Sys2Proof.Machine.execRegisterWrite req off w s
  | .reg64HighWrite req off w => Sys2Proof.Machine.execReg64HighWrite req off w s
  | .reg64LowRead req off => Sys2Proof.Machine.execReg64LowRead req off s
  | .chipSelWrite req q w => Sys2Proof.Machine.execChipSelWrite req q w s
  | .ringEnable req n w ext => Sys2Proof.Machine.execRingEnable req n w ext s
  | .ringDisable req n w => Sys2Proof.Machine.execRingDisable req n w s
  | .ringPollWrite req n w => Sys2Proof.Machine.execRingPollWrite req n w s
  | .rehomeCfgWrite req w => Sys2Proof.Machine.execRehomeCfgWrite req w s
  | .ledgerEnable req w => Sys2Proof.Machine.execLedgerEnable req w s
  | .auditRingConfigWrite req off w => Sys2Proof.Machine.execAuditRingConfigWrite req off w s
  | .cmpCfgWrite req n w => Sys2Proof.Machine.execCmpCfgWrite req n w s
  | .calRead req flashError => Sys2Proof.Machine.execCalRead req flashError s
  | .calWrite req w => Sys2Proof.Machine.execCalWrite req w s
  | .calWriteDone flashError => Sys2Proof.Machine.execCalWriteDone flashError s
  | .evtOwnWrite req line w => Sys2Proof.Machine.execEvtOwnWrite req line w s
  | .evtRouteWrite req src w => Sys2Proof.Machine.execEvtRouteWrite req src w s
  | .evtPendClear req fast word w => Sys2Proof.Machine.execEvtPendClear req fast word w s
  | .evtSwset req w => Sys2Proof.Machine.execEvtSwset req w s
  | .cpidleAssert t => Sys2Proof.Machine.execCpidleAssert t s
  | .moderationHoldExpiry t => Sys2Proof.Machine.execModerationHoldExpiry t s
  | .comparatorFire n => Sys2Proof.Machine.execComparatorFire n s
  | .doorbellWrite n tail head => Sys2Proof.Machine.execDoorbellWrite n tail head s
  | .doorbellPoll n => Sys2Proof.Machine.execDoorbellPoll n s
  | .doorbellPollReturn n resp => Sys2Proof.Machine.execDoorbellPollReturn n resp s
  | .descriptorFetch ext => Sys2Proof.Machine.execDescriptorFetch ext s
  | .operationStart op => Sys2Proof.Machine.execOperationStart op s
  | .sequencerDispatch => Sys2Proof.Machine.execSequencerDispatch s
  | .completionRecordWrite n error => Sys2Proof.Machine.execCompletionRecordWrite n error s
  | .regionSetup op units ext => Sys2Proof.Machine.execRegionSetup op units ext s
  | .regionRelease op units => Sys2Proof.Machine.execRegionRelease op units s
  | .sheafJoin op ext => Sys2Proof.Machine.execSheafJoin op ext s
  | .sheafLeave op => Sys2Proof.Machine.execSheafLeave op s
  | .membershipUpdate op ext => Sys2Proof.Machine.execMembershipUpdate op ext s
  | .regroup op units ext => Sys2Proof.Machine.execRegroup op units ext s
  | .regroupCommit op ext => Sys2Proof.Machine.execRegroupCommit op ext s
  | .stepOpen op => Sys2Proof.Machine.execStepOpen op s
  | .stepOpenEffect op => Sys2Proof.Machine.execStepOpenEffect op s
  | .topologyWaitTimeout op => Sys2Proof.Machine.execTopologyWaitTimeout op s
  | .stepClose op => Sys2Proof.Machine.execStepClose op s
  | .fence op => Sys2Proof.Machine.execFence op s
  | .stepConfirm op => Sys2Proof.Machine.execStepConfirm op s
  | .stepRollback op units ext => Sys2Proof.Machine.execStepRollback op units ext s
  | .retireWork units => Sys2Proof.Machine.execRetireWork units s
  | .mergeBank op units ext => Sys2Proof.Machine.execMergeBank op units ext s
  | .normReduce op => Sys2Proof.Machine.execNormReduce op s
  | .normCellPoll op ext => Sys2Proof.Machine.execNormCellPoll op ext s
  | .encodeFull op units ext => Sys2Proof.Machine.execEncodeFull op units ext s
  | .verifyStripes op units ext => Sys2Proof.Machine.execVerifyStripes op units ext s
  | .degradedRead op units ext => Sys2Proof.Machine.execDegradedRead op units ext s
  | .foster op ext => Sys2Proof.Machine.execFoster op ext s
  | .rebuild op units ext => Sys2Proof.Machine.execRebuild op units ext s
  | .tileBuildDone region tile ext => Sys2Proof.Machine.execTileBuildDone region tile ext s
  | .migrate op units ext => Sys2Proof.Machine.execMigrate op units ext s
  | .snapCut op units => Sys2Proof.Machine.execSnapCut op units s
  | .snapFreeze op => Sys2Proof.Machine.execSnapFreeze op s
  | .snapStillnessTimeout op => Sys2Proof.Machine.execSnapStillnessTimeout op s
  | .copyCompletion tag status => Sys2Proof.Machine.execCopyCompletion tag status s
  | .snapDrain op units ext => Sys2Proof.Machine.execSnapDrain op units ext s
  | .snapRestore op units ext => Sys2Proof.Machine.execSnapRestore op units ext s
  | .snapDiscard op => Sys2Proof.Machine.execSnapDiscard op s
  | .intervalRecompute => Sys2Proof.Machine.execIntervalRecompute s
  | .tedPack op units ext => Sys2Proof.Machine.execTedPack op units ext s
  | .scaleCellPoll op ext => Sys2Proof.Machine.execScaleCellPoll op ext s
  | .tedApply op units ext => Sys2Proof.Machine.execTedApply op units ext s
  | .tedAnchorLoad op units ext => Sys2Proof.Machine.execTedAnchorLoad op units ext s
  | .scrub op units ext => Sys2Proof.Machine.execScrub op units ext s
  | .guardSet op units ext => Sys2Proof.Machine.execGuardSet op units ext s
  | .tableLoad op ext => Sys2Proof.Machine.execTableLoad op ext s
  | .tableInstall op => Sys2Proof.Machine.execTableInstall op s
  | .ucodeStage op units ext => Sys2Proof.Machine.execUcodeStage op units ext s
  | .ucodeActivate op => Sys2Proof.Machine.execUcodeActivate op s
  | .authVerdict digest pass => Sys2Proof.Machine.execAuthVerdict digest pass s
  | .cancel op => Sys2Proof.Machine.execCancel op s
  | .suspend op => Sys2Proof.Machine.execSuspend op s
  | .resume op => Sys2Proof.Machine.execResume op s
  | .userEntry op fuel => Sys2Proof.Machine.execUserEntry op fuel s
  | .userEntryWatchdog op => Sys2Proof.Machine.execUserEntryWatchdog op s
  | .uMovi q => Sys2Proof.Machine.execUMovi q s
  | .uAdd q => Sys2Proof.Machine.execUAdd q s
  | .uAddi q => Sys2Proof.Machine.execUAddi q s
  | .uSub q => Sys2Proof.Machine.execUSub q s
  | .uAnd q => Sys2Proof.Machine.execUAnd q s
  | .uOr q => Sys2Proof.Machine.execUOr q s
  | .uXor q => Sys2Proof.Machine.execUXor q s
  | .uShl q => Sys2Proof.Machine.execUShl q s
  | .uShr q => Sys2Proof.Machine.execUShr q s
  | .uMul q => Sys2Proof.Machine.execUMul q s
  | .uField q => Sys2Proof.Machine.execUField q s
  | .uBr q => Sys2Proof.Machine.execUBr q s
  | .uYield q => Sys2Proof.Machine.execUYield q s
  | .uEnd q => Sys2Proof.Machine.execUEnd q s
  | .uLdt q => Sys2Proof.Machine.execULdt q s
  | .uStt q => Sys2Proof.Machine.execUStt q s
  | .uLd64 q => Sys2Proof.Machine.execULd64 q s
  | .uSt64 q => Sys2Proof.Machine.execUSt64 q s
  | .uRed q => Sys2Proof.Machine.execURed q s
  | .uWaitt q => Sys2Proof.Machine.execUWaitt q s
  | .uWaitall q => Sys2Proof.Machine.execUWaitall q s
  | .uZero q => Sys2Proof.Machine.execUZero q s
  | .uRtile q => Sys2Proof.Machine.execURtile q s
  | .uShinfo q => Sys2Proof.Machine.execUShinfo q s
  | .uDigest q => Sys2Proof.Machine.execUDigest q s
  | .uTime q => Sys2Proof.Machine.execUTime q s
  | .uTrig q => Sys2Proof.Machine.execUTrig q s
  | .uGfmul q f => Sys2Proof.Machine.execUGfmul q f s
  | .uXort q f => Sys2Proof.Machine.execUXort q f s
  | .uCrc q f => Sys2Proof.Machine.execUCrc q s f
  | .uCmpt q f => Sys2Proof.Machine.execUCmpt q s f
  | .uMtile q => Sys2Proof.Machine.execUMtile q s
  | .uApply q ext => Sys2Proof.Machine.execUApply q ext s
  | .uQread q => Sys2Proof.Machine.execUQread q s
  | .uQsend q => Sys2Proof.Machine.execUQsend q s
  | .uDecode q => Sys2Proof.Machine.execUDecode q s
  | .uTedq q f => Sys2Proof.Machine.execUTedq q s f
  | .uTeda q f => Sys2Proof.Machine.execUTeda q s f
  | .transferComplete x resp => Sys2Proof.Machine.execTransferComplete x resp s
  | .fabricRetryTimeout x => Sys2Proof.Machine.execFabricRetryTimeout x s
  | .reductionTimeout x => Sys2Proof.Machine.execReductionTimeout x s
  | .writeArrival agent addr data ext => Sys2Proof.Machine.execWriteArrival agent addr data ext s
  | .pairingReadResponse rid mask error => Sys2Proof.Machine.execPairingReadResponse rid mask error s
  | .readRequestSnoop agent tile rid => Sys2Proof.Machine.execReadRequestSnoop agent tile rid s
  | .ownReadReturn w ext => Sys2Proof.Machine.execOwnReadReturn w ext s
  | .completionReadReturn slot ext => Sys2Proof.Machine.execCompletionReadReturn slot ext s
  | .logReadbackReturn slot ext => Sys2Proof.Machine.execLogReadbackReturn slot ext s
  | .pairExpiry tile => Sys2Proof.Machine.execPairExpiry tile s
  | .tileDeltaAsmTimeout slot => Sys2Proof.Machine.execTileDeltaAsmTimeout slot s
  | .parkedDeltaReread ext => Sys2Proof.Machine.execParkedDeltaReread ext s
  | .messageSend ctx => Sys2Proof.Machine.execMessageSend ctx s
  | .accumRetryTimeout ctx seq => Sys2Proof.Machine.execAccumRetryTimeout ctx seq s
  | .accumPacketReceive src bytes => Sys2Proof.Machine.execAccumPacketReceive src bytes s
  | .spillOverflowTimer => Sys2Proof.Machine.execSpillOverflowTimer s
  | .assemblyTimeout ctx seq => Sys2Proof.Machine.execAssemblyTimeout ctx seq s
  | .parkExpiry ctx seq => Sys2Proof.Machine.execParkExpiry ctx seq s
  | .accumApply q ext f => Sys2Proof.Machine.execAccumApply q ext f s
  | .ackFlush dst => Sys2Proof.Machine.execAckFlush dst s
  | .ackPacketReceive src bytes => Sys2Proof.Machine.execAckPacketReceive src bytes s
  | .readPacketReceive src bytes ext => Sys2Proof.Machine.execReadPacketReceive src bytes ext s
  | .readDataReceive src bytes => Sys2Proof.Machine.execReadDataReceive src bytes s
  | .readRetryTimeout slot => Sys2Proof.Machine.execReadRetryTimeout slot s
  | .quietExpiry region => Sys2Proof.Machine.execQuietExpiry region s
  | .migrationMapDisarm region => Sys2Proof.Machine.execMigrationMapDisarm region s
  | .larkIntervalTick => Sys2Proof.Machine.execLarkIntervalTick s
  | .larkReceive src bytes => Sys2Proof.Machine.execLarkReceive src bytes s
  | .reportReceive src bytes => Sys2Proof.Machine.execReportReceive src bytes s
  | .reportRepeatTimer => Sys2Proof.Machine.execReportRepeatTimer s
  | .reportRecordRewrite key => Sys2Proof.Machine.execReportRecordRewrite key s
  | .rehomeWindowEnd => Sys2Proof.Machine.execRehomeWindowEnd s
  | .pathUnflag dst path => Sys2Proof.Machine.execPathUnflag dst path s
  | .guardWindowEnd region => Sys2Proof.Machine.execGuardWindowEnd region s
  | .controllerErrorResponse agent tile mask ext => Sys2Proof.Machine.execControllerErrorResponse agent tile mask ext s
  | .chunkStoreReceive src addr bytes => Sys2Proof.Machine.execChunkStoreReceive src addr bytes s
  | .forecastWrite w => Sys2Proof.Machine.execForecastWrite w s
  | .governorEvaluation => Sys2Proof.Machine.execGovernorEvaluation s
  | .fallowWarmEntry => Sys2Proof.Machine.execFallowWarmEntry s
  | .fallowColdEntry => Sys2Proof.Machine.execFallowColdEntry s
  | .mclkUnitGate => Sys2Proof.Machine.execMclkUnitGate s
  | .wakeTrigger => Sys2Proof.Machine.execWakeTrigger s
  | .wakeWave => Sys2Proof.Machine.execWakeWave s
  | .vlaneAck => Sys2Proof.Machine.execVlaneAck s
  | .lclkLock => Sys2Proof.Machine.execLclkLock s
  | .thermLevelChange level => Sys2Proof.Machine.execThermLevelChange level s
  | .throtReqChange b => Sys2Proof.Machine.execThrotReqChange b s
  | .auditRingWrite error => Sys2Proof.Machine.execAuditRingWrite error s
  | .auditCountWrite v => Sys2Proof.Machine.execAuditCountWrite v s
  | .auditCountPoll resp => Sys2Proof.Machine.execAuditCountPoll resp s
  | .hebribryReadReceive src off ext => Sys2Proof.Machine.execHebribryReadReceive src off ext s
  | .reservedTypePacket src bytes => Sys2Proof.Machine.execReservedTypePacket src bytes s

end Sys2Proof.Machine
end

