-- ==== Sys2Proof/WellFormed.lean ====
section
/-! DEFINITION. Well-formed commands: the ranges that the rules give the operands of the events. A meaning is
total, and answers on an ill-formed command too (a name that names nothing changes nothing). -/

namespace Sys2Proof

/-- Bytes that fill `n` tiles' worth or fewer, and start inside the 72 GiB of a stack (R44). -/
def Instr.stackOffsetOk (a : Nat) : Bool := decide (a < 18874368 * 4096)

/-- A lane fault names lanes below 32 (R343), the bytes of four outputs at most (R41), and those of one tile as held. -/
def LaneFault.ok (f : LaneFault) : Bool :=
  f.outs.all (fun p => decide (p.1 < 32) && decide (p.2.length ≤ 16384)) && decide (f.held.length ≤ 4096)

/-- The ranges of a command's operands: 16 control-bus requesters (R453), 64 rings (R73), 4 sequencers (R334), 128 event
sources (R446), 16 comparators (R400), 8 targets (R28), 256 regions (R46), 64 apply queues (R154) and copy commands (R249), 16-bit window
offsets on 32-bit words (R25). -/
def Instr.WellFormed : Instr → Bool
  | .controlBusReject req _ _ => decide (req < 16)
  | .registerWrite req off _ => decide (req < 16) && decide (off < 65536) && off % 4 == 0
  | .reg64HighWrite req off _ => decide (req < 16) && decide (off < 65536) && off % 8 == 4
  | .reg64LowRead req off => decide (req < 16) && decide (off < 65536) && off % 8 == 0
  | .chipSelWrite req q _ => decide (req < 16) && decide (q < 16)
  | .ringEnable req n _ _ => decide (req < 16) && decide (n < 64)
  | .ringDisable req n _ => decide (req < 16) && decide (n < 64)
  | .ringPollWrite req n _ => decide (req < 16) && decide (n < 64)
  | .doorbellWrite n _ _ => decide (n < 64)
  | .doorbellPoll n => decide (n < 64)
  | .doorbellPollReturn n _ => decide (n < 64)
  | .completionRecordWrite n _ => decide (n < 64)
  | .cmpCfgWrite req n _ => decide (req < 16) && decide (10 ≤ n) && decide (n < 16)
  | .comparatorFire n => decide (10 ≤ n) && decide (n < 16)
  | .evtOwnWrite req i _ => decide (req < 16) && decide (i < 16)
  | .evtRouteWrite req src _ => decide (req < 16) && decide (src < 128)
  | .evtPendClear req _ word _ => decide (req < 16) && decide (word < 4)
  | .cpidleAssert t => decide (t < 8)
  | .moderationHoldExpiry t => decide (t < 8)
  | .authVerdict digest _ => digest.length == 32
  | .thermLevelChange level => decide (level < 4)
  | .copyCompletion tag status => decide (tag < 64) && decide (status < 16)
  | .sequencerDispatch => true
  | .writeArrival _ addr data _ => Instr.stackOffsetOk addr && decide (data.length ≤ 4096)
  | .chunkStoreReceive _ _ bytes => bytes.length == 512
  | .quietExpiry region => decide (region < 256)
  | .migrationMapDisarm region => decide (region < 256)
  | .guardWindowEnd region => decide (region < 256)
  | .tileBuildDone region _ _ => decide (region < 256)
  | .accumApply q _ f => decide (q < 64) && f.ok
  | .uMovi q => decide (q < 4)
  | .uAdd q => decide (q < 4)
  | .uAddi q => decide (q < 4)
  | .uSub q => decide (q < 4)
  | .uAnd q => decide (q < 4)
  | .uOr q => decide (q < 4)
  | .uXor q => decide (q < 4)
  | .uShl q => decide (q < 4)
  | .uShr q => decide (q < 4)
  | .uMul q => decide (q < 4)
  | .uField q => decide (q < 4)
  | .uBr q => decide (q < 4)
  | .uYield q => decide (q < 4)
  | .uEnd q => decide (q < 4)
  | .uLdt q => decide (q < 4)
  | .uStt q => decide (q < 4)
  | .uLd64 q => decide (q < 4)
  | .uSt64 q => decide (q < 4)
  | .uRed q => decide (q < 4)
  | .uWaitt q => decide (q < 4)
  | .uWaitall q => decide (q < 4)
  | .uZero q => decide (q < 4)
  | .uRtile q => decide (q < 4)
  | .uShinfo q => decide (q < 4)
  | .uDigest q => decide (q < 4)
  | .uTime q => decide (q < 4)
  | .uTrig q => decide (q < 4)
  | .uGfmul q f => decide (q < 4) && f.ok
  | .uXort q f => decide (q < 4) && f.ok
  | .uCrc q f => decide (q < 4) && f.ok
  | .uCmpt q f => decide (q < 4) && f.ok
  | .uMtile q => decide (q < 4)
  | .uApply q _ => decide (q < 4)
  | .uQread q => decide (q < 4)
  | .uQsend q => decide (q < 4)
  | .uDecode q => decide (q < 4)
  | .uTedq q f => decide (q < 4) && f.ok
  | .uTeda q f => decide (q < 4) && f.ok
  | .coldReset => true
  | .warmReset => true
  | .resetRelease => true
  | .alignAck _ _ _ => true
  | .fuseDone _ => true
  | .bistStart req _ => decide (req < 16)
  | .bistDone _ _ => true
  | .rehomeCfgWrite req _ => decide (req < 16)
  | .ledgerEnable req _ => decide (req < 16)
  | .auditRingConfigWrite req off _ => decide (req < 16) && decide (off < 65536)
  | .calRead req _ => decide (req < 16)
  | .calWrite req _ => decide (req < 16)
  | .calWriteDone _ => true
  | .evtSwset req _ => decide (req < 16)
  | .descriptorFetch _ => true
  | .operationStart _ => true
  | .regionSetup _ _ _ => true
  | .regionRelease _ _ => true
  | .sheafJoin _ _ => true
  | .sheafLeave _ => true
  | .membershipUpdate _ _ => true
  | .regroup _ _ _ => true
  | .regroupCommit _ _ => true
  | .stepOpen _ => true
  | .stepOpenEffect _ => true
  | .topologyWaitTimeout _ => true
  | .stepClose _ => true
  | .fence _ => true
  | .stepConfirm _ => true
  | .stepRollback _ _ _ => true
  | .retireWork _ => true
  | .mergeBank _ _ _ => true
  | .normReduce _ => true
  | .normCellPoll _ _ => true
  | .encodeFull _ _ _ => true
  | .verifyStripes _ _ _ => true
  | .degradedRead _ _ _ => true
  | .foster _ _ => true
  | .rebuild _ _ _ => true
  | .migrate _ _ _ => true
  | .snapCut _ _ => true
  | .snapFreeze _ => true
  | .snapStillnessTimeout _ => true
  | .snapDrain _ _ _ => true
  | .snapRestore _ _ _ => true
  | .snapDiscard _ => true
  | .intervalRecompute => true
  | .tedPack _ _ _ => true
  | .scaleCellPoll _ _ => true
  | .tedApply _ _ _ => true
  | .tedAnchorLoad _ _ _ => true
  | .scrub _ _ _ => true
  | .guardSet _ _ _ => true
  | .tableLoad _ _ => true
  | .tableInstall _ => true
  | .ucodeStage _ _ _ => true
  | .ucodeActivate _ => true
  | .cancel _ => true
  | .suspend _ => true
  | .resume _ => true
  | .userEntry _ _ => true
  | .userEntryWatchdog _ => true
  | .transferComplete _ _ => true
  | .fabricRetryTimeout _ => true
  | .reductionTimeout _ => true
  | .pairingReadResponse _ _ _ => true
  | .readRequestSnoop _ _ _ => true
  | .ownReadReturn _ _ => true
  | .completionReadReturn _ _ => true
  | .logReadbackReturn _ _ => true
  | .pairExpiry _ => true
  | .tileDeltaAsmTimeout _ => true
  | .parkedDeltaReread _ => true
  | .messageSend _ => true
  | .accumRetryTimeout _ _ => true
  | .accumPacketReceive _ _ => true
  | .spillOverflowTimer => true
  | .assemblyTimeout _ _ => true
  | .parkExpiry _ _ => true
  | .ackFlush _ => true
  | .ackPacketReceive _ _ => true
  | .readPacketReceive _ _ _ => true
  | .readDataReceive _ _ => true
  | .readRetryTimeout _ => true
  | .larkIntervalTick => true
  | .larkReceive _ _ => true
  | .reportReceive _ _ => true
  | .reportRepeatTimer => true
  | .reportRecordRewrite _ => true
  | .rehomeWindowEnd => true
  | .pathUnflag _ _ => true
  | .controllerErrorResponse _ _ _ _ => true
  | .forecastWrite _ => true
  | .governorEvaluation => true
  | .fallowWarmEntry => true
  | .fallowColdEntry => true
  | .mclkUnitGate => true
  | .wakeTrigger => true
  | .wakeWave => true
  | .vlaneAck => true
  | .lclkLock => true
  | .throtReqChange _ => true
  | .auditRingWrite _ => true
  | .auditCountWrite _ => true
  | .auditCountPoll _ => true
  | .hebribryReadReceive _ _ _ => true
  | .reservedTypePacket _ _ => true

end Sys2Proof
end

