-- ==== Sys2Proof/Safety.lean ====
section
/-! DEFINITION. The terms in which the statements speak: what a run relies on, and what one step may leave alone. -/

namespace Sys2Proof.Machine

/-- Is a pending bit of the source set in either bank (R446)? -/
def State.raised (s : State) (src : Nat) : Bool := s.evt.pendN.getLsbD src || s.evt.pendF.getLsbD src

/-- Does the machine have a completion record of operation `id` waiting, final and with a status (R89)? -/
def State.finished (s : State) (id status : Nat) : Bool :=
  s.recs.any (fun r => r.op == id && r.final && r.status == status) && (s.op? id).isNone

/-- Operation `id` is final, with its record and these fields in it (Table 3-10). -/
def State.completed (s : State) (id status result aux : Nat) : Prop :=
  s.op? id = none ∧ ∃ r ∈ s.recs, r.op = id ∧ r.final = true ∧ r.status = status ∧ r.result = result ∧ r.aux = aux

/-- Nothing moves by itself: no write is held or at the tap's input, no tile delta stands, no READ is held, and no operation closes, fences or
drains. -/
def State.calm (s : State) : Prop :=
  s.tap.queue = [] ∧ s.tap.held = [] ∧ s.tap.slots = [] ∧ s.port.heldReads = [] ∧
  ∀ o ∈ s.ops, o.stage ≠ .draining ∧ ∀ n, o.stage ≠ .closing n ∧ o.stage ≠ .fencing n

/-- There is room in the audit buffer for the record of every configuration change that is under way, so that forming a record
moves none to the ring in memory (R455). -/
def State.auditRoom (s : State) : Prop := s.auditUsed + (s.ops.filter (fun o => o.configChange)).length < 256

/-- What a write of `v` at stack byte `off` leaves at once: performed where it meets no region, else at the tap's input (R14). -/
def State.putDone (s t : State) (agent : Nat) (op : Option Nat) (off : Nat) (v : List Byte) : Prop :=
  (s.meetsRegion off v.length = false → memRead t.mem (s.stackAddr off) v.length = v ∧
    ∀ a, a < s.stackAddr off ∨ s.stackAddr off + v.length ≤ a → byteAt t.mem a = byteAt s.mem a) ∧
  (s.meetsRegion off v.length = true → t.mem = s.mem ∧ t.tap.queue = s.tap.queue ++ [⟨agent, op, off, v.map some⟩])

/-- The bytes that reports go to in memory have no ring: no report record is written (R385). -/
def State.noReportRing (s : State) : Prop := s.rf 0x0184 0 4 = 0

/-- What membership says of a sheaf: its epoch, and each member's triple and state (R371, R372). -/
def State.places (s : State) (id : Nat) : Option (Nat × List ((Nat × Nat × Nat) × MemState)) :=
  (s.sheaves.get id).map (fun sh => (sh.epoch, sh.members.map (fun x => (x.triple, x.st))))

/-- May a control descriptor act on its target as to their job tags (R99)? -/
def State.mayControl (s : State) (c t : Op) : Prop :=
  cfgSys (s.ringCfg c.ring) = true ∨ cfgTag (s.ringCfg t.ring) = cfgTag (s.ringCfg c.ring)

/-- The guard line of region tile t does not lie in the tile itself (R306, R307). -/
def Region.lineApart (r : Region) (t : Nat) : Prop :=
  ∀ off, r.lineOff t = some off → ∀ v, off + (Sys2Proof.Machine.guardLine (r.strengthAt t) v).length ≤ (r.tileBase + t) * 4096 ∨
    (r.tileBase + t) * 4096 + 4096 ≤ off

/-- The guard lines of the region tiles of a list lie in none of those tiles (R306, R307). -/
def Region.linesApart (r : Region) (l : List Nat) : Prop :=
  ∀ x ∈ l, ∀ y ∈ l, ∀ off, r.lineOff x = some off → ∀ v, off + (Sys2Proof.Machine.guardLine (r.strengthAt x) v).length ≤ (r.tileBase + y) * 4096 ∨
    (r.tileBase + y) * 4096 + 4096 ≤ off

/-- How a unit of an operation whose writes go through the tap goes on, once they are issued in `u` (R14, R92): while one of them waits the unit
waits, and when all are performed without an error CURSOR takes `c`. -/
def State.unitEnds (u t : State) (op c : Nat) : Prop :=
  (u.settle.engineHeld op = true → t = u.settle) ∧
  (u.settle.engineHeld op = false → (u.settle.op? op).map (fun x => x.n Sys2Proof.Machine.nkErrors) = some 0 →
    t = ((u.settle.modOp op (fun x => { x with cursor := c })).yieldPoint op).settle)

/-- A write of an operation's own at a global address on class 3: in the own stack as R14 says, else issued at the fabric port. -/
def State.wroteAt (s t : State) (op a : Nat) (v : List Byte) : Prop :=
  (s.inStack a v.length = true → s.putDone t engineAgent (some op) (gOff a) v) ∧
  (s.inStack a v.length = false → Tx.write a v 3 (s.routeTo a) ∈ t.port.tx ∧ t.mem = s.mem)

/-- The memory of the stack in canonical form, what every step keeps. -/
def State.memOk (s : State) : Prop := memWf s.mem = true

/-- Every command that waits is well-formed. -/
def State.queueOk (s : State) : Prop := ∀ c ∈ s.pending, c.WellFormed = true

/-- Sequencer q executes word w of operation o, a primitive with OPC `opc`: the word passes R332, need not wait (R335), reads no
slot in ERROR, and is not the last of the control store. -/
def State.runs (s : State) (q : Nat) (o : Op) (w opc : Nat) : Prop :=
  s.primOp q = some o ∧ s.codeWord o = some w ∧ uwOpc w = opc ∧ o.wordOk w = true ∧ s.wordWaits o w = false ∧ o.badSlot w = none ∧ o.pc < 8191

/-- What a primitive that only sets Sc leaves: Sc holds `v`, the program counter stands at the next word, and every other
S-register, every other operation and everything outside the operations is as before (R332). -/
def State.wroteS (s t : State) (o : Op) (c : Nat) (v : Word64) : Prop :=
  t = { s with ops := t.ops } ∧ (∀ id, id ≠ o.id → t.op? id = s.op? id) ∧
  ∃ x, t.op? o.id = some x ∧ x.pc = o.pc + 1 ∧ x.sreg c = v ∧ x.slots = o.slots ∧ ∀ i, i ≠ c → x.sreg i = o.sreg i

end Sys2Proof.Machine
end

