-- ==== Sys2Proof/Certificates/Slice0/Obligations.lean ====
section
/-! DEFINITION. The statements for the provers. -/

section
open Sys2Proof Sys2Proof.Machine

/-! ## Resets and bring-up (chapter 15) -/

/-- R31: a cold reset clears the engine's state, a warm reset all but WY_TIME, the continuity of the audit log and the receipt count;
the memory of the stack and the straps are no engine state. -/
def Obligations.ResetClearsEngineState : Prop :=
  (∀ s : State, ∃ t, exec .coldReset s = .next t ∧ t.boot = Boot.reset false ∧ t.time = 0#64 ∧ t.audit = Audit.reset ∧
    t.receipt = 0 ∧ t.ucode = Ucode.reset ∧ t.regs = [] ∧ t.regions = [] ∧ t.sheaves = [] ∧ t.ops = [] ∧ t.recs = [] ∧
    t.rings = [] ∧ t.tap = Tap.reset ∧ t.sets = [] ∧ t.banks = [] ∧ t.snap = Snap.reset ∧ t.power = Power.reset ∧
    t.staged = [] ∧ t.latch = [] ∧ t.tables = State.reset.tables ∧ t.seqs = State.reset.seqs ∧ t.retire = [] ∧
    t.sward = State.reset.sward ∧ t.evt = { Evt.reset with cpidle := s.evt.cpidle } ∧ t.port = { Port.reset with tx := s.port.tx } ∧
    t.mem = s.mem ∧ t.strap = s.strap) ∧
  (∀ s : State, ∃ t, exec .warmReset s = .next t ∧ t.boot = Boot.reset true ∧ t.time = s.time ∧ t.audit.buf = s.audit.buf ∧
    t.audit.seq = s.audit.seq ∧ t.audit.lost = s.audit.lost ∧ t.audit.w = 0#32 ∧ t.audit.consumed = 0#32 ∧ t.receipt = s.receipt ∧
    t.ucode = Ucode.reset ∧ t.regs = [] ∧ t.regions = [] ∧ t.sheaves = [] ∧ t.ops = [] ∧ t.recs = [] ∧
    t.rings = [] ∧ t.tap = Tap.reset ∧ t.sets = [] ∧ t.banks = [] ∧ t.mem = s.mem ∧ t.strap = s.strap ∧
    t.staged = [] ∧ t.latch = [] ∧ t.tables = State.reset.tables ∧ t.seqs = State.reset.seqs ∧ t.retire = [] ∧
    t.sward = { State.reset.sward with tick := s.now } ∧ t.evt = { Evt.reset with cpidle := s.evt.cpidle } ∧
    t.port = { Port.reset with tx := s.port.tx, winStart := s.now, c0Last := s.now } ∧ t.snap = { Snap.reset with cleared := s.now } ∧
    t.power = { Power.reset with lastWork := s.now, lastArrival := s.now, lastEval := s.now, coldSince := s.now }) ∧
  (∀ s t : State, s.cal.busy = false → exec .coldReset s = .next t ∨ exec .warmReset s = .next t → t.cal = Cal.reset s.cal.flash)

/-- R428 (Table 15-1): RESET to ALIGN to FUSE to TEST or FAILED, TEST to LOAD, READY or FAILED; R33, R322, R323, R422. -/
def Obligations.BringUpPhasesFollowTheTable : Prop :=
  (∀ s : State, s.boot.phase = .reset →
    exec .resetRelease s = .next { s with boot := { s.boot with phase := .align, alignReq := true } }) ∧
  (∀ (s : State) (lanes : BitVec 32) (base tiles : Nat), s.boot.phase = .align → base < 2 ^ 25 → tiles < 2 ^ 25 →
    exec (.alignAck lanes base tiles) s = .next { s with boot := { s.boot with
      phase := .fuse, alignReq := false, mclk := 0#64, defect := lanes, rickBase := base, rickTiles := tiles } }) ∧
  (∀ (s : State) (e : Bool), s.boot.phase = .fuse → ∃ t, exec (.fuseDone e) s = .next t ∧
    (28 ≤ popcount s.boot.defect → t.boot.phase = .test ∧ t.boot.lanes = s.boot.defect) ∧
    (popcount s.boot.defect < 28 → t.boot.phase = .failed ∧ t.boot.failCause = 1 ∧ t.boot.lanes = s.boot.lanes ∧ t.raised 81) ∧
    ((e = false ∧ calValid s.strap.engine s.cal.flash = true) → t.cal.set = calParse s.cal.flash ∧ t.cal.safe = false) ∧
    (¬(e = false ∧ calValid s.strap.engine s.cal.flash = true) → t.cal.set = CalSet.safe ∧ t.cal.safe = true ∧ t.raised 90)) ∧
  (∀ (s : State) (req : Nat) (w : Word), exec (.bistStart req w) s = .next
    (if w.getLsbD 0 = true ∧ s.regions = [] ∧ s.boot.bistBusy = false then { s with boot := { s.boot with bistBusy := true } } else s)) ∧
  (∀ (s : State) (pass : BitVec 32) (g : Bool), s.boot.bistBusy = true → s.boot.phase = .test →
    ∃ t, exec (.bistDone pass g) s = .next t ∧ t.boot.bistBusy = false ∧ t.boot.guardPass = g ∧
      t.boot.bistLanes = s.boot.lanes &&& pass ∧
      (28 ≤ popcount (s.boot.lanes &&& pass) → t.boot.lanes = s.boot.lanes &&& pass) ∧
      (popcount (s.boot.lanes &&& pass) < 28 → t.boot.lanes = 0#32) ∧
      ((g = true ∧ 28 ≤ popcount (s.boot.lanes &&& pass)) → t.boot.phase = .load ∨ t.boot.phase = .ready) ∧
      (¬(g = true ∧ 28 ≤ popcount (s.boot.lanes &&& pass)) → t.boot.phase = .failed ∧ t.raised 81))

/-- R423, R424: a READ gives the sector bytes and READ_DONE; a WRITE starts only under its conditions, and ends with BUSY clear,
LAST, one audit record and STAGED; neither changes the set in use. -/
def Obligations.CalibrationReadAndWrite : Prop :=
  (∀ (s : State) (req : Nat), s.cal.busy = false → ∃ t, exec (.calRead req false) s = .next t ∧ t.cal.readDone = true ∧
    t.cal.last = (if calValid s.strap.engine s.cal.flash then 0 else 1) ∧ t.cal.set = s.cal.set ∧ t.cal.flash = s.cal.flash ∧
    (∀ i, i < 32 → t.reg (0x0280 + 4 * i) = BitVec.ofNat 32 (field s.cal.flash (4 * i) 4)) ∧
    t.mem = s.mem ∧ t.regions = s.regions ∧ t.audit = s.audit) ∧
  (∀ (s : State) (req : Nat), s.cal.busy = false → ∃ t, exec (.calRead req true) s = .next t ∧ t.cal = { s.cal with last := 3 }) ∧
  (∀ (s : State) (req : Nat) (e : Bool), s.cal.busy = true → exec (.calRead req e) s = .next s) ∧
  (∀ (s : State) (req : Nat) (w : Word), s.cal.busy = false → bits w.toNat 0 2 = 2 → bits w.toNat 8 16 = 0xCA1B →
    s.cal.readDone = true → calValid s.strap.engine s.calData = true → s.auditFull = false →
    exec (.calWrite req w) s = .next { s with cal := { s.cal with busy := true, readDone := false, origin := req, image := s.calData } }) ∧
  (∀ (s : State) (req : Nat) (w : Word), s.cal.busy = false → bits w.toNat 0 2 = 2 →
    (calValid s.strap.engine s.calData = false ∨ s.auditFull = true ∨ bits w.toNat 8 16 ≠ 0xCA1B ∨ s.cal.readDone = false) →
    ∃ t, exec (.calWrite req w) s = .next t ∧
      t.cal = { s.cal with last := if calValid s.strap.engine s.calData then 2 else 1 }) ∧
  (∀ s : State, s.cal.busy = true → ∃ t, exec (.calWriteDone false) s = .next t ∧ t.cal = { s.cal with
    busy := false, last := 0, staged := true, flash := s.cal.image } ∧ t.audit.seq = s.audit.seq + 1#32) ∧
  (∀ s : State, s.cal.busy = true → ∃ t, exec (.calWriteDone true) s = .next t ∧ t.cal.busy = false ∧ t.cal.last = 3 ∧
    t.cal.staged = s.cal.staged ∧ t.cal.set = s.cal.set ∧ t.audit.seq = s.audit.seq + 1#32)

/-! ## The control bus (chapters 16 and 17) -/

/-- A register write by a requester that applies: the masked value stands, one audit record is formed (R453), and no other
register, no region and no operation changes; while the audit buffer has room, no byte of memory either. A write that its rule
refuses, or that meets a full log (R457), changes no register.
R463: a high word is staged per requester and changes no register; the requester's next low-word write commits both words,
with a record each; a read of the low word of a read-only register latches its high word for the requester. -/
def Obligations.RegisterWritesApplyOrRefuse : Prop :=
  ((∀ (s : State) (req off mask : Nat) (w : Word), ownRow off w.toNat = false → rw64Low off = false → unaudited off = false →
    s.regRule off w.toNat = some (mask, true) → s.auditFull = false →
    ∃ t, exec (.registerWrite req off w) s = .next t ∧ t.reg off = BitVec.ofNat 32 (w.toNat &&& mask) ∧
      (∀ o, o ≠ off → t.reg o = s.reg o) ∧ t.audit.seq = s.audit.seq + 1#32 ∧ t.regions = s.regions ∧ t.ops = s.ops ∧
      (s.auditRoom → t.mem = s.mem)) ∧
  (∀ (s : State) (req off mask : Nat) (w : Word), ownRow off w.toNat = false → rw64Low off = false → unaudited off = true →
    s.regRule off w.toNat = some (mask, true) →
    ∃ t, exec (.registerWrite req off w) s = .next t ∧ t.reg off = BitVec.ofNat 32 (w.toNat &&& mask) ∧
      (∀ o, o ≠ off → t.reg o = s.reg o) ∧ t.audit = s.audit ∧ t.mem = s.mem) ∧
  (∀ (s : State) (req off mask : Nat) (w : Word), ownRow off w.toNat = false → rw64Low off = false → unaudited off = false →
    s.regRule off w.toNat = some (mask, false) →
    ∃ t, exec (.registerWrite req off w) s = .next t ∧ t.regs = s.regs ∧ t.audit.seq = s.audit.seq + 1#32) ∧
  (∀ (s : State) (req off mask : Nat) (w : Word) (ok : Bool), rw64Low off = false → ownRow off w.toNat = false →
    unaudited off = false → s.regRule off w.toNat = some (mask, ok) → s.auditFull = true →
    ∃ t, exec (.registerWrite req off w) s = .next t ∧ t.regs = s.regs ∧ t.audit.lost = s.audit.lost + 1#32)) ∧
  ((∀ (s : State) (req off : Nat) (w : Word), 4 ≤ off → rw64Low (off - 4) = true →
    ∃ t, exec (.reg64HighWrite req off w) s = .next t ∧ hwFind t.staged req off = some w ∧ t.regs = s.regs ∧
      (∀ q o, ¬(q = req ∧ o = off) → hwFind t.staged q o = hwFind s.staged q o) ∧
      t.audit.seq = s.audit.seq + (if (hwFind s.staged req off).isSome then 1#32 else 0#32)) ∧
  (∀ (s : State) (req off mask : Nat) (w hi : Word), ownRow off w.toNat = false → rw64Low off = true →
    hwFind s.staged req (off + 4) = some hi → s.regRule off (w.toNat + 2 ^ 32 * hi.toNat) = some (mask, true) → s.auditFull = false →
    ∃ t, exec (.registerWrite req off w) s = .next t ∧ t.reg off = w ∧ t.reg (off + 4) = hi ∧
      hwFind t.staged req (off + 4) = none ∧ (∀ o, o ≠ off → o ≠ off + 4 → t.reg o = s.reg o) ∧
      t.audit.seq = s.audit.seq + 2#32) ∧
  (∀ (s : State) (req off : Nat), ro64Low off = true →
    ∃ t, exec (.reg64LowRead req off) s = .next t ∧ t = { s with latch := t.latch } ∧
      t.busRead req (off + 4) = s.readReg (off + 4) % 2 ^ 32))

/-- The rest of the control bus: R25's rejected access, R461's select words, R166's clearing of the path flags, and the ledger's enable (R392, R395). -/
def Obligations.ControlBusOtherWrites : Prop :=
  (∀ (s : State) (req : Nat) (addr : BitVec 16) (we : Bool), s.auditRoom →
    ∃ t r, exec (.controlBusReject req addr we) s = .next t ∧ t.audit.buf = s.audit.buf ++ [r] ∧ r.kind = 0x03 ∧
      r.object = addr.toNat ∧ r.detail = bit we ∧ r.origin = reqOrigin req ∧ r.index = reqIndex req ∧ r.seq = s.audit.seq.toNat ∧
      t.port.tx = s.port.tx ++ [.cbErr req] ∧ t.regs = s.regs ∧ t.mem = s.mem) ∧
  (∀ (s : State) (q : Nat) (w : Word), ∃ t, exec (.chipSelWrite q q w) s = .next t ∧ t = { s with chipSel := t.chipSel } ∧
    (t.chipSel.get q).getD 0 = bits w.toNat 0 4 ∧ ∀ p, p ≠ q → t.chipSel.get p = s.chipSel.get p) ∧
  (∀ (s : State) (req q : Nat) (w : Word), req ≠ q → exec (.chipSelWrite req q w) s = .next s) ∧
  (∀ (s : State) (req : Nat) (w : Word), w.getLsbD 0 = false → s.auditFull = false →
    (∃ mask, s.regRule 0x0130 w.toNat = some (mask, true)) →
    ∃ t, exec (.rehomeCfgWrite req w) s = .next t ∧ t.reg 0x0130 = BitVec.ofNat 32 (w.toNat &&& 0xFFFFFFF) ∧
      (∀ p ∈ t.port.paths, p.2.flag = none) ∧ (∀ o, o ≠ 0x0130 → t.reg o = s.reg o)) ∧
  (∀ (s : State) (req : Nat) (w : Word), w.getLsbD 31 = true → s.auditFull = false →
    (∃ mask, s.regRule 0x0128 w.toNat = some (mask, true)) →
    ∃ t, exec (.ledgerEnable req w) s = .next t ∧ t.reg 0x0128 = BitVec.ofNat 32 (w.toNat &&& 0x81FFFFFF) ∧
      s.receipt ≤ t.receipt ∧ (∀ e x, e < 512 → t.ledgerEntry e = some x → x.receipt ≤ t.receipt))

/-- R447, R448, R450, R451: the ownership, route, pending and software-set registers of the event block.
R452: a normal line with an unmasked pending bit routed to its target rises when the control processor is idle, when HOLD_US
has passed since its first such bit, with HOLD_US 0, or with BATCH bits. -/
def Obligations.EventRegistersAndLines : Prop :=
  ((∀ (s : State) (req i : Nat) (w : Word), i < 16 → s.auditFull = false →
    ((s.reg (0x0400 + 4 * i)).getLsbD 16 = false ∨ w &&& 0x1FFFF#32 = s.reg (0x0400 + 4 * i)) →
    ∃ t, exec (.evtOwnWrite req i w) s = .next t ∧ t.reg (0x0400 + 4 * i) = w &&& 0x1FFFF#32 ∧
      (∀ o, o ≠ 0x0400 + 4 * i → t.reg o = s.reg o) ∧ t.audit.seq = s.audit.seq + 1#32) ∧
  (∀ (s : State) (req i : Nat) (w : Word), i < 16 → (s.reg (0x0400 + 4 * i)).getLsbD 16 = true →
    w &&& 0x1FFFF#32 ≠ s.reg (0x0400 + 4 * i) →
    ∃ t, exec (.evtOwnWrite req i w) s = .next t ∧ t.regs = s.regs ∧ t.audit.seq = s.audit.seq + 1#32) ∧
  (∀ (s : State) (req src : Nat) (w : Word), src < 128 → s.auditFull = false →
    (w.getLsbD 4 = false ∨ s.lineOwnedBy (bits w.toNat 0 3) (bits w.toNat 3 1) (s.sourceTag src) = true) →
    ∃ t, exec (.evtRouteWrite req src w) s = .next t ∧ t.reg (0x0600 + 4 * src) = w &&& 0x1F#32 ∧
      (∀ o, o ≠ 0x0600 + 4 * src → t.reg o = s.reg o)) ∧
  (∀ (s : State) (req src : Nat) (w : Word), src < 128 → w.getLsbD 4 = true →
    s.lineOwnedBy (bits w.toNat 0 3) (bits w.toNat 3 1) (s.sourceTag src) = false →
    ∃ t, exec (.evtRouteWrite req src w) s = .next t ∧ t.regs = s.regs) ∧
  (∀ (s : State) (req word : Nat) (w : Word) (fast : Bool), word < 4 →
    ∃ t, exec (.evtPendClear req fast word w) s = .next t ∧ t.regs = s.regs ∧ t.mem = s.mem ∧
      (∀ i, i < 128 → t.evt.pendN.getLsbD i = (s.evt.pendN.getLsbD i && (fast || !(i / 32 == word && w.getLsbD (i % 32))))) ∧
      (∀ i, i < 128 → t.evt.pendF.getLsbD i = (s.evt.pendF.getLsbD i && (!fast || !(i / 32 == word && w.getLsbD (i % 32)))))) ∧
  (∀ (s : State) (req : Nat) (w : Word), ∃ t, exec (.evtSwset req w) s = .next t ∧ t.evt.info = s.evt.info ∧ t.regs = s.regs ∧
    (if w.getLsbD 7 then t.evt.pendF.getLsbD (bits w.toNat 0 7) else t.evt.pendN.getLsbD (bits w.toNat 0 7)) = true ∧
    (∀ i, i < 128 → i ≠ bits w.toNat 0 7 → t.evt.pendN.getLsbD i = s.evt.pendN.getLsbD i ∧ t.evt.pendF.getLsbD i = s.evt.pendF.getLsbD i))) ∧
  ((∀ (s : State) (t : Nat), t < 8 → (∃ p ∈ s.driving false, p.2 = t) →
    ∃ u, exec (.cpidleAssert t) s = .next u ∧ u.evt.lineN.getLsbD t = true ∧ u.regs = s.regs ∧ u.evt.pendN = s.evt.pendN) ∧
  (∀ (s : State) (t since : Nat), t < 8 → (∃ p ∈ s.driving false, p.2 = t) → s.evt.since.get t = some since →
    s.past since (us (bits (s.regN (0x0440 + 4 * t)) 0 10)) = true →
    ∃ u, exec (.moderationHoldExpiry t) s = .next u ∧ u.evt.lineN.getLsbD t = true ∧ u.regs = s.regs ∧ u.evt.pendN = s.evt.pendN))

/-- R400: a claim gives the comparator to its region; a comparator that is due raises its event, counts, and clears EN or moves VAL
by whole periods into the future. -/
def Obligations.ComparatorClaimAndFire : Prop :=
  (∀ (s : State) (req n : Nat) (w : Word), 10 ≤ n → n < 16 → s.auditFull = false → w.getLsbD 0 = true →
    s.regions.has (bits w.toNat 1 8) = true → (∀ r, s.evt.cmpOwn.get n = some r → r = bits w.toNat 1 8) →
    ∃ t, exec (.cmpCfgWrite req n w) s = .next t ∧ t.reg (0x0220 + 4 * (n - 10)) = w &&& 0xFFFFF1FF#32 ∧
      t.evt.cmpOwn.get n = some (bits w.toNat 1 8) ∧ t.audit.seq = s.audit.seq + 1#32) ∧
  (∀ (s : State) (req n : Nat) (w : Word), 10 ≤ n → n < 16 → s.regions.has (bits w.toNat 1 8) = false →
    ∃ t, exec (.cmpCfgWrite req n w) s = .next t ∧ t.regs = s.regs ∧ t.evt.cmpOwn = s.evt.cmpOwn) ∧
  (∀ (s : State) (n : Nat), 10 ≤ n → n < 16 → bitAt (s.regN (0x0220 + 4 * (n - 10))) 0 = true →
    s.reg64 (0x0240 + 8 * (n - 10)) ≤ s.now → s.now + 2 ^ 27 < 2 ^ 64 →
    ∃ t, exec (.comparatorFire n) s = .next t ∧ t.raised (96 + n) ∧ t.reg (pwrCnt 7) = s.reg (pwrCnt 7) + 1#32 ∧
      (bits (s.regN (0x0220 + 4 * (n - 10))) 12 20 = 0 → bitAt (t.regN (0x0220 + 4 * (n - 10))) 0 = false) ∧
      (0 < bits (s.regN (0x0220 + 4 * (n - 10))) 12 20 → s.now < t.reg64 (0x0240 + 8 * (n - 10)) ∧
        (t.reg64 (0x0240 + 8 * (n - 10)) - s.reg64 (0x0240 + 8 * (n - 10))) %
          (100 * bits (s.regN (0x0220 + 4 * (n - 10))) 12 20) = 0))

/-- R455: the oldest record goes to slot w mod 2^LOG2 of the ring with its PHASE, the consumed count frees slots, and an applied write of the
ring's registers restarts both counts. -/
def Obligations.AuditRingMovesOldestFirst : Prop :=
  (∀ (s : State) (r : AuditRec) (rest : List AuditRec), s.audit.buf = r :: rest → s.auditRingFull = false → s.audit.retry = false →
    s.inStack (s.reg64 0x0480 + 32 * (s.audit.w.toNat % 2 ^ s.auditLog2)) 32 = true →
    ∃ t, exec (.auditRingWrite false) s = .next t ∧ t.audit.buf = rest ∧ t.audit.w = s.audit.w + 1#32 ∧
      s.putDone t engineAgent none (gOff (s.reg64 0x0480 + 32 * (s.audit.w.toNat % 2 ^ s.auditLog2)))
        (r.bytes (1 - s.audit.w.toNat / 2 ^ s.auditLog2 % 2))) ∧
  (∀ s : State, s.auditRingFull = false → s.audit.buf ≠ [] → s.audit.retry = false →
    exec (.auditRingWrite true) s = .next { s with audit := { s.audit with retry := true, polled := s.now } }) ∧
  (∀ (s : State) (v : Word), s.auditLog2 ≠ 0 → s.inStack s.consumedAddr 4 = true →
    ∃ t, exec (.auditCountWrite v) s = .next t ∧ t.audit.consumed = v ∧ t.audit.buf = s.audit.buf ∧
      s.putDone t engineAgent none (gOff s.consumedAddr) (leBytes 4 v.toNat)) ∧
  (∀ (s : State) (bytes : List Byte), s.auditLog2 ≠ 0 → s.inStack s.consumedAddr 4 = false →
    s.past s.audit.polled (us (s.rf 0x0470 4 7)) = true → s.auditRingFull = true → s.audit.buf ≠ [] →
    ∃ t, exec (.auditCountPoll (.data bytes)) s = .next t ∧ t.audit.consumed = BitVec.ofNat 32 (field bytes 0 4) ∧
      t.audit.polled = s.now ∧ t.mem = s.mem) ∧
  (∀ (s : State) (req : Nat) (w : Word), s.auditRoom → (∃ mask, s.regRule 0x0470 w.toNat = some (mask, true)) →
    ∃ t, exec (.auditRingConfigWrite req 0x0470 w) s = .next t ∧ t.audit.w = 0#32 ∧ t.audit.consumed = 0#32 ∧
      t.reg 0x0470 = BitVec.ofNat 32 (w.toNat &&& 0x7FF))

/-! ## Rings, descriptors and completion records (chapter 3) -/

/-- R75, R76, R77, R74: enabling a ring takes the counts of its doorbell pair, a configuration that R75 refuses leaves EN clear with
STOP_CAUSE 5, disabling clears the ring, and a poll interval of 1 to 100 is taken.
R80, R81, R82: a doorbell that the engine sees gives the ring both counts; counts out of range stop the ring with cause 1, the
ring-error event, and its operations that have not started discarded; a pair elsewhere is read at its poll. -/
def Obligations.RingWritesAndDoorbells : Prop :=
  ((∀ (s : State) (req n : Nat) (w : Word) (ext : Ext) (v : List Byte), n < 64 → w.getLsbD 0 = true → s.auditFull = false →
    s.ringEn n = false → s.ringOk n (w &&& 0xFFFF3FFF#32).toNat = true →
    (∀ s1 : State, s1 = (s.setReg (ringReg n 0x18) (w &&& 0xFFFF3FFF#32)).auditWrite req (ringReg n 0x18) (s.regN (ringReg n 0x18))
      (w &&& 0xFFFF3FFF#32).toNat → (s1.readAt ext (s.reg64 (ringReg n 16)) 8 1).1 = .data v ∧
      (s1.readAt ext (s.reg64 (ringReg n 16)) 8 1).2 = { s1 with port := (s1.readAt ext (s.reg64 (ringReg n 16)) 8 1).2.port }) →
    ∃ t r, exec (.ringEnable req n w ext) s = .next t ∧ t.ringEn n = true ∧ t.rings.get n = some r ∧
      r.tail = BitVec.ofNat 32 (field v 0 4) ∧ r.head = r.tail ∧ r.cqTail = BitVec.ofNat 32 (field v 4 4) ∧ r.cqHead = r.cqTail ∧
      r.stopped = false ∧ r.cause = 0 ∧ r.watched = s.inStack (s.reg64 (ringReg n 16)) 8 ∧
      (∀ m, m ≠ n → t.rings.get m = s.rings.get m) ∧ t.audit.seq = s.audit.seq + 1#32) ∧
  (∀ (s : State) (req n : Nat) (w : Word) (ext : Ext), n < 64 → w.getLsbD 0 = true → s.auditFull = false →
    s.ringEn n = false → s.ringOk n (w &&& 0xFFFF3FFF#32).toNat = false →
    ∃ t r, exec (.ringEnable req n w ext) s = .next t ∧ t.regs = s.regs ∧ t.rings.get n = some r ∧ r.cause = 5) ∧
  (∀ (s : State) (req n : Nat) (w : Word), n < 64 → w.getLsbD 0 = false → s.ringEn n = true → s.auditFull = false → s.live n = 0 →
    (w &&& 0xFFFF3FFF#32) ||| 1#32 = s.reg (ringReg n 0x18) →
    ∃ t, exec (.ringDisable req n w) s = .next t ∧ t.ringEn n = false ∧ t.rings.get n = none ∧ t.recs = s.recs ∧
      bits (t.readReg (ringReg n 0x20)) 0 6 = 0 ∧ (∀ m, m ≠ n → t.rings.get m = s.rings.get m)) ∧
  (∀ (s : State) (req n : Nat) (w : Word), n < 64 → w.getLsbD 0 = false → s.ringEn n = true → s.live n ≠ 0 →
    ∃ t, exec (.ringDisable req n w) s = .next t ∧ t.regs = s.regs ∧ t.rings = s.rings ∧
      (s.auditFull = false → s.auditRoom → ∃ r, t.audit.buf = s.audit.buf ++ [r] ∧ r.status = stConflict ∧ r.object = ringReg n 0x18)) ∧
  (∀ (s : State) (req n : Nat) (w : Word), n < 64 → s.auditFull = false → 1 ≤ bits w.toNat 0 7 → bits w.toNat 0 7 ≤ 100 →
    ∃ t, exec (.ringPollWrite req n w) s = .next t ∧ t.reg (ringReg n 0x1C) = w &&& 0x7F#32 ∧
      (∀ o, o ≠ ringReg n 0x1C → t.reg o = s.reg o)) ∧
  (∀ (s : State) (req n : Nat) (w : Word), n < 64 → bits w.toNat 0 7 = 0 ∨ 100 < bits w.toNat 0 7 →
    ∃ t, exec (.ringPollWrite req n w) s = .next t ∧ t.regs = s.regs)) ∧
  ((∀ (s : State) (n : Nat) (tail head : Word) (r : Ring), s.ringEn n = true → s.rings.get n = some r → r.watched = true →
    s.inStack (s.reg64 (ringReg n 16)) 8 = true → s.countsOk n { r with tail := tail, cqHead := head } = true →
    ∃ u : State, exec (.doorbellWrite n tail head) s = .next u.settle ∧ u.rings.get n = some { r with tail := tail, cqHead := head } ∧
      s.putDone u 0 none (gOff (s.reg64 (ringReg n 16))) (leBytes 4 tail.toNat ++ leBytes 4 head.toNat) ∧
      u.regs = s.regs ∧ u.ops = s.ops ∧ u.recs = s.recs) ∧
  (∀ (s : State) (n : Nat) (tail head : Word) (r : Ring), n < 64 → s.ringEn n = true → s.rings.get n = some r → r.watched = true →
    r.stopped = false → s.countsOk n { r with tail := tail, cqHead := head } = false →
    ∃ t r', exec (.doorbellWrite n tail head) s = .next (State.settle t) ∧ t.rings.get n = some r' ∧ r'.stopped = true ∧ r'.cause = 1 ∧
      t.raised 85 ∧ (∀ o ∈ t.ops, o.ring = n → o.started = true) ∧ t.audit.seq = s.audit.seq + 1#32) ∧
  (∀ (s : State) (n : Nat) (r : Ring), s.rings.get n = some r → s.ringEn n = true → r.watched = false → r.polling = false →
    r.due ≤ s.now →
    ∃ t r', exec (.doorbellPoll n) s = .next t ∧ t.rings.get n = some r' ∧ r'.polling = true ∧ r'.due = s.now + s.pollTicks n ∧
      t.port.tx = s.port.tx ++ [.read (s.reg64 (ringReg n 16)) 8 1 (s.routeTo (s.reg64 (ringReg n 16)))] ∧ t.mem = s.mem) ∧
  (∀ (s : State) (n : Nat) (v : List Byte) (r : Ring), s.rings.get n = some r → s.ringEn n = true → r.polling = true →
    s.countsOk n { r with tail := BitVec.ofNat 32 (field v 0 4), cqHead := BitVec.ofNat 32 (field v 4 4), polling := false } = true →
    ∃ t, exec (.doorbellPollReturn n (.data v)) s = .next t ∧
      t.rings.get n = some { r with tail := BitVec.ofNat 32 (field v 0 4), cqHead := BitVec.ofNat 32 (field v 4 4), polling := false } ∧
      t.mem = s.mem) ∧
  (∀ (s : State) (n : Nat) (r : Ring), s.rings.get n = some r → s.ringEn n = true → r.polling = true → r.stopped = false → n < 64 →
    ∃ t r', exec (.doorbellPollReturn n .error) s = .next t ∧ t.rings.get n = some r' ∧ r'.stopped = true ∧ r'.cause = 4 ∧ t.raised 85))

/-- R85 to R87: the descriptor at the head of the next ring is read once and the head moves past it; an accepted one is an operation
that carries it, a refused one leaves only its record, and a read that fails stops the ring.
R100, R333, R334: a QUEUED operation that may start runs with its entry registers and stands in the ready queue, from whose head the
lowest-numbered idle sequencer takes it. -/
def Obligations.DescriptorsBecomeRunningOperations : Prop :=
  ((∀ (s s1 : State) (ext : Ext) (n : Nat) (r : Ring) (d : List Byte), s.nextRing = some n → s.rings.get n = some r →
    State.readAt { s with fetchLast := n } ext (s.reg64 (ringReg n 0) + 64 * (r.head.toNat % 2 ^ cfgSq (s.ringCfg n))) 64 1 =
      (.data d, s1) → s.fetchStatus n d = 0 →
    ∃ t o, exec (.descriptorFetch ext) s = .next t ∧ o ∈ t.ops ∧ o.id = s.nextOp ∧ o.desc = d ∧ o.ring = n ∧
      (o.isControl = false → o.st = .queued ∧ o.started = false) ∧ t.nextOp = s.nextOp + 1 ∧ t.recs = s1.recs ∧
      t.rings.get n = some { r with head := r.head + 1#32 } ∧ t.mem = s1.mem ∧ t.regions = s1.regions) ∧
  (∀ (s s1 : State) (ext : Ext) (n : Nat) (r : Ring) (d : List Byte), s.nextRing = some n → s.rings.get n = some r →
    State.readAt { s with fetchLast := n } ext (s.reg64 (ringReg n 0) + 64 * (r.head.toNat % 2 ^ cfgSq (s.ringCfg n))) 64 1 =
      (.data d, s1) → s.fetchStatus n d ≠ 0 →
    ∃ t x, exec (.descriptorFetch ext) s = .next t ∧ t.recs = s1.recs ++ [x] ∧ x.status = s.fetchStatus n d ∧ x.final = true ∧
      x.ring = n ∧ x.opTag = field d 4 4 ∧ x.result = 0 ∧ t.ops = s1.ops ∧ t.rings.get n = some { r with head := r.head + 1#32 } ∧
      t.mem = s1.mem ∧ t.regions = s1.regions) ∧
  (∀ (s s1 : State) (ext : Ext) (n : Nat) (r : Ring) (x : Rd), s.nextRing = some n → n < 64 → s.rings.get n = some r →
    State.readAt { s with fetchLast := n } ext (s.reg64 (ringReg n 0) + 64 * (r.head.toNat % 2 ^ cfgSq (s.ringCfg n))) 64 1 = (x, s1) →
    s1.rings.get n = some r → r.stopped = false → x = .error ∨ x = .path →
    ∃ t r', exec (.descriptorFetch ext) s = .next t ∧ t.rings.get n = some r' ∧ r'.stopped = true ∧ r'.cause = 2 ∧ t.raised 85)) ∧
  ((∀ (s : State) (op : Nat) (o : Op), s.op? op = some o → s.canStart o = true → o.isControl = false →
    ∃ t o', exec (.operationStart op) s = .next t ∧ t.op? op = some o' ∧ o'.started = true ∧ o'.st = .running ∧
      o'.pc = entryStart (s.opEntry o) ∧ o'.desc = o.desc ∧
      (∀ i, i < 6 → o'.sreg i = BitVec.ofNat 64 (field o.desc (16 + 8 * i) 8)) ∧ o'.sreg 6 = BitVec.ofNat 64 (field o.desc 8 8) ∧
      o'.sreg 7 = BitVec.ofNat 64 (o.opTag + 2 ^ 32 * o.jobTag + 2 ^ 48 * o.ring) ∧ (∀ i, 8 ≤ i → o'.sreg i = 0#64) ∧
      (t.seqs.ready.contains op = true ∨ t.seqs.q.any (fun p => p.2 == op) = true) ∧
      t.mem = s.mem ∧ t.regs = s.regs ∧ t.recs = s.recs ∧ t.regions = s.regions) ∧
  (∀ (s : State) (id q : Nat) (rest : List Nat), s.seqReady = true → s.seqs.ready = id :: rest → s.seqs.q.free 4 = some q →
    ∃ t, exec .sequencerDispatch s = .next t ∧ t.seqs.q.get q = some id ∧ t.seqs.ready = rest ∧ t.power.lastWork = s.now ∧
      (∀ p, p ≠ q → t.seqs.q.get p = s.seqs.q.get p) ∧ t.mem = s.mem ∧ t.regs = s.regs ∧ t.recs = s.recs))

/-- R89 to R92, Table 3-10: the next record of a ring is written whole to slot CQ_TAIL mod 2^LOG2 with its PHASE, the tail moves by one and
the ring's event occurs; an error response stops the ring with cause 3. -/
def Obligations.CompletionRecordsFillTheirSlots : Prop :=
  (∀ (s : State) (n : Nat) (x : Rec) (r : Ring), n < 64 → s.nextRec n = some x → s.rings.get n = some r → s.ringEn n = true →
    s.cqUsable n = true → s.inStack (s.reg64 (ringReg n 8) + 32 * (r.cqTail.toNat % 2 ^ cfgCq (s.ringCfg n))) 32 = true →
    ∃ t, exec (.completionRecordWrite n false) s = .next (State.settle t) ∧ t.recs = s.recs.erase x ∧
      t.rings.get n = some { r with cqTail := r.cqTail + 1#32 } ∧ t.raised n ∧
      s.putDone t engineAgent none (gOff (s.reg64 (ringReg n 8) + 32 * (r.cqTail.toNat % 2 ^ cfgCq (s.ringCfg n))))
        (x.bytes (phaseOf r.cqTail.toNat (cfgCq (s.ringCfg n)))) ∧
      t.ops = s.ops ∧ t.regs = s.regs ∧ t.regions = s.regions) ∧
  (∀ (s : State) (n : Nat) (x : Rec) (r : Ring), n < 64 → s.nextRec n = some x → s.rings.get n = some r → s.ringEn n = true →
    s.cqUsable n = true → r.stopped = false →
    ∃ t r', exec (.completionRecordWrite n true) s = .next t ∧ t.recs = s.recs.erase x ∧ t.rings.get n = some r' ∧
      r'.stopped = true ∧ r'.cause = 3 ∧ r'.cqTail = r.cqTail ∧ t.raised 85 ∧
      t.reg (ringLost n) = s.reg (ringLost n) + (if x.final then 1#32 else 0#32))

/-- R99 to R103, Tables 3-12 to 3-15: what CANCEL, SUSPEND and RESUME do to a target on which they are permitted, and what they answer when
the target is not there or Table 3-9 permits no such control. -/
def Obligations.ControlsActOnTheirTarget : Prop :=
  (∀ (s : State) (op : Nat) (c t : Op), s.op? op = some c → c.opcode = 0x7D → c.started = true → c.stage = .fresh →
    s.controlTarget c = some t → s.mayControl c t → t.id ≠ op → s.cancelAllowed t = true → t.st ≠ .cancelling →
    (t.st = .queued ∨ t.st = .suspended ∨ s.cancelNow t = true) →
    ∃ u : State, exec (.cancel op) s = .next u.settle ∧ u.finished t.id stCancelled ∧
      ∃ r ∈ u.recs, r.op = op ∧ r.final = true ∧ r.status = stOk ∧ r.result = 1) ∧
  (∀ (s : State) (op : Nat) (c t : Op), s.op? op = some c → c.opcode = 0x7D → c.started = true → c.stage = .fresh →
    s.controlTarget c = some t → s.mayControl c t → t.id ≠ op → s.cancelAllowed t = true → (t.st = .running ∨ t.st = .suspending) →
    s.cancelNow t = false →
    ∃ (u : State) (t' : Op), exec (.cancel op) s = .next u.settle ∧ u.op? t.id = some t' ∧ t'.st = .cancelling ∧ u.recs = s.recs) ∧
  (∀ (s : State) (op : Nat) (c t : Op), s.op? op = some c → c.opcode = 0x7E → c.started = true → c.stage = .fresh →
    s.controlTarget c = some t → s.mayControl c t → t.id ≠ op → t.long = true → t.st = .running → t.stage ≠ .polling →
    ∃ (u : State) (t' : Op), exec (.suspend op) s = .next u.settle ∧ u.op? t.id = some t' ∧ t'.st = .suspending ∧ u.recs = s.recs) ∧
  (∀ (s : State) (op : Nat) (c t : Op), s.op? op = some c → c.opcode = 0x7E → c.started = true → c.stage = .fresh →
    s.controlTarget c = some t → s.mayControl c t → t.id ≠ op → t.long = true → t.st = .queued →
    (∀ x ∈ s.ops, x.note.get nkTarget ≠ some op) →
    ∃ (u : State) (t' : Op), exec (.suspend op) s = .next u.settle ∧ u.op? t.id = some t' ∧ t'.st = .suspended ∧ u.finished op stOk) ∧
  (∀ (s : State) (op : Nat) (c t : Op), s.op? op = some c → c.opcode = 0x7F → c.started = true → c.stage = .fresh →
    s.controlTarget c = some t → s.mayControl c t → t.id ≠ op → t.long = true → t.st = .suspended →
    (∀ x ∈ s.ops, x.note.get nkTarget ≠ some op) → s.op? t.id = some t →
    ∃ (u : State) (t' : Op), exec (.resume op) s = .next u.settle ∧ u.op? t.id = some t' ∧
      t'.st = (if t.started then .running else .queued) ∧ u.finished op stOk) ∧
  (∀ (s : State) (op : Nat) (c : Op) (code : Instr), s.op? op = some c → c.started = true → c.stage = .fresh →
    (code = .cancel op ∧ c.opcode = 0x7D ∨ code = .suspend op ∧ c.opcode = 0x7E ∨ code = .resume op ∧ c.opcode = 0x7F) →
    s.controlTarget c = none →
    ∃ u : State, exec code s = .next u ∧ u.finished op stOk ∧ ∃ r ∈ u.recs, r.op = op ∧ r.final = true ∧ r.result = 0) ∧
  (∀ (s : State) (op : Nat) (c t : Op) (code : Instr), s.op? op = some c → c.started = true → c.stage = .fresh →
    (code = .cancel op ∧ c.opcode = 0x7D ∨ code = .suspend op ∧ c.opcode = 0x7E ∨ code = .resume op ∧ c.opcode = 0x7F) →
    s.controlTarget c = some t → ¬s.mayControl c t →
    ∃ u : State, exec code s = .next u ∧ u.finished op stNackTag ∧ (∀ id, id ≠ op → c.id = op → u.op? id = s.op? id ∨ u.op? id = none))

/-! ## Regions and sheaves (chapters 2 and 13) -/

/-- R45, R46: a setup that passes stands as a region in SETUP with its image's fields; after its last tile it is LIVE, and the record has
the region's index in AUX and its digest in RESULT; one that its checks refuse leaves no region. -/
def Obligations.RegionSetupRegisters : Prop :=
  (∀ (si s : State) (op units : Nat) (ext : Ext) (o : Op) (v : List Byte) (r : Region), si.work op 0x01 = some o → o.stage = .fresh →
    si.readAt ext (o.arg 16 8) 64 1 = (.data v, s) → parseImage v = some r → s.setupStatus o (some r) = 0 →
    ∃ t i q, exec (.regionSetup op units ext) si = .next t ∧ s.regions.get i = none ∧ i < 256 ∧ t.regions.get i = some q ∧
      q.tileBase = r.tileBase ∧ q.tileCount = r.tileCount ∧ q.role = r.role ∧ q.jobTag = r.jobTag ∧ q.set = r.set ∧
      q.state = .setup ∧ q.sheaf = 0 ∧ q.member = 0xFF ∧ (∀ j, j ≠ i → t.regions.get j = s.regions.get j) ∧ t.regs = s.regs ∧
      t.recs = s.recs ∧ (∀ k, r.tileBase ≤ k → k < r.tileBase + r.tileCount → t.tap.pairs.get k = none)) ∧
  (∀ (si s : State) (op units : Nat) (ext : Ext) (o : Op) (v : List Byte), si.work op 0x01 = some o → o.stage = .fresh →
    si.readAt ext (o.arg 16 8) 64 1 = (.data v, s) → s.setupStatus o (parseImage v) ≠ 0 →
    ∃ t, exec (.regionSetup op units ext) si = .next t ∧ t.regions = s.regions ∧ t.completed op (s.setupStatus o (parseImage v)) 0 0) ∧
  (∀ (s : State) (op units : Nat) (ext : Ext) (o : Op) (r : Region), s.work op 0x01 = some o → o.stage = .walking →
    s.regions.get (o.n nkRegion) = some r → r.tileCount ≤ o.cursor →
    ∃ u q, exec (.regionSetup op units ext) s = .next (State.settle u) ∧ u.regions.get (o.n nkRegion) = some q ∧ q.state = .live ∧
      q.digest = r.digest ∧ q.tileBase = r.tileBase ∧ q.tileCount = r.tileCount ∧
      u.completed op stOk r.digest.toNat (o.n nkRegion))

/-- R394, R395: a release that passes leaves the region RELEASING, out of its sheaf and with no held write; its tiles become zeros; after the last
the slot is free, the receipt count has moved by one, and the receipt is the record's RESULT. -/
def Obligations.RegionReleaseZeroisesAndFrees : Prop :=
  (∀ (s : State) (op units : Nat) (o : Op) (r : Region), s.work op 0x02 = some o → o.stage = .fresh → bitAt (o.arg 17 1) 0 = false →
    s.releaseStatus o = 0 → s.regions.get (o.arg 16 1) = some r →
    ∃ u q, exec (.regionRelease op units) s = .next (State.settle u) ∧ u.regions.get (o.arg 16 1) = some q ∧ q.state = .releasing ∧
      q.sheaf = 0 ∧ q.tileBase = r.tileBase ∧ q.tileCount = r.tileCount ∧ (∀ h ∈ u.tap.held, h.region ≠ o.arg 16 1) ∧
      (∀ c ∈ u.port.sctx, c.2.region ≠ o.arg 16 1) ∧ (∀ c ∈ u.port.rctx, c.2.region ≠ o.arg 16 1)) ∧
  (∀ (s : State) (op units : Nat) (o : Op), s.work op 0x02 = some o → o.stage = .fresh → s.releaseStatus o ≠ 0 →
    ∃ t, exec (.regionRelease op units) s = .next t ∧ t.regions = s.regions ∧ t.completed op (s.releaseStatus o) 0 0) ∧
  (∀ (s : State) (op : Nat) (o : Op) (r : Region), s.work op 0x02 = some o → o.stage = .walking → bitAt (o.arg 17 1) 0 = false →
    s.regions.get (o.arg 16 1) = some r → o.cursor + 1 < r.tileCount →
    ∃ u, exec (.regionRelease op 1) s = .next (State.yieldPoint u op) ∧ u.mem = (s.putTile r o.cursor (zeros 4096)).mem ∧
      (u.op? op).map (fun x => x.cursor) = some (o.cursor + 1) ∧ u.regions = s.regions) ∧
  (∀ (s : State) (op units : Nat) (o : Op) (r : Region), s.work op 0x02 = some o → o.stage = .walking → bitAt (o.arg 17 1) 0 = false →
    s.regions.get (o.arg 16 1) = some r → r.tileCount ≤ o.cursor → (∀ k x, Retire.zeroBank k x ∉ s.retire) →
    ∃ u, exec (.regionRelease op units) s = .next (State.settle u) ∧ u.regions.get (o.arg 16 1) = none ∧ u.receipt = s.receipt + 1 ∧
      u.completed op stOk ((s.receipt + 1) % 2 ^ 64) 0)

/-- R59 to R61, R474: a join puts the region at its member index under the table's sheaf and epoch; a leave takes it out, with its contexts.
R387 to R389: an update that passes puts every local region that stays in the sheaf under the new epoch, and counts the changed members in
RESULT; one that its checks refuse changes no region and no sheaf.
R379, R380, R384, R385: the interval tick, a lark, a report, the repeats and the rewrite of a report record run to their end and change no epoch, no
member's place or state, and no region. -/
def Obligations.SheafMembershipChanges : Prop :=
  ((∀ (si s : State) (op : Nat) (ext : Ext) (o : Op) (v : List Byte) (t : SheafTab), si.work op 0x03 = some o →
    si.readTable ext (o.arg 24 8) = (.data v, s) → parseSheaf v s.now = some t → s.joinStatus o (some t) = 0 →
    ∃ u i q, exec (.sheafJoin op ext) si = .next (State.settle u) ∧ s.placeIn t.sh (o.arg 16 1) = some i ∧
      u.regions.get (o.arg 16 1) = some q ∧ q.sheaf = t.id ∧ q.member = i ∧ q.epoch = ((s.sheaves.get t.id).getD t.sh).epoch ∧
      (u.sheaves.get t.id).isSome = true ∧ u.completed op stOk 0 i) ∧
  (∀ (si s : State) (op : Nat) (ext : Ext) (o : Op) (v : List Byte), si.work op 0x03 = some o →
    si.readTable ext (o.arg 24 8) = (.data v, s) → s.joinStatus o (parseSheaf v s.now) ≠ 0 →
    ∃ u, exec (.sheafJoin op ext) si = .next u ∧ u.regions = s.regions ∧ u.sheaves = s.sheaves ∧
      u.completed op (s.joinStatus o (parseSheaf v s.now)) 0 0) ∧
  (∀ (s : State) (op : Nat) (o : Op), s.work op 0x04 = some o → s.leaveStatus o = 0 →
    ∃ u q, exec (.sheafLeave op) s = .next (State.settle u) ∧ u.regions.get (o.arg 16 1) = some q ∧ q.sheaf = 0 ∧ q.member = 0xFF ∧
      q.epoch = 0 ∧ (∀ c ∈ u.port.sctx, c.2.region ≠ o.arg 16 1) ∧ (∀ c ∈ u.port.rctx, c.2.region ≠ o.arg 16 1) ∧
      u.completed op stOk 0 0) ∧
  (∀ (s : State) (op : Nat) (o : Op), s.work op 0x04 = some o → s.leaveStatus o ≠ 0 →
    ∃ u, exec (.sheafLeave op) s = .next u ∧ u.regions = s.regions ∧ u.completed op (s.leaveStatus o) 0 0)) ∧
  ((∀ (si s : State) (op : Nat) (ext : Ext) (o : Op) (v : List Byte) (t : SheafTab) (a : Sheaf), si.work op 0x05 = some o →
    si.readTable ext (o.arg 24 8) = (.data v, s) → parseSheaf v s.now = some t → s.updateStatus o (some t) = 0 →
    s.sheaves.get (o.arg 16 3) = some a →
    ∃ u : State, exec (.membershipUpdate op ext) si = .next u.settle ∧
      u.completed op stOk ((a.changed (t.sh.withStates (o.arg 32 9))).length % 2 ^ 64) 0 ∧
      (∀ j q, u.regions.get j = some q → q.sheaf = o.arg 16 3 → q.epoch = o.epoch)) ∧
  (∀ (si s : State) (op : Nat) (ext : Ext) (o : Op) (v : List Byte), si.work op 0x05 = some o → statesReserved (o.arg 32 9) = false →
    si.readTable ext (o.arg 24 8) = (.data v, s) → s.updateStatus o (parseSheaf v s.now) ≠ 0 →
    ∃ u, exec (.membershipUpdate op ext) si = .next u ∧ u.regions = s.regions ∧ u.sheaves = s.sheaves ∧
      u.completed op (s.updateStatus o (parseSheaf v s.now)) 0 0) ∧
  (∀ (s : State) (op : Nat) (ext : Ext) (o : Op), s.work op 0x05 = some o → statesReserved (o.arg 32 9) = true →
    ∃ u, exec (.membershipUpdate op ext) s = .next u ∧ u.regions = s.regions ∧ u.sheaves = s.sheaves ∧ u.completed op stNotSupported 0 0)) ∧
  ((∀ s : State, s.past s.sward.tick (us (bits s.sward.cfg.toNat 0 10)) = true →
    ∃ t, exec .larkIntervalTick s = .next t ∧ t.sward.tick = s.now ∧ t.regions = s.regions ∧ ∀ id, t.places id = s.places id) ∧
  (∀ (s : State) (src : Nat) (bytes : List Byte), s.aligned = true → trailerOk bytes = true → (Hdr.parse bytes).typ = 5 →
    ∃ u : State, exec (.larkReceive src bytes) s = .next u.settle ∧ u.regions = s.regions ∧ u.power.lastArrival = s.now ∧
      ∀ id, u.places id = s.places id) ∧
  (∀ (s : State) (src : Nat) (bytes : List Byte), s.aligned = true → trailerOk bytes = true → (Hdr.parse bytes).typ = 6 →
    ∃ t, exec (.reportReceive src bytes) s = .next t ∧ t.regions = s.regions ∧ t.sheaves = s.sheaves ∧ t.power.lastArrival = s.now) ∧
  (∀ s : State, ∃ t, exec .reportRepeatTimer s = .next t ∧ t.regions = s.regions ∧ t.sheaves = s.sheaves) ∧
  (∀ (s : State) (key : Nat) (k : Key), s.sward.keys[key]? = some k → k.due = true → s.past k.written 10000 = true →
    ∃ t, exec (.reportRecordRewrite key) s = .next t ∧ t.regions = s.regions ∧ t.sheaves = s.sheaves ∧
      (t.sward.keys[key]?).map (fun x => (x.due, x.written, x.mask)) = some (false, s.now, k.mask)))

/-- R379 to R382, R384, R385: the interval tick marks the members that were silent too long, a valid lark clears the mark and takes the level, a
report joins its key's mask, repeats are sent after 1,000 µs, and a grown mask is written again. -/
def Obligations.LarksAndReports : Prop :=
  (∀ s : State, s.past s.sward.tick (us (bits s.sward.cfg.toNat 0 10)) = true →
    ∃ t, exec .larkIntervalTick s = .next t ∧ t.sward.tick = s.now ∧ t.sward.cfg = s.reg 0x0180 ∧ t.regions = s.regions ∧
      (s.noReportRing → t.mem = s.mem) ∧
      (∀ p ∈ s.larkPeers, s.larkEntries p.1 p.2 ≠ [] → ∃ (route : Nat) (h : Hdr) (body : List Byte),
        Tx.packet (gaddr (p.1 / 16) (p.1 % 16) 0) route (h.packet body) ∈ t.port.tx ∧ h.typ = 5 ∧ h.cls = 1 ∧ h.job = p.2 ∧
        h.count = Nat.min 32 (s.larkEntries p.1 p.2).length) ∧
      (∀ id sh i x, s.sheaves.get id = some sh → sh.mem? i = some x → x.alive = true → s.isLocal x = false →
        s.past x.lark (us (s.rf 0x0180 0 10) * s.rf 0x0180 10 4) = true →
        ((t.sheaves.get id).bind (fun y => y.mem? i)).map (fun y => y.suspect) = some true)) ∧
  (∀ (s : State) (src : Nat) (bytes : List Byte), s.aligned = true → trailerOk bytes = true → (Hdr.parse bytes).typ = 5 →
    ∃ u : State, exec (.larkReceive src bytes) s = .next u.settle ∧ u.regions = s.regions ∧ (s.noReportRing → u.mem = s.mem) ∧
      (∀ e sh x, e < (Hdr.parse bytes).count → 16 + 16 * e + 16 ≤ (payloadOf bytes).length →
        s.sheaves.get (field (payloadOf bytes) (16 + 16 * e) 3) = some sh →
        sh.mem? (field (payloadOf bytes) (19 + 16 * e) 1) = some x → x.alive = true → dstKey x.node x.agent = src →
        field (payloadOf bytes) (20 + 16 * e) 4 = sh.epoch →
        (s.sheafRegions (field (payloadOf bytes) (16 + 16 * e) 3)).any (fun p => p.2.jobTag == (Hdr.parse bytes).job) = true →
        ∃ y, (u.sheaves.get (field (payloadOf bytes) (16 + 16 * e) 3)).bind (fun z => z.mem? (field (payloadOf bytes) (19 + 16 * e) 1)) =
            some y ∧
          y.suspect = false ∧ y.lark = s.now ∧ y.level = some (field (payloadOf bytes) 0 1) ∧
          y.matched = (field (payloadOf bytes) 0 1 == s.ucode.level))) ∧
  (∀ (s : State) (src : Nat) (bytes : List Byte) (i : Instr), i = .larkReceive src bytes ∨ i = .reportReceive src bytes →
    (s.aligned = false → exec i s = .next s.packetIn) ∧
    (s.aligned = true → trailerOk bytes = false → exec i s = .next (s.packetIn.bump (qtrCnt 4)))) ∧
  (∀ (s : State) (src : Nat) (bytes : List Byte), s.aligned = true → trailerOk bytes = true → (Hdr.parse bytes).typ = 6 →
    (s.localMember (Hdr.parse bytes).sheaf (Hdr.parse bytes).dst = none ∨
      ∃ j r, s.localMember (Hdr.parse bytes).sheaf (Hdr.parse bytes).dst = some (j, r) ∧
        (r.jobTag ≠ (Hdr.parse bytes).job ∨ r.epoch ≠ (Hdr.parse bytes).epoch)) →
    exec (.reportReceive src bytes) s = .next (s.packetIn.bump (membCnt 6))) ∧
  (∀ (s : State) (src j : Nat) (bytes : List Byte) (r : Region), s.aligned = true → trailerOk bytes = true → (Hdr.parse bytes).typ = 6 →
    s.localMember (Hdr.parse bytes).sheaf (Hdr.parse bytes).dst = some (j, r) → r.jobTag = (Hdr.parse bytes).job →
    r.epoch = (Hdr.parse bytes).epoch → (Hdr.parse bytes).src < 36 →
    ∃ t k, exec (.reportReceive src bytes) s = .next t ∧ k ∈ t.sward.keys ∧ k.sheaf = (Hdr.parse bytes).sheaf ∧
      k.epoch = (Hdr.parse bytes).epoch ∧ k.kind = field (payloadOf bytes) 0 1 ∧ k.subject = field (payloadOf bytes) 1 1 ∧
      k.mask.getLsbD (Hdr.parse bytes).src = true) ∧
  (∀ s : State, ∃ t, exec .reportRepeatTimer s = .next t ∧
    ∀ id sh i x, (id, sh) ∈ s.sheaves → s.sheaves.get id = some sh → sh.mem? i = some x → x.suspect = true →
      s.sheafRegions id ≠ [] → (∀ z ∈ s.sward.sent, z.sheaf = id → z.kind = 1 → z.subject = i → s.past z.time 100000 = true) →
      ∃ z ∈ t.sward.sent, z.sheaf = id ∧ z.kind = 1 ∧ z.subject = i ∧ z.time = s.now) ∧
  (∀ (s : State) (key : Nat) (k : Key), s.sward.keys[key]? = some k → k.due = true → s.past k.written 10000 = true →
    ∃ t, exec (.reportRecordRewrite key) s = .next t ∧ t.sward.keys[key]? = some { k with due := false, written := s.now })

/-! ## Tables and microcode (chapters 11 and 15) -/

/-- R348 to R350: a load that passes keeps its table and waits while the inactive bank is referred to; the install makes it the active one with the next
generation, which is the record's AUX. -/
def Obligations.TableLoadAndInstall : Prop :=
  (∀ (si s : State) (op : Nat) (ext : Ext) (o : Op) (v : List Byte), si.work op 0x70 = some o → o.stage = .fresh →
    o.loadMalformed = false → si.loadConflict o = false → si.readAt ext (o.arg 24 8) (tabBytes o.tabKind) 1 = (.data v, s) →
    (crc32c v).toNat = o.arg 32 4 → o.tableOk v = true →
    ∃ t o', exec (.tableLoad op ext) si = .next t ∧ t.op? op = some o' ∧ o'.stage = .waitRef ∧
      (o'.slots.get tablePlace).map (fun x => x.data) = some v ∧ t.tables = s.tables ∧
      (s.loadRefs o.tabKind o.tabSlot ≠ 0 → ∃ r ∈ t.recs, r.op = op ∧ r.final = false ∧ r.status = stWaitRef)) ∧
  (∀ (s : State) (op : Nat) (o : Op) (x : Slot), s.waiting op 0x70 = some o → o.stage = .waitRef →
    o.slots.get tablePlace = some x → s.loadRefs o.tabKind o.tabSlot = 0 →
    ∃ u : State, exec (.tableInstall op) s = .next u.settle ∧ (u.tableSlot o.tabKind o.tabSlot).active = x.data ∧
      (u.tableSlot o.tabKind o.tabSlot).gen = ((s.tableSlot o.tabKind o.tabSlot).gen + 1) % 16 ∧
      u.completed op stOk 0 (((s.tableSlot o.tabKind o.tabSlot).gen + 1) % 16))

/-- R352, R434: a staging starts by setting the image's length, and clears what stands when its flag says so; a chunk that it pulls, or that is
stored to the window under the staged TAG, stands in the inactive bank with its bit set.
R34, R353, R439: a staged image that passes the engine's checks is presented; PASS for its digest switches the banks under the new level and completes the
operation with bytes 16 to 23 of the digest, any other verdict for it fails the operation and leaves the banks. -/
def Obligations.MicrocodeStagesAndActivates : Prop :=
  ((∀ (s : State) (op units : Nat) (ext : Ext) (o : Op), s.work op 0x71 = some o → o.stage = .fresh → s.stageStatus o = 0 →
    ∃ t o', exec (.ucodeStage op units ext) s = .next t ∧ t.op? op = some o' ∧ o'.stage = .walking ∧
      t.ucode.length = some (o.arg 24 4) ∧ (o.arg 28 1 % 2 = 1 → t.ucode.present = 0#256) ∧
      (o.arg 28 1 % 2 = 0 → t.ucode.present = s.ucode.present) ∧ t.ucode.store = s.ucode.store ∧ t.ucode.active = s.ucode.active) ∧
  (∀ (si s : State) (op : Nat) (ext : Ext) (o : Op) (v : List Byte), si.work op 0x71 = some o → o.stage = .walking → o.n nkChunk < 256 →
    o.n nkChunk + 1 < o.arg 24 4 / 512 → si.ucode.present.getLsbD (o.n nkChunk) = false →
    (si.distributes o = true → si.creditOk (si.level (si.groupAddr (o.n nkChunk))) 3 1 = true) →
    si.readAt ext (o.arg 16 8 + 512 * o.n nkChunk) 512 3 = (.data v, s) → s.op? op = some o →
    ∃ u : State, exec (.ucodeStage op 1 ext) si = .next (State.settle (u.yieldPoint op)) ∧ u.ucode.present.getLsbD (o.n nkChunk) = true ∧
      u.ucode.chunk (o.n nkChunk) = v ∧ (u.op? op).map (fun x => x.n nkChunk) = some (o.n nkChunk + 1) ∧
      u.ucode.active = s.ucode.active) ∧
  (∀ (s : State) (src addr : Nat) (v : List Byte), s.own addr = true → ucodeWindow ≤ gOff addr → gOff addr - ucodeWindow < 0x2000000 →
    gOff addr % 512 = 0 → v.length = 512 → (s.boot.phase = .test ∨ s.boot.phase = .load ∨ s.boot.phase = .ready) → s.oldBound = false →
    (∀ o ∈ s.ops, o.opcode ≠ 0x72) → s.ucode.tag = some (bits (gOff addr - ucodeWindow) 17 8) →
    (∀ l, s.ucode.length = some l → bits (gOff addr - ucodeWindow) 9 8 < l / 512) →
    s.ucode.present.getLsbD (bits (gOff addr - ucodeWindow) 9 8) = false →
    ∃ t, exec (.chunkStoreReceive src addr v) s = .next t ∧ t.ucode.present.getLsbD (bits (gOff addr - ucodeWindow) 9 8) = true ∧
      t.ucode.chunk (bits (gOff addr - ucodeWindow) 9 8) = v ∧ t.reg (bootCnt 0) = s.reg (bootCnt 0) + 1#32 ∧ t.mem = s.mem)) ∧
  ((∀ (s : State) (op : Nat) (o : Op), s.work op 0x72 = some o → o.stage = .fresh → s.ucode.presented = none →
    s.ucode.imageOk o.wantDigest = true →
    ∃ t o', exec (.ucodeActivate op) s = .next t ∧ t.ucode = { s.ucode with presented := some (op, o.wantDigest) } ∧
      t.op? op = some o' ∧ o'.stage = .waitAuth ∧ t.recs = s.recs) ∧
  (∀ (s : State) (op : Nat) (o : Op), s.work op 0x72 = some o → o.stage = .fresh → s.ucode.presented = none →
    s.ucode.imageOk o.wantDigest = false →
    ∃ t, exec (.ucodeActivate op) s = .next t ∧ t.completed op stCheckFail 0 0 ∧ t.ucode = { s.ucode with lastFail := true }) ∧
  (∀ (s : State) (op : Nat) (o : Op) (d : List Byte), s.ucode.presented = some (op, d) → s.waiting op 0x72 = some o →
    ∃ u : State, exec (.authVerdict d true) s = .next u.settle ∧ u.ucode.active = s.ucode.inactive ∧ u.ucode.boot = false ∧
      u.ucode.present = 0#256 ∧ u.ucode.length = none ∧ u.ucode.presented = none ∧ u.ucode.store = s.ucode.store ∧
      u.completed op stOk (field d 16 8) 0 ∧ (s.boot.phase = .load → s.spillPlaced = true → u.boot.phase = .ready)) ∧
  (∀ (s : State) (op : Nat) (o : Op) (d : List Byte), s.ucode.presented = some (op, d) → s.waiting op 0x72 = some o →
    ∃ u : State, exec (.authVerdict d false) s = .next u.settle ∧ u.ucode = { s.ucode with presented := none, lastFail := true } ∧
      u.completed op stCheckFail 0 0))

/-! ## Steps (chapter 6) -/

/-- R184, R185, R441: a STEP_OPEN that its checks pass waits for the level of its members or for its banks; when the waits are over the step is OPEN in all
its sets with N one above it; WAIT_MS without a level match ends it with TOPOLOGY_MISMATCH. -/
def Obligations.StepOpens : Prop :=
  (∀ (s : State) (op : Nat) (o : Op), s.work op 0x10 = some o → o.stage = .fresh →
    (∀ k ∈ o.sets, s.openRow1 o k = false ∧ s.openRow2 o.step k = false ∧ s.openRow3 k = false ∧ s.openRow4 k = false) →
    (∀ p ∈ s.awaited o, p.2.2.mismatch = none) →
    ∃ u o', exec (.stepOpen op) s = .next (State.settle u) ∧ u.op? op = some o' ∧
      o'.stage = (if (s.awaited o).all (fun p => p.2.2.matched) then
        (if s.banksReady o && !s.cutBefore (o.arg 16 8) then .waitSlot else .waitBank) else .waitLevel s.now) ∧
      u.sets = s.sets ∧ u.recs = s.recs ∧ u.mem = s.mem) ∧
  (∀ (s : State) (op : Nat) (o : Op) (k : Nat), s.work op 0x10 = some o → o.stage = .fresh → k ∈ o.sets →
    (s.openRow1 o k = true ∨ s.openRow2 o.step k = true ∨ s.openRow3 k = true ∨ s.openRow4 k = true) →
    ∃ t, exec (.stepOpen op) s = .next t ∧ t.completed op stConflict 0 0 ∧ t.sets = s.sets) ∧
  (∀ (s : State) (op : Nat) (o : Op), s.waiting op 0x10 = some o → o.stage = .waitBank ∨ o.stage = .waitSlot → s.openReady o = true →
    ∃ u : State, exec (.stepOpenEffect op) s = .next u.settle ∧ u.completed op stOk 0 0 ∧
      (∀ k ∈ o.sets, (u.setTab k).live = (s.setTab k).live ++ [(o.step, false)] ∧ (u.setTab k).n = some (o.step + 1) ∧
        (u.setTab k).h = Nat.max (s.setTab k).h o.step ∧ (u.setTab k).c = (s.setTab k).c ∧ (u.setTab k).d = s.setDepth k) ∧
      (∀ k, k ∉ o.sets → u.setTab k = s.setTab k) ∧ u.regions = s.regions ∧ (s.auditRoom → u.mem = s.mem)) ∧
  (∀ (s : State) (op since sheaf i : Nat) (o : Op) (x : Member), s.waiting op 0x10 = some o → o.stage = .waitLevel since →
    (∀ p ∈ s.awaited o, p.2.2.mismatch = none) → (s.awaited o).find? (fun p => !p.2.2.matched) = some (sheaf, i, x) →
    s.past since (100000 * s.rf 0x0194 0 10) = true →
    ∃ u : State, exec (.topologyWaitTimeout op) s = .next u.settle ∧ u.completed op stTopology 0 0 ∧ u.raised 91 ∧
      u.reg 0x0198 = BitVec.ofNat 32 (sheaf + 2 ^ 24 * i) ∧ u.reg (bootCnt 5) = s.reg (bootCnt 5) + 1#32 ∧ u.sets = s.sets)

/-- R186, R187, R188: with nothing held and no delta on its way, STEP_CLOSE makes the step CLOSED, FENCE ends with the count of the step's messages that
retired, and STEP_CONFIRM makes the step the confirmed one of its sets; each record carries the sum or the count that its rule gives. -/
def Obligations.CloseFenceConfirm : Prop :=
  (∀ (s : State) (op : Nat) (o : Op), s.work op 0x14 = some o → o.stage = .fresh → s.calm →
    (∀ x ∈ s.ops, x.id = op → x = o) → (∀ k ∈ o.sets, (s.setTab k).live.contains (o.step, false) = true) →
    ∃ t, exec (.stepClose op) s = .next t ∧ t.completed op stOk (s.digestSum (o.arg 16 8)) 0 ∧
      (∀ k ∈ o.sets, (t.setTab k).live = (s.setTab k).live.map (fun p => if p.1 = o.step then (o.step, true) else p) ∧
        (t.setTab k).closing = none)) ∧
  (∀ (s : State) (op k : Nat) (o : Op), s.work op 0x14 = some o → o.stage = .fresh → k ∈ o.sets →
    (s.setTab k).live.contains (o.step, false) = false →
    ∃ t, exec (.stepClose op) s = .next t ∧ t.completed op stConflict 0 0 ∧ t.sets = s.sets) ∧
  (∀ (s : State) (op : Nat) (o : Op), s.work op 0x13 = some o → o.stage = .fresh → s.calm →
    (∀ k ∈ o.sets, (s.setTab k).live.contains (o.step, true) = true) → s.fenceDone (o.arg 16 8) o.step s.tap.nextId = true →
    s.fenceStatus (o.arg 16 8) o.step = stOk →
    ∃ t, exec (.fence op) s = .next t ∧ t.completed op stOk (s.retiredCount (o.arg 16 8) (o.step % 3) % 2 ^ 64) 0 ∧ t.sets = s.sets) ∧
  (∀ (s : State) (op : Nat) (o : Op), s.work op 0x11 = some o → o.stage = .fresh → s.calm →
    (∀ k ∈ o.sets, (s.setTab k).live.contains (o.step, true) = true ∧ (s.setTab k).live.any (fun p => decide (p.1 < o.step)) = false) →
    (∀ x ∈ s.ops, x.id ≠ op → x.opcode ≠ 0x11 ∧ x.opcode ≠ 0x53) →
    s.fenceDone (o.arg 16 8) o.step s.tap.nextId = true → s.fenceStatus (o.arg 16 8) o.step = stOk →
    ∃ t, exec (.stepConfirm op) s = .next t ∧ t.completed op stOk (s.digestSum (o.arg 16 8)) 0 ∧
      (∀ k ∈ o.sets, (t.setTab k).c = o.step ∧ (t.setTab k).live = (s.setTab k).live.filter (fun p => p.1 != o.step)) ∧
      (∀ k ∈ o.sets, ∀ p ∈ t.tap.norm, p.1 % 3 = o.step % 3 → (s.setRegions k).all (fun q => q.1 != p.1 / 3) = true) ∧
      (∀ j r, s.regions.get j = some r → r.set ∈ o.sets → (t.regions.get j).map (fun q => q.confirmed) = some o.step) ∧
      (∀ j r, s.regions.get j = some r → r.set ∉ o.sets → (t.regions.get j).map (fun q => q.confirmed) = some r.confirmed))

/-- R194, R195: from a rollback's effect edge no step from FIRST to LAST is live in its sets, N is the next number congruent to FIRST modulo 6, and H is not below
LAST; a rollback whose walk is over drains.
R126, R131, R190: retire work is done in its order: a confirmed step's stamps become CLEAN, a rolled-back one's become those of the step before it while
that one is unconfirmed, and a bank that was zeroed is FREE. -/
def Obligations.RollbackAndRetireWork : Prop :=
  ((∀ (s : State) (op units : Nat) (ext : Ext) (o : Op), s.work op 0x12 = some o → o.stage = .fresh → s.rollbackStatus o = 0 →
    s.startedBefore o [0x14, 0x11, 0x12, 0x53] (fun _ => true) = [] →
    ∃ u : State, exec (.stepRollback op units ext) s = .next u.settle ∧ (u.op? op).map (fun x => x.stage) = some .walking ∧
      (∀ k ∈ o.sets, (u.setTab k).live = (s.setTab k).live.filter (fun p => !within o.step (o.arg 24 6) p.1) ∧
        (u.setTab k).n = some (nextStep o.step (o.arg 24 6)) ∧ o.arg 24 6 ≤ (u.setTab k).h ∧ (u.setTab k).c = (s.setTab k).c) ∧
      (∀ k, k ∉ o.sets → u.setTab k = s.setTab k) ∧ u.mem = s.mem) ∧
  (∀ (s : State) (op units : Nat) (ext : Ext) (o : Op), s.work op 0x12 = some o → o.stage = .walking → s.rollBusy o = false →
    (s.rollTiles o).length ≤ o.cursor →
    ∃ u : State, exec (.stepRollback op units ext) s = .next u.settle ∧ (u.op? op).map (fun x => x.stage) = some .draining ∧ u.mem = s.mem) ∧
  (∀ f l : Nat, l < nextStep f l ∧ nextStep f l ≤ l + 6 ∧ nextStep f l % 6 = f % 6)) ∧
  ((∀ (s : State) (k n : Nat), s.retire = [.confirmMap k n] → s.forcedBank = none →
    ∃ u : State, exec (.retireWork 1) s = .next u.settle ∧ u.retire = [] ∧ u.mem = s.mem ∧
      ∀ p g, p ∈ s.setRegions k → g < p.2.granules → s.dirtyAt p.2 g = n % 3 + 1 → u.dirtyAt p.2 g = 0) ∧
  (∀ (s : State) (k f n : Nat), s.retire = [.rollbackMap k f n] → s.forcedBank = none →
    ∃ u : State, exec (.retireWork 1) s = .next u.settle ∧ u.retire = [] ∧ u.mem = s.mem ∧
      ∀ p g, p ∈ s.setRegions k → g < p.2.granules → s.dirtyAt p.2 g = n % 3 + 1 →
        u.dirtyAt p.2 g = (if (s.setTab k).live.any (fun q => q.1 + 1 == f) then (f + 2) % 3 + 1 else 0)) ∧
  (∀ (s : State) (j x : Nat) (l : List Retire), s.retire = .zeroBank j x :: l → s.snap.cut = none →
    ∃ u : State, exec (.retireWork 1) s = .next u.settle ∧ u.retire <:+ l ∧ u.banks.get (bankKey j x) = none))

/-- R193: MERGE_BANK makes a CONFIRMED bank MERGING; a stripe merges by committed ← committed ⊕ bank and the bank's tile becomes zeros; a bank that is FREE ends it. -/
def Obligations.MergeBankXorsIntoCommitted : Prop :=
  (∀ (s : State) (op units : Nat) (ext : Ext) (o : Op) (r : Region) (b : Bank), s.work op 0x22 = some o → o.stage = .fresh →
    s.regions.get (o.arg 16 1) = some r → r.role = .parityHome → r.sheaf ≠ 0 →
    s.banks.get (bankKey r.link (s.bankOf r o.step)) = some b → b.step = o.step → b.st = .confirmed →
    ∃ t, exec (.mergeBank op units ext) s = .next t ∧
      t.banks.get (bankKey r.link (s.bankOf r o.step)) = some { b with st := .merging, pos := 0 } ∧
      (t.op? op).map (fun x => x.stage) = some .walking ∧ t.mem = s.mem ∧ t.regions = s.regions) ∧
  (∀ (s : State) (op : Nat) (o : Op) (r q : Region) (b : Bank), s.work op 0x22 = some o → o.stage = .walking →
    s.regions.get (o.arg 16 1) = some r → s.regions.get r.link = some q →
    s.banks.get (bankKey r.link (s.bankOf r o.step)) = some b → b.pos + 1 < r.tileCount → s.laneReady = true → s.snap.cut = none →
    r.guard = 0 → r.reguard = none → q.guard = 0 → q.reguard = none →
    s.bankOf r o.step < 3 →
    r.tileBase + b.pos ≠ q.tileBase + (s.bankOf r o.step * r.tileCount + b.pos) →
    ∃ u : State, exec (.mergeBank op 1 []) s = .next u.settle ∧
      u.tileBytes r b.pos = xorBytes (s.tileBytes r b.pos) (s.tileBytes q (s.bankOf r o.step * r.tileCount + b.pos)) ∧
      u.tileBytes q (s.bankOf r o.step * r.tileCount + b.pos) = zeros 4096 ∧
      u.banks.get (bankKey r.link (s.bankOf r o.step)) = some { b with pos := b.pos + 1 } ∧
      (∀ a, (a < s.tileAddr (r.tileBase + b.pos) ∨ s.tileAddr (r.tileBase + b.pos) + 4096 ≤ a) →
        (a < s.tileAddr (q.tileBase + (s.bankOf r o.step * r.tileCount + b.pos)) ∨
          s.tileAddr (q.tileBase + (s.bankOf r o.step * r.tileCount + b.pos)) + 4096 ≤ a) → byteAt u.mem a = byteAt s.mem a)) ∧
  (∀ (s : State) (op units : Nat) (ext : Ext) (o : Op) (r : Region), s.work op 0x22 = some o → o.stage = .walking →
    s.regions.get (o.arg 16 1) = some r → s.banks.get (bankKey r.link (s.bankOf r o.step)) = none →
    ∃ u : State, exec (.mergeBank op units ext) s = .next u.settle ∧ u.completed op stOk 0 0 ∧ (s.auditRoom → u.mem = s.mem))

/-- R196 to R198: NORM_REDUCE adds each field of the local sum to its cell modulo 2^64 and one to ARRIVED, and polls; a cell with EXPECT contributions gives the result,
one with more fails. The adds are writes of the engine's own: in the own stack, outside any region, they are performed at once (R14); the add to ARRIVED
follows once they are acknowledged. -/
def Obligations.NormReduceAddsAndPolls : Prop :=
  (∀ (s : State) (op : Nat) (o : Op), s.work op 0x53 = some o → o.stage = .fresh →
    (∀ k ∈ o.sets, (s.setTab k).live.contains (o.step, true) = true) → s.inStack (o.arg 24 8) 192 = true →
    s.meetsRegion (gOff (o.arg 24 8)) 192 = false → s.tap.queue = [] → s.tap.held = [] →
    ∃ u : State, exec (.normReduce op) s = .next (u.settle.arrive op).settle ∧ (u.op? op).map (fun x => x.stage) = some .polling ∧
      (∀ i, i < 22 → leNat (memRead u.mem (o.arg 24 8 + 8 * i) 8) =
        (leNat (memRead s.mem (o.arg 24 8 + 8 * i) 8) + (normFields (s.normLocal o)).getD i 0) % 2 ^ 64) ∧
      (∀ a, a < o.arg 24 8 ∨ o.arg 24 8 + 176 ≤ a → byteAt u.mem a = byteAt s.mem a) ∧ u.regions = s.regions ∧ u.sets = s.sets) ∧
  (∀ (s : State) (op : Nat) (ext : Ext) (o : Op), s.waiting op 0x53 = some o → o.stage = .polling → o.n nkErrors = 0 → o.n nkArrived = 0 →
    (∀ x ∈ s.port.xfers, x.op ≠ op) → s.inStack (o.arg 24 8 + 176) 8 = true → s.meetsRegion (gOff (o.arg 24 8 + 176)) 8 = false →
    s.tap.queue = [] → s.tap.held = [] →
    ∃ u : State, exec (.normCellPoll op ext) s = .next u.settle ∧ (u.op? op).map (fun x => (x.n nkArrived, x.hold)) = some (1, s.now) ∧
      leNat (memRead u.mem (o.arg 24 8 + 176) 8) = (leNat (memRead s.mem (o.arg 24 8 + 176) 8) + 1) % 2 ^ 64 ∧
      (∀ a, a < o.arg 24 8 + 176 ∨ o.arg 24 8 + 184 ≤ a → byteAt u.mem a = byteAt s.mem a)) ∧
  (∀ (s s1 : State) (op : Nat) (ext : Ext) (o : Op) (v : List Byte), s.waiting op 0x53 = some o → o.stage = .polling → o.n nkErrors = 0 →
    o.n nkArrived = 1 → s.past o.hold 200 = true → s.readAt ext (o.arg 24 8) 192 1 = (.data v, s1) → field v 176 8 = o.arg 32 4 →
    ∃ u : State, exec (.normCellPoll op ext) s = .next u.settle ∧ u.completed op stOk (normResult v % 2 ^ 64) 0) ∧
  (∀ (s s1 : State) (op : Nat) (ext : Ext) (o : Op) (v : List Byte), s.waiting op 0x53 = some o → o.stage = .polling → o.n nkErrors = 0 →
    o.n nkArrived = 1 → s.past o.hold 200 = true → s.readAt ext (o.arg 24 8) 192 1 = (.data v, s1) → o.arg 32 4 < field v 176 8 →
    ∃ u : State, exec (.normCellPoll op ext) s = .next u.settle ∧ u.completed op stCheckFail 0 0)

/-! ## Parity (chapter 5, R168 to R170) -/

/-- R168, R169, R170: ENCODE_FULL that is not refused walks from FIRST; a stripe stores the row of its data at the parity tile and moves the digest; the end gives the
digest. VERIFY_STRIPES walks the same way, counts each stripe whose rows differ, and raises the first one. -/
def Obligations.ParityEncodeAndVerify : Prop :=
  (∀ (s : State) (op units : Nat) (ext : Ext) (o : Op) (r : Region) (sh : Sheaf), s.work op 0x20 = some o → o.stage = .fresh →
    s.regions.get (o.arg 16 1) = some r → s.sheafOf r = some sh → countOk (o.arg 24 4) = true → o.arg 28 8 = 0 → o.arg 36 4 = 0 →
    (s.encodeRefused o r sh = false → ∃ t, exec (.encodeFull op units ext) s = .next t ∧
      t.op? op = some { o with stage := .walking, cursor := o.arg 20 3 } ∧ t.mem = s.mem ∧ t.regions = s.regions) ∧
    (s.encodeRefused o r sh = true → ∃ t, exec (.encodeFull op units ext) s = .next t ∧ t.completed op stConflict 0 0 ∧ t.regions = s.regions)) ∧
  (∀ (s s1 : State) (op : Nat) (ext : Ext) (o : Op) (r : Region) (sh : Sheaf) (d : List (List Byte)), s.work op 0x20 = some o → o.stage = .walking →
    s.regions.get (o.arg 16 1) = some r → s.sheafOf r = some sh → o.cursor < o.arg 20 3 + o.arg 24 4 →
    s.cbwHolds (o.arg 16 1) o.cursor = false → s.laneReady = true → r.strengthAt o.cursor = 0 →
    s.storedData ext r.sheaf o.cursor sh (List.range sh.k) = (.inl d, s1) → s1.auditRoom →
    ∃ u : State, exec (.encodeFull op 1 ext) s = .next u.settle ∧
      u.tileBytes r o.cursor = s1.encodeRow (o.arg 16 1) (r.member - sh.k) d ∧
      (u.regions.get (o.arg 16 1)).map (fun q => q.digest) = (s1.regions.get (o.arg 16 1)).map (fun q =>
        digestStep q.digest (r.weight o.cursor) (s1.tileBytes r o.cursor) (s1.encodeRow (o.arg 16 1) (r.member - sh.k) d)) ∧
      (∀ a, a < s.tileAddr (r.tileBase + o.cursor) ∨ s.tileAddr (r.tileBase + o.cursor) + 4096 ≤ a → byteAt u.mem a = byteAt s1.mem a)) ∧
  (∀ (s : State) (op units : Nat) (ext : Ext) (o : Op) (r : Region) (sh : Sheaf), s.work op 0x20 = some o → o.stage = .walking →
    s.regions.get (o.arg 16 1) = some r → s.sheafOf r = some sh → o.arg 20 3 + o.arg 24 4 ≤ o.cursor →
    ∃ u : State, exec (.encodeFull op units ext) s = .next u.settle ∧ u.completed op stOk r.digest.toNat 0 ∧ (s.auditRoom → u.mem = s.mem)) ∧
  (∀ (s : State) (op units : Nat) (ext : Ext) (o : Op) (r : Region) (sh : Sheaf), s.work op 0x21 = some o → o.stage = .fresh →
    s.regions.get (o.arg 16 1) = some r → s.sheafOf r = some sh → countOk (o.arg 24 4) = true → o.arg 28 8 % 4 = 0 →
    sh.allAlive (sh.k + sh.m) = true → o.arg 20 3 + o.arg 24 4 ≤ sh.stripes →
    ∃ t, exec (.verifyStripes op units ext) s = .next t ∧ t.op? op = some { o with stage := .walking, cursor := o.arg 20 3 } ∧ t.mem = s.mem) ∧
  (∀ (s s1 s2 : State) (op : Nat) (ext : Ext) (o o2 : Op) (r : Region) (sh : Sheaf) (d : List (List Byte)) (b : Bool), s.work op 0x21 = some o →
    o.stage = .walking → s.regions.get (o.arg 16 1) = some r → s.sheafOf r = some sh → o.cursor + 1 < o.arg 20 3 + o.arg 24 4 →
    o.n nkIssued ≠ o.cursor + 1 → s.laneReady = true →
    (s.modOp op (fun x => x.keep nkErrors 0)).storedData ext r.sheaf o.cursor sh (List.range sh.k) = (.inl d, s1) →
    s1.rowsAgree ext r.set (o.arg 16 1) r.sheaf o.cursor sh d (List.range sh.m) = (.inl b, s2) → s2.op? op = some o2 → o2.desc = o.desc →
    writeStatus ext (o.arg 28 8 + 4 * o2.result) = stOk →
    ∃ u t : State, exec (.verifyStripes op 1 ext) s = .next t ∧ (u.op? op).map (fun x => x.result) = some (o2.result + bit (!b)) ∧
      (b = false → o2.result = 0 → u.raised 70 = true) ∧ (b = true → u.mem = s2.mem) ∧
      (b = false → o.arg 28 8 ≠ 0 → o2.result < o.arg 36 4 → s2.inStack (o.arg 28 8 + 4 * o2.result) 4 = true →
        s2.putDone u engineAgent (some op) (gOff (o.arg 28 8 + 4 * o2.result)) (leBytes 4 o.cursor)) ∧
      u.unitEnds t op (o.cursor + 1)) ∧
  (∀ (s : State) (op units : Nat) (ext : Ext) (o : Op) (r : Region) (sh : Sheaf), s.work op 0x21 = some o → o.stage = .walking →
    s.regions.get (o.arg 16 1) = some r → s.sheafOf r = some sh → o.arg 20 3 + o.arg 24 4 ≤ o.cursor →
    ∃ u : State, exec (.verifyStripes op units ext) s = .next u.settle ∧ u.completed op stOk (o.result % 2 ^ 64) 0)

/-! ## Degraded reads, fostering, rebuild, migration (chapter 7) -/

/-- R208, R209, R211: a DEGRADED_READ that passes its checks walks from FIRST; a tile of a member that is REMOVED or suspect is decoded without it, written at its place
from DEST, and counted in RESULT; a failed check ends it. -/
def Obligations.DegradedReadDecodesTiles : Prop :=
  (∀ (s : State) (op units : Nat) (ext : Ext) (o : Op), s.work op 0x30 = some o → o.stage = .fresh →
    (s.degradedStatus o = 0 → ∃ t, exec (.degradedRead op units ext) s = .next t ∧
      (t.op? op).map (fun x => (x.stage, x.cursor)) = some (.walking, o.arg 20 4) ∧ t.mem = s.mem ∧ t.regions = s.regions) ∧
    (s.degradedStatus o ≠ 0 → ∃ t, exec (.degradedRead op units ext) s = .next t ∧ t.completed op (s.degradedStatus o) 0 0)) ∧
  (∀ (s s1 : State) (op : Nat) (ext : Ext) (o o1 : Op) (r : Region) (sh : Sheaf) (x : Member) (v : List Byte) (dest : Nat),
    s.work op 0x30 = some o → o.stage = .walking → o.cursor + 1 < o.arg 20 4 + o.arg 24 4 → o.st = .running →
    s.regions.get (o.arg 16 1) = some r → s.sheafOf r = some sh → sh.mem? (o.arg 17 1) = some x → o.sameMember r = true →
    o.n nkIssued ≠ o.cursor + 1 → sh.virtual (o.arg 17 1) o.cursor = false → (x.st = .removed ∨ x.suspect = true) →
    s.laneReady = true → State.targetTile ((s.freshEpoch op r.epoch).modOp op (fun x => x.keep nkErrors 0)) ext (some op) 0 (o.arg 16 1) r sh
      (o.arg 17 1) o.cursor = (.tile v true, s1) → v.length = 4096 → s1.op? op = some o1 →
    dest = o.arg 28 8 + 4096 * (o.cursor - o.arg 20 4) → writeStatus ext dest = stOk → s1.inStack dest 4096 = true →
    ∃ u t : State, exec (.degradedRead op 1 ext) s = .next t ∧ s1.putDone u engineAgent (some op) (gOff dest) v ∧
      (u.op? op).map (fun x => x.result) = some (o1.result + 1) ∧ u.unitEnds t op (o.cursor + 1)) ∧
  (∀ (s : State) (op units : Nat) (ext : Ext) (o : Op), s.work op 0x30 = some o → o.stage = .walking →
    o.arg 20 4 + o.arg 24 4 ≤ o.cursor →
    ∃ u : State, exec (.degradedRead op units ext) s = .next u.settle ∧ u.completed op stOk (o.result % 2 ^ 64) 0)

/-- R216, R217, R219, R221: a REBUILD builds each tile of its range that is not built: the value of R216 is stored, the built bit set, and both digests take it; a build
that a held write started does the same. A whole rebuild whose digest agrees, or is not checked, makes the region LIVE; one whose digest differs fails. -/
def Obligations.RebuildBuildsTiles : Prop :=
  (∀ (s : State) (op units : Nat) (ext : Ext) (o : Op), s.work op 0x31 = some o → o.stage = .fresh →
    (s.rebuildStatus o = 0 → ∃ t, exec (.rebuild op units ext) s = .next t ∧
      (t.op? op).map (fun x => (x.stage, x.cursor)) = some (.walking, o.arg 20 4) ∧ t.mem = s.mem ∧ t.regions = s.regions) ∧
    (s.rebuildStatus o ≠ 0 → ∃ t, exec (.rebuild op units ext) s = .next t ∧ t.completed op (s.rebuildStatus o) 0 0)) ∧
  (∀ (s s1 : State) (op : Nat) (ext : Ext) (o : Op) (r r1 : Region) (sh : Sheaf) (v : List Byte) (d : Bool), s.work op 0x31 = some o →
    o.stage = .walking → s.regions.get (o.arg 16 1) = some r → s.sheafOf r = some sh → o.cursor < o.arg 20 4 + o.arg 24 4 →
    o.sameMember r = true → r.state = .fostering → r.built.has o.cursor = false → s.cbwHolds (o.arg 16 1) o.cursor = false → s.laneReady = true →
    (s.freshEpoch op r.epoch).buildValue ext (some op) 3 (o.arg 16 1) r sh o.cursor = (.tile v d, s1) → s1.regions.get (o.arg 16 1) = some r1 →
    r1.lineApart o.cursor → s1.auditRoom →
    ∃ u : State, exec (.rebuild op 1 ext) s = .next u.settle ∧ u.tileBytes r1 o.cursor = fit 4096 v ∧
      (u.regions.get (o.arg 16 1)).map (fun q => (q.built.has o.cursor, q.digest, q.rebuildDigest)) =
        some (true, r1.digest + crc64 v * r1.weight o.cursor, r1.rebuildDigest + crc64 v * r1.weight o.cursor)) ∧
  (∀ (s : State) (op units : Nat) (ext : Ext) (o : Op) (r : Region), s.work op 0x31 = some o → o.stage = .walking →
    s.regions.get (o.arg 16 1) = some r → o.arg 20 4 + o.arg 24 4 ≤ o.cursor →
    (r.built.length < r.tileCount → ∃ u : State, exec (.rebuild op units ext) s = .next u.settle ∧
      u.completed op stOk r.rebuildDigest.toNat 0 ∧ u.regions = s.regions) ∧
    (r.tileCount ≤ r.built.length → (bitAt (o.arg 30 1) 0 = false ∨ r.rebuildDigest.toNat = o.arg 32 8) →
      ∃ u : State, exec (.rebuild op units ext) s = .next u.settle ∧ u.completed op stOk r.rebuildDigest.toNat 0 ∧
        u.regions.get (o.arg 16 1) = some { r with state := .live }) ∧
    (r.tileCount ≤ r.built.length → bitAt (o.arg 30 1) 0 = true → r.rebuildDigest.toNat ≠ o.arg 32 8 →
      ∃ u : State, exec (.rebuild op units ext) s = .next u.settle ∧ u.completed op stRebuildMismatch r.rebuildDigest.toNat 0 ∧ u.raised 74 = true ∧
        u.regions = s.regions)) ∧
  (∀ (s s1 : State) (region tile n : Nat) (ext : Ext) (r r1 : Region) (sh : Sheaf) (v : List Byte) (d : Bool),
    s.regions.get region = some r → r.builds.get tile = some n → s.sheafOf r = some sh → r.state = .fostering → r.built.has tile = false →
    s.c0Ready sh tile [r.member] = true → s.buildValue ext none 0 region r sh tile = (.tile v d, s1) → s1.regions.get region = some r1 →
    r1.lineApart tile →
    ∃ u : State, exec (.tileBuildDone region tile ext) s = .next u.settle ∧ u.tileBytes r1 tile = fit 4096 v ∧
      (u.regions.get region).map (fun q => (q.built.has tile, q.builds.has tile, q.digest, q.rebuildDigest)) =
        some (true, false, r1.digest + crc64 v * r1.weight tile, r1.rebuildDigest + crc64 v * r1.weight tile) ∧
      u.reg (rbldCnt 0) = s1.reg (rbldCnt 0) + BitVec.ofNat 32 (bit d))

/-- R213, R214: a FOSTER that passes its checks makes its region the member index of the sheaf that it names, FOSTERING, with nothing built; one that does not ends with
the status of its first failed check; a reserved code of STATES ends it before any read (R10).
The other commands that bring a region to a member index run to their end too: a MIGRATE starts, and ends with its copy done (R223, R226); a REGROUP whose sheaves are
all prepared reaches its commit point, and the commit completes it (R229, R230): where no listed sheaf has or gains a region here, it changes no region and no sheaf. -/
def Obligations.FosterTakesTheIndex : Prop :=
  ((∀ (si s1 s : State) (op : Nat) (ext : Ext) (o : Op) (v w : List Byte) (img r : Region) (t : SheafTab), si.work op 0x32 = some o →
    statesReserved (o.arg 40 9) = false → si.readAt ext (o.arg 24 8) 64 1 = (.data v, s1) → s1.readTable ext (o.arg 32 8) = (.data w, s) →
    parseImage v = some img → parseSheaf w s.now = some t → s.fosterStatus o (some img) (some t) = 0 → s.regions.get (o.arg 16 1) = some r →
    ∃ u : State, exec (.foster op ext) si = .next u.settle ∧ u.completed op stOk 0 (o.arg 16 1) ∧
      (u.regions.get (o.arg 16 1)).map (fun q => (q.state, q.sheaf, q.member, q.built)) = some (.fostering, t.id, o.arg 17 1, []) ∧
      (s.others t.id (o.arg 16 1) = [] → u.sheaves.get t.id = some (t.sh.withStates (o.arg 40 9))) ∧
      (∀ k, k ≠ o.arg 16 1 → u.regions.get k = s.regions.get k) ∧ (s.auditRoom → u.mem = s.mem)) ∧
  (∀ (si s1 s : State) (op : Nat) (ext : Ext) (o : Op) (v w : List Byte), si.work op 0x32 = some o →
    statesReserved (o.arg 40 9) = false → si.readAt ext (o.arg 24 8) 64 1 = (.data v, s1) → s1.readTable ext (o.arg 32 8) = (.data w, s) →
    s.fosterStatus o (parseImage v) (parseSheaf w s.now) ≠ 0 →
    ∃ t, exec (.foster op ext) si = .next t ∧ t.completed op (s.fosterStatus o (parseImage v) (parseSheaf w s.now)) 0 0 ∧
      t.regions = s.regions ∧ t.sheaves = s.sheaves) ∧
  (∀ (s : State) (op : Nat) (ext : Ext) (o : Op), s.work op 0x32 = some o → statesReserved (o.arg 40 9) = true →
    ∃ t, exec (.foster op ext) s = .next t ∧ t.completed op stNotSupported 0 0 ∧ t.regions = s.regions ∧ t.sheaves = s.sheaves)) ∧
  ((∀ (si s : State) (op units : Nat) (ext : Ext) (o : Op) (v : List Byte), si.work op 0x33 = some o → o.stage = .fresh →
    si.readAt ext (o.arg 32 8) 64 1 = (.data v, s) → s.migrateStatus o (parseImage v) = 0 → s.op? op = some o →
    ∃ t, exec (.migrate op units ext) si = .next t ∧ t.op? op = some { o with stage := .walking } ∧
      ∀ k, k ≠ o.arg 16 1 → t.regions.get k = s.regions.get k) ∧
  (∀ (s : State) (op : Nat) (ext : Ext) (o : Op) (r img : Region) (m : Migrated), s.work op 0x33 = some o → o.stage = .walking →
    s.regions.get (o.arg 16 1) = some r → r.migrated = some m → parseImage m.image = some img → o.n nkPass ≠ 0 → o.n nkLen ≤ o.n nkPos →
    o.n nkBegan ≤ (if o.arg 30 2 = 0 then 64 else o.arg 30 2) →
    ∃ u : State, exec (.migrate op 1 ext) s = .next u.settle ∧ u.completed op stOk (o.result % 2 ^ 64) 0 ∧
      u.regions.get (o.arg 16 1) = some { r with migrated := some { m with done := true } }) ∧
  (∀ (s : State) (op units : Nat) (ext : Ext) (o : Op), s.work op 0x06 = some o → o.stage = .walking → o.arg 24 2 ≤ o.cursor →
    ∃ u : State, exec (.regroup op units ext) s = .next u.settle ∧ u.op? op = some { o with stage := .prepared } ∧
      u.regions = s.regions ∧ u.sheaves = s.sheaves) ∧
  (∀ (s : State) (op : Nat) (ext : Ext) (o : Op), s.work op 0x06 = some o → o.stage = .prepared → (∀ t ∈ o.tables, s.concerns t = false) →
    ∃ u : State, exec (.regroupCommit op ext) s = .next u.settle ∧ u.completed op stOk 0 0 ∧ u.regions = s.regions ∧ u.sheaves = s.sheaves))

/-- R223, R226: a MIGRATE that passes its checks copies the image's tiles in order, each an engine write of what its source gives, with the copy's digest; when
no more granules are set than THRESH it ends and its copy is done.
R227 to R230: a REGROUP whose tables pass its checks freezes the maps of the regions that leave; with every sheaf prepared its commit point installs each table,
its epoch and its members' triples, and completes. -/
def Obligations.MigrateAndRegroup : Prop :=
  ((∀ (si s : State) (op units : Nat) (ext : Ext) (o : Op) (v : List Byte), si.work op 0x33 = some o → o.stage = .fresh →
    si.readAt ext (o.arg 32 8) 64 1 = (.data v, s) → s.op? op = some o →
    (s.migrateStatus o (parseImage v) = 0 → ∃ t, exec (.migrate op units ext) si = .next t ∧
      (t.op? op).map (fun x => x.stage) = some .walking ∧ t.mem = s.mem ∧
      (t.regions.get (o.arg 16 1)).map (fun r => r.migrated) = some (some (Migrated.mk (o.arg 18 3) (o.arg 17 1) (o.arg 24 4) v 0#64 false))) ∧
    (s.migrateStatus o (parseImage v) ≠ 0 → ∃ t, exec (.migrate op units ext) si = .next t ∧
      t.completed op (s.migrateStatus o (parseImage v)) 0 0 ∧ t.regions = s.regions)) ∧
  (∀ (s s1 : State) (op n : Nat) (ext : Ext) (o : Op) (r img : Region) (m : Migrated) (v : List Byte), s.work op 0x33 = some o →
    o.stage = .walking → o.st = .running → s.regions.get (o.arg 16 1) = some r → r.migrated = some m → parseImage m.image = some img →
    o.n nkPass = 0 → o.cursor < img.tileCount → img.guard = 0 →
    s.migRead ext op o.jobTag m.sheaf m.member m.source 2 o.cursor = (.data v n, s1) → s1.regions.has (o.arg 16 1) = true → s1.op? op = some o →
    ∃ u : State, exec (.migrate op 1 ext) s = .next u.settle ∧ u.tileBytes img o.cursor = fit 4096 v ∧
      (u.regions.get (o.arg 16 1)).map (fun q => q.migrated) = some (some { m with digest := m.digest + crc64 v * img.weight o.cursor }) ∧
      (u.op? op).map (fun x => x.cursor) = some (o.cursor + 1)) ∧
  (∀ (s : State) (op : Nat) (ext : Ext) (o : Op) (r img : Region) (m : Migrated), s.work op 0x33 = some o →
    o.stage = .walking → s.regions.get (o.arg 16 1) = some r → r.migrated = some m → parseImage m.image = some img →
    o.n nkPass = 0 → img.tileCount ≤ o.cursor → img.granules ≤ (if o.arg 30 2 = 0 then 64 else o.arg 30 2) →
    ∃ u : State, exec (.migrate op 1 ext) s = .next u.settle ∧ u.completed op stOk (o.result % 2 ^ 64) 0 ∧
      (u.regions.get (o.arg 16 1)).map (fun q => q.migrated) = some (some { m with done := true }))) ∧
  ((∀ (si s : State) (op units : Nat) (ext : Ext) (o : Op) (vs : List (List Byte)), si.work op 0x06 = some o → o.stage = .fresh →
    1 ≤ o.arg 24 2 → o.arg 24 2 ≤ 256 → si.readTables ext (o.arg 24 2) (o.arg 16 8) = (.inl vs, s) → s.op? op = some o →
    (s.regroupStatus o vs = 0 → ∃ t, exec (.regroup op units ext) si = .next t ∧
      (t.op? op).map (fun x => x.stage) = some .walking ∧ t.sheaves = s.sheaves ∧ t.mem = s.mem ∧
      ∀ j, j ∈ (vs.filterMap (fun v => parseSheaf v s.now)).flatMap s.leavers → ∀ r, t.regions.get j = some r → ∀ m, r.mig = some m → m.frozen = true) ∧
    (s.regroupStatus o vs ≠ 0 → ∃ t, exec (.regroup op units ext) si = .next t ∧
      t.completed op (s.regroupStatus o vs) 0 0 ∧ t.regions = s.regions ∧ t.sheaves = s.sheaves)) ∧
  (∀ (s : State) (op units : Nat) (ext : Ext) (o : Op), s.work op 0x06 = some o → o.stage = .fresh → o.arg 24 2 = 0 ∨ 256 < o.arg 24 2 →
    ∃ t, exec (.regroup op units ext) s = .next t ∧ t.completed op stNotSupported 0 0 ∧ t.regions = s.regions ∧ t.sheaves = s.sheaves) ∧
  (∀ (s : State) (op units : Nat) (ext : Ext) (o : Op), s.work op 0x06 = some o → o.stage = .walking → o.arg 24 2 ≤ o.cursor →
    ∃ u : State, exec (.regroup op units ext) s = .next u.settle ∧ (u.op? op).map (fun x => x.stage) = some .prepared) ∧
  (∀ (s : State) (op : Nat) (ext : Ext) (o : Op), s.work op 0x06 = some o → o.stage = .prepared →
    ∃ u : State, exec (.regroupCommit op ext) s = .next u.settle ∧ u.completed op stOk 0 0 ∧ (s.auditRoom → s.noReportRing → u.mem = s.mem) ∧
      ∀ t, o.tables = [t] → s.concerns t = true → s.namedBy t.sh ≠ [] →
        ∃ a, u.sheaves.get t.id = some a ∧ a.epoch = t.sh.epoch ∧ a.members.map (fun x => x.triple) = t.sh.members.map (fun x => x.triple)))

/-! ## Page guard (chapter 10) -/

/-- R316, R317: a SCRUB starts at FIRST; a tile that decodes is counted, and one that was corrected is stored corrected; at the end of a pass its
summary is written, and once that write is performed RESULT is the symbols corrected, or with AUTO the next pass begins. -/
def Obligations.ScrubCorrectsTiles : Prop :=
  (∀ (s : State) (op units : Nat) (ext : Ext) (o : Op) (r : Region), s.work op 0x60 = some o → o.stage = .fresh →
    s.regions.get (o.arg 16 1) = some r → countOk (o.arg 24 4) = true →
    (r.guard ≠ 0 → o.arg 20 4 + o.arg 24 4 ≤ r.tileCount → ∃ t, exec (.scrub op units ext) s = .next t ∧
      (t.op? op).map (fun x => (x.stage, x.cursor, x.result)) = some (.walking, o.arg 20 4, 0) ∧ t.mem = s.mem) ∧
    (r.guard = 0 ∨ r.tileCount < o.arg 20 4 + o.arg 24 4 → ∃ t, exec (.scrub op units ext) s = .next t ∧ t.completed op stConflict 0 0)) ∧
  (∀ (s : State) (op : Nat) (ext : Ext) (o : Op) (r : Region) (x : TileRd), s.work op 0x60 = some o → o.stage = .walking → o.st = .running →
    o.cursor + 1 < o.arg 20 4 + o.arg 24 4 → s.regions.get (o.arg 16 1) = some r → (r.state = .fostering → r.built.has o.cursor = true) →
    s.readGuard ext r o.cursor = x → x.ok = true → x.lineBad = false → s.cbwHolds (o.arg 16 1) o.cursor = false → r.strengthAt o.cursor ≠ 0 →
    r.lineApart o.cursor →
    ∃ u : State, exec (.scrub op 1 ext) s = .next u.settle ∧
      (u.op? op).map (fun y => (y.cursor, y.result, y.n nkTiles)) = some (o.cursor + 1, o.result + x.symbols, o.n nkTiles + 1) ∧
      (0 < x.symbols → u.tileBytes r o.cursor = fit 4096 x.data ∧
        ∀ off, r.lineOff o.cursor = some off → u.stackRead off (guardLine (r.strengthAt o.cursor) x.data).length = guardLine (r.strengthAt o.cursor) x.data) ∧
      (x.symbols = 0 → u.mem = s.mem)) ∧
  (∀ (s : State) (op units : Nat) (ext : Ext) (o : Op), s.work op 0x60 = some o → o.stage = .walking → o.arg 20 4 + o.arg 24 4 ≤ o.cursor →
    o.n nkIssued = o.cursor + 1 → s.engineHeld op = false → o.n nkErrors = 0 →
    (o.fAuto = false → ∃ u : State, exec (.scrub op units ext) s = .next u.settle ∧ u.completed op stOk (o.result % 2 ^ 64) 0) ∧
    (o.fAuto = true → o.st = .running → ∃ u : State, exec (.scrub op units ext) s = .next u.settle ∧
      (u.op? op).map (fun x => (x.cursor, x.result)) = some (o.arg 20 4, 0))) ∧
  (∀ (s : State) (op units : Nat) (ext : Ext) (o : Op) (r : Region), s.work op 0x60 = some o → o.stage = .walking → o.arg 20 4 + o.arg 24 4 ≤ o.cursor →
    o.n nkIssued ≠ o.cursor + 1 → s.regions.get (o.arg 16 1) = some r → o.arg 28 8 ≠ 0 → writeStatus ext (o.arg 28 8) = stOk →
    ∃ u t : State, exec (.scrub op units ext) s = .next t ∧ s.wroteAt u op (o.arg 28 8) (o.summary r.guard s.now) ∧
      (u.op? op).map (fun x => x.n nkIssued) = some (o.cursor + 1) ∧ (u.settle.engineHeld op = true → t = u.settle.settle))

/-- R319: GUARD_SET sets ADAPT and walks the region's tiles; each tile is decoded at the old strength and its line written at the new one; at the end GUARD takes the new
value. A strength above GUARD_MAX, a RICK region, or another walk of the region ends it.
R320: at the end of a window a raise that is due makes GUARD one higher, counts it and raises its event; at GUARD_MAX the limit event is raised instead; with none due
the counts start again. While the log is full a due raise is not taken (R419). -/
def Obligations.GuardStrengthChanges : Prop :=
  ((∀ (s : State) (op units : Nat) (ext : Ext) (o : Op) (r : Region), s.work op 0x61 = some o → o.stage = .fresh →
    s.regions.get (o.arg 16 1) = some r →
    (r.role ≠ .rick → bits (o.arg 17 1) 0 3 ≤ r.guardMax → r.reguard = none → ∃ t, exec (.guardSet op units ext) s = .next t ∧
      t.regions.get (o.arg 16 1) = some { r with adapt := bitAt (o.arg 17 1) 3, reguard := some ⟨bits (o.arg 17 1) 0 3, 0⟩ } ∧
      (t.op? op).map (fun x => (x.stage, x.cursor)) = some (.walking, 0) ∧ t.mem = s.mem) ∧
    (r.role = .rick ∨ r.guardMax < bits (o.arg 17 1) 0 3 ∨ r.reguard ≠ none → ∃ t, exec (.guardSet op units ext) s = .next t ∧
      t.completed op stConflict 0 0 ∧ t.regions = s.regions)) ∧
  (∀ (s s1 : State) (op off : Nat) (ext : Ext) (o : Op) (r : Region) (w : Reguard) (v : List Byte), s.work op 0x61 = some o → o.stage = .walking →
    o.st = .running → s.regions.get (o.arg 16 1) = some r → r.reguard = some w → w.guard ≠ 0 → o.cursor + 1 < r.tileCount →
    s.filling (o.arg 16 1) = false → r.state ≠ .fostering → r.lineOff o.cursor = some off →
    s.readTile ext (o.arg 16 1) r o.cursor = (some v, s1) →
    ∃ u : State, exec (.guardSet op 1 ext) s = .next u.settle ∧ u.stackRead off (guardLine w.guard v).length = guardLine w.guard v ∧
      (∀ a, a < s.stackAddr off ∨ s.stackAddr off + (guardLine w.guard v).length ≤ a → byteAt u.mem a = byteAt s1.mem a) ∧
      (u.regions.get (o.arg 16 1)).bind (fun q => q.reguard) = some { w with pos := o.cursor + 1 }) ∧
  (∀ (s : State) (op units : Nat) (ext : Ext) (o : Op) (r : Region) (w : Reguard), s.work op 0x61 = some o → o.stage = .walking →
    s.regions.get (o.arg 16 1) = some r → r.reguard = some w → r.tileCount ≤ o.cursor →
    ∃ u : State, exec (.guardSet op units ext) s = .next u.settle ∧ u.completed op stOk 0 0 ∧
      u.regions.get (o.arg 16 1) = some { r with guard := w.guard, reguard := none } ∧ (s.auditRoom → u.mem = s.mem))) ∧
  (∀ (s : State) (j : Nat) (r : Region), s.regions.get j = some r → s.past r.winStart (bits (s.regN 0x011C) 1 8 * 360000000000) = true →
    r.reguard = none → s.filling j = false →
    (r.adapt = true → r.role ≠ .rick → bitAt (s.regN 0x011C) 0 = true → s.raiseDue r = true → r.guard < r.guardMax → s.auditFull = false →
      ∃ u : State, exec (.guardWindowEnd j) s = .next u.settle ∧ (u.regions.get j).map (fun q => q.guard) = some (r.guard + 1) ∧
        u.raised 79 = true ∧ u.reg (guardCnt 7) = s.reg (guardCnt 7) + 1#32) ∧
    (r.adapt = true → r.role ≠ .rick → bitAt (s.regN 0x011C) 0 = true → s.raiseDue r = true → r.guard < r.guardMax → s.auditFull = true →
      ∃ u : State, exec (.guardWindowEnd j) s = .next u ∧ u.regions.get j = some { r with winStart := s.now } ∧ u.mem = s.mem) ∧
    (r.adapt = true → r.role ≠ .rick → bitAt (s.regN 0x011C) 0 = true → s.raiseDue r = true → r.guardMax ≤ r.guard →
      ∃ u : State, exec (.guardWindowEnd j) s = .next u.settle ∧ u.raised 80 = true ∧
        (u.regions.get j).map (fun q => q.guard) = some r.guard ∧ u.mem = s.mem) ∧
    (r.adapt = false ∨ r.role = .rick ∨ bitAt (s.regN 0x011C) 0 = false ∨ s.raiseDue r = false →
      ∃ t, exec (.guardWindowEnd j) s = .next t ∧ t.regions.get j = some { r with winStart := s.now, winTiles := 0, winLoad := 0, winCtrl := 0 } ∧
        t.mem = s.mem ∧ t.evt = s.evt))

/-- R312 to R315: an agent's flagged read of a guarded tile is answered with the flagged sectors of the tile as guard and sheaf give it, or, where neither does, with the
error response; a tile outside the stack stops the model. -/
def Obligations.FlaggedReadsAnswerCorrected : Prop :=
  ∀ (s : State) (agent tile j : Nat) (mask : BitVec 64) (ext : Ext) (r : Region),
    (tile < stackTiles → s.regionAt tile = some (j, r) → r.strengthAt (tile - r.tileBase) ≠ 0 →
      (∀ v s1, s.seen.readTile (((List.range 64).filter (fun i => mask.getLsbD i)).map (fun i => (s.tileAddr tile + 64 * i, Resp.error)) ++ ext) j r
          (tile - r.tileBase) = (some v, s1) →
        ∃ u : State, exec (.controllerErrorResponse agent tile mask ext) s = .next u.settle ∧
          u.port.tx = s1.port.tx ++ [.agentAnswer agent tile (sectorsOf mask v)] ∧ u.mem = s1.mem) ∧
      (∀ s1, s.seen.readTile (((List.range 64).filter (fun i => mask.getLsbD i)).map (fun i => (s.tileAddr tile + 64 * i, Resp.error)) ++ ext) j r
          (tile - r.tileBase) = (none, s1) →
        ∃ u : State, exec (.controllerErrorResponse agent tile mask ext) s = .next u.settle ∧
          u.port.tx = s1.port.tx ++ [.agentError agent tile] ∧ u.mem = s1.mem)) ∧
    (stackTiles ≤ tile → exec (.controllerErrorResponse agent tile mask ext) s = .fault .outsideStack)

/-! ## Snapshots (chapter 8) -/

/-- R240, R243, R244, R263: a SNAP_CUT that passes its checks takes its slot, zeroes its map and waits for stillness; with AUTO before the interval is over it ends at once with
AUX 0xFF; a malformed or conflicting one ends with its status.
R244, R246: at the freeze edge the slot is FILLING with the next SEQ, its header names the scope and the step, and the copy begins; a DEVICE cut whose
engine is not still in time ends with CONFIG_CONFLICT. So does a cut whose slot is then no more one that a cut may take: that is the model's choice (log
entry 144). -/
def Obligations.SnapCutAndFreeze : Prop :=
  (∀ (s : State) (op units : Nat) (o : Op), s.work op 0x40 = some o → o.stage = .fresh →
    (∀ x, o.cutMalformed = false → (o.fAuto = true → s.snap.interval ≤ s.elapsed ∧ s.auditFull = false) → s.cutConflict o = false →
      s.pickSlot (o.arg 25 1) = some x →
      ∃ u : State, exec (.snapCut op units) s = .next u.settle ∧ (u.op? op).map (fun y => y.stage) = some (.waitStill s.now) ∧
        u.snap.cut.map (fun c => (c.op, c.slot, c.step, c.scope, c.frozen)) = some (o.id, x, o.step, o.arg 24 1, none) ∧
        u.snap.cut.map (fun c => c.regions) = some (s.scoped (o.arg 24 1) (o.arg 16 8)) ∧
        (∀ a, a < s.tileAddr ((s.slotTile x).1 + 3) ∨
            s.tileAddr ((s.slotTile x).1 + 3 + mapTiles (s.tilesOf (s.scoped (o.arg 24 1) (o.arg 16 8)))) ≤ a → byteAt u.mem a = byteAt s.mem a) ∧
        (∀ a, s.tileAddr ((s.slotTile x).1 + 3) ≤ a →
            a < s.tileAddr ((s.slotTile x).1 + 3 + mapTiles (s.tilesOf (s.scoped (o.arg 24 1) (o.arg 16 8)))) → byteAt u.mem a = 0#8)) ∧
    (o.cutMalformed = true → ∃ t, exec (.snapCut op units) s = .next t ∧ t.completed op stNotSupported 0 0 ∧ t.snap = s.snap) ∧
    (o.cutMalformed = false → o.fAuto = true → s.elapsed < s.snap.interval →
      ∃ t, exec (.snapCut op units) s = .next t ∧ t.completed op stOk 0 0xFF ∧ t.snap = s.snap) ∧
    (o.cutMalformed = false → o.fAuto = false → s.cutConflict o = true →
      ∃ t, exec (.snapCut op units) s = .next t ∧ t.completed op stConflict 0 0 ∧ t.snap = s.snap)) ∧
  ((∀ (s : State) (op : Nat) (o : Op) (c : Cut), s.waiting op 0x40 = some o → s.snap.cut = some c → c.op = op → c.frozen = none →
    o.st = .running → s.freezeReady c = true → (o.fAuto = true → s.auditFull = false) → s.cutSlotOk c = true →
    (∀ since, o.stage = .waitStill since → c.scope = 2 → s.now ≤ since + 1000000) →
    ∃ u : State, exec (.snapFreeze op) s = .next u.settle ∧ (u.op? op).map (fun y => y.stage) = some .copying ∧
      u.snapSlot c.slot = ⟨.filling, c.scope, s.snap.seq + 1⟩ ∧ u.snap.seq = s.snap.seq + 1 ∧ u.snap.lastFreeze = some s.now ∧
      u.snap.cut = some { c with frozen := some s.now, seq := s.snap.seq + 1 } ∧ u.regions = s.regions ∧
      (s.auditRoom → field (u.slotHeader c.slot) 0 4 = 0x5759534C ∧ field (u.slotHeader c.slot) 4 1 = 1 ∧
        field (u.slotHeader c.slot) 5 1 = c.scope % 256 ∧ field (u.slotHeader c.slot) 8 6 = c.step % 2 ^ 48)) ∧
  (∀ (s : State) (op : Nat) (o : Op) (c : Cut), s.waiting op 0x40 = some o → s.snap.cut = some c → c.op = op → c.frozen = none →
    o.st = .running → s.freezeReady c = true → (o.fAuto = true → s.auditFull = false) → s.cutSlotOk c = false →
    (s.snapSlot c.slot).st ≠ .draining → (∀ since, o.stage = .waitStill since → c.scope = 2 → s.now ≤ since + 1000000) →
    ∃ u : State, exec (.snapFreeze op) s = .next u.settle ∧ u.completed op stConflict 0 0 ∧ u.snap.cut = none ∧ u.regions = s.regions) ∧
  (∀ (s : State) (op since : Nat) (o : Op) (c : Cut), s.waiting op 0x40 = some o → s.snap.cut = some c → c.op = op → c.scope = 2 → c.frozen = none →
    o.stage = .waitStill since → s.past since 1000000 = true → s.freezeReady c = false →
    ∃ u : State, exec (.snapStillnessTimeout op) s = .next u.settle ∧ u.completed op stConflict 0 0 ∧ u.snap.cut = none ∧ u.regions = s.regions))

/-- R20, R248 to R250: a copy command that ends well makes its tiles COPIED; the last one ends the cut with the slot COMPLETE and its number in AUX; one that ends badly fails
the cut and raises its event. -/
def Obligations.CopyCompletionsEndTheCut : Prop :=
  (∀ (s : State) (tag : Nat) (k : Copy) (c : Cut) (o : Op), s.snap.copies.get tag = some k → s.snap.cut = some c → c.op = k.op →
    s.op? k.op = some o → o.st = .running → o.cursor + k.count ≠ s.tilesOf c.regions →
    ∃ u : State, exec (.copyCompletion tag 0) s = .next u.settle ∧ u.snap.copies = s.snap.copies.del tag ∧
      (u.op? k.op).map (fun x => x.cursor) = some (o.cursor + k.count) ∧
      (∀ n, n < k.count → u.mapCode c (k.first + n) = 2) ∧ u.snap.cut = some c ∧ u.regions = s.regions) ∧
  (∀ (s : State) (tag j i t : Nat) (k : Copy) (c : Cut) (o : Op) (r q : Region), s.snap.copies.get tag = some k → s.snap.cut = some c → c.op = k.op →
    s.op? k.op = some o → o.st = .running → o.cursor + k.count ≠ s.tilesOf c.regions → k.count = 1 →
    s.copyPlace c.regions k.first = some (j, r, t) → r.guard = 0 → s.rick = some (i, q) →
    ∃ u : State, exec (.copyCompletion tag 0) s = .next u.settle ∧
      u.stackRead (((s.slotTile c.slot).1 + 3 + mapTiles (s.tilesOf c.regions) + k.first) * 4096) 4096 = s.tileBytes r t ∧
      (∀ a, a < s.tileAddr ((s.slotTile c.slot).1 + 3 + mapTiles (s.tilesOf c.regions) + k.first) ∨
        s.tileAddr ((s.slotTile c.slot).1 + 3 + mapTiles (s.tilesOf c.regions) + k.first) + 4096 ≤ a → a ≠ s.stackAddr (s.mapOff c.slot k.first) →
        byteAt u.mem a = byteAt s.mem a)) ∧
  (∀ (s : State) (tag : Nat) (k : Copy) (c : Cut) (o : Op), s.snap.copies.get tag = some k → s.snap.cut = some c → c.op = k.op →
    s.op? k.op = some o → o.st ≠ .cancelling → o.cursor + k.count = s.tilesOf c.regions →
    (s.snap.copies.del tag).vals.all (fun x => x.op != c.op) = true →
    ∃ u : State, exec (.copyCompletion tag 0) s = .next u.settle ∧ u.completed k.op stOk 0 c.slot ∧ u.snap.cut = none ∧
      (u.snapSlot c.slot).st = .complete ∧ u.reg (snapCnt 2) = s.reg (snapCnt 2) + 1#32) ∧
  (∀ (s : State) (tag status : Nat) (k : Copy) (c : Cut) (o : Op), s.snap.copies.get tag = some k → s.snap.cut = some c → c.op = k.op →
    s.op? k.op = some o → status ≠ 0 →
    ∃ u : State, exec (.copyCompletion tag status) s = .next u.settle ∧ u.completed k.op stCheckFail 0 0 ∧ u.snap.cut = none ∧
      u.raised 76 = true ∧ u.reg (snapCnt 3) = s.reg (snapCnt 3) + 1#32)

/-- R251 to R256: a SNAP_DRAIN that passes its checks makes its slot DRAINING; each chunk of tiles is written at its place in the store; the
entries of the manifest cell are written after the last chunk, and once its header is acknowledged the slot is DRAINED. SNAP_DISCARD makes a slot that is COMPLETE or DRAINED EMPTY (R261).
R262: INTERVAL is T_PIN while PIN is set and before the first cut; otherwise it is at most T_MAX, or T_MIN where that is the greater, and at least T_MIN where a loss
rate above 0 is known. Nothing else changes. -/
def Obligations.SnapDrainDiscardInterval : Prop :=
  ((∀ (si s1 s : State) (op units : Nat) (ext : Ext) (o : Op) (codes pair : List Byte), si.work op 0x41 = some o → o.stage = .fresh →
    (if o.arg 40 8 = 0 then (Rd.data (zeros 256), si) else si.readAt ext (o.arg 40 8) 256 3) = (.data codes, s1) →
    s1.readAt ext (o.arg 32 8) (2 * cellBytes) 3 = (.data pair, s) → s.op? op = some o →
    (s.drainStatus o codes pair = 0 → ∃ t, exec (.snapDrain op units ext) si = .next t ∧ (t.snapSlot (o.arg 16 1)).st = .draining ∧
      (t.op? op).map (fun x => (x.stage, x.cursor)) = some (.walking, 0) ∧ t.regions = s.regions) ∧
    (s.drainStatus o codes pair ≠ 0 → ∃ t, exec (.snapDrain op units ext) si = .next t ∧ t.completed op (s.drainStatus o codes pair) 0 0 ∧ t.snap = s.snap)) ∧
  (∀ (s s1 : State) (op i t : Nat) (ext : Ext) (o : Op) (e d : SnapEntry) (l : List (List Byte)), s.work op 0x41 = some o → o.stage = .walking →
    entryAt (withTiles (s.slotEntries (o.arg 16 1))) 0 o.cursor = some (i, e, t) →
    o.cursor + chunkLen e t < entryTiles (s.slotEntries (o.arg 16 1)) → o.n nkIssued ≠ o.cursor + 1 → o.narrow i = 0 ∨ s.laneReady = true →
    (s.modOp op (fun x => x.keep nkErrors 0)).readSlotTiles ext e (chunkLen e t) t = (some l, s1) →
    (o.storeEntries (s.slotEntries (o.arg 16 1)) 0 (o.arg 24 8))[i]? = some d → (storedForm (o.narrow i) t l).2 ≠ [] →
    writeStatus ext (d.addr + 4096 * (storedForm (o.narrow i) t l).1) = stOk →
    ∃ u t', exec (.snapDrain op 1 ext) s = .next t' ∧
      s1.wroteAt u op (d.addr + 4096 * (storedForm (o.narrow i) t l).1) (storedForm (o.narrow i) t l).2.flatten ∧
      u.unitEnds t' op (o.cursor + chunkLen e t)) ∧
  (∀ (s : State) (op units a : Nat) (ext : Ext) (o : Op), s.work op 0x41 = some o → o.stage = .walking →
    entryTiles (s.slotEntries (o.arg 16 1)) ≤ o.cursor → a = o.arg 32 8 + cellBytes * ((o.n nkSeq + 1) % 2) →
    (o.n nkIssued ≠ o.cursor + 1 → o.n nkIssued ≠ o.cursor + 2 → writeStatus ext (a + 64) = stOk →
      ∃ u t, exec (.snapDrain op units ext) s = .next t ∧
        s.wroteAt u op (a + 64) (fit (cellBytes - 64) ((o.storeEntries (s.slotEntries (o.arg 16 1)) 0 (o.arg 24 8)).flatMap SnapEntry.bytes)) ∧
        (u.settle.engineHeld op = true → t = u.settle.settle)) ∧
    (o.n nkIssued = o.cursor + 2 → s.engineHeld op = false → o.n nkErrors = 0 →
      ∃ u : State, exec (.snapDrain op units ext) s = .next u.settle ∧
        u.completed op stOk (s.manifestHead o (o.storeEntries (s.slotEntries (o.arg 16 1)) 0 (o.arg 24 8))).2 0 ∧
        (u.snapSlot (o.arg 16 1)).st = .drained ∧ u.snap.tdrain = s.now - o.n nkSince)) ∧
  (∀ (s : State) (op : Nat) (o : Op), s.work op 0x43 = some o →
    ((s.snapSlot (o.arg 16 1)).st = .empty → ∃ t, exec (.snapDiscard op) s = .next t ∧ t.completed op stOk 0 0 ∧ t.snap = s.snap) ∧
    ((s.snapSlot (o.arg 16 1)).st = .complete ∨ (s.snapSlot (o.arg 16 1)).st = .drained →
      ∃ t, exec (.snapDiscard op) s = .next t ∧ t.completed op stOk 0 0 ∧ (t.snapSlot (o.arg 16 1)).st = .empty ∧
        t.regions = s.regions ∧ (s.auditRoom → field (t.slotHeader (o.arg 16 1)) 4 1 = 0)) ∧
    ((s.snapSlot (o.arg 16 1)).st = .filling ∨ (s.snapSlot (o.arg 16 1)).st = .draining →
      ∃ t, exec (.snapDiscard op) s = .next t ∧ t.completed op stConflict 0 0 ∧ t.snap = s.snap))) ∧
  (∀ s : State, ∃ n, exec .intervalRecompute s = .next { s with snap := { s.snap with interval := n } } ∧
    (s.snap.tcut = none ∨ bitAt (s.regN 0x0160) 0 = true → n = 10 * s.rf 0x0164 0 12) ∧
    (s.snap.tcut ≠ none → bitAt (s.regN 0x0160) 0 = false →
      n ≤ Nat.max (10 * s.rf 0x0160 1 12) (10 * s.rf 0x0160 13 12) ∧ (0 < s.lossRate → 10 * s.rf 0x0160 1 12 ≤ n)))

/-- R257 to R260, R107: a SNAP_RESTORE from a slot that passes its checks walks its target tiles from FIRST; each tile of a chunk is a restore write, with its digest; at
the end RESULT is the sum of the targets' digests. -/
def Obligations.SnapRestoreWritesTiles : Prop :=
  (∀ (s : State) (op units : Nat) (ext : Ext) (o : Op) (v : List Byte), s.work op 0x42 = some o → o.stage = .fresh → o.arg 16 1 < 2 → o.arg 24 8 = 0 →
    v = s.stackRead ((s.slotTile (o.arg 16 1)).1 * 4096) 64 ++ s.stackRead ((s.slotTile (o.arg 16 1)).1 * 4096 + 4096) 8192 →
    (slotSnapshot v).scope ≠ 2 →
    (s.restoreStatus o (slotSnapshot v) .error = 0 → ∃ t, exec (.snapRestore op units ext) s = .next t ∧
      (t.op? op).map (fun x => (x.stage, x.cursor)) = some (.walking, o.arg 20 4) ∧ t.mem = s.mem ∧ t.regions = s.regions) ∧
    (s.restoreStatus o (slotSnapshot v) .error ≠ 0 → ∃ t, exec (.snapRestore op units ext) s = .next t ∧
      t.completed op (s.restoreStatus o (slotSnapshot v) .error) 0 0 ∧ t.regions = s.regions)) ∧
  (∀ (s s1 : State) (op i t j : Nat) (ext : Ext) (o : Op) (e : SnapEntry) (r r1 : Region) (v : List Byte) (ts places : List Nat),
    s.work op 0x42 = some o → o.stage = .walking → o.st = .running →
    entryAt (withTiles o.snapshot.tiled) 0 o.cursor = some (i, e, t) → j = o.n (nkTargets + i) → ts = (List.range (chunkLen e t)).map (· + t) →
    o.cursor + chunkLen e t < entryTiles o.snapshot.tiled → t + chunkLen e t < e.tiles → s.regions.get j = some r →
    (∀ x ∈ ts, s.cbwHolds j x = false) → places = ts.filterMap e.place →
    s.readStoredTiles ext o.snapshot e (if places.isEmpty then 0 else places.getLastD 0 + 1 - places.headD 0) (places.headD 0) = (.inl v, s1) →
    s1.regions.get j = some r1 → r1.linesApart ts → s1.op? op = some o →
    ∃ u : State, exec (.snapRestore op 1 ext) s = .next u.settle ∧
      (∀ x ∈ ts, u.tileBytes r1 x = fit 4096 (e.widen (places.headD 0) x v)) ∧
      (u.op? op).map (fun x => x.cursor) = some (o.cursor + chunkLen e t) ∧
      (u.regions.get j).map (fun q => q.digest) = some (if r1.role.digested = true then
        ts.foldl (fun d x => digestStep d (r1.weight x) (s1.tileBytes r1 x) (e.widen (places.headD 0) x v)) r1.digest else r1.digest)) ∧
  (∀ (s : State) (op units : Nat) (ext : Ext) (o : Op), s.work op 0x42 = some o → o.stage = .walking →
    entryTiles o.snapshot.tiled ≤ o.cursor → o.n nkSaved = 0 →
    ∃ u : State, exec (.snapRestore op units ext) s = .next u.settle ∧ u.regions = s.regions ∧
      u.completed op stOk (((List.range o.snapshot.tiled.length).map (fun i =>
        ((s.regions.get (o.n (nkTargets + i))).map (fun r => r.digest.toNat)).getD 0)).sum % 2 ^ 64) 0)

/-! ## The Tedder (chapter 9) -/

/-- R274, R275, R278: a TED_PACK that passes its checks walks pass 1 from FIRST; the end of pass 1 adds its contribution to the cell and polls; ARRIVED equal to EXPECT with
nothing non-finite begins pass 2 with the tensor scale, more than EXPECT or a non-finite contribution ends it; a unit of pass 2 whose writes are done adds its
lengths to RESULT and moves CURSOR; at the end of pass 2 RESULT and AUX are its counts (AUX is the model's choice, log entry 138). -/
def Obligations.TedPackGathersItsScale : Prop :=
  (∀ (s : State) (op units : Nat) (ext : Ext) (o : Op), s.work op 0x50 = some o → o.stage = .fresh →
    (s.packStatus o = 0 → ∃ t, exec (.tedPack op units ext) s = .next t ∧
      (t.op? op).map (fun x => (x.stage, x.cursor, x.n nkBlock)) = some (.walking, 0, o.tedFirst) ∧ t.mem = s.mem ∧ t.regions = s.regions) ∧
    (s.packStatus o ≠ 0 → ∃ t, exec (.tedPack op units ext) s = .next t ∧ t.completed op (s.packStatus o) 0 0)) ∧
  (∀ (s : State) (op units : Nat) (ext : Ext) (o : Op), s.work op 0x50 = some o → o.stage = .walking → o.n nkPassTwo ≠ 2 →
    o.tedLast ≤ o.n nkBlock → bitAt (o.arg 21 1) 4 = false → s.inStack (o.arg 40 8) 64 = true →
    s.meetsRegion (gOff (o.arg 40 8)) 64 = false → s.tap.queue = [] → s.tap.held = [] → o.n nkArrived = 0 → (∀ x ∈ s.port.xfers, x.op ≠ op) →
    ∃ u : State, exec (.tedPack op (units + 1) ext) s = .next u.settle ∧ (u.op? op).map (fun x => x.stage) = some .polling ∧
      leNat (memRead u.mem (o.arg 40 8) 8) = Nat.max (leNat (memRead s.mem (o.arg 40 8) 8)) (o.n nkMaxl) % 2 ^ 64 ∧
      leNat (memRead u.mem (o.arg 40 8 + 8) 8) = (leNat (memRead s.mem (o.arg 40 8 + 8) 8) + o.n nkNonf) % 2 ^ 64 ∧
      leNat (memRead u.mem (o.arg 40 8 + 16) 8) = (leNat (memRead s.mem (o.arg 40 8 + 16) 8) + 1) % 2 ^ 64 ∧
      (∀ a, a < o.arg 40 8 ∨ o.arg 40 8 + 24 ≤ a → byteAt u.mem a = byteAt s.mem a)) ∧
  (∀ (s : State) (op units : Nat) (ext : Ext) (o : Op), s.work op 0x50 = some o → o.stage = .walking → o.n nkPassTwo ≠ 2 →
    o.tedLast ≤ o.n nkBlock → bitAt (o.arg 21 1) 4 = true →
    ∃ u : State, exec (.tedPack op (units + 1) ext) s = .next u.settle ∧ u.op? op = some { o with stage := .polling, hold := s.now } ∧ u.mem = s.mem) ∧
  (∀ (s s1 : State) (op : Nat) (ext : Ext) (o : Op) (v : List Byte), s.waiting op 0x50 = some o → o.stage = .polling → o.n nkErrors = 0 →
    (o.n nkArrived ≠ 0 ∨ bitAt (o.arg 21 1) 4 = true) → s.past o.hold 200 = true → s.readAt ext (o.arg 40 8) 64 1 = (.data v, s1) →
    s1.op? op = some o →
    (field v 16 8 = o.arg 36 4 → field v 8 8 = 0 → ∃ t, exec (.scaleCellPoll op ext) s = .next t ∧
      (t.op? op).map (fun x => (x.stage, x.n nkPassTwo, x.n nkScale)) =
        some (.walking, 2, if field v 0 4 = 0 then 0x3F800000 else field v 0 4) ∧ t.mem = s1.mem) ∧
    (o.arg 36 4 < field v 16 8 ∨ 0 < field v 8 8 →
      ∃ u : State, exec (.scaleCellPoll op ext) s = .next u.settle ∧ u.completed op stCheckFail 0 0) ∧
    (field v 16 8 < o.arg 36 4 → field v 8 8 = 0 → ∃ t, exec (.scaleCellPoll op ext) s = .next t ∧
      t.op? op = some { o with hold := s1.now } ∧ t.mem = s1.mem ∧ t.recs = s1.recs)) ∧
  (∀ (s : State) (op : Nat) (ext : Ext) (o : Op), s.work op 0x50 = some o → o.stage = .walking → o.st = .running → o.n nkPassTwo = 2 →
    o.cursor + o.packSize o.cursor < o.tedLast → o.n nkIssued = 2 * o.cursor + 2 → s.engineHeld op = false → o.n nkErrors = 0 →
    ∃ u : State, exec (.tedPack op 1 ext) s = .next u.settle ∧ u.mem = s.mem ∧
      (u.op? op).map (fun x => (x.cursor, x.result, x.aux)) = some (o.cursor + o.packSize o.cursor,
        o.result + ((List.range (o.packSize o.cursor)).map (fun i => field (leBytes (2 * o.packSize o.cursor) (o.n nkLens)) (2 * i) 2)).sum,
        o.aux + o.n nkEscaped) ∧
      u.reg (tedCnt 0) = s.reg (tedCnt 0) + BitVec.ofNat 32 (o.packSize o.cursor)) ∧
  (∀ (s : State) (op units : Nat) (ext : Ext) (o : Op), s.work op 0x50 = some o → o.stage = .walking → o.n nkPassTwo = 2 →
    o.tedLast ≤ o.cursor →
    ∃ u : State, exec (.tedPack op units ext) s = .next u.settle ∧ u.completed op stOk (o.result % 2 ^ 64) o.aux)

/-- R288, R292, R293, R296 to R298: a TED_APPLY and a TED_ANCHOR_LOAD that pass their checks walk from FIRST; an apply whose own block is absent ends, one that met losses raises
its event at its end; a load from block 0 marks the anchor invalid, writes its image tiles to the anchor, and one to its last block compares the digest and clears
the mark. -/
def Obligations.TedApplyAndAnchorLoad : Prop :=
  (∀ (si s : State) (op units : Nat) (ext : Ext) (o : Op) (tab : List Byte), si.work op 0x51 = some o → o.stage = .fresh →
    o.applyEncoded = true → si.readAt ext (o.arg 32 8) 128 2 = (.data tab, s) → s.op? op = some o →
    (s.applyStatus o tab = 0 → ∃ t, exec (.tedApply op units ext) si = .next t ∧
      (t.op? op).map (fun x => (x.stage, x.cursor)) = some (.walking, o.tedFirst) ∧ t.mem = s.mem ∧ t.regions = s.regions) ∧
    (s.applyStatus o tab ≠ 0 → ∃ t, exec (.tedApply op units ext) si = .next t ∧ t.completed op (s.applyStatus o tab) 0 0)) ∧
  (∀ (s : State) (op units : Nat) (ext : Ext) (o : Op), s.work op 0x51 = some o → o.stage = .fresh → o.applyEncoded = false →
    ∃ t, exec (.tedApply op units ext) s = .next t ∧ t.completed op stNotSupported 0 0 ∧ t.regions = s.regions) ∧
  (∀ (s s1 : State) (op : Nat) (ext : Ext) (o : Op) (k : TedFmt) (rt ra : Region) (v : List Byte), s.work op 0x51 = some o → o.stage = .walking →
    o.cursor < o.tedLast → s.unitBegun op o.cursor = false → tedFmt o.tedFormat = some k → s.regions.get o.theta = some rt →
    s.regions.get o.anchor = some ra → rt.quiet = none → ra.quiet = none → s.laneFree = true →
    (s.modOp op (fun x => x.keep nkErrors 0)).readArea ext k ra.tileCount (s.outBase o) o.cursor = (.inl (0, v), s1) → (s1.op? op).isSome = true →
    ∃ u : State, exec (.tedApply op 1 ext) s = .next u.settle ∧ u.completed op stCheckFail 0 0) ∧
  (∀ (s : State) (op units : Nat) (ext : Ext) (o : Op), s.work op 0x51 = some o → o.stage = .walking → o.tedLast ≤ o.cursor →
    ∃ u : State, exec (.tedApply op units ext) s = .next u.settle ∧ u.completed op stOk (o.result % 2 ^ 64) o.aux ∧
      (o.n nkLoss = 1 → u.raised 77 = true) ∧ u.regions = s.regions) ∧
  (∀ (s : State) (op units : Nat) (ext : Ext) (o : Op) (ra : Region), s.work op 0x52 = some o → o.stage = .fresh →
    s.regions.get o.anchor = some ra →
    (s.tedRegions o none = true → s.tedBusy o = false → ∃ t, exec (.tedAnchorLoad op units ext) s = .next t ∧
      (t.op? op).map (fun x => (x.stage, x.cursor)) = some (.walking, o.tedFirst) ∧ t.mem = s.mem ∧
      t.regions.get o.anchor = some (if o.tedFirst = 0 then { ra with anchorInvalid := true } else ra)) ∧
    (s.tedRegions o none = false ∨ s.tedBusy o = true → ∃ t, exec (.tedAnchorLoad op units ext) s = .next t ∧
      t.completed op stConflict 0 0 ∧ t.regions = s.regions)) ∧
  (∀ (s s1 : State) (op : Nat) (ext : Ext) (o : Op) (ra : Region) (v : List Byte), s.work op 0x52 = some o → o.stage = .walking →
    o.cursor < o.tedLast → s.unitBegun op o.cursor = false → s.regions.get o.anchor = some ra → ra.quiet = none → o.thetaOf = none →
    o.residueOf = none → o.loadSize o.cursor = 1 → (s.modOp op (fun x => x.keep nkErrors 0)).readAt ext (o.arg 32 8 + 4096 * o.cursor) 4096 2 =
      (.data v, s1) → s1.regions.get o.anchor = some ra → s1.op? op = some (o.keep nkErrors 0) → s1.inStack (s1.tileAddr (ra.tileBase + o.cursor)) 4096 = true →
    v.length = 4096 → writeStatus ext (s1.tileAddr (ra.tileBase + o.cursor)) = stOk →
    ∃ u t, exec (.tedAnchorLoad op 1 ext) s = .next t ∧ s1.putDone u engineAgent (some op) (gOff (s1.tileAddr (ra.tileBase + o.cursor))) v ∧
      (u.op? op).map (fun x => x.n nkIssued) = some (2 * o.cursor + 1) ∧ (u.settle.engineHeld op = true → t = u.settle)) ∧
  (∀ (s : State) (op units : Nat) (ext : Ext) (o : Op) (ra : Region), s.work op 0x52 = some o → o.stage = .walking → o.tedLast ≤ o.cursor →
    s.regions.get o.anchor = some ra →
    (o.tedLast = ra.tileCount → o.tedCount ≠ 0 → bitAt (o.arg 19 1) 0 = true → ra.digest.toNat ≠ o.arg 40 8 →
      ∃ u : State, exec (.tedAnchorLoad op units ext) s = .next u.settle ∧ u.completed op stCheckFail 0 0 ∧ u.regions = s.regions) ∧
    (o.tedLast = ra.tileCount → o.tedCount ≠ 0 → (bitAt (o.arg 19 1) 0 = false ∨ ra.digest.toNat = o.arg 40 8) →
      ∃ u : State, exec (.tedAnchorLoad op units ext) s = .next u.settle ∧ u.completed op stOk ra.digest.toNat 0 ∧
        u.regions.get o.anchor = some { ra with anchorInvalid := false }) ∧
    (o.tedLast ≠ ra.tileCount ∨ o.tedCount = 0 →
      ∃ u : State, exec (.tedAnchorLoad op units ext) s = .next u.settle ∧ u.completed op stOk ra.digest.toNat 0 ∧ u.regions = s.regions))

/-! ## Microprograms (chapter 11) -/

/-- R332 and Table 11-4: each arithmetic primitive sets Sc to its function of Sa, Sb and IMM modulo 2^64 and goes on to the next word, and changes nothing else. -/
def Obligations.RegisterPrimitivesCompute : Prop :=
  ∀ (s : State) (q w : Nat) (o : Op),
    (s.runs q o w 0x01 → ∃ t, exec (.uMovi q) s = .next t ∧ s.wroteS t o (uwFc w) (BitVec.ofNat 64 (uwImm w + 2 ^ 32 * uwImm2 w))) ∧
    (s.runs q o w 0x02 → ∃ t, exec (.uAdd q) s = .next t ∧ s.wroteS t o (uwFc w) (o.sreg (uwFa w) + o.sreg (uwFb w))) ∧
    (s.runs q o w 0x03 → ∃ t, exec (.uAddi q) s = .next t ∧
      s.wroteS t o (uwFc w) (o.sreg (uwFa w) + (BitVec.ofNat 32 (uwImm w)).signExtend 64)) ∧
    (s.runs q o w 0x04 → ∃ t, exec (.uSub q) s = .next t ∧ s.wroteS t o (uwFc w) (o.sreg (uwFa w) - o.sreg (uwFb w))) ∧
    (s.runs q o w 0x05 → ∃ t, exec (.uAnd q) s = .next t ∧ s.wroteS t o (uwFc w) (o.sreg (uwFa w) &&& o.sreg (uwFb w))) ∧
    (s.runs q o w 0x06 → ∃ t, exec (.uOr q) s = .next t ∧ s.wroteS t o (uwFc w) (o.sreg (uwFa w) ||| o.sreg (uwFb w))) ∧
    (s.runs q o w 0x07 → ∃ t, exec (.uXor q) s = .next t ∧ s.wroteS t o (uwFc w) (o.sreg (uwFa w) ^^^ o.sreg (uwFb w))) ∧
    (s.runs q o w 0x08 → ∃ t, exec (.uShl q) s = .next t ∧ s.wroteS t o (uwFc w) (o.sreg (uwFa w) <<< bits (uwImm w) 0 6)) ∧
    (s.runs q o w 0x09 → ∃ t, exec (.uShr q) s = .next t ∧ s.wroteS t o (uwFc w) (o.sreg (uwFa w) >>> bits (uwImm w) 0 6)) ∧
    (s.runs q o w 0x0A → ∃ t, exec (.uMul q) s = .next t ∧ s.wroteS t o (uwFc w) (o.sreg (uwFa w) * o.sreg (uwFb w))) ∧
    (s.runs q o w 0x0B → ∃ t, exec (.uField q) s = .next t ∧
      s.wroteS t o (uwFc w) ((o.sreg (uwFa w) >>> bits (uwImm w) 0 6) &&& BitVec.ofNat 64 (2 ^ bits (uwImm w) 6 7 - 1)))

/-- Table 11-4, R337, R344: BR goes to TARGET when its condition holds; YIELD goes on with the CUR register as CURSOR; END forms the final record with the status it names (one
that R94 gives no record is written as CHECK_FAIL, the model's choice, log entry 143); the
queries set Sc; ZERO fills a slot with zeros; TRIG counts its trigger counter. -/
def Obligations.ControlAndQueryPrimitives : Prop :=
  ∀ (s : State) (q w : Nat) (o : Op),
    (s.runs q o w 0x10 → ∃ t, exec (.uBr q) s = .next t ∧ t = { s with ops := t.ops } ∧
      (t.op? o.id).map (fun x => (x.pc, x.regs)) = some (if condHolds (uwCond w) (o.sreg (uwFa w)) (o.sreg (uwFb w)) = true then uwTarget w else o.pc + 1, o.regs)) ∧
    (s.runs q o w 0x11 → o.st = .running → ∃ t, exec (.uYield q) s = .next t ∧ t.mem = s.mem ∧ t.regions = s.regions ∧
      (t.op? o.id).map (fun x => (x.pc, x.cursor, x.regs)) = some (o.pc + 1, o.s (entryCur (s.opEntry o)), o.regs)) ∧
    (s.runs q o w 0x12 → bits (uwImm w) 0 16 = stOk → bitAt (uwImm w) 31 = false →
      ∃ u : State, exec (.uEnd q) s = .next (u.settle.afterWord s o.id w) ∧
      u.completed o.id stOk (o.s (entryRes (s.opEntry o))) (o.s (entryAux (s.opEntry o)) % 2 ^ 16)) ∧
    (s.runs q o w 0x12 → ∃ u : State, exec (.uEnd q) s = .next (u.settle.afterWord s o.id w) ∧
      u.finished o.id (finalStatus (if bitAt (uwImm w) 31 = true then o.s (uwFa w) % 2 ^ 16 else bits (uwImm w) 0 16)) = true) ∧
    (s.runs q o w 0x25 → ∃ t, exec (.uWaitt q) s = .next t ∧ s.wroteS t o (uwFc w) (BitVec.ofNat 64 (match o.slots.get (o.slotA w) with
      | some x => if x.st = .error then x.status else 0
      | none => 0))) ∧
    (s.runs q o w 0x26 → ∃ t, exec (.uWaitall q) s = .next t ∧ s.wroteS t o (uwFc w) (BitVec.ofNat 64 (o.n nkFirstBad)) ∧
      (t.op? o.id).map (fun x => x.n nkFirstBad) = some 0) ∧
    (s.runs q o w 0x27 → ∃ t, exec (.uZero q) s = .next t ∧ t = { s with ops := t.ops } ∧
      (t.op? o.id).map (fun x => (x.pc, x.slots.get (o.slotA w), x.regs)) = some (o.pc + 1, some (Slot.full (zeros 4096)), o.regs)) ∧
    (s.runs q o w 0x28 → ∀ r, s.regions.get (bits (o.s (uwFa w)) 0 8) = some r → ∃ t, exec (.uRtile q) s = .next t ∧
      s.wroteS t o (uwFc w) (BitVec.ofNat 64 (if o.s (uwFb w) < r.tileCount then s.tileAddr (r.tileBase + o.s (uwFb w)) else 0))) ∧
    (s.runs q o w 0x29 → ∀ r sh, s.regions.get (bits (o.s (uwFa w)) 0 8) = some r → s.sheafOf r = some sh → ∃ t, exec (.uShinfo q) s = .next t ∧
      s.wroteS t o (uwFc w) (BitVec.ofNat 64 (sh.k + 2 ^ 8 * sh.m + 2 ^ 16 * r.member))) ∧
    (s.runs q o w 0x2A → ∀ r, s.regions.get (bits (o.s (uwFa w)) 0 8) = some r → ∃ t, exec (.uDigest q) s = .next t ∧
      s.wroteS t o (uwFc w) r.digest) ∧
    (s.runs q o w 0x2B → ∃ t, exec (.uTime q) s = .next t ∧ s.wroteS t o (uwFc w) (BitVec.ofNat 64 s.now)) ∧
    (s.runs q o w 0x2C → (s.seqs.trigOwn.get (bits (o.s (uwFa w)) 0 8) = none ∨ s.seqs.trigOwn.get (bits (o.s (uwFa w)) 0 8) = some o.id) →
      s.outstanding o.id = false → ∃ t, exec (.uTrig q) s = .next t ∧ (t.op? o.id).map (fun x => x.pc) = some (o.pc + 1) ∧
      t.seqs.trig.get (bits (o.s (uwFa w)) 0 8) = some ((s.seqs.trig.get (bits (o.s (uwFa w)) 0 8)).getD 0#32 + 1#32) ∧
      t.seqs.trigOwn.get (bits (o.s (uwFa w)) 0 8) = some o.id ∧ t.mem = s.mem)

/-- Table 11-4, R336, R361: a transfer primitive with a credit and an address that passes is issued once, becomes outstanding, and its program goes on; a load at an own address issues
nothing on the fabric; a write at an own address goes to the tap; one that is refused at issue completes with its status at once. -/
def Obligations.TransferPrimitivesIssue : Prop :=
  (∀ (s : State) (q w : Nat) (o : Op), s.runs q o w 0x20 →
    s.xferStatus o (o.s (uwFb w)) 4096 = 0 → s.creditOk (s.level (o.s (uwFb w))) (uwCls w) (s.xferCredits (o.s (uwFb w)) 4096) = true →
    ∃ t, exec (.uLdt q) s = .next t ∧
      t.port.xfers = s.port.xfers ++ [s.newXfer o (.loadTile (o.slotA w)) (o.s (uwFb w)) (uwCls w)] ∧
      t.port.tx = s.port.tx ++ (if s.own (o.s (uwFb w)) = true then [] else
        [.read (o.s (uwFb w)) 4096 (uwCls w) (s.xferRoute (s.newXfer o (.loadTile (o.slotA w)) (o.s (uwFb w)) (uwCls w)))]) ∧
      (t.op? o.id).map (fun x => (x.pc, x.slots.get (o.slotA w))) = some (o.pc + 1, some Slot.loading) ∧ t.mem = s.mem) ∧
  (∀ (s : State) (q w : Nat) (o : Op), s.runs q o w 0x22 →
    s.xferStatus o (o.s (uwFa w)) 8 = 0 → s.creditOk (s.level (o.s (uwFa w))) (uwCls w) (s.xferCredits (o.s (uwFa w)) 8) = true →
    ∃ t, exec (.uLd64 q) s = .next t ∧
      t.port.xfers = s.port.xfers ++ [s.newXfer o (.load64 (uwFc w)) (o.s (uwFa w)) (uwCls w)] ∧
      (t.op? o.id).map (fun x => (x.pc, x.regs)) = some (o.pc + 1, o.regs) ∧ t.mem = s.mem) ∧
  (∀ (s : State) (q w : Nat) (o : Op) (x : Slot), s.runs q o w 0x21 → o.slots.get (o.slotA w) = some x → x.st = .full →
    s.own (o.s (uwFb w)) = false → uwCls w ≠ 0 → s.xferStatus o (o.s (uwFb w)) 4096 = 0 →
    s.creditOk (s.level (o.s (uwFb w))) (uwCls w) (s.xferCredits (o.s (uwFb w)) 4096) = true →
    ∃ t, exec (.uStt q) s = .next t ∧
      t.port.xfers = s.port.xfers ++ [s.newXfer o (.storeTile (o.slotA w) x.data) (o.s (uwFb w)) (uwCls w)] ∧
      t.port.tx = s.port.tx ++ [.write (o.s (uwFb w)) x.data (uwCls w) (s.xferRoute (s.newXfer o (.storeTile (o.slotA w) x.data) (o.s (uwFb w)) (uwCls w)))] ∧
      (t.op? o.id).map (fun y => y.pc) = some (o.pc + 1) ∧ t.mem = s.mem) ∧
  (∀ (s : State) (q w : Nat) (o : Op), s.runs q o w 0x23 →
    s.own (o.s (uwFa w)) = false → uwCls w ≠ 0 → s.xferStatus o (o.s (uwFa w)) 8 = 0 →
    s.creditOk (s.level (o.s (uwFa w))) (uwCls w) (s.xferCredits (o.s (uwFa w)) 8) = true →
    ∃ t, exec (.uSt64 q) s = .next t ∧
      t.port.xfers = s.port.xfers ++ [s.newXfer o (.store64 (o.sreg (uwFb w))) (o.s (uwFa w)) (uwCls w)] ∧
      (t.op? o.id).map (fun y => y.pc) = some (o.pc + 1) ∧ t.mem = s.mem) ∧
  (∀ (s : State) (q w : Nat) (o : Op), s.runs q o w 0x24 →
    s.own (o.s (uwFa w)) = false → s.xferStatus o (o.s (uwFa w)) 8 = 0 →
    s.creditOk (s.level (o.s (uwFa w))) (uwCls w) (s.xferCredits (o.s (uwFa w)) 8) = true →
    ∃ t, exec (.uRed q) s = .next t ∧
      t.port.xfers = s.port.xfers ++ [{ s.newXfer o (.reduce (bitAt (uwImm w) 0) (o.sreg (uwFb w))) (o.s (uwFa w)) (uwCls w) with due := s.now + 1000000 }] ∧
      (t.op? o.id).map (fun y => y.pc) = some (o.pc + 1) ∧ t.mem = s.mem) ∧
  (∀ (s : State) (q w : Nat) (o : Op), s.runs q o w 0x20 → s.xferStatus o (o.s (uwFb w)) 4096 ≠ 0 →
    ∃ t, exec (.uLdt q) s = .next t ∧ t.port.tx = s.port.tx ∧
      (t.op? o.id).map (fun x => (x.pc, x.slots.get (o.slotA w))) =
        some (o.pc + 1, some (Slot.failed (s.xferStatus o (o.s (uwFb w)) 4096))) ∧ t.mem = s.mem) ∧
  (∀ (s : State) (q w : Nat) (o : Op) (x : Slot), s.runs q o w 0x21 → o.slots.get (o.slotA w) = some x → x.st = .full →
    s.own (o.s (uwFb w)) = true → s.xferStatus o (o.s (uwFb w)) 4096 = 0 →
    s.creditOk (s.level (o.s (uwFb w))) (uwCls w) (s.xferCredits (o.s (uwFb w)) 4096) = true →
    ∃ u : State, exec (.uStt q) s = .next (u.settle.afterWord s o.id w) ∧
      u.port.xfers = s.port.xfers ++ [s.newXfer o (.storeTile (o.slotA w) x.data) (o.s (uwFb w)) (uwCls w)] ∧
      s.putDone u (if o.user = true then engineAgent + 1 + s.port.nextXfer else engineAgent) (if o.user = true then none else some o.id)
        (gOff (o.s (uwFb w))) x.data ∧ (u.op? o.id).map (fun y => y.pc) = some (o.pc + 1)) ∧
  (∀ (s : State) (q w : Nat) (o : Op), s.runs q o w 0x23 → s.own (o.s (uwFa w)) = true → s.xferStatus o (o.s (uwFa w)) 8 = 0 →
    s.creditOk (s.level (o.s (uwFa w))) (uwCls w) (s.xferCredits (o.s (uwFa w)) 8) = true →
    ∃ u : State, exec (.uSt64 q) s = .next (u.settle.afterWord s o.id w) ∧
      s.putDone u (if o.user = true then engineAgent + 1 + s.port.nextXfer else engineAgent) (if o.user = true then none else some o.id)
        (gOff (o.s (uwFa w))) (leBytes 8 (o.s (uwFb w))) ∧ (u.op? o.id).map (fun y => y.pc) = some (o.pc + 1)) ∧
  (∀ (s : State) (q w : Nat) (o : Op), s.runs q o w 0x24 → s.own (o.s (uwFa w)) = true → s.xferStatus o (o.s (uwFa w)) 8 = 0 →
    s.creditOk (s.level (o.s (uwFa w))) (uwCls w) (s.xferCredits (o.s (uwFa w)) 8) = true →
    ∃ u : State, exec (.uRed q) s = .next (u.settle.afterWord s o.id w) ∧
      s.putDone u (if o.user = true then engineAgent + 1 + s.port.nextXfer else engineAgent) (if o.user = true then none else some o.id)
        (gOff (o.s (uwFa w))) (leBytes 8 (if bitAt (uwImm w) 0 = true then Nat.max (leNat (s.pendingRead (gOff (o.s (uwFa w))) 8)) (o.s (uwFb w))
          else leNat (s.pendingRead (gOff (o.s (uwFa w))) 8) + o.s (uwFb w))) ∧ (u.op? o.id).map (fun y => y.pc) = some (o.pc + 1))

/-- Table 11-4, R340: with a lane enabled and no fault, GFMUL scales a slot, XORT adds two, CRC gives the CRC-64 of one and CMPT compares two, and no byte of memory and no
lane changes. R341, R342: the checks of a product and of a sum are the product and the sum of the checks, so that the predictions from the inputs agree with the outputs.
R343: with no enabled lane left the operation ends with LANE_QUARANTINED. -/
def Obligations.LanePrimitivesCompute : Prop :=
  (∀ (s : State) (q w : Nat) (o : Op), s.boot.lanes ≠ 0#32 →
    (∀ (a : List Byte) (r : Nat), s.runs q o w 0x30 → uwCsrc w = 0 → uwAcc w = false →
      o.slots.get (o.slotA w) = some (Slot.full a) → a.length = 4096 → r < uwRows w →
      ∃ t, exec (.uGfmul q noFault) s = .next t ∧ t.mem = s.mem ∧ t.boot = s.boot ∧
        (t.op? o.id).map (fun x => (x.pc, x.slots.get (o.slotC w + r))) =
          some (o.pc + 1, some (Slot.full (gfScale (BitVec.ofNat 8 (uwImm2 w / 256 ^ r)) a)))) ∧
    (∀ (a b : List Byte), s.runs q o w 0x31 → o.slots.get (o.slotA w) = some (Slot.full a) →
      o.slots.get (uwFb w) = some (Slot.full b) → a.length = 4096 → b.length = 4096 →
      ∃ t, exec (.uXort q noFault) s = .next t ∧ t.mem = s.mem ∧ t.boot = s.boot ∧
        (t.op? o.id).map (fun x => (x.pc, x.slots.get (o.slotC w), x.regs)) = some (o.pc + 1, some (Slot.full (xorBytes a b)), o.regs)) ∧
    (∀ a : List Byte, s.runs q o w 0x32 → o.slots.get (o.slotA w) = some (Slot.full a) →
      ∃ t, exec (.uCrc q noFault) s = .next t ∧ t.mem = s.mem ∧ t.boot = s.boot ∧
        (t.op? o.id).map (fun x => (x.pc, x.sreg (uwFc w), x.slots)) = some (o.pc + 1, crc64 a, o.slots)) ∧
    (∀ a b : List Byte, s.runs q o w 0x33 → o.slots.get (o.slotA w) = some (Slot.full a) →
      o.slots.get (uwFb w) = some (Slot.full b) → ∃ t, exec (.uCmpt q noFault) s = .next t ∧ t.mem = s.mem ∧ t.boot = s.boot ∧
        (t.op? o.id).map (fun x => (x.pc, x.sreg (uwFc w), x.slots)) = some (o.pc + 1, if a = b then 1#64 else 0#64, o.slots))) ∧
  (∀ (c : Byte) (a b : List Byte), a.length = 4096 → b.length = 4096 →
    tileChecks (gfScale c a) = (tileChecks a).map (fun x => (gfMul c x.1, gfMul c x.2)) ∧
    tileChecks (xorBytes a b) = xorChecks (tileChecks a) (tileChecks b)) ∧
  (∀ (s : State) (q w : Nat) (o : Op) (f : LaneFault), s.boot.lanes = 0#32 → s.runs q o w 0x31 →
    ∃ u : State, exec (.uXort q f) s = .next (u.settle.afterWord s o.id w) ∧ u.finished o.id stQuarantined = true ∧ (s.auditRoom → u.mem = s.mem))

/-- Table 11-4: the primitives of built-in entries. MTILE gives a local member's tile address, and 0 for a virtual tile; DECODE gives a decode slot for its region and mask; QREAD of a
local member fills its slot; QSEND puts a message in its context; APPLY writes a tile with its digest; TEDQ fills its slot; TEDA puts its block's tiles at the tap's input. -/
def Obligations.BuiltInPrimitivesAct : Prop :=
  ∀ (s : State) (q w : Nat) (o : Op),
    (∀ r sh x, s.runs q o w 0x40 → s.memberOf (bits (o.s (uwFa w)) 0 8) (bits (o.s (uwFa w)) 8 8) = some (r, sh, x) →
      (sh.virtual (bits (o.s (uwFa w)) 8 8) (o.s (uwFb w)) = true → ∃ t, exec (.uMtile q) s = .next t ∧ s.wroteS t o (uwFc w) 0#64) ∧
      (∀ j p, sh.virtual (bits (o.s (uwFa w)) 8 8) (o.s (uwFb w)) = false → s.isLocal x = true →
        s.localMember r.sheaf (bits (o.s (uwFa w)) 8 8) = some (j, p) →
        ∃ t, exec (.uMtile q) s = .next t ∧ s.wroteS t o (uwFc w) (BitVec.ofNat 64 (s.tileAddr (p.tileBase + o.s (uwFb w)))))) ∧
    (∀ r x, s.runs q o w 0x44 → s.memberOf (bits (o.s (uwFa w)) 0 8) 0 = some (r, x) →
      ((List.range x.1.m).filter (fun i => bitAt (o.s (uwFb w)) (x.1.k + i))).length = ((List.range x.1.k).filter (fun i => !bitAt (o.s (uwFb w)) i)).length →
      (s.recovery (bits (o.s (uwFa w)) 0 8) ((List.range x.1.m).filter (fun i => bitAt (o.s (uwFb w)) (x.1.k + i)))
        ((List.range x.1.k).filter (bitAt (o.s (uwFb w)))) ((List.range x.1.k).filter (fun i => !bitAt (o.s (uwFb w)) i))).isSome = true →
      s.tables.dec.length < 64 →
      ∃ t k d, exec (.uDecode q) s = .next t ∧ (k, d) ∈ t.tables.dec ∧ d.region = bits (o.s (uwFa w)) 0 8 ∧ d.mask = o.s (uwFb w) ∧
        d.epoch = r.epoch ∧ (t.op? o.id).map (fun y => (y.pc, y.sreg (uwFc w))) = some (o.pc + 1, BitVec.ofNat 64 k) ∧ t.mem = s.mem) ∧
    (∀ r sh x v n s1, s.runs q o w 0x42 → s.memberOf (bits (o.s (uwFb w)) 0 8) (bits (o.s (uwFb w)) 8 8) = some (r, sh, x) → s.isLocal x = true →
      s.readOwnMember [] (bits (uwImm w) 0 8) r.sheaf (bits (o.s (uwFb w)) 8 8) (o.s (uwFc w)) = (.data v n, s1) → s1.op? o.id = some o →
      ∃ t, exec (.uQread q) s = .next t ∧ (t.op? o.id).map (fun y => (y.pc, y.slots.get (o.slotA w))) = some (o.pc + 1, some (Slot.full v)) ∧
        t.mem = s1.mem) ∧
    (∀ c x, s.runs q o w 0x43 → s.port.sctx.get (bits (o.s (uwFb w)) 0 10) = some c → s.ctxTakes c = true → s.codeFree ≠ 0 →
      o.slots.get (o.slotA w) = some x → x.st = .full →
      ∃ t m, exec (.uQsend q) s = .next t ∧ (t.op? o.id).map (fun y => y.pc) = some (o.pc + 1) ∧ m.seq = c.next ∧ m.st = .queued ∧
        t.port.sctx.get (bits (o.s (uwFb w)) 0 10) = some { c with next := (c.next + 1) % 2 ^ 32, msgs := c.msgs ++ [m] } ∧
        t.reg (qtrCnt 0) = s.reg (qtrCnt 0) + 1#32 ∧ t.mem = s.mem) ∧
    (∀ r v, s.runs q o w 0x41 → s.regions.get (bits (o.s (uwFa w)) 0 8) = some r → s.port.applyQ = [] → bits (uwImm w) 4 2 = 3 →
      o.s (uwFb w) < r.tileCount → s.cbwHolds (bits (o.s (uwFa w)) 0 8) (o.s (uwFb w)) = false → bitAt (uwImm w) 0 = true → r.role.digested = true →
      o.slots.get (o.slotC w) = some (Slot.full v) → r.lineApart (o.s (uwFb w)) →
      ∃ t : State, exec (.uApply q []) s = .next (t.settle.afterWord s o.id w) ∧ t.tileBytes r (o.s (uwFb w)) = fit 4096 v ∧ (t.op? o.id).map (fun y => y.pc) = some (o.pc + 1) ∧
        (t.regions.get (bits (o.s (uwFa w)) 0 8)).map (fun p => p.digest) =
          some (digestStep r.digest (r.weight (o.s (uwFb w))) (s.tileBytes r (o.s (uwFb w))) v)) ∧
    (∀ x, s.runs q o w 0x48 → s.boot.lanes ≠ 0#32 → o.slots.get (o.slotA w) = some x → x.st = .full →
      ∃ t, exec (.uTedq q noFault) s = .next t ∧ t.mem = s.mem ∧
        (t.op? o.id).map (fun y => (y.pc, (y.slots.get (uwFb w)).map (fun z => z.st))) = some (o.pc + 1, some .full)) ∧
    (∀ rt ra, s.runs q o w 0x49 → s.boot.lanes ≠ 0#32 → o.opcode = 0x51 → s.regions.get o.theta = some rt → s.regions.get o.anchor = some ra →
      rt.format = .fp32 → s.regionAt (rt.tileBase + rt.blockTile o.cursor) = some (o.theta, rt) → s.regionAt (ra.tileBase + o.cursor) = some (o.anchor, ra) →
      rt.tileBase + rt.blockTile o.cursor < stackTiles → ra.tileBase + o.cursor < stackTiles → s.strap.node < 2 ^ 18 → s.strap.engine < 16 →
      ∃ (v : State) (a b : List (Option Byte)), exec (.uTeda q noFault) s = .next (v.settle.afterWord s o.id w) ∧
        (v.op? o.id).map (fun y => y.pc) = some (o.pc + 1) ∧ v.mem = s.mem ∧ a.length = 4096 ∧ b.length = 4096 ∧
        v.tap.queue = s.tap.queue ++ [⟨engineAgent, some o.id, (rt.tileBase + rt.blockTile o.cursor) * 4096, a⟩,
          ⟨engineAgent, some o.id, (ra.tileBase + o.cursor) * 4096, b⟩])

/-- R329, R332, R338: a user entry's word does what its primitive's command does; a word of a reserved OPC, or of a primitive of built-in entries, ends it with CHECK_FAIL and the microcode-fault event, and
so does its watchdog.
R336: an answer ends its transfer: data fill the register or slot it is for, an error response gives its slot ERROR with CHECK_FAIL; a try whose timer runs out is issued
again, and at the retry limit the transfer ends with PATH_FAILED; a reduction that is not acknowledged in time ends its operation so. -/
def Obligations.UserEntriesAndTransfers : Prop :=
  ((∀ (s : State) (op q w : Nat) (o : Op) (f : Prim), o.id = op → o.user = true → s.seqs.q.find? (fun p => p.2 == op) = some (q, op) →
    s.primOp q = some o → s.codeWord o = some w → userPrim (uwOpc w) = some f →
    exec (.userEntry op 1) s = .next (s.prim q (uwOpc w) f)) ∧
  (∀ (s : State) (op q w : Nat) (o : Op), o.id = op → o.user = true → s.seqs.q.find? (fun p => p.2 == op) = some (q, op) →
    s.primOp q = some o → s.codeWord o = some w → userPrim (uwOpc w) = none →
    ∃ u : State, exec (.userEntry op 1) s = .next u.settle ∧ u.finished op stCheckFail = true ∧ u.raised 82 = true ∧
      u.reg (seqCnt 2) = s.reg (seqCnt 2) + 1#32) ∧
  (∀ (s : State) (op : Nat) (o : Op), s.op? op = some o → o.user = true → o.started = true →
    (s.seqs.q.any (fun p => p.2 == op) = true ∧ s.past o.hold 10000 = true ∨
      (o.st = .suspending ∨ o.st = .cancelling) ∧ o.control.any (fun c => s.past c 10000) = true) →
    ∃ u : State, exec (.userEntryWatchdog op) s = .next u.settle ∧ u.finished op stCheckFail = true ∧ u.raised 82 = true ∧
      u.reg (seqCnt 3) = s.reg (seqCnt 3) + 1#32)) ∧
  ((∀ (s : State) (x r : Nat) (y : Xfer) (o : Op) (v : List Byte), s.port.xfers.find? (fun z => z.id == x) = some y → y.kind = .load64 r →
    s.own y.addr = false → s.op? y.op = some o →
    ∃ u : State, exec (.transferComplete x (.data v)) s = .next u.settle ∧ (∀ z ∈ u.port.xfers, z.id ≠ x) ∧
      (u.op? y.op).map (fun p => p.sreg r) = some (BitVec.ofNat 64 (field v 0 8)) ∧ u.mem = s.mem) ∧
  (∀ (s : State) (x k : Nat) (y : Xfer) (o : Op) (v : List Byte), s.port.xfers.find? (fun z => z.id == x) = some y → y.kind = .loadTile k →
    s.own y.addr = false → s.op? y.op = some o →
    (∃ u : State, exec (.transferComplete x (.data v)) s = .next u.settle ∧
      (u.op? y.op).map (fun p => p.slots.get k) = some (some (Slot.full (fit 4096 v)))) ∧
    (∃ u : State, exec (.transferComplete x .error) s = .next u.settle ∧
      (u.op? y.op).map (fun p => p.slots.get k) = some (some (Slot.failed stCheckFail)))) ∧
  (∀ (s : State) (x k : Nat) (y : Xfer), s.port.xfers.find? (fun z => z.id == x) = some y → y.kind = .loadTile k → s.own y.addr = false →
    y.due ≤ s.now → y.tries < 64 → s.now < y.first + 1000000 →
    ∃ t z route, exec (.fabricRetryTimeout x) s = .next t ∧ t.port.tx = s.port.tx ++ [.read y.addr 4096 y.cls route] ∧ z ∈ t.port.xfers ∧
      z.id = x ∧ z.tries = y.tries + 1 ∧ z.due = s.now + s.backoff y.timeout ∧ t.mem = s.mem ∧ t.ops = s.ops) ∧
  (∀ (s : State) (x k : Nat) (y : Xfer) (o : Op), s.port.xfers.find? (fun z => z.id == x) = some y → y.kind = .loadTile k → s.own y.addr = false →
    s.op? y.op = some o → (y.due ≤ s.now ∧ 64 ≤ y.tries ∨ y.first + 1000000 ≤ s.now) →
    ∃ u : State, exec (.fabricRetryTimeout x) s = .next u.settle ∧ u.port.tx = s.port.tx ∧
      (u.op? y.op).map (fun p => p.slots.get k) = some (some (Slot.failed stPathFailed))) ∧
  (∀ (s : State) (x : Nat) (y : Xfer) (o : Op) (max : Bool) (v : Word64), s.port.xfers.find? (fun z => z.id == x) = some y → y.kind = .reduce max v →
    s.own y.addr = false → y.due ≤ s.now → s.op? y.op = some o →
    ∃ u : State, exec (.reductionTimeout x) s = .next u.settle ∧ u.finished y.op stPathFailed = true ∧ ∀ z ∈ u.port.xfers, z.id ≠ x))

/-! ## The write tap (chapter 4) -/

/-- R14, R17, R18, R49: a write outside the stack stops the model; one to no region is performed, any other one goes to the tap's input. The tap takes the oldest write
there while fewer than 32 are held: one to a region that only the engine writes, or that is released, gets the error response, its counter and its event, and one to a
captured region is held. -/
def Obligations.WritesArriveAtTheTap : Prop :=
  (∀ (s : State) (agent addr : Nat) (data : List (Option Byte)) (ext : Ext),
    (stackBytes < addr + data.length → exec (.writeArrival agent addr data ext) s = .fault .outsideStack) ∧
    (addr + data.length ≤ stackBytes → s.meetsRegion addr data.length = false →
      ∃ u : State, exec (.writeArrival agent addr data ext) s = .next u.settle ∧
        (∀ i, i < data.length → byteAt u.mem (s.stackAddr addr + i) = (data.getD i none).getD (byteAt s.mem (s.stackAddr addr + i))) ∧
        (∀ a, a < s.stackAddr addr ∨ s.stackAddr addr + data.length ≤ a → byteAt u.mem a = byteAt s.mem a) ∧
        u.regions = s.regions ∧ u.tap = s.tap) ∧
    (addr + data.length ≤ stackBytes → s.meetsRegion addr data.length = true →
      ∃ u : State, exec (.writeArrival agent addr data ext) s = .next u.settle ∧ u.mem = s.mem ∧ u.regions = s.regions ∧
        u.tap = { s.tap with queue := s.tap.queue ++ [⟨agent, none, addr, data⟩] })) ∧
  (∀ (s : State) (q : Queued) (l : List Queued), s.tap.queue = q :: l →
    (32 ≤ s.heldWrites → s.admitMove = none) ∧
    (∀ j r, s.heldWrites < 32 → q.data ≠ [] → q.off % 4096 + q.data.length ≤ 4096 → s.regionAt (q.off / 4096) = some (j, r) →
      (((r.role.engineOnly = true ∧ q.agent ≠ engineAgent) ∨ r.state = .releasing) → q.op = none → ∃ u, s.admitMove = some u ∧
        u.mem = s.mem ∧ u.tap.held = s.tap.held ∧ u.tap.queue = l ∧
        u.port.tx = s.port.tx ++ [.agentError q.agent (r.tileBase + (q.off / 4096 - r.tileBase))] ∧
        u.reg (faultCnt 1) = s.reg (faultCnt 1) + 1#32 ∧ u.raised 65 = true) ∧
      (r.role.captured = true → r.state ≠ .releasing → s.restoring j = false →
        ∃ u h, s.admitMove = some u ∧ u.mem = s.mem ∧ u.tap.held = s.tap.held ++ [h] ∧ u.tap.queue = l ∧
          h.id = s.tap.nextId ∧ h.agent = q.agent ∧ h.region = j ∧ h.tile = q.off / 4096 - r.tileBase ∧ h.off = q.off % 4096 ∧ h.data = q.data)))

/-- R112 to R115, R118, R218: a snooped read of an optimizer agent is noted, and one of an unbuilt tile is counted and raised; its response enters pairing while an entry is free and is
not stale; an entry leaves at its expiry edge; a slot not fully written closes when ASM_WIN has passed. -/
def Obligations.PairingAndAssemblyTimers : Prop :=
  (∀ (s : State) (agent tile rid : Nat), (stackTiles ≤ tile → exec (.readRequestSnoop agent tile rid) s = .fault .outsideStack) ∧
    (tile < stackTiles → ∃ t, exec (.readRequestSnoop agent tile rid) s = .next t ∧ t.mem = s.mem ∧ t.regions = s.regions ∧
      t.tap.inflight = s.tap.inflight ++ (if bitAt (s.regN 0x0110) agent = true then [⟨rid, agent, tile, false⟩] else []) ∧
      (∀ j r, s.regionAt tile = some (j, r) → r.state = .fostering → r.built.has (tile - r.tileBase) = false →
        t.raised 73 = true ∧ t.reg (rbldCnt 6) = s.reg (rbldCnt 6) + 1#32))) ∧
  (∀ (s : State) (rid : Nat) (mask : BitVec 64) (error : Bool) (q : Inflight), s.tap.inflight.find? (fun x => x.rid == rid) = some q →
    s.tap.pairs.get q.tile = none →
    ∃ t, exec (.pairingReadResponse rid mask error) s = .next t ∧ t.tap.inflight = s.tap.inflight.filter (fun x => x.rid != rid) ∧ t.mem = s.mem ∧
      (error = true → t.tap.pairs = s.tap.pairs) ∧
      (q.stale = true → t.tap.pairs = s.tap.pairs ∧ t.reg (tapCnt 4) = s.reg (tapCnt 4) + 1#32) ∧
      (∀ j r, error = false → q.stale = false → s.regionAt q.tile = some (j, r) → r.role.captured = true →
        (s.tap.pairs.length < 32 * s.partPair → t.tap.pairs.get q.tile =
          some ⟨bySector mask (s.tileBytes r (q.tile - r.tileBase)) (zeros 4096), mask, 0#64, s.boot.mclk.toNat⟩) ∧
        (32 * s.partPair ≤ s.tap.pairs.length → t.tap.pairs = s.tap.pairs ∧ t.reg (tapCnt 2) = s.reg (tapCnt 2) + 1#32))) ∧
  (∀ (s : State) (tile : Nat) (e : PairEntry), s.tap.pairs.get tile = some e →
    (e.edge + 1600 * s.rf 0x010C 0 10 ≤ s.boot.mclk.toNat → ∃ t, exec (.pairExpiry tile) s = .next t ∧ t.tap.pairs.get tile = none ∧
      (∀ k, k ≠ tile → t.tap.pairs.get k = s.tap.pairs.get k) ∧ t.mem = s.mem ∧
      (e.valid &&& ~~~e.paired ≠ 0#64 → t.reg (tapCnt 3) = s.reg (tapCnt 3) + 1#32)) ∧
    (s.boot.mclk.toNat < e.edge + 1600 * s.rf 0x010C 0 10 → exec (.pairExpiry tile) s = .next s)) ∧
  (∀ (s : State) (slot : Nat) (d : Delta), s.tap.slots.get slot = some d → d.closed = false →
    s.tap.held.any (fun h => h.slot == some slot) = false → d.written ≠ allSectors →
    (s.past d.opened (25 * s.rf 0x010C 10 6) = true → ∃ u : State, exec (.tileDeltaAsmTimeout slot) s = .next u.settle ∧
      u.tap.slots.get slot = some { d with closed := true } ∧ u.reg (tapCnt 6) = s.reg (tapCnt 6) + 1#32 ∧ u.mem = s.mem) ∧
    (s.past d.opened (25 * s.rf 0x010C 10 6) = false → exec (.tileDeltaAsmTimeout slot) s = .next s))

/-- R117, R118, R123, R127, R370, R371: the tap's own reads return: an own read lets its write meet a slot; a completion read moves the digest from the old tile to the new one; a log
read-back captures its write, whose log tile takes base ⊕ Δ in the written sectors; a re-read of the log gives a parked delta a slot again. A read that guard and sheaf do not correct fails its capture. -/
def Obligations.TapReadsReturn : Prop :=
  (∀ (s : State) (w : Nat) (ext : Ext) (h : Held) (r : Region), s.tap.held.find? (fun x => x.id == w && x.cap == .ownRead) = some h →
    s.regions.get h.region = some r → r.strengthAt h.tile = 0 →
    ((s.tileRaw ext (r.tileBase + h.tile)).2.any (fun i => h.need.getLsbD i) = false →
      ∃ u : State, exec (.ownReadReturn w ext) s = .next u.settle ∧ u.mem = s.mem ∧
        u.tap.held = s.tap.held.map (fun x => if x.id = h.id then { x with cap := .waitSlot } else x) ∧
        u.reg (tapCnt 1) = s.reg (tapCnt 1) + BitVec.ofNat 32 (popcount h.need)) ∧
    (∀ s1, (s.tileRaw ext (r.tileBase + h.tile)).2.any (fun i => h.need.getLsbD i) = true →
      s.readTile ext h.region r h.tile = (none, s1) →
      ∃ u : State, exec (.ownReadReturn w ext) s = .next u.settle ∧ (∀ x ∈ u.tap.held, x.id ≠ h.id) ∧ u.raised 66 = true ∧
        u.reg (tapCnt 7) = s1.reg (tapCnt 7) + 1#32 ∧ u.mem = s1.mem)) ∧
  (∀ (s s1 : State) (slot : Nat) (ext : Ext) (d : Delta) (r r1 : Region) (clean : Bool), s.tap.slots.get slot = some d → d.closed = true →
    d.waiting = false → d.msgs = 0 → s.regions.get d.region = some r →
    clean = (r.strengthAt d.tile == 0 && (s.tileRaw ext (r.tileBase + d.tile)).2.all (fun i => d.written.getLsbD i)) →
    (∀ v, (clean = true ∧ s1 = s ∨ clean = false ∧ s.readTile ext d.region r d.tile = (some v, s1)) → s1.regions.get d.region = some r1 →
      s1.tap.slots.get slot = some d →
      ∃ u : State, exec (.completionReadReturn slot ext) s = .next u.settle ∧ u.mem = s1.mem ∧
        (u.regions.get d.region).map (fun q => q.digest) = some (digestStep r1.digest (r1.weight d.tile)
          (xorBytes (s1.tileCaptured d.region d.tile r1) d.delta) (s1.tileCaptured d.region d.tile r1))) ∧
    (clean = false → s.readTile ext d.region r d.tile = (none, s1) →
      ∃ u : State, exec (.completionReadReturn slot ext) s = .next u.settle ∧ u.tap.slots.get slot = none ∧ u.raised 66 = true ∧
        u.reg (tapCnt 7) = s1.reg (tapCnt 7) + 1#32 ∧ u.mem = s1.mem)) ∧
  (∀ (s s1 : State) (slot j lt j1 lt1 n : Nat) (ext : Ext) (h : Held) (d : Delta) (r q q1 : Region) (v old : List Byte),
    s.tap.held.find? (fun x => x.cap == .logRead && x.slot == some slot) = some h → s.tap.slots.get slot = some d →
    s.regions.get d.region = some r → h.region = d.region → h.tile = d.tile → d.step = some n →
    s.logTile r (s.bankOf r n) d.tile = some (j, q, lt) → s.readPlain ext j q lt = (some v, s1) → h.inStep = some n →
    r.role.captured = true → r.log = true → s1.tap.slots.get slot = some d → s1.logTile r (s1.bankOf r n) d.tile = some (j1, q1, lt1) →
    q1.lineApart lt1 → old = s1.tileBytes r d.tile →
    ∃ u : State, exec (.logReadbackReturn slot ext) s = .next u.settle ∧ (∀ x ∈ u.tap.held, x.id = h.id → x.cap = .captured) ∧
      u.tileBytes q1 lt1 = fit 4096 (bySector (sectorMask h.off h.data.length)
        (xorBytes (xorBytes d.delta (xorBytes old (maskInto old h.off h.data))) v) (s1.tileBytes q1 lt1))) ∧
  (∀ (s : State) (ext : Ext) (p : ParkRef) (r q : Region) (j lt : Nat), s.nextParked = some p → s.codeFree ≠ 0 →
    s.regions.get p.region = some r → s.logTile r p.bank p.tile = some (j, q, lt) →
    (∀ v s1, ({ s with tap := { s.tap with park := s.tap.park.filter (fun x => x != p) } } : State).readPlain ext j q lt = (some v, s1) →
      ∃ u : State, exec (.parkedDeltaReread ext) s = .next u.settle ∧ u.tap.park = s.tap.park.filter (fun x => x != p) ∧ u.mem = s1.mem ∧
        (u.tap.slots.get s1.slotFree).map (fun d => (d.region, d.tile, d.delta, d.waiting, d.order)) = some (p.region, p.tile, v, true, p.order)) ∧
    (∀ s1, ({ s with tap := { s.tap with park := s.tap.park.filter (fun x => x != p) } } : State).readPlain ext j q lt = (none, s1) →
      ∃ u : State, exec (.parkedDeltaReread ext) s = .next u.settle ∧ u.tap.park = s.tap.park.filter (fun x => x != p) ∧ u.raised 78 = true ∧
        ∀ n c, u.port.sctx.get n = some c → c.region = p.region → c.late.get (p.step % 3) = some stCheckFail))

/-! ## Quetar (chapter 5) -/

/-- R140, R143 to R146, R162: a try of a message sends its eight packets and starts its timer; without a usable credit the stall is counted; a timer that runs out tries again with its timeout doubled,
and at the retry limit, of 64 tries or of 10 ms whether or not the timer has run out, the message fails and leaves its context. -/
def Obligations.MessagesAreTriedAndFail : Prop :=
  (∀ (s : State) (n : Nat) (c : SendCtx) (m : Msg), s.port.sctx.get n = some c → c.msgs.find? (fun x => x.st == .queued) = some m →
    c.msgs.find? (fun x => x.seq == m.seq) = some m → s.mayTry c m = true →
    (s.creditOk (s.level (gaddr c.node c.agent 0)) 1 1 = true → ∃ t, exec (.messageSend n) s = .next t ∧ t.mem = s.mem ∧ t.regions = s.regions ∧
      t.port.tx.take s.port.tx.length = s.port.tx ∧ t.port.tx.length = s.port.tx.length + 8 ∧
      (∀ x ∈ t.port.tx.drop s.port.tx.length, ∃ route v, x = .packet (gaddr c.node c.agent 0) route v) ∧
      ((t.port.sctx.get n).bind (fun c => c.msgs.find? (fun x => x.seq == m.seq))).map (fun x => (x.st, x.tries)) = some (.sent, m.tries + 1)) ∧
    (s.creditOk (s.level (gaddr c.node c.agent 0)) 1 1 = false → exec (.messageSend n) s = .next (s.bump (clsCnt 4)))) ∧
  (∀ (s : State) (n seq : Nat) (c : SendCtx) (m : Msg), s.port.sctx.get n = some c → c.msgs.find? (fun x => x.seq == seq && x.st == .sent) = some m →
    c.msgs.find? (fun x => x.seq == seq) = some m → 0 < m.tries →
    (m.due ≤ s.now → m.tries < 64 → s.now < m.first + 1000000 → s.mayTry c m = true → ∃ t, exec (.accumRetryTimeout n seq) s = .next t ∧ t.mem = s.mem ∧
      t.port.tx.length = s.port.tx.length + 8 ∧ t.reg (qtrCnt 1) = s.reg (qtrCnt 1) + 1#32 ∧
      ((t.port.sctx.get n).bind (fun c => c.msgs.find? (fun x => x.seq == seq))).map (fun x => (x.st, x.tries, x.timeout, x.due)) =
        some (.sent, m.tries + 1, s.backoff m.timeout, s.now + s.backoff m.timeout)) ∧
    (s.now < m.due → s.now < m.first + 1000000 → exec (.accumRetryTimeout n seq) s = .next s) ∧
    ((m.due ≤ s.now ∧ 64 ≤ m.tries) ∨ m.first + 1000000 ≤ s.now → ∃ u : State, exec (.accumRetryTimeout n seq) s = .next u.settle ∧ u.raised 67 = true ∧
      (u.port.sctx.get n).map (fun x => x.msgs) = some (c.msgs.filter (fun x => x.seq != m.seq)) ∧
      u.reg (qtrCnt 14) = s.reg (qtrCnt 14) + 1#32))

/-- R24, R148 to R152: an ACCUM packet with a bad trailer is dropped and counted, and so is one of a wrong class; while landing and spill are full it is discarded, counted in its class, and its credit returned all
the same; the first packet of a message opens its assembly, the last completes it for its apply queue; an assembly that is not complete in time is parked in the spill area with its mask, a later packet is
taken there, and one that stays incomplete is discarded. -/
def Obligations.AccumPacketsAssemble : Prop :=
  (∀ (s : State) (src : Nat) (v : List Byte), s.aligned = true →
    (trailerOk v = false → exec (.accumPacketReceive src v) s = .next (s.packetIn.bump (qtrCnt 4))) ∧
    (trailerOk v = true → (Hdr.parse v).typ = 1 → (Hdr.parse v).cls ≠ 1 → exec (.accumPacketReceive src v) s = .next (s.packetIn.bump (clsCnt 3))) ∧
    (trailerOk v = true → (Hdr.parse v).typ = 1 → (Hdr.parse v).cls = 1 → s.overflow = true → ∃ t, exec (.accumPacketReceive src v) s = .next t ∧
      t.reg (faultCnt 3) = s.reg (faultCnt 3) + 1#32 ∧ t.port.rctx = s.port.rctx ∧ t.port.applyQ = s.port.applyQ ∧
      t.port.tx = s.port.tx ++ [.credit] ∧ t.mem = s.mem)) ∧
  (∀ (s : State) (src n j : Nat) (v : List Byte) (h : Hdr) (r : Region) (sh : Sheaf) (x : Member) (c p : RecvCtx), s.aligned = true → trailerOk v = true →
    h = Hdr.parse v → h.typ = 1 → h.cls = 1 → s.overflow = false → s.localMember h.sheaf h.dst = some (j, r) → s.sheaves.get h.sheaf = some sh →
    sh.k ≤ h.dst → h.src < sh.k → h.job = r.jobTag → h.epoch = r.epoch → sh.mem? h.src = some x → h.stripe < r.tileCount → h.stripe < x.tiles →
    (h.bank = 3 ∨ h.bank = h.step % (sh.dMax + 1)) → (s.isLocal x = true ∨ x.matched = true) →
    s.port.rctx.find? (fun p => p.2.region == j && p.2.src == h.src) = some (n, p) → s.port.rctx.get n = some c → c.floor = none →
    h.lag = (h.seq + 2 ^ 32 - c.base) % 2 ^ 32 → c.base < 2 ^ 32 → (c.win.get c.base).map (fun y => y.st) ≠ some .done →
    (c.win.get h.seq = none → ⟨n, h.seq⟩ ∉ s.port.applyQ →
      ∃ t y, exec (.accumPacketReceive src v) s = .next t ∧ (t.port.rctx.get n).bind (fun c => c.win.get h.seq) = some y ∧
        y.st = .assembling ∧ y.mask = 2 ^ h.pkt ∧ y.first = s.now ∧ y.place = none ∧ slice y.data (512 * h.pkt) 512 = fit 512 (payloadOf v) ∧
        t.regions = s.regions ∧ t.port.applyQ = s.port.applyQ ∧ (s.port.applyQ = [] → t.mem = s.mem)) ∧
    (∀ y, c.win.get h.seq = some y → y.st = .assembling → (Hdr.parse y.header).fixed = h.fixed →
      bitAt y.mask h.pkt = false → y.mask + 2 ^ h.pkt = 255 →
      ∃ t, exec (.accumPacketReceive src v) s = .next t ∧ t.port.applyQ = s.port.applyQ ++ [⟨n, h.seq⟩] ∧
        ((t.port.rctx.get n).bind (fun c => c.win.get h.seq)).map (fun z => (z.st, z.mask)) = some (.applying, 255)) ∧
    (∀ y q, c.win.get h.seq = some y → y.st = .assembling → y.place = some q → (Hdr.parse y.header).fixed = h.fixed → s.port.applyQ = [] →
      bitAt y.mask h.pkt = false → y.mask + 2 ^ h.pkt ≠ 255 →
      ∃ t, exec (.accumPacketReceive src v) s = .next t ∧ t.reg (qtrCnt 11) = s.reg (qtrCnt 11) + 1#32 ∧ t.port.applyQ = [] ∧
        ((t.port.rctx.get n).bind (fun c => c.win.get h.seq)).map (fun z => (z.st, z.mask, z.place)) = some (.assembling, y.mask + 2 ^ h.pkt, some q) ∧
        memRead t.mem (s.stackAddr (s.spillOff q)) 4096 = fit 4096 (splice (s.rxData y) (512 * h.pkt) (fit 512 (payloadOf v))))) ∧
  (∀ (s : State) (n seq : Nat) (c : RecvCtx) (x : Rx), s.port.rctx.get n = some c → c.win.get seq = some x → x.st = .assembling →
    (x.place = none → s.past x.first 20000 = true →
      (∀ p, s.spillPlace = some p → ∃ t, exec (.assemblyTimeout n seq) s = .next t ∧ t.reg (qtrCnt 10) = s.reg (qtrCnt 10) + 1#32 ∧
        memRead t.mem (s.stackAddr (s.spillOff p)) 4097 = fit 4096 x.data ++ leBytes 1 x.mask ∧
        (∀ a, a < s.stackAddr (s.spillOff p) ∨ s.stackAddr (s.spillOff p) + 4097 ≤ a → byteAt t.mem a = byteAt s.mem a) ∧
        (t.port.rctx.get n).bind (fun c => c.win.get seq) = some { x with place := some p, data := [] }) ∧
      (s.spillPlace = none → ∃ t, exec (.assemblyTimeout n seq) s = .next t ∧ t.mem = s.mem ∧ t.reg (faultCnt 3) = s.reg (faultCnt 3) + 1#32 ∧
        (t.port.rctx.get n).bind (fun c => c.win.get seq) = none)) ∧
    (∀ p, x.place = some p → s.past x.first 2000000 = true → ∃ t, exec (.parkExpiry n seq) s = .next t ∧ t.mem = s.mem ∧
      t.reg (qtrCnt 12) = s.reg (qtrCnt 12) + 1#32 ∧ (t.port.rctx.get n).bind (fun c => c.win.get seq) = none)) ∧
  (∀ (s : State) (since cls : Nat), s.port.spillEvent = some (since, cls) →
    (s.overflow = false → exec .spillOverflowTimer s = .next { s with port := { s.port with spillEvent := none } }) ∧
    (s.overflow = true → s.past since 100000 = true → ∃ t, exec .spillOverflowTimer s = .next t ∧ t.port.spillEvent = some (s.now, cls) ∧
      t.raised 64 = true ∧ t.mem = s.mem))

/-- R154 to R157, R191, R343: on its turn a complete message that is to be applied is added into its target tile, committed parity with its digest, a pending bank of its step otherwise; with no enabled lane it is
dropped; one whose bank is busy, or whose step is settled, touches no tile; while another apply queue is served next nothing happens. -/
def Obligations.CompleteMessagesApply : Prop :=
  ∀ (s : State) (k : Nat) (ext : Ext) (a : Apply) (c : RecvCtx) (x : Rx) (r : Region) (h : Hdr),
    s.applyFront k = some a → s.port.rctx.get a.ctx = some c → c.win.get a.seq = some x → s.regions.get c.region = some r → h = Hdr.parse x.header →
    (s.applyBlocked a = false → s.applyTurn k = false → exec (.accumApply k ext noFault) s = .next s) ∧
    (∀ v s1 r1, h.bank = 3 → s.applyBlocked a = false → s.applyTurn k = true → s.encoding c.region = false → s.boot.lanes ≠ 0#32 → s.laneReady = true →
      s.readApply ext c.region r h.stripe = (some v, s1) → s1.boot.lanes ≠ 0#32 → s1.regions.get c.region = some r1 →
      (s.rxData x).length = 4096 → v.length = 4096 → r.lineApart h.stripe →
      ∃ u : State, exec (.accumApply k ext noFault) s = .next u.settle ∧ u.tileBytes r h.stripe = xorBytes (s.rxData x) v ∧
        (u.regions.get c.region).map (fun q => q.digest) =
          some (digestStep r1.digest (r.weight h.stripe) (s1.tileBytes r h.stripe) (xorBytes (s.rxData x) v))) ∧
    (∀ v s1 p, h.bank ≠ 3 → s.applyBlocked a = false → s.applyTurn k = true → s.bankDecision r h.bank h.step = .apply → s.regions.get r.link = some p →
      s.boot.lanes ≠ 0#32 → s.laneReady = true →
      s.readApply ext r.link p (h.bank * r.tileCount + h.stripe) = (some v, s1) → s1.boot.lanes ≠ 0#32 →
      (s.rxData x).length = 4096 → v.length = 4096 → p.lineApart (h.bank * r.tileCount + h.stripe) →
      ∃ u : State, exec (.accumApply k ext noFault) s = .next u.settle ∧
        u.tileBytes p (h.bank * r.tileCount + h.stripe) = xorBytes (s.rxData x) v ∧ u.banks.has (bankKey r.link h.bank) = true) ∧
    (h.bank = 3 → s.applyBlocked a = false → s.applyTurn k = true → s.encoding c.region = false → s.boot.lanes = 0#32 →
      exec (.accumApply k ext noFault) s = .next (s.applied a false)) ∧
    (h.bank ≠ 3 → (s.applyBlocked a = true ∨ s.applyTurn k = true) → s.bankDecision r h.bank h.step = .busy →
      ∃ t, exec (.accumApply k ext noFault) s = .next t ∧ t.mem = s.mem ∧ t.banks = s.banks ∧ t.reg (qtrCnt 13) = s.reg (qtrCnt 13) + 1#32) ∧
    (∀ late, h.bank ≠ 3 → (s.applyBlocked a = true ∨ s.applyTurn k = true) → s.bankDecision r h.bank h.step = .discard late →
      ∃ t, exec (.accumApply k ext noFault) s = .next t ∧ t.mem = s.mem ∧ t.banks = s.banks ∧ t.reg (stepCnt 4) = s.reg (stepCnt 4) + 1#32 ∧
        (late = true → t.raised 71 = true))

/-- R158, R160, R161: half a microsecond after its first entry a batch of acknowledgements leaves; an entry that names a message of its context retires it, one that says STALE_EPOCH from a later epoch fences the
context, one that says NACK_TAG or CHECK_FAIL fails the message, and one that names none is counted. -/
def Obligations.AcknowledgementsRetireMessages : Prop :=
  (∀ (s : State) (dst : Nat), s.aligned = true → ∃ t, exec (.ackFlush dst) s = .next t ∧ t.mem = s.mem ∧ t.regions = s.regions ∧
    ∀ b ∈ s.port.acks, b.dst = dst → s.past b.since 50 = true → ∀ x ∈ t.port.acks, ¬(x.dst = dst ∧ x.tag = b.tag)) ∧
  (∀ (s : State) (src : Nat) (v e : List Byte), s.aligned = true → trailerOk v = true → (Hdr.parse v).typ = 2 → (Hdr.parse v).count = 1 →
    e = slice (payloadOf v) 0 16 →
    (∀ c m, s.port.sctx.get (bits (field e 0 2) 0 10) = some c → c.msgs.find? (fun m => m.seq == field e 4 4 && (m.st == .sent || m.st == .fenced)) = some m →
      c.key = src →
      (bits (field e 0 2) 10 2 ≠ 3 → ∃ u : State, exec (.ackPacketReceive src v) s = .next u.settle ∧ u.mem = s.mem ∧
        (u.port.sctx.get (bits (field e 0 2) 0 10)).map (fun x => (x.msgs, x.retired.get (if m.bank = 3 then 3 else m.step % 3))) =
          some (c.msgs.filter (fun x => x.seq != m.seq),
            if m.bank = 3 then c.retired.get 3 else some ((c.retired.get (m.step % 3)).getD 0 + 1))) ∧
      (∀ r, bits (field e 0 2) 10 2 = 3 → field e 2 2 = stStaleEpoch → s.regions.get c.region = some r → r.epoch < field e 8 4 →
        ∃ u : State, exec (.ackPacketReceive src v) s = .next u.settle ∧ u.mem = s.mem ∧ u.raised 69 = true ∧
          (u.port.sctx.get (bits (field e 0 2) 0 10)).map (fun x => x.fencedBy) = some (some (Nat.max (field e 8 4) (c.fencedBy.getD 0)))) ∧
      (bits (field e 0 2) 10 2 = 3 → (field e 2 2 = stNackTag ∨ field e 2 2 = stCheckFail) →
        ∃ u : State, exec (.ackPacketReceive src v) s = .next u.settle ∧ u.mem = s.mem ∧ u.raised 68 = true ∧
          u.reg (faultCnt 6) = s.reg (faultCnt 6) + 1#32 ∧
          (u.port.sctx.get (bits (field e 0 2) 0 10)).map (fun x => x.msgs) = some (c.msgs.filter (fun x => x.seq != m.seq)))) ∧
    (s.port.sctx.get (bits (field e 0 2) 0 10) = none → ∃ u : State, exec (.ackPacketReceive src v) s = .next u.settle ∧ u.port = s.packetIn.port ∧
      u.mem = s.mem ∧ u.reg (qtrCnt 2) = s.reg (qtrCnt 2) + 1#32)) ∧
  (∀ (s : State) (src : Nat) (v : List Byte), s.aligned = true → trailerOk v = false →
    exec (.ackPacketReceive src v) s = .next (s.packetIn.bump (qtrCnt 4)))

/-- R21, R32: before ALIGN_ACK an arriving packet only returns its credit.
R205 to R207, R144: a READ of a stored tile is answered with eight packets, one for no local member is refused with one; the packets of an answer fill the stream slot of the READ, a refusal gives the
slot its status; a READ of an operation's own walk is kept for its unit; a READ whose timer runs out is tried again, or fails at the retry limit.
R148, R168, R311: a Hebribry read of a whole tile of the stack is answered with the tile, any other with the error response; a packet of a reserved type is dropped and counted. -/
def Obligations.ReadsAnswersAndPeers : Prop :=
  (∀ (s : State) (src off : Nat) (v : List Byte) (ext : Ext), s.aligned = false →
    exec (.accumPacketReceive src v) s = .next s.packetIn ∧ exec (.ackPacketReceive src v) s = .next s.packetIn ∧
    exec (.readPacketReceive src v ext) s = .next s.packetIn ∧ exec (.readDataReceive src v) s = .next s.packetIn ∧
    exec (.larkReceive src v) s = .next s.packetIn ∧ exec (.reportReceive src v) s = .next s.packetIn ∧
    exec (.hebribryReadReceive src off ext) s = .next s.packetIn ∧ exec (.reservedTypePacket src v) s = .next s.packetIn) ∧
  ((∀ (s : State) (src : Nat) (v : List Byte) (ext : Ext) (h : Hdr), s.aligned = true → h = Hdr.parse v → trailerOk v = true → h.typ = 3 → h.cls = 3 →
    (s.localMember h.sheaf h.dst = none → ∃ u : State, exec (.readPacketReceive src v ext) s = .next u.settle ∧
      u.port.tx.length = s.port.tx.length + 2 ∧ u.mem = s.mem ∧ u.regions = s.regions) ∧
    (∀ j r d s1, s.localMember h.sheaf h.dst = some (j, r) → h.job = r.jobTag → field (payloadOf v) 0 1 = 0 → h.src ≠ 0xFF → h.epoch = r.epoch →
      h.stripe < r.tileCount → r.state ≠ .fostering → s.cbwBefore j h.stripe = false → s.packetIn.viewTile ext j r 0 h.stripe = (some d, s1) →
      ∃ u : State, exec (.readPacketReceive src v ext) s = .next u.settle ∧ u.port.tx.length = s1.port.tx.length + 8 ∧
        u.port.tx.take s1.port.tx.length = s1.port.tx ∧ u.mem = s1.mem)) ∧
  (∀ (s : State) (src : Nat) (v : List Byte) (h : Hdr) (q : ReadReq) (o : Op), s.aligned = true → h = Hdr.parse v → trailerOk v = true → h.typ = 4 →
    s.port.rreq.get h.sctx = some q → q.seq = h.seq → dstKey q.node q.agent = src → s.op? q.op = some o →
    (q.keep = false →
      ((payloadOf v).length = 16 → field (payloadOf v) 0 2 ≠ stOk → ∃ t, exec (.readDataReceive src v) s = .next t ∧ t.port.rreq.get h.sctx = none ∧
        t.mem = s.mem ∧ (t.op? q.op).map (fun x => x.slots.get q.target) = some (some (Slot.failed (field (payloadOf v) 0 2)))) ∧
      ((payloadOf v).length ≠ 16 → s.overflow = false → bitAt q.mask h.pkt = false → q.mask + 2 ^ h.pkt = 255 →
        ∃ t, exec (.readDataReceive src v) s = .next t ∧ t.port.rreq.get h.sctx = none ∧ t.mem = s.mem ∧
        (t.op? q.op).map (fun x => x.slots.get q.target) =
          some (some (Slot.full (splice (fit 4096 q.data) (512 * h.pkt) (fit 512 (payloadOf v))))))) ∧
    (q.keep = true →
      ((payloadOf v).length = 16 → ∃ t, exec (.readDataReceive src v) s = .next t ∧ t.port.rreq.get h.sctx = none ∧ t.mem = s.mem ∧
        (t.op? q.op).map (fun x => x.got) = some (o.got ++ [⟨q.dst, q.view, q.stripe, field (payloadOf v) 0 2, [], q.step, q.first, s.now, false⟩])) ∧
      ((payloadOf v).length ≠ 16 → s.overflow = false → bitAt q.mask h.pkt = false → q.mask + 2 ^ h.pkt = 255 →
        ∃ t, exec (.readDataReceive src v) s = .next t ∧ t.port.rreq.get h.sctx = none ∧ t.mem = s.mem ∧
        (t.op? q.op).map (fun x => x.got) = some (o.got ++ [⟨q.dst, q.view, q.stripe, stOk,
          splice (fit 4096 q.data) (512 * h.pkt) (fit 512 (payloadOf v)), h.step, q.first, s.now, false⟩]))) ∧
    ((payloadOf v).length ≠ 16 → s.overflow = false → bitAt q.mask h.pkt = false → q.mask + 2 ^ h.pkt ≠ 255 →
      ∃ t, exec (.readDataReceive src v) s = .next t ∧ t.mem = s.mem ∧ t.ops = s.ops ∧
      (t.port.rreq.get h.sctx).map (fun x => x.mask) = some (q.mask + 2 ^ h.pkt))) ∧
  (∀ (s : State) (slot : Nat) (q : ReadReq) (o : Op), s.port.rreq.get slot = some q → s.op? q.op = some o →
    (q.due ≤ s.now ∧ 64 ≤ q.tries ∨ q.first + 1000000 ≤ s.now → ∃ t, exec (.readRetryTimeout slot) s = .next t ∧ t.port.rreq.get slot = none ∧ t.port.tx = s.port.tx ∧
      (q.keep = false → (t.op? q.op).map (fun x => x.slots.get q.target) = some (some (Slot.failed stPathFailed))) ∧
      (q.keep = true → (t.op? q.op).map (fun x => x.got) = some (o.got ++ [⟨q.dst, q.view, q.stripe, readFailed, [], q.step, q.first, s.now, false⟩]))) ∧
    (q.due ≤ s.now → q.tries < 64 → s.now < q.first + 1000000 → q.cls ≠ 0 → ∃ t, exec (.readRetryTimeout slot) s = .next t ∧ t.ops = s.ops ∧ t.mem = s.mem ∧
      t.port.tx.length = s.port.tx.length + 1 ∧
      (t.port.rreq.get slot).map (fun x => (x.tries, x.timeout, x.due)) = some (q.tries + 1, s.backoff q.timeout, s.now + s.backoff q.timeout)))) ∧
  ((∀ (s : State) (src off : Nat) (ext : Ext), s.aligned = true →
    (off % 4096 ≠ 0 ∨ stackBytes ≤ off → ∃ t, exec (.hebribryReadReceive src off ext) s = .next t ∧
      t.port.tx = s.port.tx ++ [.credit, .readErrorAnswer src off] ∧ t.mem = s.mem ∧ t.regions = s.regions) ∧
    (off % 4096 = 0 → off < stackBytes → s.regionAt (off / 4096) = none → (s.tileRaw ext (off / 4096)).2 = [] →
      ∃ t, exec (.hebribryReadReceive src off ext) s = .next t ∧ t.port.tx = s.port.tx ++ [.credit, .readAnswer src off (s.tileRaw ext (off / 4096)).1] ∧
        t.mem = s.mem ∧ t.regions = s.regions) ∧
    (∀ j r v s1, off % 4096 = 0 → off < stackBytes → s.regionAt (off / 4096) = some (j, r) →
      s.packetIn.readTile ext j r (off / 4096 - r.tileBase) = (some v, s1) →
      ∃ u : State, exec (.hebribryReadReceive src off ext) s = .next u.settle ∧ u.port.tx = s1.port.tx ++ [.readAnswer src off v] ∧ u.mem = s1.mem)) ∧
  (∀ (s : State) (src : Nat) (v : List Byte), s.aligned = true →
    (trailerOk v = false → exec (.reservedTypePacket src v) s = .next (s.packetIn.bump (qtrCnt 4))) ∧
    (trailerOk v = true → ((Hdr.parse v).typ = 0 ∨ 6 < (Hdr.parse v).typ) → exec (.reservedTypePacket src v) s = .next (s.packetIn.bump (qtrCnt 5)))))

/-- R203, R224: a region leaves quiet when 10 ms have passed since its latest CONFIRMED read, and a migration map that is not frozen is disarmed 10 s after its last; not before.
R165, R166, R419: at the end of a window a path that is due is flagged and counted where enough permitted paths stay and the loop is on, and its counts start again; while the log is full it is left as it is;
a flag that has stood HOLD_MS is cleared. -/
def Obligations.QuietMapAndPathTimers : Prop :=
  ((∀ (s : State) (j since : Nat) (r : Region), s.regions.get j = some r → r.quiet = some since →
    (s.past since 1000000 = true → ∃ u : State, exec (.quietExpiry j) s = .next u.settle ∧
      u.regions.get j = some { r with quiet := none, settleFail := false } ∧ u.mem = s.mem) ∧
    (s.past since 1000000 = false → exec (.quietExpiry j) s = .next s)) ∧
  (∀ (s : State) (j : Nat) (r : Region) (m : MigMap), s.regions.get j = some r → r.mig = some m →
    (m.frozen = false → s.past m.last 1000000000 = true → ∃ t, exec (.migrationMapDisarm j) s = .next t ∧
      t.regions.get j = some { r with mig := none } ∧ t.mem = s.mem ∧ ∀ k, k ≠ j → t.regions.get k = s.regions.get k) ∧
    (m.frozen = true ∨ s.past m.last 1000000000 = false → exec (.migrationMapDisarm j) s = .next s))) ∧
  ((∀ s : State, s.past s.port.winStart (10000 * s.rf 0x0130 20 8) = false → exec .rehomeWindowEnd s = .next s) ∧
  (∀ (s : State) (key : Nat) (c : PathCnt), s.past s.port.winStart (10000 * s.rf 0x0130 20 8) = true → s.port.paths = [(key, c)] →
    (s.pathDue key c = false → ∃ t, exec .rehomeWindowEnd s = .next t ∧ t.port.paths = [(key, { c with tries := 0, timeouts := 0 })] ∧
      t.port.winStart = s.now ∧ t.mem = s.mem) ∧
    (s.pathDue key c = true → s.pathsScarce (key / 8) = false → bitAt (s.regN 0x0130) 0 = true → s.auditFull = false →
      ∃ t, exec .rehomeWindowEnd s = .next t ∧ t.port.paths = [(key, { tries := 0, timeouts := 0, flag := some s.now })] ∧
        t.port.winStart = s.now ∧ t.reg (qtrCnt 15) = s.reg (qtrCnt 15) + 1#32 ∧ (s.auditRoom → t.mem = s.mem)) ∧
    (s.pathDue key c = true → s.pathsScarce (key / 8) = true → s.auditFull = false →
      ∃ t, exec .rehomeWindowEnd s = .next t ∧ t.port.paths = [(key, { c with tries := 0, timeouts := 0 })] ∧ t.raised 92 = true) ∧
    (s.pathDue key c = true → bitAt (s.regN 0x0130) 0 = true → s.auditFull = true →
      ∃ t, exec .rehomeWindowEnd s = .next t ∧ t.port.paths = s.port.paths ∧ t.port.winStart = s.now ∧ t.mem = s.mem)) ∧
  (∀ (s : State) (dst path since : Nat) (c : PathCnt), s.port.paths.get (pathKey dst path) = some c → c.flag = some since →
    (s.past since (100000 * s.rf 0x0130 12 8) = true → s.auditFull = false → ∃ t, exec (.pathUnflag dst path) s = .next t ∧
      t.port.paths.get (pathKey dst path) = some { c with flag := none } ∧ (s.auditRoom → t.mem = s.mem)) ∧
    (s.past since (100000 * s.rf 0x0130 12 8) = false ∨ s.auditFull = true → exec (.pathUnflag dst path) s = .next s)))

/-! ## Power (chapter 14) -/

/-- R411, R413 to R415: a forecast word is stored, and its LEAD sets or clears the deadline unless a reserved bit is set; a governor evaluation raises its point at once, lowers it when the hold has passed, and
never leaves it above the ceiling. -/
def Obligations.ForecastAndGovernor : Prop :=
  (∀ (s : State) (w : Word), s.reg64 0x0210 ≠ 0 → ∃ u : State, s.putDone u 0 none (gOff (s.reg64 0x0210)) (leBytes 4 w.toNat) ∧
    u.power = s.seen.power ∧ u.regions = s.regions ∧
    (bits w.toNat 24 8 ≠ 0 → exec (.forecastWrite w) s = .next u.settle) ∧
    (bits w.toNat 24 8 = 0 → exec (.forecastWrite w) s = .next (State.coldReturn { u.settle with power := { u.settle.power with
      deadline := if bits w.toNat 0 24 = 0 then none else some (s.now + us (bits w.toNat 0 24)), missed := false } }))) ∧
  (∀ s : State, s.reg64 0x0210 = 0 → ∀ w, exec (.forecastWrite w) s = .next s) ∧
  (∀ s : State, (s.power.lanes = .active ∨ s.power.lanes = .waking) → s.past s.power.lastEval 1000 = true →
    ∃ t, exec .governorEvaluation s = .next t ∧ t.power.lastEval = s.now ∧ t.power.workIn = 0 ∧ t.mem = s.mem ∧ t.regions = s.regions ∧
      t.power.target = Nat.min (if s.power.target < (s.choose s.govFloor s.ceiling).1 ∨ s.past s.power.lastChange 10000 = true
        then (s.choose s.govFloor s.ceiling).1 else s.power.target) s.ceiling) ∧
  (∀ s : State, (s.power.lanes ≠ .active ∧ s.power.lanes ≠ .waking) ∨ s.past s.power.lastEval 1000 = false →
    exec .governorEvaluation s = .next s)

/-- R402 to R407: idle lanes fall to FALLOW_WARM and then FALLOW_COLD with the PLL off, and the MCLK units gate; work wakes them, from FALLOW_COLD through a voltage request, four lanes a wave, until all are ACTIVE.
R29, R30, R406, R410, R417: a granted voltage lets a start of the PLL request its point; a lock makes the requested point current and lanes go on; a thermal level or a throttle request brings the governor's
point under its cap, and entry to and exit from level 3 raise their event. -/
def Obligations.LanesVoltagesAndLevels : Prop :=
  ((∀ s : State, s.power.lanes = .active → bitAt (s.regN 0x0200) 0 = true → s.power.relock = false → s.power.wantV = false → s.wakeCause = false →
    s.past s.power.lastWork s.warmIdle = true →
    ∃ t, exec .fallowWarmEntry s = .next t ∧ t.power = { s.power with lanes := .warm, warmSince := s.now, workIn := 0 } ∧
      t.reg (pwrCnt 0) = s.reg (pwrCnt 0) + 1#32 ∧ t.mem = s.mem) ∧
  (∀ s : State, s.power.lanes = .warm → bitAt (s.regN 0x0200) 1 = true → s.power.relock = false → s.power.wantV = false → s.expected = false →
    s.past s.power.warmSince s.coldIdle = true →
    ∃ t, exec .fallowColdEntry s = .next t ∧ t.power = { s.power with lanes := .cold, pll := false, vlane := 0, coldSince := s.now } ∧
      t.reg (pwrCnt 1) = s.reg (pwrCnt 1) + 1#32 ∧ t.mem = s.mem) ∧
  (∀ s : State, (s.power.lanes = .cold → s.past s.power.coldSince (us 1000) = true → s.past s.power.lastArrival (us 1000) = true →
    exec .mclkUnitGate s = .next { s with power := { s.power with gated := true } }) ∧
    (s.power.lanes ≠ .cold ∨ s.past s.power.coldSince (us 1000) = false ∨ s.past s.power.lastArrival (us 1000) = false →
      exec .mclkUnitGate s = .next s)) ∧
  (∀ s : State, s.wakeCause = true → s.boot.lanes ≠ 0#32 →
    (s.power.lanes = .warm → ∃ t, exec .wakeTrigger s = .next t ∧ t.reg (pwrCnt 2) = s.reg (pwrCnt 2) + 1#32 ∧ t.mem = s.mem ∧
      t.power = { s.power with lanes := .waking, wakeFrom := .warm, wave := 0, waveDue := s.now, gated := false }) ∧
    (s.power.lanes = .cold → ∃ t, exec .wakeTrigger s = .next t ∧ t.power.lanes = .waking ∧ t.power.wakeFrom = .cold ∧ t.power.gated = false ∧
      (s.power.pll = false → s.power.relock = false → t.power.wantV = true) ∧ t.mem = s.mem)) ∧
  (∀ s : State, s.power.lanes = .waking → s.power.pll = true → s.power.relock = false → s.power.wantV = false → s.power.waveDue ≤ s.now →
    ∃ t, exec .wakeWave s = .next t ∧ t.power.wave = s.power.wave + 1 ∧ t.mem = s.mem ∧
      t.power.lanes = if popcount s.boot.lanes ≤ 4 * (s.power.wave + 1) then .active else .waking)) ∧
  ((∀ s : State, s.power.wantV = true → ∃ t, exec .vlaneAck s = .next t ∧ t.mem = s.mem ∧ t.regions = s.regions ∧
    (s.power.pll = false → t.power = { s.power with wantV := false, lclkReq := s.power.wakeF, relock := true }) ∧
    (s.power.pll = true → s.power.relock = false → (s.power.lanes = .active ∨ s.power.lanes = .warm) → s.power.f < s.power.target →
      s.code s.power.target ≤ s.power.vlane →
      t.power = { s.power with wantV := false, lclkReq := s.power.target, relock := true } ∧ t.reg (pwrCnt 4) = s.reg (pwrCnt 4) + 1#32)) ∧
  (∀ s : State, s.power.relock = true → ∃ t, exec .lclkLock s = .next t ∧ t.mem = s.mem ∧ t.regions = s.regions ∧ t.power.f = s.power.lclkReq ∧
    t.power.pll = true ∧ t.power.target = Nat.min s.power.target s.ceiling ∧
    (s.power.lanes = .cold → t.power.lanes = .warm ∧ t.power.gated = false) ∧ (s.power.lanes ≠ .cold → t.power.lanes = s.power.lanes)) ∧
  (∀ (s : State) (l : Nat), l % 4 ≠ s.power.therm → ∃ t, exec (.thermLevelChange l) s = .next t ∧ t.power.therm = l % 4 ∧
    t.power.target ≤ t.ceiling ∧ (s.auditRoom → t.mem = s.mem) ∧
    (s.power.therm = 3 ∨ l % 4 = 3 → t.raised 89 = true) ∧ (s.power.therm ≠ 3 → l % 4 ≠ 3 → t.raised 88 = true)) ∧
  (∀ (s : State) (l : Nat), l % 4 = s.power.therm → exec (.thermLevelChange l) s = .next s) ∧
  (∀ (s : State) (b : Bool), ∃ t, exec (.throtReqChange b) s = .next t ∧ t.power.throt = b ∧ t.power.target ≤ t.ceiling ∧ t.mem = s.mem ∧
    t.regions = s.regions))

/-! ## The block as a whole -/

/-- One step takes the command at the front of the queue and runs it on the state with the queue's rest. -/
def Obligations.StepRunsTheFrontCommand : Prop :=
  ∀ (s : State) (c : Instr) (l : List Instr), s.pending = c :: l → Sys2Proof.Machine.step s = exec c { s with pending := l }

/-- R5, R398, R18, R134 (the tick is the model's choice, log entry 3): on an empty queue one SCLK tick passes: WY_TIME counts one and, outside RESET and ALIGN, WY_MCLK_EDGE counts 16; the writes that wait at the tap's
input are taken as far as it has room, and HOLD_BP counts the 16 MCLK edges while some still wait. -/
def Obligations.EmptyQueueTicks : Prop :=
  ∀ s : State, s.pending = [] → ∃ u : State,
    Sys2Proof.Machine.step s = .next (if s.tap.queue = [] then u else if u.settle.tap.queue = [] then u.settle else u.settle.bump (tapCnt 8)) ∧
    u.time = s.time + 1#64 ∧ (s.aligned = true → u.boot.mclk = s.boot.mclk + 16#64) ∧ (s.aligned = false → u.boot = s.boot) ∧
    u.mem = s.mem ∧ u.regions = s.regions ∧ u.ops = s.ops ∧ u.regs = s.regs ∧ u.port = s.port ∧ u.tap = s.tap ∧ u.pending = []

/-- No command is refused, and a command stops the model only where an address that it carries lies outside the stack.
No command changes the queue or the engine's straps. -/
def Obligations.CommandsAnswerAndLeaveTheQueue : Prop :=
  (∀ (c : Instr) (s : State), (∀ r, exec c s ≠ .refused r) ∧
    ((∃ t, exec c s = .next t) ∨ (exec c s = .fault .outsideStack ∧
      ((∃ agent addr data ext, c = .writeArrival agent addr data ext ∧ stackBytes < addr + data.length) ∨
       (∃ agent tile rid, c = .readRequestSnoop agent tile rid ∧ stackTiles ≤ tile) ∨
       (∃ agent tile mask ext, c = .controllerErrorResponse agent tile mask ext ∧ stackTiles ≤ tile))))) ∧
  (∀ (c : Instr) (s t : State), exec c s = .next t → t.pending = s.pending ∧ t.strap = s.strap)

/-- The memory stays in its canonical form, and every command that waits stays well-formed, through every step. -/
def Obligations.StepKeepsMemoryForm : Prop :=
  ∀ s t : State, s.memOk → s.queueOk → Sys2Proof.Machine.step s = .next t → t.memOk ∧ t.queueOk

/-- The state after reset has its memory in canonical form and an empty queue. -/
def Obligations.ResetMeetsTheInvariant : Prop :=
  Sys2Proof.Machine.State.reset.memOk ∧ Sys2Proof.Machine.State.reset.queueOk ∧ Sys2Proof.Machine.State.reset.pending = []

/-- R107, R113, R127, R309: an engine write of a region tile leaves the tile with its new contents, its guard line with the line of those contents, every byte outside the two as before, and the digest moved by the
weight of the tile times the difference of the CRCs. -/
def Obligations.TileWritesMoveTheDigest : Prop :=
  ∀ (s : State) (j t : Nat) (r : Region) (v : List Byte), s.regions.get j = some r → v.length = 4096 → r.lineApart t →
    (s.restoreTile j t r v).tileBytes r t = v ∧
    ((s.restoreTile j t r v).regions.get j).map (fun q => q.digest) =
      some (r.digest + (crc64 v - crc64 (s.tileBytes r t)) * BitVec.ofNat 64 (2 * (r.logicalBase + t) + 1)) ∧
    (∀ off, r.lineOff t = some off → r.strengthAt t ≠ 0 →
      (s.restoreTile j t r v).stackRead off (guardLine (r.strengthAt t) v).length = guardLine (r.strengthAt t) v) ∧
    (∀ a, (a < s.tileAddr (r.tileBase + t) ∨ s.tileAddr (r.tileBase + t) + 4096 ≤ a) →
      (∀ off, r.lineOff t = some off → r.strengthAt t ≠ 0 →
        a < s.stackAddr off ∨ s.stackAddr off + (guardLine (r.strengthAt t) v).length ≤ a) →
      byteAt (s.restoreTile j t r v).mem a = byteAt s.mem a) ∧
    (∀ k, k ≠ j → (s.restoreTile j t r v).regions.get k = s.regions.get k)

end
end

