-- ==== Sys2Proof/Laws/Codes.lean ====
section
/-! SUPPORT. What the byte strings, the check codes and the packets give: lengths, reading back what was written, and the codes
of a string taken in parts. -/

namespace Sys2Proof.Machine

theorem leBytes_length (n v : Nat) : (leBytes n v).length = n := by
  induction n generalizing v with
  | zero => rfl
  | succ n ih => simp [leBytes, ih]

/-- Reading back the n low bytes of a number. -/
theorem leNat_leBytes (n v : Nat) : leNat (leBytes n v) = v % 256 ^ n := by
  induction n generalizing v with
  | zero => simp [leBytes, leNat, Nat.mod_one]
  | succ n ih =>
    simp only [leBytes, leNat, ih, BitVec.toNat_ofNat]
    rw [show 256 ^ (n + 1) = 256 * 256 ^ n by ring, Nat.mod_mul]

theorem zeros_length (n : Nat) : (zeros n).length = n := by simp [zeros]

theorem fit_length (n : Nat) (v : List Byte) : (fit n v).length = n := by simp [fit, zeros]; omega

/-- A string of the length asked for is its own fit. -/
theorem fit_self (v : List Byte) : fit v.length v = v := by simp [fit, zeros]

theorem slice_length (v : List Byte) (off n : Nat) : (slice v off n).length = n := fit_length _ _

theorem xorBytes_length (a b : List Byte) : (xorBytes a b).length = a.length := by
  induction a generalizing b with
  | nil => rfl
  | cons x a ih => cases b with
    | nil => rfl
    | cons y b => simp [xorBytes, ih]

/-- A splice inside a string keeps its length. -/
theorem splice_length (v w : List Byte) (off : Nat) (h : off + w.length ≤ v.length) : (splice v off w).length = v.length := by
  simp [splice]; omega

/-- A field at the end of a string reads what was appended there (R6). -/
theorem field_append (v w : List Byte) : field (v ++ w) v.length w.length = leNat w := by
  simp [field, slice, fit_self]

/-- A field between two strings reads what stands there. -/
theorem field_middle (v w x : List Byte) : field (v ++ w ++ x) v.length w.length = leNat w := by
  simp [field, slice, fit, zeros]

theorem slice_middle (v w x : List Byte) : slice (v ++ w ++ x) v.length w.length = w := by simp [slice, fit, zeros]

theorem shaRound_length (h : List Word) (k : Word) (hl : h.length = 8) : (shaRound h k).length = 8 := by
  unfold shaRound; split <;> simp_all

theorem shaBlock_length (h : List Word) (b : List Byte) (hl : h.length = 8) : (shaBlock h b).length = 8 := by
  have hf : ∀ (l : List Word) (g : List Word), g.length = 8 → (l.foldl shaRound g).length = 8 := by
    intro l
    induction l with
    | nil => exact fun _ h => h
    | cons k l ih => exact fun g hg => ih _ (shaRound_length g k hg)
  simp [shaBlock, hf, hl]

/-- A SHA-256 digest has 32 bytes (R353). -/
theorem sha256_length (v : List Byte) : (sha256 v).length = 32 := by
  have hb : ∀ (n : Nat) (h : List Word) (v : List Byte), h.length = 8 → (shaBlocks n h v).length = 8 := by
    intro n
    induction n with
    | zero => exact fun _ _ h => h
    | succ n ih => exact fun h v hl => ih _ _ (shaBlock_length h _ hl)
  simp [sha256, List.length_flatMap, leBytes_length, hb _ shaInit _ rfl]

/-- CRC-64 of a string in two parts (Table 0-4). -/
theorem crc64From_append (c : Word64) (v w : List Byte) : crc64From c (v ++ w) = crc64From (crc64From c v) w := by
  simp [crc64From]

theorem crc64_append (v w : List Byte) : crc64 (v ++ w) = crc64From (crc64 v) w := by simp [crc64From, crc64]

theorem header_length (h : Hdr) : h.bytes.length = 32 := by simp [Hdr.bytes, leBytes_length]

/-- The trailer of a packet that R135 forms holds. -/
theorem packet_trailer (h : Hdr) (v : List Byte) : trailerOk (h.packet v) = true := by
  have hb : h.bytes.length + v.length + 4 - 4 = h.bytes.length + v.length := by omega
  have hf := field_append (h.bytes ++ v) (leBytes 4 (crc32c (h.bytes ++ v)).toNat)
  rw [leBytes_length, leNat_leBytes, Nat.mod_eq_of_lt (b := 256 ^ 4) (crc32c (h.bytes ++ v)).isLt] at hf
  simp only [trailerOk, Hdr.packet, List.length_append, leBytes_length, hb]
  rw [← List.length_append, hf, List.take_left]
  simp [header_length]

end Sys2Proof.Machine
end

