-- ==== Sys2Proof/Laws/Guard.lean ====
section
/-! SUPPORT. What page guard gives: a codeword without an error decodes to itself (R304), and the length of a guard line. -/

namespace Sys2Proof.Machine

theorem gf16Mul_zero (b : BitVec 16) : gf16Mul 0#16 b = 0#16 := by
  have h : ∀ n (b : BitVec 16), gf16Aux n 0#16 b = 0#16 := by
    intro n
    induction n with
    | zero => exact fun _ => rfl
    | succ n ih => intro b; simp [gf16Aux, ih]
  exact h 16 b

theorem polyEval_zeros (n : Nat) (a : BitVec 16) : polyEval (List.replicate n 0#16) a = 0#16 := by
  induction n with
  | zero => rfl
  | succ n ih => simp only [polyEval, List.replicate_succ, List.foldr_cons] at ih ⊢; rw [ih, gf16Mul_zero]; rfl

/-- A word whose syndromes are all 0 decodes to itself, with nothing corrected (R304). -/
theorem decodeErased_clean (p : Nat) (c : List (BitVec 16)) (h : ∀ i < p, polyEval c (alphaPow i) = 0#16) :
    decodeErased p c [] = some (c, 0) := by
  have hl : ∀ t, locate c.length 0 t = some [] := by
    intro t
    simp [locate, gf16Elim, polyEval, gf16Mul_zero]
  have hp : (List.range p).all (fun i => polyEval c (alphaPow i) == 0#16) = true := by
    simp only [List.all_eq_true, List.mem_range, beq_iff_eq]; exact h
  simp [decodeErased, List.range_succ_eq_map, decodeWith, hl, guardMagnitudes, gf16Elim, guardApply, hp]

theorem words16_zeros (n : Nat) : words16 (zeros (2 * n)) = List.replicate n 0#16 := by
  induction n with
  | zero => rfl
  | succ n ih =>
    simp only [zeros, Nat.mul_succ, List.replicate_succ, words16] at ih ⊢
    rw [ih]; rfl

theorem guardPoly_length (p : Nat) : (guardPoly p).length = p + 1 := by
  have h : ∀ (l : List Nat) (g : List (BitVec 16)), (l.foldl (fun g i => mulLinear (alphaPow i) g) g).length = g.length + l.length := by
    intro l
    induction l with
    | nil => simp
    | cons i l ih => intro g; simp only [List.foldl_cons, ih]; simp [mulLinear]; omega
  simp [guardPoly, h]; omega

theorem guardParity_length (p : Nat) (v : List Byte) : (guardParity p v).length = p := by
  have hg : ((guardPoly p).reverse.drop 1).length = p := by simp [guardPoly_length]
  have hs : ∀ (r : List (BitVec 16)) (d : BitVec 16), r.length = p →
      (guardShift ((guardPoly p).reverse.drop 1) r d).length = p := by
    intro r d hr
    cases r with
    | nil => simpa [guardShift] using hr
    | cons t r =>
      simp only [guardShift]
      split
      · simpa using hr
      · simp only [List.length_zipWith, List.length_append, List.length_map, hg, List.length_cons, List.length_nil] at hr ⊢; omega
  have hf : ∀ (l r : List (BitVec 16)), r.length = p → (l.foldl (guardShift ((guardPoly p).reverse.drop 1)) r).length = p := by
    intro l
    induction l with
    | nil => exact fun _ h => h
    | cons d l ih => exact fun r h => ih _ (hs r d h)
  simp only [guardParity, List.length_reverse]
  exact hf _ _ (by simp)

/-- A guard line has two bytes for each parity symbol (R303). -/
theorem guardLine_length (g : Nat) (v : List Byte) : (guardLine g v).length = 2 * guardSymbols g := by
  have h : ∀ l : List (BitVec 16), (bytes16 l).length = 2 * l.length := by
    intro l
    induction l with
    | nil => rfl
    | cons x l ih => simp only [bytes16, List.flatMap_cons, List.length_append, leBytes_length, List.length_cons] at ih ⊢; omega
  rw [guardLine, h, guardParity_length]

/-- A tile of zeros under a line of zeros decodes to itself. -/
theorem guardDecode_zeros (g : Nat) (hg : guardSymbols g ≠ 0) (fl : List Nat)
    (hf : fl = [] ∨ guardSymbols g < (fl.flatMap (fun sct => (List.range 32).map (fun i => guardSymbols g + 32 * sct + i))).length) :
    (guardDecode g (zeros 4096) (zeros (2 * guardSymbols g)) fl).map (fun o => (o.tile, o.symbols)) =
      some (bytes16 (List.replicate 2048 0#16), 0) := by
  have hc : words16 (fit (2 * guardSymbols g) (zeros (2 * guardSymbols g))) ++ words16 (fit 4096 (zeros 4096)) =
      List.replicate (guardSymbols g + 2048) 0#16 := by
    have e1 := fit_self (zeros (2 * guardSymbols g))
    have e2 := fit_self (zeros (2 * 2048))
    rw [zeros_length] at e1 e2
    rw [e1, show 4096 = 2 * 2048 by rfl, e2, words16_zeros, words16_zeros, List.replicate_append_replicate]
  have hd := decodeErased_clean (guardSymbols g) (List.replicate (guardSymbols g + 2048) 0#16) (fun i _ => polyEval_zeros _ _)
  have hz : ∀ n, ((List.replicate n 0#16).zip (List.replicate n 0#16)).filter (fun q => !(q.1 == q.2)) = [] := by
    intro n; simp
  have hk : ∀ n, (List.replicate (guardSymbols g + n) 0#16).drop (guardSymbols g) = List.replicate n 0#16 := by
    intro n; rw [List.drop_replicate, Nat.add_sub_cancel_left]
  rcases hf with rfl | hf
  · simp only [guardDecode, if_neg hg, hc, List.flatMap_nil, List.length_nil, ite_self, hd, hz, hk]
    rfl
  · simp only [guardDecode, if_neg hg, hc, if_pos hf, hd, hz, hk]
    rfl

end Sys2Proof.Machine
end

