-- ==== Sys2Proof/Laws/Memory.lean ====
section
/-! SUPPORT. What tables and memory give: reading after setting, what a write and a zeroing of bytes leave elsewhere, and the
canonical form that both keep (log entry 1). -/

namespace Sys2Proof.Machine

theorem Tab.get_set_self {α : Type} (t : Tab α) (k : Nat) (v : α) : (Tab.set t k v).get k = some v := by
  induction t with
  | nil => simp [Tab.set, Tab.get]
  | cons p t ih =>
    obtain ⟨j, u⟩ := p
    simp only [Tab.set]
    split
    · simp [Tab.get]
    · split
      · simp [Tab.get]
      · simp [Tab.get, *]

theorem Tab.get_set_ne {α : Type} (t : Tab α) (k j : Nat) (v : α) (h : j ≠ k) : (Tab.set t k v).get j = t.get j := by
  induction t with
  | nil => simp [Tab.set, Tab.get, Ne.symm h]
  | cons p t ih =>
    obtain ⟨i, u⟩ := p
    simp only [Tab.set]
    split
    · simp [Tab.get, Ne.symm h]
    · split
      · subst i; simp [Tab.get, Ne.symm h]
      · simp [Tab.get, ih]

/-- Taking out the keys that fail a test leaves the others as they are. -/
theorem Tab.get_filter {α : Type} (t : Tab α) (p : Nat → Bool) (k : Nat) :
    Tab.get (t.filter (fun q => p q.1)) k = if p k then t.get k else none := by
  induction t with
  | nil => simp [Tab.get]
  | cons q t ih =>
    obtain ⟨i, u⟩ := q
    by_cases hp : p i
    · simp only [List.filter_cons, hp, if_true, Tab.get, ih]
      split <;> simp_all
    · simp only [List.filter_cons, hp, Bool.false_eq_true, if_false, ih, Tab.get]
      by_cases hk : i = k
      · subst hk; simp [hp]
      · simp [hk]

theorem Tab.get_del {α : Type} (t : Tab α) (k j : Nat) : (t.del k).get j = if j = k then none else t.get j := by
  simp only [Tab.del, Tab.get_filter t (fun i => !(i == k))]
  by_cases h : j = k <;> simp [h]

theorem Tab.get_upd {α : Type} (t : Tab α) (k j : Nat) (f : α → α) :
    (t.upd k f).get j = if j = k then (t.get j).map f else t.get j := by
  induction t with
  | nil => simp [Tab.upd, Tab.get]
  | cons p t ih =>
    obtain ⟨i, u⟩ := p
    simp only [Tab.upd, List.map_cons] at ih ⊢
    by_cases hi : i = k <;> by_cases hj : i = j <;> simp_all [Tab.get]

theorem Tab.get_append {α : Type} (t u : Tab α) (k : Nat) : Tab.get (t ++ u) k = (t.get k).or (u.get k) := by
  induction t with
  | nil => simp [Tab.get]
  | cons p t ih =>
    obtain ⟨i, v⟩ := p
    simp only [List.cons_append, Tab.get, ih]
    split <;> simp

/-- What a listing gives at a key: the byte there, where it is in range and not 0. -/
theorem listing_get (a : Nat) (v : List Byte) (k : Nat) :
    ((listing a v).get k).getD 0#8 = if a ≤ k ∧ k < a + v.length then v.getD (k - a) 0#8 else 0#8 := by
  induction v generalizing a with
  | nil => simp [listing, Tab.get]
  | cons b v ih =>
    have hs : ∀ j, a < j → (b :: v).getD (j - a) 0#8 = v.getD (j - (a + 1)) 0#8 := by
      intro j hj
      rw [show j - a = (j - (a + 1)) + 1 by omega, List.getD_cons_succ]
    rcases Nat.lt_trichotomy k a with h | h | h
    · have e := ih (a + 1)
      rw [if_neg (by omega)] at e
      rw [if_neg (by omega)]
      simp only [listing]
      split
      · exact e
      · simpa [Tab.get, Nat.ne_of_gt h] using e
    · subst h
      have e := ih (k + 1)
      rw [if_neg (by omega)] at e
      simp only [listing]
      split
      · simp_all
      · simp [Tab.get]
    · have e := ih (a + 1)
      rw [hs k h]
      have hr : (if a + 1 ≤ k ∧ k < a + 1 + v.length then v.getD (k - (a + 1)) 0#8 else 0#8) =
          if a ≤ k ∧ k < a + (b :: v).length then v.getD (k - (a + 1)) 0#8 else 0#8 := by
        apply if_congr _ rfl rfl; simp only [List.length_cons]; omega
      rw [hr] at e
      simp only [listing]
      split
      · exact e
      · simpa [Tab.get, Nat.ne_of_lt h] using e

/-- The keys of a listing lie in its range. -/
theorem listing_keys (a : Nat) (v : List Byte) : ∀ p ∈ listing a v, a ≤ p.1 ∧ p.1 < a + v.length ∧ p.2 ≠ 0#8 := by
  induction v generalizing a with
  | nil => simp [listing]
  | cons b v ih =>
    intro p hp
    simp only [listing] at hp
    split at hp
    · have := ih (a + 1) p hp; simp only [List.length_cons]; exact ⟨by omega, by omega, this.2.2⟩
    · simp only [List.mem_cons] at hp
      rcases hp with rfl | hp
      · simp; assumption
      · have := ih (a + 1) p hp; simp only [List.length_cons]; exact ⟨by omega, by omega, this.2.2⟩

/-- What is listed at a key is listed in range, and not 0. -/
theorem listing_some {a : Nat} {v : List Byte} {k : Nat} {x : Byte} (h : (listing a v).get k = some x) :
    a ≤ k ∧ k < a + v.length ∧ x ≠ 0#8 := by
  have hm : ∀ t : Tab Byte, t.get k = some x → (k, x) ∈ t := by
    intro t
    induction t with
    | nil => simp [Tab.get]
    | cons p t ih =>
      intro e
      simp only [Tab.get] at e
      split at e
      · subst k; cases e; simp
      · exact List.mem_cons_of_mem _ (ih e)
  exact listing_keys a v _ (hm _ h)

/-- A byte of memory after a write: the byte written in its range, and what stood there elsewhere. -/
theorem byteAt_memWrite (m : Tab Byte) (a : Nat) (v : List Byte) (k : Nat) :
    byteAt (memWrite m a v) k = if a ≤ k ∧ k < a + v.length then v.getD (k - a) 0#8 else byteAt m k := by
  have hl := listing_get a v k
  simp only [byteAt, memWrite, Tab.get_append, Tab.get_filter m (fun i => decide (i < a)),
    Tab.get_filter m (fun i => decide (a + v.length ≤ i)), decide_eq_true_eq]
  rcases Nat.lt_or_ge k a with h | h
  · rw [if_neg (by omega)] at hl
    rw [if_pos h, if_neg (by omega), if_neg (by omega)]
    cases e : m.get k <;> simp_all
  · rcases Nat.lt_or_ge k (a + v.length) with g | g
    · rw [if_pos ⟨h, g⟩] at hl
      rw [if_neg (by omega), if_neg (by omega), if_pos ⟨h, g⟩]
      simpa using hl
    · rw [if_neg (by omega)] at hl
      rw [if_neg (by omega), if_pos g, if_neg (by omega)]
      cases e : (listing a v).get k with
      | none => simp
      | some x =>
        have hn : x = 0#8 := by simpa [e] using hl
        exact absurd hn (listing_some e).2.2

/-- A byte of memory after bytes are made 0. -/
theorem byteAt_memZero (m : Tab Byte) (a n k : Nat) :
    byteAt (memZero m a n) k = if a ≤ k ∧ k < a + n then 0#8 else byteAt m k := by
  simp only [byteAt, memZero, Tab.get_filter m (fun i => decide (i < a) || decide (a + n ≤ i))]
  by_cases h : a ≤ k ∧ k < a + n
  · rw [if_pos h, if_neg (by simp; omega)]; rfl
  · rw [if_neg h, if_pos (by simp; omega)]

theorem memRead_length (m : Tab Byte) (a n : Nat) : (memRead m a n).length = n := by simp [memRead]

/-- Reading back a write. -/
theorem memRead_memWrite_self (m : Tab Byte) (a : Nat) (v : List Byte) : memRead (memWrite m a v) a v.length = v := by
  apply List.ext_getElem (by simp [memRead])
  intro i h1 h2
  simp only [memRead, List.getElem_map, List.getElem_range, byteAt_memWrite]
  rw [if_pos (by omega)]
  simp [h2]

/-- A write leaves what lies apart from it. -/
theorem memRead_memWrite_apart (m : Tab Byte) (a b n : Nat) (v : List Byte) (h : b + n ≤ a ∨ a + v.length ≤ b) :
    memRead (memWrite m a v) b n = memRead m b n := by
  simp only [memRead, List.map_inj_left, List.mem_range, byteAt_memWrite]
  intro i hi
  rw [if_neg (by omega)]

theorem listing_sorted (a : Nat) (v : List Byte) : (listing a v).Pairwise (fun p q => p.1 < q.1) := by
  induction v generalizing a with
  | nil => simp [listing]
  | cons b v ih =>
    simp only [listing]
    split
    · exact ih _
    · refine List.pairwise_cons.mpr ⟨fun p hp => ?_, ih _⟩
      have := listing_keys (a + 1) v p hp
      omega

/-- Every write keeps the canonical form. -/
theorem memWrite_wf (m : Tab Byte) (a : Nat) (v : List Byte) (h : memWf m = true) : memWf (memWrite m a v) = true := by
  simp only [memWf, Tab.wf, Bool.and_eq_true, decide_eq_true_eq, List.all_eq_true, Bool.not_eq_true', beq_eq_false_iff_ne] at h ⊢
  have hk := listing_keys a v
  refine ⟨?_, fun p hp => ?_⟩
  · simp only [memWrite, List.pairwise_append, List.mem_append, List.mem_filter, decide_eq_true_eq]
    refine ⟨⟨h.1.filter _, listing_sorted a v, fun p hp q hq => ?_⟩, h.1.filter _, fun p hp q hq => ?_⟩
    · have := hk q hq; omega
    · rcases hp with hp | hp
      · omega
      · have := hk p hp; omega
  · simp only [memWrite, List.mem_append, List.mem_filter] at hp
    rcases hp with (hp | hp) | hp
    · exact h.2 p hp.1
    · exact (hk p hp).2.2
    · exact h.2 p hp.1

/-- So does making bytes 0. -/
theorem memZero_wf (m : Tab Byte) (a n : Nat) (h : memWf m = true) : memWf (memZero m a n) = true := by
  simp only [memWf, Tab.wf, Bool.and_eq_true, decide_eq_true_eq, List.all_eq_true, Bool.not_eq_true', beq_eq_false_iff_ne] at h ⊢
  exact ⟨h.1.filter _, fun p hp => h.2 p (List.mem_of_mem_filter hp)⟩

/-- The memory after reset is in canonical form. -/
theorem reset_memWf : memWf State.reset.mem = true := rfl

end Sys2Proof.Machine
end

