-- ==== Sys2Proof/Laws/State.lean ====
section
/-! SUPPORT. What each update of the state leaves: one lemma for each field, so that no proof unfolds a record update. -/

namespace Sys2Proof.Machine

section
variable (s : State) (off : Nat) (v : List Byte)
@[simp] theorem State.stackWrite_pending : (s.stackWrite off v).pending = s.pending := rfl
@[simp] theorem State.stackWrite_free : (s.stackWrite off v).free = s.free := rfl
@[simp] theorem State.stackWrite_strap : (s.stackWrite off v).strap = s.strap := rfl
@[simp] theorem State.stackWrite_time : (s.stackWrite off v).time = s.time := rfl
@[simp] theorem State.stackWrite_mem : (s.stackWrite off v).mem = memWrite s.mem (s.stackAddr off) v := rfl
@[simp] theorem State.stackWrite_regs : (s.stackWrite off v).regs = s.regs := rfl
@[simp] theorem State.stackWrite_chipSel : (s.stackWrite off v).chipSel = s.chipSel := rfl
@[simp] theorem State.stackWrite_staged : (s.stackWrite off v).staged = s.staged := rfl
@[simp] theorem State.stackWrite_latch : (s.stackWrite off v).latch = s.latch := rfl
@[simp] theorem State.stackWrite_boot : (s.stackWrite off v).boot = s.boot := rfl
@[simp] theorem State.stackWrite_ucode : (s.stackWrite off v).ucode = s.ucode := rfl
@[simp] theorem State.stackWrite_rings : (s.stackWrite off v).rings = s.rings := rfl
@[simp] theorem State.stackWrite_fetchLast : (s.stackWrite off v).fetchLast = s.fetchLast := rfl
@[simp] theorem State.stackWrite_ops : (s.stackWrite off v).ops = s.ops := rfl
@[simp] theorem State.stackWrite_nextOp : (s.stackWrite off v).nextOp = s.nextOp := rfl
@[simp] theorem State.stackWrite_starts : (s.stackWrite off v).starts = s.starts := rfl
@[simp] theorem State.stackWrite_recs : (s.stackWrite off v).recs = s.recs := rfl
@[simp] theorem State.stackWrite_seqs : (s.stackWrite off v).seqs = s.seqs := rfl
@[simp] theorem State.stackWrite_regions : (s.stackWrite off v).regions = s.regions := rfl
@[simp] theorem State.stackWrite_sheaves : (s.stackWrite off v).sheaves = s.sheaves := rfl
@[simp] theorem State.stackWrite_tables : (s.stackWrite off v).tables = s.tables := rfl
@[simp] theorem State.stackWrite_tap : (s.stackWrite off v).tap = s.tap := rfl
@[simp] theorem State.stackWrite_port : (s.stackWrite off v).port = s.port := rfl
@[simp] theorem State.stackWrite_sward : (s.stackWrite off v).sward = s.sward := rfl
@[simp] theorem State.stackWrite_sets : (s.stackWrite off v).sets = s.sets := rfl
@[simp] theorem State.stackWrite_banks : (s.stackWrite off v).banks = s.banks := rfl
@[simp] theorem State.stackWrite_retire : (s.stackWrite off v).retire = s.retire := rfl
@[simp] theorem State.stackWrite_snap : (s.stackWrite off v).snap = s.snap := rfl
@[simp] theorem State.stackWrite_power : (s.stackWrite off v).power = s.power := rfl
@[simp] theorem State.stackWrite_cal : (s.stackWrite off v).cal = s.cal := rfl
@[simp] theorem State.stackWrite_evt : (s.stackWrite off v).evt = s.evt := rfl
@[simp] theorem State.stackWrite_audit : (s.stackWrite off v).audit = s.audit := rfl
@[simp] theorem State.stackWrite_receipt : (s.stackWrite off v).receipt = s.receipt := rfl
@[simp] theorem State.stackWrite_saves : (s.stackWrite off v).saves = s.saves := rfl
end

section
variable (s : State) (off n : Nat)
@[simp] theorem State.stackZero_pending : (s.stackZero off n).pending = s.pending := rfl
@[simp] theorem State.stackZero_free : (s.stackZero off n).free = s.free := rfl
@[simp] theorem State.stackZero_strap : (s.stackZero off n).strap = s.strap := rfl
@[simp] theorem State.stackZero_time : (s.stackZero off n).time = s.time := rfl
@[simp] theorem State.stackZero_mem : (s.stackZero off n).mem = memZero s.mem (s.stackAddr off) n := rfl
@[simp] theorem State.stackZero_regs : (s.stackZero off n).regs = s.regs := rfl
@[simp] theorem State.stackZero_chipSel : (s.stackZero off n).chipSel = s.chipSel := rfl
@[simp] theorem State.stackZero_staged : (s.stackZero off n).staged = s.staged := rfl
@[simp] theorem State.stackZero_latch : (s.stackZero off n).latch = s.latch := rfl
@[simp] theorem State.stackZero_boot : (s.stackZero off n).boot = s.boot := rfl
@[simp] theorem State.stackZero_ucode : (s.stackZero off n).ucode = s.ucode := rfl
@[simp] theorem State.stackZero_rings : (s.stackZero off n).rings = s.rings := rfl
@[simp] theorem State.stackZero_fetchLast : (s.stackZero off n).fetchLast = s.fetchLast := rfl
@[simp] theorem State.stackZero_ops : (s.stackZero off n).ops = s.ops := rfl
@[simp] theorem State.stackZero_nextOp : (s.stackZero off n).nextOp = s.nextOp := rfl
@[simp] theorem State.stackZero_starts : (s.stackZero off n).starts = s.starts := rfl
@[simp] theorem State.stackZero_recs : (s.stackZero off n).recs = s.recs := rfl
@[simp] theorem State.stackZero_seqs : (s.stackZero off n).seqs = s.seqs := rfl
@[simp] theorem State.stackZero_regions : (s.stackZero off n).regions = s.regions := rfl
@[simp] theorem State.stackZero_sheaves : (s.stackZero off n).sheaves = s.sheaves := rfl
@[simp] theorem State.stackZero_tables : (s.stackZero off n).tables = s.tables := rfl
@[simp] theorem State.stackZero_tap : (s.stackZero off n).tap = s.tap := rfl
@[simp] theorem State.stackZero_port : (s.stackZero off n).port = s.port := rfl
@[simp] theorem State.stackZero_sward : (s.stackZero off n).sward = s.sward := rfl
@[simp] theorem State.stackZero_sets : (s.stackZero off n).sets = s.sets := rfl
@[simp] theorem State.stackZero_banks : (s.stackZero off n).banks = s.banks := rfl
@[simp] theorem State.stackZero_retire : (s.stackZero off n).retire = s.retire := rfl
@[simp] theorem State.stackZero_snap : (s.stackZero off n).snap = s.snap := rfl
@[simp] theorem State.stackZero_power : (s.stackZero off n).power = s.power := rfl
@[simp] theorem State.stackZero_cal : (s.stackZero off n).cal = s.cal := rfl
@[simp] theorem State.stackZero_evt : (s.stackZero off n).evt = s.evt := rfl
@[simp] theorem State.stackZero_audit : (s.stackZero off n).audit = s.audit := rfl
@[simp] theorem State.stackZero_receipt : (s.stackZero off n).receipt = s.receipt := rfl
@[simp] theorem State.stackZero_saves : (s.stackZero off n).saves = s.saves := rfl
end

section
variable (s : State) (x : Tx)
@[simp] theorem State.send_pending : (s.send x).pending = s.pending := rfl
@[simp] theorem State.send_free : (s.send x).free = s.free := rfl
@[simp] theorem State.send_strap : (s.send x).strap = s.strap := rfl
@[simp] theorem State.send_time : (s.send x).time = s.time := rfl
@[simp] theorem State.send_mem : (s.send x).mem = s.mem := rfl
@[simp] theorem State.send_regs : (s.send x).regs = s.regs := rfl
@[simp] theorem State.send_chipSel : (s.send x).chipSel = s.chipSel := rfl
@[simp] theorem State.send_staged : (s.send x).staged = s.staged := rfl
@[simp] theorem State.send_latch : (s.send x).latch = s.latch := rfl
@[simp] theorem State.send_boot : (s.send x).boot = s.boot := rfl
@[simp] theorem State.send_ucode : (s.send x).ucode = s.ucode := rfl
@[simp] theorem State.send_rings : (s.send x).rings = s.rings := rfl
@[simp] theorem State.send_fetchLast : (s.send x).fetchLast = s.fetchLast := rfl
@[simp] theorem State.send_ops : (s.send x).ops = s.ops := rfl
@[simp] theorem State.send_nextOp : (s.send x).nextOp = s.nextOp := rfl
@[simp] theorem State.send_starts : (s.send x).starts = s.starts := rfl
@[simp] theorem State.send_recs : (s.send x).recs = s.recs := rfl
@[simp] theorem State.send_seqs : (s.send x).seqs = s.seqs := rfl
@[simp] theorem State.send_regions : (s.send x).regions = s.regions := rfl
@[simp] theorem State.send_sheaves : (s.send x).sheaves = s.sheaves := rfl
@[simp] theorem State.send_tables : (s.send x).tables = s.tables := rfl
@[simp] theorem State.send_tap : (s.send x).tap = s.tap := rfl
@[simp] theorem State.send_port : (s.send x).port = { s.port with tx := s.port.tx ++ [x] } := rfl
@[simp] theorem State.send_sward : (s.send x).sward = s.sward := rfl
@[simp] theorem State.send_sets : (s.send x).sets = s.sets := rfl
@[simp] theorem State.send_banks : (s.send x).banks = s.banks := rfl
@[simp] theorem State.send_retire : (s.send x).retire = s.retire := rfl
@[simp] theorem State.send_snap : (s.send x).snap = s.snap := rfl
@[simp] theorem State.send_power : (s.send x).power = s.power := rfl
@[simp] theorem State.send_cal : (s.send x).cal = s.cal := rfl
@[simp] theorem State.send_evt : (s.send x).evt = s.evt := rfl
@[simp] theorem State.send_audit : (s.send x).audit = s.audit := rfl
@[simp] theorem State.send_receipt : (s.send x).receipt = s.receipt := rfl
@[simp] theorem State.send_saves : (s.send x).saves = s.saves := rfl
end

section
variable (s : State)
@[simp] theorem State.seen_pending : (s.seen).pending = s.pending := rfl
@[simp] theorem State.seen_free : (s.seen).free = s.free := rfl
@[simp] theorem State.seen_strap : (s.seen).strap = s.strap := rfl
@[simp] theorem State.seen_time : (s.seen).time = s.time := rfl
@[simp] theorem State.seen_mem : (s.seen).mem = s.mem := rfl
@[simp] theorem State.seen_regs : (s.seen).regs = s.regs := rfl
@[simp] theorem State.seen_chipSel : (s.seen).chipSel = s.chipSel := rfl
@[simp] theorem State.seen_staged : (s.seen).staged = s.staged := rfl
@[simp] theorem State.seen_latch : (s.seen).latch = s.latch := rfl
@[simp] theorem State.seen_boot : (s.seen).boot = s.boot := rfl
@[simp] theorem State.seen_ucode : (s.seen).ucode = s.ucode := rfl
@[simp] theorem State.seen_rings : (s.seen).rings = s.rings := rfl
@[simp] theorem State.seen_fetchLast : (s.seen).fetchLast = s.fetchLast := rfl
@[simp] theorem State.seen_ops : (s.seen).ops = s.ops := rfl
@[simp] theorem State.seen_nextOp : (s.seen).nextOp = s.nextOp := rfl
@[simp] theorem State.seen_starts : (s.seen).starts = s.starts := rfl
@[simp] theorem State.seen_recs : (s.seen).recs = s.recs := rfl
@[simp] theorem State.seen_seqs : (s.seen).seqs = s.seqs := rfl
@[simp] theorem State.seen_regions : (s.seen).regions = s.regions := rfl
@[simp] theorem State.seen_sheaves : (s.seen).sheaves = s.sheaves := rfl
@[simp] theorem State.seen_tables : (s.seen).tables = s.tables := rfl
@[simp] theorem State.seen_tap : (s.seen).tap = s.tap := rfl
@[simp] theorem State.seen_port : (s.seen).port = s.port := rfl
@[simp] theorem State.seen_sward : (s.seen).sward = s.sward := rfl
@[simp] theorem State.seen_sets : (s.seen).sets = s.sets := rfl
@[simp] theorem State.seen_banks : (s.seen).banks = s.banks := rfl
@[simp] theorem State.seen_retire : (s.seen).retire = s.retire := rfl
@[simp] theorem State.seen_snap : (s.seen).snap = s.snap := rfl
@[simp] theorem State.seen_power : (s.seen).power = { s.power with lastArrival := s.now, gated := false } := rfl
@[simp] theorem State.seen_cal : (s.seen).cal = s.cal := rfl
@[simp] theorem State.seen_evt : (s.seen).evt = s.evt := rfl
@[simp] theorem State.seen_audit : (s.seen).audit = s.audit := rfl
@[simp] theorem State.seen_receipt : (s.seen).receipt = s.receipt := rfl
@[simp] theorem State.seen_saves : (s.seen).saves = s.saves := rfl
end

section
variable (s : State)
@[simp] theorem State.packetIn_pending : (s.packetIn).pending = s.pending := rfl
@[simp] theorem State.packetIn_free : (s.packetIn).free = s.free := rfl
@[simp] theorem State.packetIn_strap : (s.packetIn).strap = s.strap := rfl
@[simp] theorem State.packetIn_time : (s.packetIn).time = s.time := rfl
@[simp] theorem State.packetIn_mem : (s.packetIn).mem = s.mem := rfl
@[simp] theorem State.packetIn_regs : (s.packetIn).regs = s.regs := rfl
@[simp] theorem State.packetIn_chipSel : (s.packetIn).chipSel = s.chipSel := rfl
@[simp] theorem State.packetIn_staged : (s.packetIn).staged = s.staged := rfl
@[simp] theorem State.packetIn_latch : (s.packetIn).latch = s.latch := rfl
@[simp] theorem State.packetIn_boot : (s.packetIn).boot = s.boot := rfl
@[simp] theorem State.packetIn_ucode : (s.packetIn).ucode = s.ucode := rfl
@[simp] theorem State.packetIn_rings : (s.packetIn).rings = s.rings := rfl
@[simp] theorem State.packetIn_fetchLast : (s.packetIn).fetchLast = s.fetchLast := rfl
@[simp] theorem State.packetIn_ops : (s.packetIn).ops = s.ops := rfl
@[simp] theorem State.packetIn_nextOp : (s.packetIn).nextOp = s.nextOp := rfl
@[simp] theorem State.packetIn_starts : (s.packetIn).starts = s.starts := rfl
@[simp] theorem State.packetIn_recs : (s.packetIn).recs = s.recs := rfl
@[simp] theorem State.packetIn_seqs : (s.packetIn).seqs = s.seqs := rfl
@[simp] theorem State.packetIn_regions : (s.packetIn).regions = s.regions := rfl
@[simp] theorem State.packetIn_sheaves : (s.packetIn).sheaves = s.sheaves := rfl
@[simp] theorem State.packetIn_tables : (s.packetIn).tables = s.tables := rfl
@[simp] theorem State.packetIn_tap : (s.packetIn).tap = s.tap := rfl
@[simp] theorem State.packetIn_port : (s.packetIn).port = { s.port with tx := s.port.tx ++ [.credit] } := rfl
@[simp] theorem State.packetIn_sward : (s.packetIn).sward = s.sward := rfl
@[simp] theorem State.packetIn_sets : (s.packetIn).sets = s.sets := rfl
@[simp] theorem State.packetIn_banks : (s.packetIn).banks = s.banks := rfl
@[simp] theorem State.packetIn_retire : (s.packetIn).retire = s.retire := rfl
@[simp] theorem State.packetIn_snap : (s.packetIn).snap = s.snap := rfl
@[simp] theorem State.packetIn_power : (s.packetIn).power = { s.power with lastArrival := s.now, gated := false } := rfl
@[simp] theorem State.packetIn_cal : (s.packetIn).cal = s.cal := rfl
@[simp] theorem State.packetIn_evt : (s.packetIn).evt = s.evt := rfl
@[simp] theorem State.packetIn_audit : (s.packetIn).audit = s.audit := rfl
@[simp] theorem State.packetIn_receipt : (s.packetIn).receipt = s.receipt := rfl
@[simp] theorem State.packetIn_saves : (s.packetIn).saves = s.saves := rfl
end

section
variable (s : State) (off : Nat) (w : Word)
@[simp] theorem State.setReg_pending : (s.setReg off w).pending = s.pending := rfl
@[simp] theorem State.setReg_free : (s.setReg off w).free = s.free := rfl
@[simp] theorem State.setReg_strap : (s.setReg off w).strap = s.strap := rfl
@[simp] theorem State.setReg_time : (s.setReg off w).time = s.time := rfl
@[simp] theorem State.setReg_mem : (s.setReg off w).mem = s.mem := rfl
@[simp] theorem State.setReg_regs : (s.setReg off w).regs = if w = regReset off then s.regs.del off else s.regs.set off w := rfl
@[simp] theorem State.setReg_chipSel : (s.setReg off w).chipSel = s.chipSel := rfl
@[simp] theorem State.setReg_staged : (s.setReg off w).staged = s.staged := rfl
@[simp] theorem State.setReg_latch : (s.setReg off w).latch = s.latch := rfl
@[simp] theorem State.setReg_boot : (s.setReg off w).boot = s.boot := rfl
@[simp] theorem State.setReg_ucode : (s.setReg off w).ucode = s.ucode := rfl
@[simp] theorem State.setReg_rings : (s.setReg off w).rings = s.rings := rfl
@[simp] theorem State.setReg_fetchLast : (s.setReg off w).fetchLast = s.fetchLast := rfl
@[simp] theorem State.setReg_ops : (s.setReg off w).ops = s.ops := rfl
@[simp] theorem State.setReg_nextOp : (s.setReg off w).nextOp = s.nextOp := rfl
@[simp] theorem State.setReg_starts : (s.setReg off w).starts = s.starts := rfl
@[simp] theorem State.setReg_recs : (s.setReg off w).recs = s.recs := rfl
@[simp] theorem State.setReg_seqs : (s.setReg off w).seqs = s.seqs := rfl
@[simp] theorem State.setReg_regions : (s.setReg off w).regions = s.regions := rfl
@[simp] theorem State.setReg_sheaves : (s.setReg off w).sheaves = s.sheaves := rfl
@[simp] theorem State.setReg_tables : (s.setReg off w).tables = s.tables := rfl
@[simp] theorem State.setReg_tap : (s.setReg off w).tap = s.tap := rfl
@[simp] theorem State.setReg_port : (s.setReg off w).port = s.port := rfl
@[simp] theorem State.setReg_sward : (s.setReg off w).sward = s.sward := rfl
@[simp] theorem State.setReg_sets : (s.setReg off w).sets = s.sets := rfl
@[simp] theorem State.setReg_banks : (s.setReg off w).banks = s.banks := rfl
@[simp] theorem State.setReg_retire : (s.setReg off w).retire = s.retire := rfl
@[simp] theorem State.setReg_snap : (s.setReg off w).snap = s.snap := rfl
@[simp] theorem State.setReg_power : (s.setReg off w).power = s.power := rfl
@[simp] theorem State.setReg_cal : (s.setReg off w).cal = s.cal := rfl
@[simp] theorem State.setReg_evt : (s.setReg off w).evt = s.evt := rfl
@[simp] theorem State.setReg_audit : (s.setReg off w).audit = s.audit := rfl
@[simp] theorem State.setReg_receipt : (s.setReg off w).receipt = s.receipt := rfl
@[simp] theorem State.setReg_saves : (s.setReg off w).saves = s.saves := rfl
end

section
variable (s : State) (i : Nat) (f : Region → Region)
@[simp] theorem State.modRegion_pending : (s.modRegion i f).pending = s.pending := rfl
@[simp] theorem State.modRegion_free : (s.modRegion i f).free = s.free := rfl
@[simp] theorem State.modRegion_strap : (s.modRegion i f).strap = s.strap := rfl
@[simp] theorem State.modRegion_time : (s.modRegion i f).time = s.time := rfl
@[simp] theorem State.modRegion_mem : (s.modRegion i f).mem = s.mem := rfl
@[simp] theorem State.modRegion_regs : (s.modRegion i f).regs = s.regs := rfl
@[simp] theorem State.modRegion_chipSel : (s.modRegion i f).chipSel = s.chipSel := rfl
@[simp] theorem State.modRegion_staged : (s.modRegion i f).staged = s.staged := rfl
@[simp] theorem State.modRegion_latch : (s.modRegion i f).latch = s.latch := rfl
@[simp] theorem State.modRegion_boot : (s.modRegion i f).boot = s.boot := rfl
@[simp] theorem State.modRegion_ucode : (s.modRegion i f).ucode = s.ucode := rfl
@[simp] theorem State.modRegion_rings : (s.modRegion i f).rings = s.rings := rfl
@[simp] theorem State.modRegion_fetchLast : (s.modRegion i f).fetchLast = s.fetchLast := rfl
@[simp] theorem State.modRegion_ops : (s.modRegion i f).ops = s.ops := rfl
@[simp] theorem State.modRegion_nextOp : (s.modRegion i f).nextOp = s.nextOp := rfl
@[simp] theorem State.modRegion_starts : (s.modRegion i f).starts = s.starts := rfl
@[simp] theorem State.modRegion_recs : (s.modRegion i f).recs = s.recs := rfl
@[simp] theorem State.modRegion_seqs : (s.modRegion i f).seqs = s.seqs := rfl
@[simp] theorem State.modRegion_regions : (s.modRegion i f).regions = s.regions.upd i f := rfl
@[simp] theorem State.modRegion_sheaves : (s.modRegion i f).sheaves = s.sheaves := rfl
@[simp] theorem State.modRegion_tables : (s.modRegion i f).tables = s.tables := rfl
@[simp] theorem State.modRegion_tap : (s.modRegion i f).tap = s.tap := rfl
@[simp] theorem State.modRegion_port : (s.modRegion i f).port = s.port := rfl
@[simp] theorem State.modRegion_sward : (s.modRegion i f).sward = s.sward := rfl
@[simp] theorem State.modRegion_sets : (s.modRegion i f).sets = s.sets := rfl
@[simp] theorem State.modRegion_banks : (s.modRegion i f).banks = s.banks := rfl
@[simp] theorem State.modRegion_retire : (s.modRegion i f).retire = s.retire := rfl
@[simp] theorem State.modRegion_snap : (s.modRegion i f).snap = s.snap := rfl
@[simp] theorem State.modRegion_power : (s.modRegion i f).power = s.power := rfl
@[simp] theorem State.modRegion_cal : (s.modRegion i f).cal = s.cal := rfl
@[simp] theorem State.modRegion_evt : (s.modRegion i f).evt = s.evt := rfl
@[simp] theorem State.modRegion_audit : (s.modRegion i f).audit = s.audit := rfl
@[simp] theorem State.modRegion_receipt : (s.modRegion i f).receipt = s.receipt := rfl
@[simp] theorem State.modRegion_saves : (s.modRegion i f).saves = s.saves := rfl
end

section
variable (s : State) (i : Nat) (f : Sheaf → Sheaf)
@[simp] theorem State.modSheaf_pending : (s.modSheaf i f).pending = s.pending := rfl
@[simp] theorem State.modSheaf_free : (s.modSheaf i f).free = s.free := rfl
@[simp] theorem State.modSheaf_strap : (s.modSheaf i f).strap = s.strap := rfl
@[simp] theorem State.modSheaf_time : (s.modSheaf i f).time = s.time := rfl
@[simp] theorem State.modSheaf_mem : (s.modSheaf i f).mem = s.mem := rfl
@[simp] theorem State.modSheaf_regs : (s.modSheaf i f).regs = s.regs := rfl
@[simp] theorem State.modSheaf_chipSel : (s.modSheaf i f).chipSel = s.chipSel := rfl
@[simp] theorem State.modSheaf_staged : (s.modSheaf i f).staged = s.staged := rfl
@[simp] theorem State.modSheaf_latch : (s.modSheaf i f).latch = s.latch := rfl
@[simp] theorem State.modSheaf_boot : (s.modSheaf i f).boot = s.boot := rfl
@[simp] theorem State.modSheaf_ucode : (s.modSheaf i f).ucode = s.ucode := rfl
@[simp] theorem State.modSheaf_rings : (s.modSheaf i f).rings = s.rings := rfl
@[simp] theorem State.modSheaf_fetchLast : (s.modSheaf i f).fetchLast = s.fetchLast := rfl
@[simp] theorem State.modSheaf_ops : (s.modSheaf i f).ops = s.ops := rfl
@[simp] theorem State.modSheaf_nextOp : (s.modSheaf i f).nextOp = s.nextOp := rfl
@[simp] theorem State.modSheaf_starts : (s.modSheaf i f).starts = s.starts := rfl
@[simp] theorem State.modSheaf_recs : (s.modSheaf i f).recs = s.recs := rfl
@[simp] theorem State.modSheaf_seqs : (s.modSheaf i f).seqs = s.seqs := rfl
@[simp] theorem State.modSheaf_regions : (s.modSheaf i f).regions = s.regions := rfl
@[simp] theorem State.modSheaf_sheaves : (s.modSheaf i f).sheaves = s.sheaves.upd i f := rfl
@[simp] theorem State.modSheaf_tables : (s.modSheaf i f).tables = s.tables := rfl
@[simp] theorem State.modSheaf_tap : (s.modSheaf i f).tap = s.tap := rfl
@[simp] theorem State.modSheaf_port : (s.modSheaf i f).port = s.port := rfl
@[simp] theorem State.modSheaf_sward : (s.modSheaf i f).sward = s.sward := rfl
@[simp] theorem State.modSheaf_sets : (s.modSheaf i f).sets = s.sets := rfl
@[simp] theorem State.modSheaf_banks : (s.modSheaf i f).banks = s.banks := rfl
@[simp] theorem State.modSheaf_retire : (s.modSheaf i f).retire = s.retire := rfl
@[simp] theorem State.modSheaf_snap : (s.modSheaf i f).snap = s.snap := rfl
@[simp] theorem State.modSheaf_power : (s.modSheaf i f).power = s.power := rfl
@[simp] theorem State.modSheaf_cal : (s.modSheaf i f).cal = s.cal := rfl
@[simp] theorem State.modSheaf_evt : (s.modSheaf i f).evt = s.evt := rfl
@[simp] theorem State.modSheaf_audit : (s.modSheaf i f).audit = s.audit := rfl
@[simp] theorem State.modSheaf_receipt : (s.modSheaf i f).receipt = s.receipt := rfl
@[simp] theorem State.modSheaf_saves : (s.modSheaf i f).saves = s.saves := rfl
end

section
variable (s : State) (id : Nat) (f : Op → Op)
@[simp] theorem State.modOp_pending : (s.modOp id f).pending = s.pending := rfl
@[simp] theorem State.modOp_free : (s.modOp id f).free = s.free := rfl
@[simp] theorem State.modOp_strap : (s.modOp id f).strap = s.strap := rfl
@[simp] theorem State.modOp_time : (s.modOp id f).time = s.time := rfl
@[simp] theorem State.modOp_mem : (s.modOp id f).mem = s.mem := rfl
@[simp] theorem State.modOp_regs : (s.modOp id f).regs = s.regs := rfl
@[simp] theorem State.modOp_chipSel : (s.modOp id f).chipSel = s.chipSel := rfl
@[simp] theorem State.modOp_staged : (s.modOp id f).staged = s.staged := rfl
@[simp] theorem State.modOp_latch : (s.modOp id f).latch = s.latch := rfl
@[simp] theorem State.modOp_boot : (s.modOp id f).boot = s.boot := rfl
@[simp] theorem State.modOp_ucode : (s.modOp id f).ucode = s.ucode := rfl
@[simp] theorem State.modOp_rings : (s.modOp id f).rings = s.rings := rfl
@[simp] theorem State.modOp_fetchLast : (s.modOp id f).fetchLast = s.fetchLast := rfl
@[simp] theorem State.modOp_ops : (s.modOp id f).ops = s.ops.map (fun o => if o.id = id then f o else o) := rfl
@[simp] theorem State.modOp_nextOp : (s.modOp id f).nextOp = s.nextOp := rfl
@[simp] theorem State.modOp_starts : (s.modOp id f).starts = s.starts := rfl
@[simp] theorem State.modOp_recs : (s.modOp id f).recs = s.recs := rfl
@[simp] theorem State.modOp_seqs : (s.modOp id f).seqs = s.seqs := rfl
@[simp] theorem State.modOp_regions : (s.modOp id f).regions = s.regions := rfl
@[simp] theorem State.modOp_sheaves : (s.modOp id f).sheaves = s.sheaves := rfl
@[simp] theorem State.modOp_tables : (s.modOp id f).tables = s.tables := rfl
@[simp] theorem State.modOp_tap : (s.modOp id f).tap = s.tap := rfl
@[simp] theorem State.modOp_port : (s.modOp id f).port = s.port := rfl
@[simp] theorem State.modOp_sward : (s.modOp id f).sward = s.sward := rfl
@[simp] theorem State.modOp_sets : (s.modOp id f).sets = s.sets := rfl
@[simp] theorem State.modOp_banks : (s.modOp id f).banks = s.banks := rfl
@[simp] theorem State.modOp_retire : (s.modOp id f).retire = s.retire := rfl
@[simp] theorem State.modOp_snap : (s.modOp id f).snap = s.snap := rfl
@[simp] theorem State.modOp_power : (s.modOp id f).power = s.power := rfl
@[simp] theorem State.modOp_cal : (s.modOp id f).cal = s.cal := rfl
@[simp] theorem State.modOp_evt : (s.modOp id f).evt = s.evt := rfl
@[simp] theorem State.modOp_audit : (s.modOp id f).audit = s.audit := rfl
@[simp] theorem State.modOp_receipt : (s.modOp id f).receipt = s.receipt := rfl
@[simp] theorem State.modOp_saves : (s.modOp id f).saves = s.saves := rfl
end

section
variable (s : State) (k : Nat) (f : SetTab → SetTab)
@[simp] theorem State.modSet_pending : (s.modSet k f).pending = s.pending := rfl
@[simp] theorem State.modSet_free : (s.modSet k f).free = s.free := rfl
@[simp] theorem State.modSet_strap : (s.modSet k f).strap = s.strap := rfl
@[simp] theorem State.modSet_time : (s.modSet k f).time = s.time := rfl
@[simp] theorem State.modSet_mem : (s.modSet k f).mem = s.mem := rfl
@[simp] theorem State.modSet_regs : (s.modSet k f).regs = s.regs := rfl
@[simp] theorem State.modSet_chipSel : (s.modSet k f).chipSel = s.chipSel := rfl
@[simp] theorem State.modSet_staged : (s.modSet k f).staged = s.staged := rfl
@[simp] theorem State.modSet_latch : (s.modSet k f).latch = s.latch := rfl
@[simp] theorem State.modSet_boot : (s.modSet k f).boot = s.boot := rfl
@[simp] theorem State.modSet_ucode : (s.modSet k f).ucode = s.ucode := rfl
@[simp] theorem State.modSet_rings : (s.modSet k f).rings = s.rings := rfl
@[simp] theorem State.modSet_fetchLast : (s.modSet k f).fetchLast = s.fetchLast := rfl
@[simp] theorem State.modSet_ops : (s.modSet k f).ops = s.ops := rfl
@[simp] theorem State.modSet_nextOp : (s.modSet k f).nextOp = s.nextOp := rfl
@[simp] theorem State.modSet_starts : (s.modSet k f).starts = s.starts := rfl
@[simp] theorem State.modSet_recs : (s.modSet k f).recs = s.recs := rfl
@[simp] theorem State.modSet_seqs : (s.modSet k f).seqs = s.seqs := rfl
@[simp] theorem State.modSet_regions : (s.modSet k f).regions = s.regions := rfl
@[simp] theorem State.modSet_sheaves : (s.modSet k f).sheaves = s.sheaves := rfl
@[simp] theorem State.modSet_tables : (s.modSet k f).tables = s.tables := rfl
@[simp] theorem State.modSet_tap : (s.modSet k f).tap = s.tap := rfl
@[simp] theorem State.modSet_port : (s.modSet k f).port = s.port := rfl
@[simp] theorem State.modSet_sward : (s.modSet k f).sward = s.sward := rfl
@[simp] theorem State.modSet_sets : (s.modSet k f).sets = s.sets.upd k f := rfl
@[simp] theorem State.modSet_banks : (s.modSet k f).banks = s.banks := rfl
@[simp] theorem State.modSet_retire : (s.modSet k f).retire = s.retire := rfl
@[simp] theorem State.modSet_snap : (s.modSet k f).snap = s.snap := rfl
@[simp] theorem State.modSet_power : (s.modSet k f).power = s.power := rfl
@[simp] theorem State.modSet_cal : (s.modSet k f).cal = s.cal := rfl
@[simp] theorem State.modSet_evt : (s.modSet k f).evt = s.evt := rfl
@[simp] theorem State.modSet_audit : (s.modSet k f).audit = s.audit := rfl
@[simp] theorem State.modSet_receipt : (s.modSet k f).receipt = s.receipt := rfl
@[simp] theorem State.modSet_saves : (s.modSet k f).saves = s.saves := rfl
end

section
variable (s : State) (k : Nat) (t : SetTab)
@[simp] theorem State.putSet_pending : (s.putSet k t).pending = s.pending := rfl
@[simp] theorem State.putSet_free : (s.putSet k t).free = s.free := rfl
@[simp] theorem State.putSet_strap : (s.putSet k t).strap = s.strap := rfl
@[simp] theorem State.putSet_time : (s.putSet k t).time = s.time := rfl
@[simp] theorem State.putSet_mem : (s.putSet k t).mem = s.mem := rfl
@[simp] theorem State.putSet_regs : (s.putSet k t).regs = s.regs := rfl
@[simp] theorem State.putSet_chipSel : (s.putSet k t).chipSel = s.chipSel := rfl
@[simp] theorem State.putSet_staged : (s.putSet k t).staged = s.staged := rfl
@[simp] theorem State.putSet_latch : (s.putSet k t).latch = s.latch := rfl
@[simp] theorem State.putSet_boot : (s.putSet k t).boot = s.boot := rfl
@[simp] theorem State.putSet_ucode : (s.putSet k t).ucode = s.ucode := rfl
@[simp] theorem State.putSet_rings : (s.putSet k t).rings = s.rings := rfl
@[simp] theorem State.putSet_fetchLast : (s.putSet k t).fetchLast = s.fetchLast := rfl
@[simp] theorem State.putSet_ops : (s.putSet k t).ops = s.ops := rfl
@[simp] theorem State.putSet_nextOp : (s.putSet k t).nextOp = s.nextOp := rfl
@[simp] theorem State.putSet_starts : (s.putSet k t).starts = s.starts := rfl
@[simp] theorem State.putSet_recs : (s.putSet k t).recs = s.recs := rfl
@[simp] theorem State.putSet_seqs : (s.putSet k t).seqs = s.seqs := rfl
@[simp] theorem State.putSet_regions : (s.putSet k t).regions = s.regions := rfl
@[simp] theorem State.putSet_sheaves : (s.putSet k t).sheaves = s.sheaves := rfl
@[simp] theorem State.putSet_tables : (s.putSet k t).tables = s.tables := rfl
@[simp] theorem State.putSet_tap : (s.putSet k t).tap = s.tap := rfl
@[simp] theorem State.putSet_port : (s.putSet k t).port = s.port := rfl
@[simp] theorem State.putSet_sward : (s.putSet k t).sward = s.sward := rfl
@[simp] theorem State.putSet_sets : (s.putSet k t).sets = s.sets.set k t := rfl
@[simp] theorem State.putSet_banks : (s.putSet k t).banks = s.banks := rfl
@[simp] theorem State.putSet_retire : (s.putSet k t).retire = s.retire := rfl
@[simp] theorem State.putSet_snap : (s.putSet k t).snap = s.snap := rfl
@[simp] theorem State.putSet_power : (s.putSet k t).power = s.power := rfl
@[simp] theorem State.putSet_cal : (s.putSet k t).cal = s.cal := rfl
@[simp] theorem State.putSet_evt : (s.putSet k t).evt = s.evt := rfl
@[simp] theorem State.putSet_audit : (s.putSet k t).audit = s.audit := rfl
@[simp] theorem State.putSet_receipt : (s.putSet k t).receipt = s.receipt := rfl
@[simp] theorem State.putSet_saves : (s.putSet k t).saves = s.saves := rfl
end

section
variable (s : State) (tile : Nat) (v : List Byte)
@[simp] theorem State.refreshPair_pending : (s.refreshPair tile v).pending = s.pending := rfl
@[simp] theorem State.refreshPair_free : (s.refreshPair tile v).free = s.free := rfl
@[simp] theorem State.refreshPair_strap : (s.refreshPair tile v).strap = s.strap := rfl
@[simp] theorem State.refreshPair_time : (s.refreshPair tile v).time = s.time := rfl
@[simp] theorem State.refreshPair_mem : (s.refreshPair tile v).mem = s.mem := rfl
@[simp] theorem State.refreshPair_regs : (s.refreshPair tile v).regs = s.regs := rfl
@[simp] theorem State.refreshPair_chipSel : (s.refreshPair tile v).chipSel = s.chipSel := rfl
@[simp] theorem State.refreshPair_staged : (s.refreshPair tile v).staged = s.staged := rfl
@[simp] theorem State.refreshPair_latch : (s.refreshPair tile v).latch = s.latch := rfl
@[simp] theorem State.refreshPair_boot : (s.refreshPair tile v).boot = s.boot := rfl
@[simp] theorem State.refreshPair_ucode : (s.refreshPair tile v).ucode = s.ucode := rfl
@[simp] theorem State.refreshPair_rings : (s.refreshPair tile v).rings = s.rings := rfl
@[simp] theorem State.refreshPair_fetchLast : (s.refreshPair tile v).fetchLast = s.fetchLast := rfl
@[simp] theorem State.refreshPair_ops : (s.refreshPair tile v).ops = s.ops := rfl
@[simp] theorem State.refreshPair_nextOp : (s.refreshPair tile v).nextOp = s.nextOp := rfl
@[simp] theorem State.refreshPair_starts : (s.refreshPair tile v).starts = s.starts := rfl
@[simp] theorem State.refreshPair_recs : (s.refreshPair tile v).recs = s.recs := rfl
@[simp] theorem State.refreshPair_seqs : (s.refreshPair tile v).seqs = s.seqs := rfl
@[simp] theorem State.refreshPair_regions : (s.refreshPair tile v).regions = s.regions := rfl
@[simp] theorem State.refreshPair_sheaves : (s.refreshPair tile v).sheaves = s.sheaves := rfl
@[simp] theorem State.refreshPair_tables : (s.refreshPair tile v).tables = s.tables := rfl
@[simp] theorem State.refreshPair_port : (s.refreshPair tile v).port = s.port := rfl
@[simp] theorem State.refreshPair_sward : (s.refreshPair tile v).sward = s.sward := rfl
@[simp] theorem State.refreshPair_sets : (s.refreshPair tile v).sets = s.sets := rfl
@[simp] theorem State.refreshPair_banks : (s.refreshPair tile v).banks = s.banks := rfl
@[simp] theorem State.refreshPair_retire : (s.refreshPair tile v).retire = s.retire := rfl
@[simp] theorem State.refreshPair_snap : (s.refreshPair tile v).snap = s.snap := rfl
@[simp] theorem State.refreshPair_power : (s.refreshPair tile v).power = s.power := rfl
@[simp] theorem State.refreshPair_cal : (s.refreshPair tile v).cal = s.cal := rfl
@[simp] theorem State.refreshPair_evt : (s.refreshPair tile v).evt = s.evt := rfl
@[simp] theorem State.refreshPair_audit : (s.refreshPair tile v).audit = s.audit := rfl
@[simp] theorem State.refreshPair_receipt : (s.refreshPair tile v).receipt = s.receipt := rfl
@[simp] theorem State.refreshPair_saves : (s.refreshPair tile v).saves = s.saves := rfl
end

section
variable (s : State) (off n : Nat)
@[simp] theorem State.bumpBy_pending : (s.bumpBy off n).pending = s.pending := by unfold State.bumpBy; split <;> rfl
@[simp] theorem State.bumpBy_free : (s.bumpBy off n).free = s.free := by unfold State.bumpBy; split <;> rfl
@[simp] theorem State.bumpBy_strap : (s.bumpBy off n).strap = s.strap := by unfold State.bumpBy; split <;> rfl
@[simp] theorem State.bumpBy_time : (s.bumpBy off n).time = s.time := by unfold State.bumpBy; split <;> rfl
@[simp] theorem State.bumpBy_mem : (s.bumpBy off n).mem = s.mem := by unfold State.bumpBy; split <;> rfl
@[simp] theorem State.bumpBy_chipSel : (s.bumpBy off n).chipSel = s.chipSel := by unfold State.bumpBy; split <;> rfl
@[simp] theorem State.bumpBy_staged : (s.bumpBy off n).staged = s.staged := by unfold State.bumpBy; split <;> rfl
@[simp] theorem State.bumpBy_latch : (s.bumpBy off n).latch = s.latch := by unfold State.bumpBy; split <;> rfl
@[simp] theorem State.bumpBy_boot : (s.bumpBy off n).boot = s.boot := by unfold State.bumpBy; split <;> rfl
@[simp] theorem State.bumpBy_ucode : (s.bumpBy off n).ucode = s.ucode := by unfold State.bumpBy; split <;> rfl
@[simp] theorem State.bumpBy_rings : (s.bumpBy off n).rings = s.rings := by unfold State.bumpBy; split <;> rfl
@[simp] theorem State.bumpBy_fetchLast : (s.bumpBy off n).fetchLast = s.fetchLast := by unfold State.bumpBy; split <;> rfl
@[simp] theorem State.bumpBy_ops : (s.bumpBy off n).ops = s.ops := by unfold State.bumpBy; split <;> rfl
@[simp] theorem State.bumpBy_nextOp : (s.bumpBy off n).nextOp = s.nextOp := by unfold State.bumpBy; split <;> rfl
@[simp] theorem State.bumpBy_starts : (s.bumpBy off n).starts = s.starts := by unfold State.bumpBy; split <;> rfl
@[simp] theorem State.bumpBy_recs : (s.bumpBy off n).recs = s.recs := by unfold State.bumpBy; split <;> rfl
@[simp] theorem State.bumpBy_seqs : (s.bumpBy off n).seqs = s.seqs := by unfold State.bumpBy; split <;> rfl
@[simp] theorem State.bumpBy_regions : (s.bumpBy off n).regions = s.regions := by unfold State.bumpBy; split <;> rfl
@[simp] theorem State.bumpBy_sheaves : (s.bumpBy off n).sheaves = s.sheaves := by unfold State.bumpBy; split <;> rfl
@[simp] theorem State.bumpBy_tables : (s.bumpBy off n).tables = s.tables := by unfold State.bumpBy; split <;> rfl
@[simp] theorem State.bumpBy_tap : (s.bumpBy off n).tap = s.tap := by unfold State.bumpBy; split <;> rfl
@[simp] theorem State.bumpBy_port : (s.bumpBy off n).port = s.port := by unfold State.bumpBy; split <;> rfl
@[simp] theorem State.bumpBy_sward : (s.bumpBy off n).sward = s.sward := by unfold State.bumpBy; split <;> rfl
@[simp] theorem State.bumpBy_sets : (s.bumpBy off n).sets = s.sets := by unfold State.bumpBy; split <;> rfl
@[simp] theorem State.bumpBy_banks : (s.bumpBy off n).banks = s.banks := by unfold State.bumpBy; split <;> rfl
@[simp] theorem State.bumpBy_retire : (s.bumpBy off n).retire = s.retire := by unfold State.bumpBy; split <;> rfl
@[simp] theorem State.bumpBy_snap : (s.bumpBy off n).snap = s.snap := by unfold State.bumpBy; split <;> rfl
@[simp] theorem State.bumpBy_power : (s.bumpBy off n).power = s.power := by unfold State.bumpBy; split <;> rfl
@[simp] theorem State.bumpBy_cal : (s.bumpBy off n).cal = s.cal := by unfold State.bumpBy; split <;> rfl
@[simp] theorem State.bumpBy_evt : (s.bumpBy off n).evt = s.evt := by unfold State.bumpBy; split <;> rfl
@[simp] theorem State.bumpBy_audit : (s.bumpBy off n).audit = s.audit := by unfold State.bumpBy; split <;> rfl
@[simp] theorem State.bumpBy_receipt : (s.bumpBy off n).receipt = s.receipt := by unfold State.bumpBy; split <;> rfl
@[simp] theorem State.bumpBy_saves : (s.bumpBy off n).saves = s.saves := by unfold State.bumpBy; split <;> rfl
end

section
variable (s : State) (off : Nat)
@[simp] theorem State.bump_pending : (s.bump off).pending = s.pending := State.bumpBy_pending s off 1
@[simp] theorem State.bump_free : (s.bump off).free = s.free := State.bumpBy_free s off 1
@[simp] theorem State.bump_strap : (s.bump off).strap = s.strap := State.bumpBy_strap s off 1
@[simp] theorem State.bump_time : (s.bump off).time = s.time := State.bumpBy_time s off 1
@[simp] theorem State.bump_mem : (s.bump off).mem = s.mem := State.bumpBy_mem s off 1
@[simp] theorem State.bump_chipSel : (s.bump off).chipSel = s.chipSel := State.bumpBy_chipSel s off 1
@[simp] theorem State.bump_staged : (s.bump off).staged = s.staged := State.bumpBy_staged s off 1
@[simp] theorem State.bump_latch : (s.bump off).latch = s.latch := State.bumpBy_latch s off 1
@[simp] theorem State.bump_boot : (s.bump off).boot = s.boot := State.bumpBy_boot s off 1
@[simp] theorem State.bump_ucode : (s.bump off).ucode = s.ucode := State.bumpBy_ucode s off 1
@[simp] theorem State.bump_rings : (s.bump off).rings = s.rings := State.bumpBy_rings s off 1
@[simp] theorem State.bump_fetchLast : (s.bump off).fetchLast = s.fetchLast := State.bumpBy_fetchLast s off 1
@[simp] theorem State.bump_ops : (s.bump off).ops = s.ops := State.bumpBy_ops s off 1
@[simp] theorem State.bump_nextOp : (s.bump off).nextOp = s.nextOp := State.bumpBy_nextOp s off 1
@[simp] theorem State.bump_starts : (s.bump off).starts = s.starts := State.bumpBy_starts s off 1
@[simp] theorem State.bump_recs : (s.bump off).recs = s.recs := State.bumpBy_recs s off 1
@[simp] theorem State.bump_seqs : (s.bump off).seqs = s.seqs := State.bumpBy_seqs s off 1
@[simp] theorem State.bump_regions : (s.bump off).regions = s.regions := State.bumpBy_regions s off 1
@[simp] theorem State.bump_sheaves : (s.bump off).sheaves = s.sheaves := State.bumpBy_sheaves s off 1
@[simp] theorem State.bump_tables : (s.bump off).tables = s.tables := State.bumpBy_tables s off 1
@[simp] theorem State.bump_tap : (s.bump off).tap = s.tap := State.bumpBy_tap s off 1
@[simp] theorem State.bump_port : (s.bump off).port = s.port := State.bumpBy_port s off 1
@[simp] theorem State.bump_sward : (s.bump off).sward = s.sward := State.bumpBy_sward s off 1
@[simp] theorem State.bump_sets : (s.bump off).sets = s.sets := State.bumpBy_sets s off 1
@[simp] theorem State.bump_banks : (s.bump off).banks = s.banks := State.bumpBy_banks s off 1
@[simp] theorem State.bump_retire : (s.bump off).retire = s.retire := State.bumpBy_retire s off 1
@[simp] theorem State.bump_snap : (s.bump off).snap = s.snap := State.bumpBy_snap s off 1
@[simp] theorem State.bump_power : (s.bump off).power = s.power := State.bumpBy_power s off 1
@[simp] theorem State.bump_cal : (s.bump off).cal = s.cal := State.bumpBy_cal s off 1
@[simp] theorem State.bump_evt : (s.bump off).evt = s.evt := State.bumpBy_evt s off 1
@[simp] theorem State.bump_audit : (s.bump off).audit = s.audit := State.bumpBy_audit s off 1
@[simp] theorem State.bump_receipt : (s.bump off).receipt = s.receipt := State.bumpBy_receipt s off 1
@[simp] theorem State.bump_saves : (s.bump off).saves = s.saves := State.bumpBy_saves s off 1
end

section
variable (s : State) (r : Region) (t g : Nat) (v : List Byte)
@[simp] theorem State.putLine_pending : (s.putLine r t g v).pending = s.pending := by unfold State.putLine; split <;> [split <;> rfl; rfl]
@[simp] theorem State.putLine_free : (s.putLine r t g v).free = s.free := by unfold State.putLine; split <;> [split <;> rfl; rfl]
@[simp] theorem State.putLine_strap : (s.putLine r t g v).strap = s.strap := by unfold State.putLine; split <;> [split <;> rfl; rfl]
@[simp] theorem State.putLine_time : (s.putLine r t g v).time = s.time := by unfold State.putLine; split <;> [split <;> rfl; rfl]
@[simp] theorem State.putLine_regs : (s.putLine r t g v).regs = s.regs := by unfold State.putLine; split <;> [split <;> rfl; rfl]
@[simp] theorem State.putLine_chipSel : (s.putLine r t g v).chipSel = s.chipSel := by unfold State.putLine; split <;> [split <;> rfl; rfl]
@[simp] theorem State.putLine_staged : (s.putLine r t g v).staged = s.staged := by unfold State.putLine; split <;> [split <;> rfl; rfl]
@[simp] theorem State.putLine_latch : (s.putLine r t g v).latch = s.latch := by unfold State.putLine; split <;> [split <;> rfl; rfl]
@[simp] theorem State.putLine_boot : (s.putLine r t g v).boot = s.boot := by unfold State.putLine; split <;> [split <;> rfl; rfl]
@[simp] theorem State.putLine_ucode : (s.putLine r t g v).ucode = s.ucode := by unfold State.putLine; split <;> [split <;> rfl; rfl]
@[simp] theorem State.putLine_rings : (s.putLine r t g v).rings = s.rings := by unfold State.putLine; split <;> [split <;> rfl; rfl]
@[simp] theorem State.putLine_fetchLast : (s.putLine r t g v).fetchLast = s.fetchLast := by unfold State.putLine; split <;> [split <;> rfl; rfl]
@[simp] theorem State.putLine_ops : (s.putLine r t g v).ops = s.ops := by unfold State.putLine; split <;> [split <;> rfl; rfl]
@[simp] theorem State.putLine_nextOp : (s.putLine r t g v).nextOp = s.nextOp := by unfold State.putLine; split <;> [split <;> rfl; rfl]
@[simp] theorem State.putLine_starts : (s.putLine r t g v).starts = s.starts := by unfold State.putLine; split <;> [split <;> rfl; rfl]
@[simp] theorem State.putLine_recs : (s.putLine r t g v).recs = s.recs := by unfold State.putLine; split <;> [split <;> rfl; rfl]
@[simp] theorem State.putLine_seqs : (s.putLine r t g v).seqs = s.seqs := by unfold State.putLine; split <;> [split <;> rfl; rfl]
@[simp] theorem State.putLine_regions : (s.putLine r t g v).regions = s.regions := by unfold State.putLine; split <;> [split <;> rfl; rfl]
@[simp] theorem State.putLine_sheaves : (s.putLine r t g v).sheaves = s.sheaves := by unfold State.putLine; split <;> [split <;> rfl; rfl]
@[simp] theorem State.putLine_tables : (s.putLine r t g v).tables = s.tables := by unfold State.putLine; split <;> [split <;> rfl; rfl]
@[simp] theorem State.putLine_tap : (s.putLine r t g v).tap = s.tap := by unfold State.putLine; split <;> [split <;> rfl; rfl]
@[simp] theorem State.putLine_port : (s.putLine r t g v).port = s.port := by unfold State.putLine; split <;> [split <;> rfl; rfl]
@[simp] theorem State.putLine_sward : (s.putLine r t g v).sward = s.sward := by unfold State.putLine; split <;> [split <;> rfl; rfl]
@[simp] theorem State.putLine_sets : (s.putLine r t g v).sets = s.sets := by unfold State.putLine; split <;> [split <;> rfl; rfl]
@[simp] theorem State.putLine_banks : (s.putLine r t g v).banks = s.banks := by unfold State.putLine; split <;> [split <;> rfl; rfl]
@[simp] theorem State.putLine_retire : (s.putLine r t g v).retire = s.retire := by unfold State.putLine; split <;> [split <;> rfl; rfl]
@[simp] theorem State.putLine_snap : (s.putLine r t g v).snap = s.snap := by unfold State.putLine; split <;> [split <;> rfl; rfl]
@[simp] theorem State.putLine_power : (s.putLine r t g v).power = s.power := by unfold State.putLine; split <;> [split <;> rfl; rfl]
@[simp] theorem State.putLine_cal : (s.putLine r t g v).cal = s.cal := by unfold State.putLine; split <;> [split <;> rfl; rfl]
@[simp] theorem State.putLine_evt : (s.putLine r t g v).evt = s.evt := by unfold State.putLine; split <;> [split <;> rfl; rfl]
@[simp] theorem State.putLine_audit : (s.putLine r t g v).audit = s.audit := by unfold State.putLine; split <;> [split <;> rfl; rfl]
@[simp] theorem State.putLine_receipt : (s.putLine r t g v).receipt = s.receipt := by unfold State.putLine; split <;> [split <;> rfl; rfl]
@[simp] theorem State.putLine_saves : (s.putLine r t g v).saves = s.saves := by unfold State.putLine; split <;> [split <;> rfl; rfl]
end

section
variable (s : State) (r : Region) (t g : Nat) (d : List Byte)
@[simp] theorem State.xorLine_pending : (s.xorLine r t g d).pending = s.pending := by unfold State.xorLine; split <;> [split <;> rfl; rfl]
@[simp] theorem State.xorLine_free : (s.xorLine r t g d).free = s.free := by unfold State.xorLine; split <;> [split <;> rfl; rfl]
@[simp] theorem State.xorLine_strap : (s.xorLine r t g d).strap = s.strap := by unfold State.xorLine; split <;> [split <;> rfl; rfl]
@[simp] theorem State.xorLine_time : (s.xorLine r t g d).time = s.time := by unfold State.xorLine; split <;> [split <;> rfl; rfl]
@[simp] theorem State.xorLine_regs : (s.xorLine r t g d).regs = s.regs := by unfold State.xorLine; split <;> [split <;> rfl; rfl]
@[simp] theorem State.xorLine_chipSel : (s.xorLine r t g d).chipSel = s.chipSel := by unfold State.xorLine; split <;> [split <;> rfl; rfl]
@[simp] theorem State.xorLine_staged : (s.xorLine r t g d).staged = s.staged := by unfold State.xorLine; split <;> [split <;> rfl; rfl]
@[simp] theorem State.xorLine_latch : (s.xorLine r t g d).latch = s.latch := by unfold State.xorLine; split <;> [split <;> rfl; rfl]
@[simp] theorem State.xorLine_boot : (s.xorLine r t g d).boot = s.boot := by unfold State.xorLine; split <;> [split <;> rfl; rfl]
@[simp] theorem State.xorLine_ucode : (s.xorLine r t g d).ucode = s.ucode := by unfold State.xorLine; split <;> [split <;> rfl; rfl]
@[simp] theorem State.xorLine_rings : (s.xorLine r t g d).rings = s.rings := by unfold State.xorLine; split <;> [split <;> rfl; rfl]
@[simp] theorem State.xorLine_fetchLast : (s.xorLine r t g d).fetchLast = s.fetchLast := by unfold State.xorLine; split <;> [split <;> rfl; rfl]
@[simp] theorem State.xorLine_ops : (s.xorLine r t g d).ops = s.ops := by unfold State.xorLine; split <;> [split <;> rfl; rfl]
@[simp] theorem State.xorLine_nextOp : (s.xorLine r t g d).nextOp = s.nextOp := by unfold State.xorLine; split <;> [split <;> rfl; rfl]
@[simp] theorem State.xorLine_starts : (s.xorLine r t g d).starts = s.starts := by unfold State.xorLine; split <;> [split <;> rfl; rfl]
@[simp] theorem State.xorLine_recs : (s.xorLine r t g d).recs = s.recs := by unfold State.xorLine; split <;> [split <;> rfl; rfl]
@[simp] theorem State.xorLine_seqs : (s.xorLine r t g d).seqs = s.seqs := by unfold State.xorLine; split <;> [split <;> rfl; rfl]
@[simp] theorem State.xorLine_regions : (s.xorLine r t g d).regions = s.regions := by unfold State.xorLine; split <;> [split <;> rfl; rfl]
@[simp] theorem State.xorLine_sheaves : (s.xorLine r t g d).sheaves = s.sheaves := by unfold State.xorLine; split <;> [split <;> rfl; rfl]
@[simp] theorem State.xorLine_tables : (s.xorLine r t g d).tables = s.tables := by unfold State.xorLine; split <;> [split <;> rfl; rfl]
@[simp] theorem State.xorLine_tap : (s.xorLine r t g d).tap = s.tap := by unfold State.xorLine; split <;> [split <;> rfl; rfl]
@[simp] theorem State.xorLine_port : (s.xorLine r t g d).port = s.port := by unfold State.xorLine; split <;> [split <;> rfl; rfl]
@[simp] theorem State.xorLine_sward : (s.xorLine r t g d).sward = s.sward := by unfold State.xorLine; split <;> [split <;> rfl; rfl]
@[simp] theorem State.xorLine_sets : (s.xorLine r t g d).sets = s.sets := by unfold State.xorLine; split <;> [split <;> rfl; rfl]
@[simp] theorem State.xorLine_banks : (s.xorLine r t g d).banks = s.banks := by unfold State.xorLine; split <;> [split <;> rfl; rfl]
@[simp] theorem State.xorLine_retire : (s.xorLine r t g d).retire = s.retire := by unfold State.xorLine; split <;> [split <;> rfl; rfl]
@[simp] theorem State.xorLine_snap : (s.xorLine r t g d).snap = s.snap := by unfold State.xorLine; split <;> [split <;> rfl; rfl]
@[simp] theorem State.xorLine_power : (s.xorLine r t g d).power = s.power := by unfold State.xorLine; split <;> [split <;> rfl; rfl]
@[simp] theorem State.xorLine_cal : (s.xorLine r t g d).cal = s.cal := by unfold State.xorLine; split <;> [split <;> rfl; rfl]
@[simp] theorem State.xorLine_evt : (s.xorLine r t g d).evt = s.evt := by unfold State.xorLine; split <;> [split <;> rfl; rfl]
@[simp] theorem State.xorLine_audit : (s.xorLine r t g d).audit = s.audit := by unfold State.xorLine; split <;> [split <;> rfl; rfl]
@[simp] theorem State.xorLine_receipt : (s.xorLine r t g d).receipt = s.receipt := by unfold State.xorLine; split <;> [split <;> rfl; rfl]
@[simp] theorem State.xorLine_saves : (s.xorLine r t g d).saves = s.saves := by unfold State.xorLine; split <;> [split <;> rfl; rfl]
end

section
variable (s : State) (r : Region) (t : Nat) (v : List Byte)
@[simp] theorem State.putTile_pending : (s.putTile r t v).pending = s.pending := (State.refreshPair_pending _ _ _).trans (State.putLine_pending _ _ _ _ _)
@[simp] theorem State.putTile_free : (s.putTile r t v).free = s.free := (State.refreshPair_free _ _ _).trans (State.putLine_free _ _ _ _ _)
@[simp] theorem State.putTile_strap : (s.putTile r t v).strap = s.strap := (State.refreshPair_strap _ _ _).trans (State.putLine_strap _ _ _ _ _)
@[simp] theorem State.putTile_time : (s.putTile r t v).time = s.time := (State.refreshPair_time _ _ _).trans (State.putLine_time _ _ _ _ _)
@[simp] theorem State.putTile_regs : (s.putTile r t v).regs = s.regs := (State.refreshPair_regs _ _ _).trans (State.putLine_regs _ _ _ _ _)
@[simp] theorem State.putTile_chipSel : (s.putTile r t v).chipSel = s.chipSel := (State.refreshPair_chipSel _ _ _).trans (State.putLine_chipSel _ _ _ _ _)
@[simp] theorem State.putTile_staged : (s.putTile r t v).staged = s.staged := (State.refreshPair_staged _ _ _).trans (State.putLine_staged _ _ _ _ _)
@[simp] theorem State.putTile_latch : (s.putTile r t v).latch = s.latch := (State.refreshPair_latch _ _ _).trans (State.putLine_latch _ _ _ _ _)
@[simp] theorem State.putTile_boot : (s.putTile r t v).boot = s.boot := (State.refreshPair_boot _ _ _).trans (State.putLine_boot _ _ _ _ _)
@[simp] theorem State.putTile_ucode : (s.putTile r t v).ucode = s.ucode := (State.refreshPair_ucode _ _ _).trans (State.putLine_ucode _ _ _ _ _)
@[simp] theorem State.putTile_rings : (s.putTile r t v).rings = s.rings := (State.refreshPair_rings _ _ _).trans (State.putLine_rings _ _ _ _ _)
@[simp] theorem State.putTile_fetchLast : (s.putTile r t v).fetchLast = s.fetchLast := (State.refreshPair_fetchLast _ _ _).trans (State.putLine_fetchLast _ _ _ _ _)
@[simp] theorem State.putTile_ops : (s.putTile r t v).ops = s.ops := (State.refreshPair_ops _ _ _).trans (State.putLine_ops _ _ _ _ _)
@[simp] theorem State.putTile_nextOp : (s.putTile r t v).nextOp = s.nextOp := (State.refreshPair_nextOp _ _ _).trans (State.putLine_nextOp _ _ _ _ _)
@[simp] theorem State.putTile_starts : (s.putTile r t v).starts = s.starts := (State.refreshPair_starts _ _ _).trans (State.putLine_starts _ _ _ _ _)
@[simp] theorem State.putTile_recs : (s.putTile r t v).recs = s.recs := (State.refreshPair_recs _ _ _).trans (State.putLine_recs _ _ _ _ _)
@[simp] theorem State.putTile_seqs : (s.putTile r t v).seqs = s.seqs := (State.refreshPair_seqs _ _ _).trans (State.putLine_seqs _ _ _ _ _)
@[simp] theorem State.putTile_regions : (s.putTile r t v).regions = s.regions := (State.refreshPair_regions _ _ _).trans (State.putLine_regions _ _ _ _ _)
@[simp] theorem State.putTile_sheaves : (s.putTile r t v).sheaves = s.sheaves := (State.refreshPair_sheaves _ _ _).trans (State.putLine_sheaves _ _ _ _ _)
@[simp] theorem State.putTile_tables : (s.putTile r t v).tables = s.tables := (State.refreshPair_tables _ _ _).trans (State.putLine_tables _ _ _ _ _)
@[simp] theorem State.putTile_port : (s.putTile r t v).port = s.port := (State.refreshPair_port _ _ _).trans (State.putLine_port _ _ _ _ _)
@[simp] theorem State.putTile_sward : (s.putTile r t v).sward = s.sward := (State.refreshPair_sward _ _ _).trans (State.putLine_sward _ _ _ _ _)
@[simp] theorem State.putTile_sets : (s.putTile r t v).sets = s.sets := (State.refreshPair_sets _ _ _).trans (State.putLine_sets _ _ _ _ _)
@[simp] theorem State.putTile_banks : (s.putTile r t v).banks = s.banks := (State.refreshPair_banks _ _ _).trans (State.putLine_banks _ _ _ _ _)
@[simp] theorem State.putTile_retire : (s.putTile r t v).retire = s.retire := (State.refreshPair_retire _ _ _).trans (State.putLine_retire _ _ _ _ _)
@[simp] theorem State.putTile_snap : (s.putTile r t v).snap = s.snap := (State.refreshPair_snap _ _ _).trans (State.putLine_snap _ _ _ _ _)
@[simp] theorem State.putTile_power : (s.putTile r t v).power = s.power := (State.refreshPair_power _ _ _).trans (State.putLine_power _ _ _ _ _)
@[simp] theorem State.putTile_cal : (s.putTile r t v).cal = s.cal := (State.refreshPair_cal _ _ _).trans (State.putLine_cal _ _ _ _ _)
@[simp] theorem State.putTile_evt : (s.putTile r t v).evt = s.evt := (State.refreshPair_evt _ _ _).trans (State.putLine_evt _ _ _ _ _)
@[simp] theorem State.putTile_audit : (s.putTile r t v).audit = s.audit := (State.refreshPair_audit _ _ _).trans (State.putLine_audit _ _ _ _ _)
@[simp] theorem State.putTile_receipt : (s.putTile r t v).receipt = s.receipt := (State.refreshPair_receipt _ _ _).trans (State.putLine_receipt _ _ _ _ _)
@[simp] theorem State.putTile_saves : (s.putTile r t v).saves = s.saves := (State.refreshPair_saves _ _ _).trans (State.putLine_saves _ _ _ _ _)
end

section
variable (s : State) (r : Region) (t : Nat) (v : List Byte)
@[simp] theorem State.putPart_pending : (s.putPart r t v).pending = s.pending := (State.refreshPair_pending _ _ _).trans (State.xorLine_pending _ _ _ _ _)
@[simp] theorem State.putPart_free : (s.putPart r t v).free = s.free := (State.refreshPair_free _ _ _).trans (State.xorLine_free _ _ _ _ _)
@[simp] theorem State.putPart_strap : (s.putPart r t v).strap = s.strap := (State.refreshPair_strap _ _ _).trans (State.xorLine_strap _ _ _ _ _)
@[simp] theorem State.putPart_time : (s.putPart r t v).time = s.time := (State.refreshPair_time _ _ _).trans (State.xorLine_time _ _ _ _ _)
@[simp] theorem State.putPart_regs : (s.putPart r t v).regs = s.regs := (State.refreshPair_regs _ _ _).trans (State.xorLine_regs _ _ _ _ _)
@[simp] theorem State.putPart_chipSel : (s.putPart r t v).chipSel = s.chipSel := (State.refreshPair_chipSel _ _ _).trans (State.xorLine_chipSel _ _ _ _ _)
@[simp] theorem State.putPart_staged : (s.putPart r t v).staged = s.staged := (State.refreshPair_staged _ _ _).trans (State.xorLine_staged _ _ _ _ _)
@[simp] theorem State.putPart_latch : (s.putPart r t v).latch = s.latch := (State.refreshPair_latch _ _ _).trans (State.xorLine_latch _ _ _ _ _)
@[simp] theorem State.putPart_boot : (s.putPart r t v).boot = s.boot := (State.refreshPair_boot _ _ _).trans (State.xorLine_boot _ _ _ _ _)
@[simp] theorem State.putPart_ucode : (s.putPart r t v).ucode = s.ucode := (State.refreshPair_ucode _ _ _).trans (State.xorLine_ucode _ _ _ _ _)
@[simp] theorem State.putPart_rings : (s.putPart r t v).rings = s.rings := (State.refreshPair_rings _ _ _).trans (State.xorLine_rings _ _ _ _ _)
@[simp] theorem State.putPart_fetchLast : (s.putPart r t v).fetchLast = s.fetchLast := (State.refreshPair_fetchLast _ _ _).trans (State.xorLine_fetchLast _ _ _ _ _)
@[simp] theorem State.putPart_ops : (s.putPart r t v).ops = s.ops := (State.refreshPair_ops _ _ _).trans (State.xorLine_ops _ _ _ _ _)
@[simp] theorem State.putPart_nextOp : (s.putPart r t v).nextOp = s.nextOp := (State.refreshPair_nextOp _ _ _).trans (State.xorLine_nextOp _ _ _ _ _)
@[simp] theorem State.putPart_starts : (s.putPart r t v).starts = s.starts := (State.refreshPair_starts _ _ _).trans (State.xorLine_starts _ _ _ _ _)
@[simp] theorem State.putPart_recs : (s.putPart r t v).recs = s.recs := (State.refreshPair_recs _ _ _).trans (State.xorLine_recs _ _ _ _ _)
@[simp] theorem State.putPart_seqs : (s.putPart r t v).seqs = s.seqs := (State.refreshPair_seqs _ _ _).trans (State.xorLine_seqs _ _ _ _ _)
@[simp] theorem State.putPart_regions : (s.putPart r t v).regions = s.regions := (State.refreshPair_regions _ _ _).trans (State.xorLine_regions _ _ _ _ _)
@[simp] theorem State.putPart_sheaves : (s.putPart r t v).sheaves = s.sheaves := (State.refreshPair_sheaves _ _ _).trans (State.xorLine_sheaves _ _ _ _ _)
@[simp] theorem State.putPart_tables : (s.putPart r t v).tables = s.tables := (State.refreshPair_tables _ _ _).trans (State.xorLine_tables _ _ _ _ _)
@[simp] theorem State.putPart_port : (s.putPart r t v).port = s.port := (State.refreshPair_port _ _ _).trans (State.xorLine_port _ _ _ _ _)
@[simp] theorem State.putPart_sward : (s.putPart r t v).sward = s.sward := (State.refreshPair_sward _ _ _).trans (State.xorLine_sward _ _ _ _ _)
@[simp] theorem State.putPart_sets : (s.putPart r t v).sets = s.sets := (State.refreshPair_sets _ _ _).trans (State.xorLine_sets _ _ _ _ _)
@[simp] theorem State.putPart_banks : (s.putPart r t v).banks = s.banks := (State.refreshPair_banks _ _ _).trans (State.xorLine_banks _ _ _ _ _)
@[simp] theorem State.putPart_retire : (s.putPart r t v).retire = s.retire := (State.refreshPair_retire _ _ _).trans (State.xorLine_retire _ _ _ _ _)
@[simp] theorem State.putPart_snap : (s.putPart r t v).snap = s.snap := (State.refreshPair_snap _ _ _).trans (State.xorLine_snap _ _ _ _ _)
@[simp] theorem State.putPart_power : (s.putPart r t v).power = s.power := (State.refreshPair_power _ _ _).trans (State.xorLine_power _ _ _ _ _)
@[simp] theorem State.putPart_cal : (s.putPart r t v).cal = s.cal := (State.refreshPair_cal _ _ _).trans (State.xorLine_cal _ _ _ _ _)
@[simp] theorem State.putPart_evt : (s.putPart r t v).evt = s.evt := (State.refreshPair_evt _ _ _).trans (State.xorLine_evt _ _ _ _ _)
@[simp] theorem State.putPart_audit : (s.putPart r t v).audit = s.audit := (State.refreshPair_audit _ _ _).trans (State.xorLine_audit _ _ _ _ _)
@[simp] theorem State.putPart_receipt : (s.putPart r t v).receipt = s.receipt := (State.refreshPair_receipt _ _ _).trans (State.xorLine_receipt _ _ _ _ _)
@[simp] theorem State.putPart_saves : (s.putPart r t v).saves = s.saves := (State.refreshPair_saves _ _ _).trans (State.xorLine_saves _ _ _ _ _)
end

section
variable (s : State) (off : Nat) (v : List (Option Byte))
@[simp] theorem State.writeLoose_pending : (s.writeLoose off v).pending = s.pending := rfl
@[simp] theorem State.writeLoose_free : (s.writeLoose off v).free = s.free := rfl
@[simp] theorem State.writeLoose_strap : (s.writeLoose off v).strap = s.strap := rfl
@[simp] theorem State.writeLoose_time : (s.writeLoose off v).time = s.time := rfl
@[simp] theorem State.writeLoose_regs : (s.writeLoose off v).regs = s.regs := rfl
@[simp] theorem State.writeLoose_chipSel : (s.writeLoose off v).chipSel = s.chipSel := rfl
@[simp] theorem State.writeLoose_staged : (s.writeLoose off v).staged = s.staged := rfl
@[simp] theorem State.writeLoose_latch : (s.writeLoose off v).latch = s.latch := rfl
@[simp] theorem State.writeLoose_boot : (s.writeLoose off v).boot = s.boot := rfl
@[simp] theorem State.writeLoose_ucode : (s.writeLoose off v).ucode = s.ucode := rfl
@[simp] theorem State.writeLoose_rings : (s.writeLoose off v).rings = s.rings := rfl
@[simp] theorem State.writeLoose_fetchLast : (s.writeLoose off v).fetchLast = s.fetchLast := rfl
@[simp] theorem State.writeLoose_ops : (s.writeLoose off v).ops = s.ops := rfl
@[simp] theorem State.writeLoose_nextOp : (s.writeLoose off v).nextOp = s.nextOp := rfl
@[simp] theorem State.writeLoose_starts : (s.writeLoose off v).starts = s.starts := rfl
@[simp] theorem State.writeLoose_recs : (s.writeLoose off v).recs = s.recs := rfl
@[simp] theorem State.writeLoose_seqs : (s.writeLoose off v).seqs = s.seqs := rfl
@[simp] theorem State.writeLoose_regions : (s.writeLoose off v).regions = s.regions := rfl
@[simp] theorem State.writeLoose_sheaves : (s.writeLoose off v).sheaves = s.sheaves := rfl
@[simp] theorem State.writeLoose_tables : (s.writeLoose off v).tables = s.tables := rfl
@[simp] theorem State.writeLoose_tap : (s.writeLoose off v).tap = s.tap := rfl
@[simp] theorem State.writeLoose_port : (s.writeLoose off v).port = s.port := rfl
@[simp] theorem State.writeLoose_sward : (s.writeLoose off v).sward = s.sward := rfl
@[simp] theorem State.writeLoose_sets : (s.writeLoose off v).sets = s.sets := rfl
@[simp] theorem State.writeLoose_banks : (s.writeLoose off v).banks = s.banks := rfl
@[simp] theorem State.writeLoose_retire : (s.writeLoose off v).retire = s.retire := rfl
@[simp] theorem State.writeLoose_snap : (s.writeLoose off v).snap = s.snap := rfl
@[simp] theorem State.writeLoose_power : (s.writeLoose off v).power = s.power := rfl
@[simp] theorem State.writeLoose_cal : (s.writeLoose off v).cal = s.cal := rfl
@[simp] theorem State.writeLoose_evt : (s.writeLoose off v).evt = s.evt := rfl
@[simp] theorem State.writeLoose_audit : (s.writeLoose off v).audit = s.audit := rfl
@[simp] theorem State.writeLoose_receipt : (s.writeLoose off v).receipt = s.receipt := rfl
@[simp] theorem State.writeLoose_saves : (s.writeLoose off v).saves = s.saves := rfl
end

section
variable (s : State) (agent : Nat) (op : Option Nat) (off : Nat) (v : List (Option Byte))
@[simp] theorem State.putWrite_pending : (s.putWrite agent op off v).pending = s.pending := by unfold State.putWrite; split <;> rfl
@[simp] theorem State.putWrite_free : (s.putWrite agent op off v).free = s.free := by unfold State.putWrite; split <;> rfl
@[simp] theorem State.putWrite_strap : (s.putWrite agent op off v).strap = s.strap := by unfold State.putWrite; split <;> rfl
@[simp] theorem State.putWrite_time : (s.putWrite agent op off v).time = s.time := by unfold State.putWrite; split <;> rfl
@[simp] theorem State.putWrite_regs : (s.putWrite agent op off v).regs = s.regs := by unfold State.putWrite; split <;> rfl
@[simp] theorem State.putWrite_chipSel : (s.putWrite agent op off v).chipSel = s.chipSel := by unfold State.putWrite; split <;> rfl
@[simp] theorem State.putWrite_staged : (s.putWrite agent op off v).staged = s.staged := by unfold State.putWrite; split <;> rfl
@[simp] theorem State.putWrite_latch : (s.putWrite agent op off v).latch = s.latch := by unfold State.putWrite; split <;> rfl
@[simp] theorem State.putWrite_boot : (s.putWrite agent op off v).boot = s.boot := by unfold State.putWrite; split <;> rfl
@[simp] theorem State.putWrite_ucode : (s.putWrite agent op off v).ucode = s.ucode := by unfold State.putWrite; split <;> rfl
@[simp] theorem State.putWrite_rings : (s.putWrite agent op off v).rings = s.rings := by unfold State.putWrite; split <;> rfl
@[simp] theorem State.putWrite_fetchLast : (s.putWrite agent op off v).fetchLast = s.fetchLast := by unfold State.putWrite; split <;> rfl
@[simp] theorem State.putWrite_ops : (s.putWrite agent op off v).ops = s.ops := by unfold State.putWrite; split <;> rfl
@[simp] theorem State.putWrite_nextOp : (s.putWrite agent op off v).nextOp = s.nextOp := by unfold State.putWrite; split <;> rfl
@[simp] theorem State.putWrite_starts : (s.putWrite agent op off v).starts = s.starts := by unfold State.putWrite; split <;> rfl
@[simp] theorem State.putWrite_recs : (s.putWrite agent op off v).recs = s.recs := by unfold State.putWrite; split <;> rfl
@[simp] theorem State.putWrite_seqs : (s.putWrite agent op off v).seqs = s.seqs := by unfold State.putWrite; split <;> rfl
@[simp] theorem State.putWrite_regions : (s.putWrite agent op off v).regions = s.regions := by unfold State.putWrite; split <;> rfl
@[simp] theorem State.putWrite_sheaves : (s.putWrite agent op off v).sheaves = s.sheaves := by unfold State.putWrite; split <;> rfl
@[simp] theorem State.putWrite_tables : (s.putWrite agent op off v).tables = s.tables := by unfold State.putWrite; split <;> rfl
@[simp] theorem State.putWrite_port : (s.putWrite agent op off v).port = s.port := by unfold State.putWrite; split <;> rfl
@[simp] theorem State.putWrite_sward : (s.putWrite agent op off v).sward = s.sward := by unfold State.putWrite; split <;> rfl
@[simp] theorem State.putWrite_sets : (s.putWrite agent op off v).sets = s.sets := by unfold State.putWrite; split <;> rfl
@[simp] theorem State.putWrite_banks : (s.putWrite agent op off v).banks = s.banks := by unfold State.putWrite; split <;> rfl
@[simp] theorem State.putWrite_retire : (s.putWrite agent op off v).retire = s.retire := by unfold State.putWrite; split <;> rfl
@[simp] theorem State.putWrite_snap : (s.putWrite agent op off v).snap = s.snap := by unfold State.putWrite; split <;> rfl
@[simp] theorem State.putWrite_power : (s.putWrite agent op off v).power = s.power := by unfold State.putWrite; split <;> rfl
@[simp] theorem State.putWrite_cal : (s.putWrite agent op off v).cal = s.cal := by unfold State.putWrite; split <;> rfl
@[simp] theorem State.putWrite_evt : (s.putWrite agent op off v).evt = s.evt := by unfold State.putWrite; split <;> rfl
@[simp] theorem State.putWrite_audit : (s.putWrite agent op off v).audit = s.audit := by unfold State.putWrite; split <;> rfl
@[simp] theorem State.putWrite_receipt : (s.putWrite agent op off v).receipt = s.receipt := by unfold State.putWrite; split <;> rfl
@[simp] theorem State.putWrite_saves : (s.putWrite agent op off v).saves = s.saves := by unfold State.putWrite; split <;> rfl
end

end Sys2Proof.Machine
end

