-- ==== Sys2Proof/Laws/Ops.lean ====
section
/-! SUPPORT. What the shared operations do, said once for each: registers and counters, operations and regions by number, bytes of the
stack, writes at a global address, region tiles, and the word that a sequencer runs. -/

namespace Sys2Proof.Machine

/-! ## Registers -/

/-- What a stored register reads after a write of one (R73). -/
theorem State.reg_setReg (s : State) (off k : Nat) (w : Word) : (s.setReg off w).reg k = if k = off then w else s.reg k := by
  unfold State.reg
  rw [State.setReg_regs]
  by_cases h : k = off
  · subst h
    by_cases hw : w = regReset k <;> simp [hw, Tab.get_del, Tab.get_set_self]
  · by_cases hw : w = regReset off <;> simp [hw, h, Tab.get_del, Tab.get_set_ne]

/-- What a counter reads after n more events, and every other register. -/
theorem State.reg_bumpBy (s : State) (off n k : Nat) :
    (s.bumpBy off n).reg k = if k = off then s.reg k + BitVec.ofNat 32 n else s.reg k := by
  unfold State.bumpBy
  by_cases h : n = 0
  · subst h; simp
  · rw [if_neg h, State.reg_setReg]
    by_cases hk : k = off <;> simp [hk]

theorem State.reg_bump_self (s : State) (off : Nat) : (s.bump off).reg off = s.reg off + 1#32 := by
  rw [State.bump, State.reg_bumpBy, if_pos rfl]

theorem State.reg_bump_ne (s : State) (off k : Nat) (h : k ≠ off) : (s.bump off).reg k = s.reg k := by
  rw [State.bump, State.reg_bumpBy, if_neg h]

/-! ## Operations and regions -/

/-- The operation with a number after a change that keeps numbers. -/
theorem State.op?_modOp (s : State) (id k : Nat) (f : Op → Op) (h : ∀ o, (f o).id = o.id) :
    (s.modOp id f).op? k = if k = id then (s.op? k).map f else s.op? k := by
  unfold State.op?
  rw [State.modOp_ops]
  induction s.ops with
  | nil => simp
  | cons o l ih =>
    have hid : (if o.id = id then f o else o).id = o.id := by split <;> simp [h]
    rw [List.map_cons, List.find?_cons, List.find?_cons, hid]
    by_cases hk : o.id = k
    · subst hk
      by_cases hi : o.id = id <;> simp [hi]
    · simp only [beq_eq_false_iff_ne.mpr hk]
      exact ih

/-- The region at an index after a change. -/
theorem State.get_modRegion (s : State) (i k : Nat) (f : Region → Region) :
    (s.modRegion i f).regions.get k = if k = i then (s.regions.get k).map f else s.regions.get k := by
  rw [State.modRegion_regions, Tab.get_upd]

/-! ## Bytes of the stack -/

/-- A byte of memory after a write in the stack. -/
theorem State.byteAt_stackWrite (s : State) (off : Nat) (v : List Byte) (k : Nat) :
    byteAt (s.stackWrite off v).mem k =
      if s.stackAddr off ≤ k ∧ k < s.stackAddr off + v.length then v.getD (k - s.stackAddr off) 0#8 else byteAt s.mem k := by
  rw [State.stackWrite_mem, byteAt_memWrite]

/-- Reading back a write in the stack. -/
theorem State.stackRead_stackWrite_self (s : State) (off : Nat) (v : List Byte) : (s.stackWrite off v).stackRead off v.length = v :=
  memRead_memWrite_self _ _ _

/-- A write in the stack leaves what lies apart from it. -/
theorem State.stackRead_stackWrite_apart (s : State) (a b n : Nat) (v : List Byte) (h : b + n ≤ a ∨ a + v.length ≤ b) :
    (s.stackWrite a v).stackRead b n = s.stackRead b n := by
  refine memRead_memWrite_apart _ _ _ _ _ ?_
  show gaddr s.strap.node s.strap.engine b + n ≤ gaddr s.strap.node s.strap.engine a ∨
    gaddr s.strap.node s.strap.engine a + v.length ≤ gaddr s.strap.node s.strap.engine b
  unfold gaddr
  omega

/-- Writes in the stack keep the canonical form of memory (log entry 1). -/
theorem State.memOk_stackWrite {s : State} (h : s.memOk) (off : Nat) (v : List Byte) : (s.stackWrite off v).memOk := memWrite_wf _ _ _ h
theorem State.memOk_stackZero {s : State} (h : s.memOk) (off n : Nat) : (s.stackZero off n).memOk := memZero_wf _ _ _ h

theorem masked_length (old : List Byte) (v : List (Option Byte)) (h : old.length = v.length) : (masked old v).length = v.length := by
  simp [masked, h]

/-- A write at the controller of the stack: to a region it goes to the tap's input, any other is performed; nothing else changes (R14). -/
theorem State.putWrite_does (s : State) (agent : Nat) (op : Option Nat) (off : Nat) (v : List (Option Byte)) :
    (s.meetsRegion off v.length = true →
      s.putWrite agent op off v = { s with tap := { s.tap with queue := s.tap.queue ++ [⟨agent, op, off, v⟩] } }) ∧
    (s.meetsRegion off v.length = false →
      s.putWrite agent op off v = { s with mem := memWrite s.mem (s.stackAddr off) (masked (s.stackRead off v.length) v) }) := by
  unfold State.putWrite
  constructor <;> intro h
  · rw [if_pos h]
  · rw [if_neg (by simp [h])]; rfl

theorem State.memOk_putWrite {s : State} (h : s.memOk) (agent : Nat) (op : Option Nat) (off : Nat) (v : List (Option Byte)) :
    (s.putWrite agent op off v).memOk := by
  unfold State.putWrite
  split
  · exact h
  · exact State.memOk_stackWrite h _ _

/-- A write of the engine's own at a global address: in the stack as any write there, else an issue at the fabric port (R14, R336). -/
theorem State.storeFor_does (s : State) (op : Option Nat) (a : Nat) (v : List Byte) (cls : Nat) :
    (s.inStack a v.length = true → s.storeFor op a v cls = s.putWrite engineAgent op (gOff a) (v.map some)) ∧
    (s.inStack a v.length = false → s.storeFor op a v cls = s.send (.write a v cls (s.routeTo a))) := by
  unfold State.storeFor
  constructor <;> intro h <;> simp [h]

theorem State.memOk_storeFor {s : State} (h : s.memOk) (op : Option Nat) (a : Nat) (v : List Byte) (cls : Nat) : (s.storeFor op a v cls).memOk := by
  unfold State.storeFor
  split
  · exact State.memOk_putWrite h _ _ _ _
  · exact h

/-! ## Region tiles -/

theorem State.memOk_putLine {s : State} (h : s.memOk) (r : Region) (t g : Nat) (v : List Byte) : (s.putLine r t g v).memOk := by
  unfold State.putLine
  split
  · split
    · exact h
    · exact State.memOk_stackWrite h _ _
  · exact h

theorem State.memOk_xorLine {s : State} (h : s.memOk) (r : Region) (t g : Nat) (d : List Byte) : (s.xorLine r t g d).memOk := by
  unfold State.xorLine
  split
  · split
    · exact h
    · exact State.memOk_stackWrite h _ _
  · exact h

theorem State.memOk_refreshPair {s : State} (h : s.memOk) (tile : Nat) (v : List Byte) : (s.refreshPair tile v).memOk := h

/-- Stores of region tiles keep the canonical form (R113, R309). -/
theorem State.memOk_putTile {s : State} (h : s.memOk) (r : Region) (t : Nat) (v : List Byte) : (s.putTile r t v).memOk :=
  State.memOk_refreshPair (State.memOk_putLine (State.memOk_stackWrite h _ _) _ _ _ _) _ _
theorem State.memOk_putPart {s : State} (h : s.memOk) (r : Region) (t : Nat) (v : List Byte) : (s.putPart r t v).memOk :=
  State.memOk_refreshPair (State.memOk_xorLine (State.memOk_stackWrite h _ _) _ _ _ _) _ _

/-! ## Words -/

/-- A word that passes its checks and need not wait does what its primitive does (R331 to R335). -/
theorem State.prim_runs {s : State} {q w opc : Nat} {o : Op} (f : Prim) (h : s.runs q o w opc) :
    s.prim q opc f = (f o w s).afterWord s o.id w := by
  obtain ⟨hq, hw, ho, hk, hn, hb, _⟩ := h
  unfold State.prim
  simp only [hq, hw]
  rw [if_pos ho, State.runWord, hk, hn, hb]
  simp

end Sys2Proof.Machine
end

