-- ==== Sys2Proof/Laws/PerInstr.lean ====
section
/-! SUPPORT. What well-formedness says of each command: the numbers that name a control-bus requester, a sequencer or a ring. -/

set_option Elab.async false

namespace Sys2Proof.Laws.Bounds

/-- The control-bus requester of a command (R453). -/
def requester : Instr → Option Nat
  | .coldReset => none
  | .warmReset => none
  | .resetRelease => none
  | .alignAck .. => none
  | .fuseDone .. => none
  | .bistStart x _ => some x
  | .bistDone .. => none
  | .controlBusReject x _ _ => some x
  | .registerWrite x _ _ => some x
  | .reg64HighWrite x _ _ => some x
  | .reg64LowRead x _ => some x
  | .chipSelWrite x _ _ => some x
  | .ringEnable x _ _ _ => some x
  | .ringDisable x _ _ => some x
  | .ringPollWrite x _ _ => some x
  | .rehomeCfgWrite x _ => some x
  | .ledgerEnable x _ => some x
  | .auditRingConfigWrite x _ _ => some x
  | .cmpCfgWrite x _ _ => some x
  | .calRead x _ => some x
  | .calWrite x _ => some x
  | .calWriteDone .. => none
  | .evtOwnWrite x _ _ => some x
  | .evtRouteWrite x _ _ => some x
  | .evtPendClear x _ _ _ => some x
  | .evtSwset x _ => some x
  | .cpidleAssert .. => none
  | .moderationHoldExpiry .. => none
  | .comparatorFire .. => none
  | .doorbellWrite .. => none
  | .doorbellPoll .. => none
  | .doorbellPollReturn .. => none
  | .descriptorFetch .. => none
  | .operationStart .. => none
  | .sequencerDispatch => none
  | .completionRecordWrite .. => none
  | .regionSetup .. => none
  | .regionRelease .. => none
  | .sheafJoin .. => none
  | .sheafLeave .. => none
  | .membershipUpdate .. => none
  | .regroup .. => none
  | .regroupCommit .. => none
  | .stepOpen .. => none
  | .stepOpenEffect .. => none
  | .topologyWaitTimeout .. => none
  | .stepClose .. => none
  | .fence .. => none
  | .stepConfirm .. => none
  | .stepRollback .. => none
  | .retireWork .. => none
  | .mergeBank .. => none
  | .normReduce .. => none
  | .normCellPoll .. => none
  | .encodeFull .. => none
  | .verifyStripes .. => none
  | .degradedRead .. => none
  | .foster .. => none
  | .rebuild .. => none
  | .tileBuildDone .. => none
  | .migrate .. => none
  | .snapCut .. => none
  | .snapFreeze .. => none
  | .snapStillnessTimeout .. => none
  | .copyCompletion .. => none
  | .snapDrain .. => none
  | .snapRestore .. => none
  | .snapDiscard .. => none
  | .intervalRecompute => none
  | .tedPack .. => none
  | .scaleCellPoll .. => none
  | .tedApply .. => none
  | .tedAnchorLoad .. => none
  | .scrub .. => none
  | .guardSet .. => none
  | .tableLoad .. => none
  | .tableInstall .. => none
  | .ucodeStage .. => none
  | .ucodeActivate .. => none
  | .authVerdict .. => none
  | .cancel .. => none
  | .suspend .. => none
  | .resume .. => none
  | .userEntry .. => none
  | .userEntryWatchdog .. => none
  | .uMovi .. => none
  | .uAdd .. => none
  | .uAddi .. => none
  | .uSub .. => none
  | .uAnd .. => none
  | .uOr .. => none
  | .uXor .. => none
  | .uShl .. => none
  | .uShr .. => none
  | .uMul .. => none
  | .uField .. => none
  | .uBr .. => none
  | .uYield .. => none
  | .uEnd .. => none
  | .uLdt .. => none
  | .uStt .. => none
  | .uLd64 .. => none
  | .uSt64 .. => none
  | .uRed .. => none
  | .uWaitt .. => none
  | .uWaitall .. => none
  | .uZero .. => none
  | .uRtile .. => none
  | .uShinfo .. => none
  | .uDigest .. => none
  | .uTime .. => none
  | .uTrig .. => none
  | .uGfmul .. => none
  | .uXort .. => none
  | .uCrc .. => none
  | .uCmpt .. => none
  | .uMtile .. => none
  | .uApply .. => none
  | .uQread .. => none
  | .uQsend .. => none
  | .uDecode .. => none
  | .uTedq .. => none
  | .uTeda .. => none
  | .transferComplete .. => none
  | .fabricRetryTimeout .. => none
  | .reductionTimeout .. => none
  | .writeArrival .. => none
  | .pairingReadResponse .. => none
  | .readRequestSnoop .. => none
  | .ownReadReturn .. => none
  | .completionReadReturn .. => none
  | .logReadbackReturn .. => none
  | .pairExpiry .. => none
  | .tileDeltaAsmTimeout .. => none
  | .parkedDeltaReread .. => none
  | .messageSend .. => none
  | .accumRetryTimeout .. => none
  | .accumPacketReceive .. => none
  | .spillOverflowTimer => none
  | .assemblyTimeout .. => none
  | .parkExpiry .. => none
  | .accumApply .. => none
  | .ackFlush .. => none
  | .ackPacketReceive .. => none
  | .readPacketReceive .. => none
  | .readDataReceive .. => none
  | .readRetryTimeout .. => none
  | .quietExpiry .. => none
  | .migrationMapDisarm .. => none
  | .larkIntervalTick => none
  | .larkReceive .. => none
  | .reportReceive .. => none
  | .reportRepeatTimer => none
  | .reportRecordRewrite .. => none
  | .rehomeWindowEnd => none
  | .pathUnflag .. => none
  | .guardWindowEnd .. => none
  | .controllerErrorResponse .. => none
  | .chunkStoreReceive .. => none
  | .forecastWrite .. => none
  | .governorEvaluation => none
  | .fallowWarmEntry => none
  | .fallowColdEntry => none
  | .mclkUnitGate => none
  | .wakeTrigger => none
  | .wakeWave => none
  | .vlaneAck => none
  | .lclkLock => none
  | .thermLevelChange .. => none
  | .throtReqChange .. => none
  | .auditRingWrite .. => none
  | .auditCountWrite .. => none
  | .auditCountPoll .. => none
  | .hebribryReadReceive .. => none
  | .reservedTypePacket .. => none

/-- The sequencer that a primitive runs on (R334). -/
def sequencer : Instr → Option Nat
  | .coldReset => none
  | .warmReset => none
  | .resetRelease => none
  | .alignAck .. => none
  | .fuseDone .. => none
  | .bistStart .. => none
  | .bistDone .. => none
  | .controlBusReject .. => none
  | .registerWrite .. => none
  | .reg64HighWrite .. => none
  | .reg64LowRead .. => none
  | .chipSelWrite .. => none
  | .ringEnable .. => none
  | .ringDisable .. => none
  | .ringPollWrite .. => none
  | .rehomeCfgWrite .. => none
  | .ledgerEnable .. => none
  | .auditRingConfigWrite .. => none
  | .cmpCfgWrite .. => none
  | .calRead .. => none
  | .calWrite .. => none
  | .calWriteDone .. => none
  | .evtOwnWrite .. => none
  | .evtRouteWrite .. => none
  | .evtPendClear .. => none
  | .evtSwset .. => none
  | .cpidleAssert .. => none
  | .moderationHoldExpiry .. => none
  | .comparatorFire .. => none
  | .doorbellWrite .. => none
  | .doorbellPoll .. => none
  | .doorbellPollReturn .. => none
  | .descriptorFetch .. => none
  | .operationStart .. => none
  | .sequencerDispatch => none
  | .completionRecordWrite .. => none
  | .regionSetup .. => none
  | .regionRelease .. => none
  | .sheafJoin .. => none
  | .sheafLeave .. => none
  | .membershipUpdate .. => none
  | .regroup .. => none
  | .regroupCommit .. => none
  | .stepOpen .. => none
  | .stepOpenEffect .. => none
  | .topologyWaitTimeout .. => none
  | .stepClose .. => none
  | .fence .. => none
  | .stepConfirm .. => none
  | .stepRollback .. => none
  | .retireWork .. => none
  | .mergeBank .. => none
  | .normReduce .. => none
  | .normCellPoll .. => none
  | .encodeFull .. => none
  | .verifyStripes .. => none
  | .degradedRead .. => none
  | .foster .. => none
  | .rebuild .. => none
  | .tileBuildDone .. => none
  | .migrate .. => none
  | .snapCut .. => none
  | .snapFreeze .. => none
  | .snapStillnessTimeout .. => none
  | .copyCompletion .. => none
  | .snapDrain .. => none
  | .snapRestore .. => none
  | .snapDiscard .. => none
  | .intervalRecompute => none
  | .tedPack .. => none
  | .scaleCellPoll .. => none
  | .tedApply .. => none
  | .tedAnchorLoad .. => none
  | .scrub .. => none
  | .guardSet .. => none
  | .tableLoad .. => none
  | .tableInstall .. => none
  | .ucodeStage .. => none
  | .ucodeActivate .. => none
  | .authVerdict .. => none
  | .cancel .. => none
  | .suspend .. => none
  | .resume .. => none
  | .userEntry .. => none
  | .userEntryWatchdog .. => none
  | .uMovi x => some x
  | .uAdd x => some x
  | .uAddi x => some x
  | .uSub x => some x
  | .uAnd x => some x
  | .uOr x => some x
  | .uXor x => some x
  | .uShl x => some x
  | .uShr x => some x
  | .uMul x => some x
  | .uField x => some x
  | .uBr x => some x
  | .uYield x => some x
  | .uEnd x => some x
  | .uLdt x => some x
  | .uStt x => some x
  | .uLd64 x => some x
  | .uSt64 x => some x
  | .uRed x => some x
  | .uWaitt x => some x
  | .uWaitall x => some x
  | .uZero x => some x
  | .uRtile x => some x
  | .uShinfo x => some x
  | .uDigest x => some x
  | .uTime x => some x
  | .uTrig x => some x
  | .uGfmul x _ => some x
  | .uXort x _ => some x
  | .uCrc x _ => some x
  | .uCmpt x _ => some x
  | .uMtile x => some x
  | .uApply x _ => some x
  | .uQread x => some x
  | .uQsend x => some x
  | .uDecode x => some x
  | .uTedq x _ => some x
  | .uTeda x _ => some x
  | .transferComplete .. => none
  | .fabricRetryTimeout .. => none
  | .reductionTimeout .. => none
  | .writeArrival .. => none
  | .pairingReadResponse .. => none
  | .readRequestSnoop .. => none
  | .ownReadReturn .. => none
  | .completionReadReturn .. => none
  | .logReadbackReturn .. => none
  | .pairExpiry .. => none
  | .tileDeltaAsmTimeout .. => none
  | .parkedDeltaReread .. => none
  | .messageSend .. => none
  | .accumRetryTimeout .. => none
  | .accumPacketReceive .. => none
  | .spillOverflowTimer => none
  | .assemblyTimeout .. => none
  | .parkExpiry .. => none
  | .accumApply .. => none
  | .ackFlush .. => none
  | .ackPacketReceive .. => none
  | .readPacketReceive .. => none
  | .readDataReceive .. => none
  | .readRetryTimeout .. => none
  | .quietExpiry .. => none
  | .migrationMapDisarm .. => none
  | .larkIntervalTick => none
  | .larkReceive .. => none
  | .reportReceive .. => none
  | .reportRepeatTimer => none
  | .reportRecordRewrite .. => none
  | .rehomeWindowEnd => none
  | .pathUnflag .. => none
  | .guardWindowEnd .. => none
  | .controllerErrorResponse .. => none
  | .chunkStoreReceive .. => none
  | .forecastWrite .. => none
  | .governorEvaluation => none
  | .fallowWarmEntry => none
  | .fallowColdEntry => none
  | .mclkUnitGate => none
  | .wakeTrigger => none
  | .wakeWave => none
  | .vlaneAck => none
  | .lclkLock => none
  | .thermLevelChange .. => none
  | .throtReqChange .. => none
  | .auditRingWrite .. => none
  | .auditCountWrite .. => none
  | .auditCountPoll .. => none
  | .hebribryReadReceive .. => none
  | .reservedTypePacket .. => none

/-- The ring pair that a command names (R73). -/
def ring : Instr → Option Nat
  | .coldReset => none
  | .warmReset => none
  | .resetRelease => none
  | .alignAck .. => none
  | .fuseDone .. => none
  | .bistStart .. => none
  | .bistDone .. => none
  | .controlBusReject .. => none
  | .registerWrite .. => none
  | .reg64HighWrite .. => none
  | .reg64LowRead .. => none
  | .chipSelWrite .. => none
  | .ringEnable _ x _ _ => some x
  | .ringDisable _ x _ => some x
  | .ringPollWrite _ x _ => some x
  | .rehomeCfgWrite .. => none
  | .ledgerEnable .. => none
  | .auditRingConfigWrite .. => none
  | .cmpCfgWrite .. => none
  | .calRead .. => none
  | .calWrite .. => none
  | .calWriteDone .. => none
  | .evtOwnWrite .. => none
  | .evtRouteWrite .. => none
  | .evtPendClear .. => none
  | .evtSwset .. => none
  | .cpidleAssert .. => none
  | .moderationHoldExpiry .. => none
  | .comparatorFire .. => none
  | .doorbellWrite x _ _ => some x
  | .doorbellPoll x => some x
  | .doorbellPollReturn x _ => some x
  | .descriptorFetch .. => none
  | .operationStart .. => none
  | .sequencerDispatch => none
  | .completionRecordWrite x _ => some x
  | .regionSetup .. => none
  | .regionRelease .. => none
  | .sheafJoin .. => none
  | .sheafLeave .. => none
  | .membershipUpdate .. => none
  | .regroup .. => none
  | .regroupCommit .. => none
  | .stepOpen .. => none
  | .stepOpenEffect .. => none
  | .topologyWaitTimeout .. => none
  | .stepClose .. => none
  | .fence .. => none
  | .stepConfirm .. => none
  | .stepRollback .. => none
  | .retireWork .. => none
  | .mergeBank .. => none
  | .normReduce .. => none
  | .normCellPoll .. => none
  | .encodeFull .. => none
  | .verifyStripes .. => none
  | .degradedRead .. => none
  | .foster .. => none
  | .rebuild .. => none
  | .tileBuildDone .. => none
  | .migrate .. => none
  | .snapCut .. => none
  | .snapFreeze .. => none
  | .snapStillnessTimeout .. => none
  | .copyCompletion .. => none
  | .snapDrain .. => none
  | .snapRestore .. => none
  | .snapDiscard .. => none
  | .intervalRecompute => none
  | .tedPack .. => none
  | .scaleCellPoll .. => none
  | .tedApply .. => none
  | .tedAnchorLoad .. => none
  | .scrub .. => none
  | .guardSet .. => none
  | .tableLoad .. => none
  | .tableInstall .. => none
  | .ucodeStage .. => none
  | .ucodeActivate .. => none
  | .authVerdict .. => none
  | .cancel .. => none
  | .suspend .. => none
  | .resume .. => none
  | .userEntry .. => none
  | .userEntryWatchdog .. => none
  | .uMovi .. => none
  | .uAdd .. => none
  | .uAddi .. => none
  | .uSub .. => none
  | .uAnd .. => none
  | .uOr .. => none
  | .uXor .. => none
  | .uShl .. => none
  | .uShr .. => none
  | .uMul .. => none
  | .uField .. => none
  | .uBr .. => none
  | .uYield .. => none
  | .uEnd .. => none
  | .uLdt .. => none
  | .uStt .. => none
  | .uLd64 .. => none
  | .uSt64 .. => none
  | .uRed .. => none
  | .uWaitt .. => none
  | .uWaitall .. => none
  | .uZero .. => none
  | .uRtile .. => none
  | .uShinfo .. => none
  | .uDigest .. => none
  | .uTime .. => none
  | .uTrig .. => none
  | .uGfmul .. => none
  | .uXort .. => none
  | .uCrc .. => none
  | .uCmpt .. => none
  | .uMtile .. => none
  | .uApply .. => none
  | .uQread .. => none
  | .uQsend .. => none
  | .uDecode .. => none
  | .uTedq .. => none
  | .uTeda .. => none
  | .transferComplete .. => none
  | .fabricRetryTimeout .. => none
  | .reductionTimeout .. => none
  | .writeArrival .. => none
  | .pairingReadResponse .. => none
  | .readRequestSnoop .. => none
  | .ownReadReturn .. => none
  | .completionReadReturn .. => none
  | .logReadbackReturn .. => none
  | .pairExpiry .. => none
  | .tileDeltaAsmTimeout .. => none
  | .parkedDeltaReread .. => none
  | .messageSend .. => none
  | .accumRetryTimeout .. => none
  | .accumPacketReceive .. => none
  | .spillOverflowTimer => none
  | .assemblyTimeout .. => none
  | .parkExpiry .. => none
  | .accumApply .. => none
  | .ackFlush .. => none
  | .ackPacketReceive .. => none
  | .readPacketReceive .. => none
  | .readDataReceive .. => none
  | .readRetryTimeout .. => none
  | .quietExpiry .. => none
  | .migrationMapDisarm .. => none
  | .larkIntervalTick => none
  | .larkReceive .. => none
  | .reportReceive .. => none
  | .reportRepeatTimer => none
  | .reportRecordRewrite .. => none
  | .rehomeWindowEnd => none
  | .pathUnflag .. => none
  | .guardWindowEnd .. => none
  | .controllerErrorResponse .. => none
  | .chunkStoreReceive .. => none
  | .forecastWrite .. => none
  | .governorEvaluation => none
  | .fallowWarmEntry => none
  | .fallowColdEntry => none
  | .mclkUnitGate => none
  | .wakeTrigger => none
  | .wakeWave => none
  | .vlaneAck => none
  | .lclkLock => none
  | .thermLevelChange .. => none
  | .throtReqChange .. => none
  | .auditRingWrite .. => none
  | .auditCountWrite .. => none
  | .auditCountPoll .. => none
  | .hebribryReadReceive .. => none
  | .reservedTypePacket .. => none

/-- A well-formed command names one of the 16 requesters, 4 sequencers and 64 ring pairs. -/
def Statement (i : Instr) : Prop :=
  i.WellFormed = true →
    (∀ r, requester i = some r → r < 16) ∧ (∀ q, sequencer i = some q → q < 4) ∧ ∀ n, ring i = some n → n < 64

theorem coldReset : Statement (.coldReset) := by
  simp [Statement, requester, sequencer, ring]
theorem warmReset : Statement (.warmReset) := by
  simp [Statement, requester, sequencer, ring]
theorem resetRelease : Statement (.resetRelease) := by
  simp [Statement, requester, sequencer, ring]
theorem alignAck (lanes : BitVec 32) (rickBase : Nat) (rickTiles : Nat) : Statement (.alignAck lanes rickBase rickTiles) := by
  simp [Statement, requester, sequencer, ring]
theorem fuseDone (flashError : Bool) : Statement (.fuseDone flashError) := by
  simp [Statement, requester, sequencer, ring]
theorem bistStart (req : Nat) (w : Word) : Statement (.bistStart req w) := by
  simp +contextual [Statement, Instr.WellFormed, requester, sequencer, ring]
theorem bistDone (pass : BitVec 32) (guardOk : Bool) : Statement (.bistDone pass guardOk) := by
  simp [Statement, requester, sequencer, ring]
theorem controlBusReject (req : Nat) (addr : BitVec 16) (we : Bool) : Statement (.controlBusReject req addr we) := by
  simp +contextual [Statement, Instr.WellFormed, requester, sequencer, ring]
theorem registerWrite (req : Nat) (off : Nat) (w : Word) : Statement (.registerWrite req off w) := by
  simp +contextual [Statement, Instr.WellFormed, requester, sequencer, ring]
theorem reg64HighWrite (req : Nat) (off : Nat) (w : Word) : Statement (.reg64HighWrite req off w) := by
  simp +contextual [Statement, Instr.WellFormed, requester, sequencer, ring]
theorem reg64LowRead (req : Nat) (off : Nat) : Statement (.reg64LowRead req off) := by
  simp +contextual [Statement, Instr.WellFormed, requester, sequencer, ring]
theorem chipSelWrite (req : Nat) (q : Nat) (w : Word) : Statement (.chipSelWrite req q w) := by
  simp +contextual [Statement, Instr.WellFormed, requester, sequencer, ring]
theorem ringEnable (req : Nat) (n : Nat) (w : Word) (ext : Ext) : Statement (.ringEnable req n w ext) := by
  simp +contextual [Statement, Instr.WellFormed, requester, sequencer, ring]
theorem ringDisable (req : Nat) (n : Nat) (w : Word) : Statement (.ringDisable req n w) := by
  simp +contextual [Statement, Instr.WellFormed, requester, sequencer, ring]
theorem ringPollWrite (req : Nat) (n : Nat) (w : Word) : Statement (.ringPollWrite req n w) := by
  simp +contextual [Statement, Instr.WellFormed, requester, sequencer, ring]
theorem rehomeCfgWrite (req : Nat) (w : Word) : Statement (.rehomeCfgWrite req w) := by
  simp +contextual [Statement, Instr.WellFormed, requester, sequencer, ring]
theorem ledgerEnable (req : Nat) (w : Word) : Statement (.ledgerEnable req w) := by
  simp +contextual [Statement, Instr.WellFormed, requester, sequencer, ring]
theorem auditRingConfigWrite (req : Nat) (off : Nat) (w : Word) : Statement (.auditRingConfigWrite req off w) := by
  simp +contextual [Statement, Instr.WellFormed, requester, sequencer, ring]
theorem cmpCfgWrite (req : Nat) (n : Nat) (w : Word) : Statement (.cmpCfgWrite req n w) := by
  simp +contextual [Statement, Instr.WellFormed, requester, sequencer, ring]
theorem calRead (req : Nat) (flashError : Bool) : Statement (.calRead req flashError) := by
  simp +contextual [Statement, Instr.WellFormed, requester, sequencer, ring]
theorem calWrite (req : Nat) (w : Word) : Statement (.calWrite req w) := by
  simp +contextual [Statement, Instr.WellFormed, requester, sequencer, ring]
theorem calWriteDone (flashError : Bool) : Statement (.calWriteDone flashError) := by
  simp [Statement, requester, sequencer, ring]
theorem evtOwnWrite (req : Nat) (line : Nat) (w : Word) : Statement (.evtOwnWrite req line w) := by
  simp +contextual [Statement, Instr.WellFormed, requester, sequencer, ring]
theorem evtRouteWrite (req : Nat) (src : Nat) (w : Word) : Statement (.evtRouteWrite req src w) := by
  simp +contextual [Statement, Instr.WellFormed, requester, sequencer, ring]
theorem evtPendClear (req : Nat) (fast : Bool) (word : Nat) (w : Word) : Statement (.evtPendClear req fast word w) := by
  simp +contextual [Statement, Instr.WellFormed, requester, sequencer, ring]
theorem evtSwset (req : Nat) (w : Word) : Statement (.evtSwset req w) := by
  simp +contextual [Statement, Instr.WellFormed, requester, sequencer, ring]
theorem cpidleAssert (t : Nat) : Statement (.cpidleAssert t) := by
  simp [Statement, requester, sequencer, ring]
theorem moderationHoldExpiry (t : Nat) : Statement (.moderationHoldExpiry t) := by
  simp [Statement, requester, sequencer, ring]
theorem comparatorFire (n : Nat) : Statement (.comparatorFire n) := by
  simp [Statement, requester, sequencer, ring]
theorem doorbellWrite (n : Nat) (tail : Word) (head : Word) : Statement (.doorbellWrite n tail head) := by
  simp +contextual [Statement, Instr.WellFormed, requester, sequencer, ring]
theorem doorbellPoll (n : Nat) : Statement (.doorbellPoll n) := by
  simp +contextual [Statement, Instr.WellFormed, requester, sequencer, ring]
theorem doorbellPollReturn (n : Nat) (resp : Resp) : Statement (.doorbellPollReturn n resp) := by
  simp +contextual [Statement, Instr.WellFormed, requester, sequencer, ring]
theorem descriptorFetch (ext : Ext) : Statement (.descriptorFetch ext) := by
  simp [Statement, requester, sequencer, ring]
theorem operationStart (op : Nat) : Statement (.operationStart op) := by
  simp [Statement, requester, sequencer, ring]
theorem sequencerDispatch : Statement (.sequencerDispatch) := by
  simp [Statement, requester, sequencer, ring]
theorem completionRecordWrite (n : Nat) (error : Bool) : Statement (.completionRecordWrite n error) := by
  simp +contextual [Statement, Instr.WellFormed, requester, sequencer, ring]
theorem regionSetup (op : Nat) (units : Nat) (ext : Ext) : Statement (.regionSetup op units ext) := by
  simp [Statement, requester, sequencer, ring]
theorem regionRelease (op : Nat) (units : Nat) : Statement (.regionRelease op units) := by
  simp [Statement, requester, sequencer, ring]
theorem sheafJoin (op : Nat) (ext : Ext) : Statement (.sheafJoin op ext) := by
  simp [Statement, requester, sequencer, ring]
theorem sheafLeave (op : Nat) : Statement (.sheafLeave op) := by
  simp [Statement, requester, sequencer, ring]
theorem membershipUpdate (op : Nat) (ext : Ext) : Statement (.membershipUpdate op ext) := by
  simp [Statement, requester, sequencer, ring]
theorem regroup (op : Nat) (units : Nat) (ext : Ext) : Statement (.regroup op units ext) := by
  simp [Statement, requester, sequencer, ring]
theorem regroupCommit (op : Nat) (ext : Ext) : Statement (.regroupCommit op ext) := by
  simp [Statement, requester, sequencer, ring]
theorem stepOpen (op : Nat) : Statement (.stepOpen op) := by
  simp [Statement, requester, sequencer, ring]
theorem stepOpenEffect (op : Nat) : Statement (.stepOpenEffect op) := by
  simp [Statement, requester, sequencer, ring]
theorem topologyWaitTimeout (op : Nat) : Statement (.topologyWaitTimeout op) := by
  simp [Statement, requester, sequencer, ring]
theorem stepClose (op : Nat) : Statement (.stepClose op) := by
  simp [Statement, requester, sequencer, ring]
theorem fence (op : Nat) : Statement (.fence op) := by
  simp [Statement, requester, sequencer, ring]
theorem stepConfirm (op : Nat) : Statement (.stepConfirm op) := by
  simp [Statement, requester, sequencer, ring]
theorem stepRollback (op : Nat) (units : Nat) (ext : Ext) : Statement (.stepRollback op units ext) := by
  simp [Statement, requester, sequencer, ring]
theorem retireWork (units : Nat) : Statement (.retireWork units) := by
  simp [Statement, requester, sequencer, ring]
theorem mergeBank (op : Nat) (units : Nat) (ext : Ext) : Statement (.mergeBank op units ext) := by
  simp [Statement, requester, sequencer, ring]
theorem normReduce (op : Nat) : Statement (.normReduce op) := by
  simp [Statement, requester, sequencer, ring]
theorem normCellPoll (op : Nat) (ext : Ext) : Statement (.normCellPoll op ext) := by
  simp [Statement, requester, sequencer, ring]
theorem encodeFull (op : Nat) (units : Nat) (ext : Ext) : Statement (.encodeFull op units ext) := by
  simp [Statement, requester, sequencer, ring]
theorem verifyStripes (op : Nat) (units : Nat) (ext : Ext) : Statement (.verifyStripes op units ext) := by
  simp [Statement, requester, sequencer, ring]
theorem degradedRead (op : Nat) (units : Nat) (ext : Ext) : Statement (.degradedRead op units ext) := by
  simp [Statement, requester, sequencer, ring]
theorem foster (op : Nat) (ext : Ext) : Statement (.foster op ext) := by
  simp [Statement, requester, sequencer, ring]
theorem rebuild (op : Nat) (units : Nat) (ext : Ext) : Statement (.rebuild op units ext) := by
  simp [Statement, requester, sequencer, ring]
theorem tileBuildDone (region : Nat) (tile : Nat) (ext : Ext) : Statement (.tileBuildDone region tile ext) := by
  simp [Statement, requester, sequencer, ring]
theorem migrate (op : Nat) (units : Nat) (ext : Ext) : Statement (.migrate op units ext) := by
  simp [Statement, requester, sequencer, ring]
theorem snapCut (op : Nat) (units : Nat) : Statement (.snapCut op units) := by
  simp [Statement, requester, sequencer, ring]
theorem snapFreeze (op : Nat) : Statement (.snapFreeze op) := by
  simp [Statement, requester, sequencer, ring]
theorem snapStillnessTimeout (op : Nat) : Statement (.snapStillnessTimeout op) := by
  simp [Statement, requester, sequencer, ring]
theorem copyCompletion (tag : Nat) (status : Nat) : Statement (.copyCompletion tag status) := by
  simp [Statement, requester, sequencer, ring]
theorem snapDrain (op : Nat) (units : Nat) (ext : Ext) : Statement (.snapDrain op units ext) := by
  simp [Statement, requester, sequencer, ring]
theorem snapRestore (op : Nat) (units : Nat) (ext : Ext) : Statement (.snapRestore op units ext) := by
  simp [Statement, requester, sequencer, ring]
theorem snapDiscard (op : Nat) : Statement (.snapDiscard op) := by
  simp [Statement, requester, sequencer, ring]
theorem intervalRecompute : Statement (.intervalRecompute) := by
  simp [Statement, requester, sequencer, ring]
theorem tedPack (op : Nat) (units : Nat) (ext : Ext) : Statement (.tedPack op units ext) := by
  simp [Statement, requester, sequencer, ring]
theorem scaleCellPoll (op : Nat) (ext : Ext) : Statement (.scaleCellPoll op ext) := by
  simp [Statement, requester, sequencer, ring]
theorem tedApply (op : Nat) (units : Nat) (ext : Ext) : Statement (.tedApply op units ext) := by
  simp [Statement, requester, sequencer, ring]
theorem tedAnchorLoad (op : Nat) (units : Nat) (ext : Ext) : Statement (.tedAnchorLoad op units ext) := by
  simp [Statement, requester, sequencer, ring]
theorem scrub (op : Nat) (units : Nat) (ext : Ext) : Statement (.scrub op units ext) := by
  simp [Statement, requester, sequencer, ring]
theorem guardSet (op : Nat) (units : Nat) (ext : Ext) : Statement (.guardSet op units ext) := by
  simp [Statement, requester, sequencer, ring]
theorem tableLoad (op : Nat) (ext : Ext) : Statement (.tableLoad op ext) := by
  simp [Statement, requester, sequencer, ring]
theorem tableInstall (op : Nat) : Statement (.tableInstall op) := by
  simp [Statement, requester, sequencer, ring]
theorem ucodeStage (op : Nat) (units : Nat) (ext : Ext) : Statement (.ucodeStage op units ext) := by
  simp [Statement, requester, sequencer, ring]
theorem ucodeActivate (op : Nat) : Statement (.ucodeActivate op) := by
  simp [Statement, requester, sequencer, ring]
theorem authVerdict (digest : List Byte) (pass : Bool) : Statement (.authVerdict digest pass) := by
  simp [Statement, requester, sequencer, ring]
theorem cancel (op : Nat) : Statement (.cancel op) := by
  simp [Statement, requester, sequencer, ring]
theorem suspend (op : Nat) : Statement (.suspend op) := by
  simp [Statement, requester, sequencer, ring]
theorem resume (op : Nat) : Statement (.resume op) := by
  simp [Statement, requester, sequencer, ring]
theorem userEntry (op : Nat) (fuel : Nat) : Statement (.userEntry op fuel) := by
  simp [Statement, requester, sequencer, ring]
theorem userEntryWatchdog (op : Nat) : Statement (.userEntryWatchdog op) := by
  simp [Statement, requester, sequencer, ring]
theorem uMovi (q : Nat) : Statement (.uMovi q) := by
  simp +contextual [Statement, Instr.WellFormed, requester, sequencer, ring]
theorem uAdd (q : Nat) : Statement (.uAdd q) := by
  simp +contextual [Statement, Instr.WellFormed, requester, sequencer, ring]
theorem uAddi (q : Nat) : Statement (.uAddi q) := by
  simp +contextual [Statement, Instr.WellFormed, requester, sequencer, ring]
theorem uSub (q : Nat) : Statement (.uSub q) := by
  simp +contextual [Statement, Instr.WellFormed, requester, sequencer, ring]
theorem uAnd (q : Nat) : Statement (.uAnd q) := by
  simp +contextual [Statement, Instr.WellFormed, requester, sequencer, ring]
theorem uOr (q : Nat) : Statement (.uOr q) := by
  simp +contextual [Statement, Instr.WellFormed, requester, sequencer, ring]
theorem uXor (q : Nat) : Statement (.uXor q) := by
  simp +contextual [Statement, Instr.WellFormed, requester, sequencer, ring]
theorem uShl (q : Nat) : Statement (.uShl q) := by
  simp +contextual [Statement, Instr.WellFormed, requester, sequencer, ring]
theorem uShr (q : Nat) : Statement (.uShr q) := by
  simp +contextual [Statement, Instr.WellFormed, requester, sequencer, ring]
theorem uMul (q : Nat) : Statement (.uMul q) := by
  simp +contextual [Statement, Instr.WellFormed, requester, sequencer, ring]
theorem uField (q : Nat) : Statement (.uField q) := by
  simp +contextual [Statement, Instr.WellFormed, requester, sequencer, ring]
theorem uBr (q : Nat) : Statement (.uBr q) := by
  simp +contextual [Statement, Instr.WellFormed, requester, sequencer, ring]
theorem uYield (q : Nat) : Statement (.uYield q) := by
  simp +contextual [Statement, Instr.WellFormed, requester, sequencer, ring]
theorem uEnd (q : Nat) : Statement (.uEnd q) := by
  simp +contextual [Statement, Instr.WellFormed, requester, sequencer, ring]
theorem uLdt (q : Nat) : Statement (.uLdt q) := by
  simp +contextual [Statement, Instr.WellFormed, requester, sequencer, ring]
theorem uStt (q : Nat) : Statement (.uStt q) := by
  simp +contextual [Statement, Instr.WellFormed, requester, sequencer, ring]
theorem uLd64 (q : Nat) : Statement (.uLd64 q) := by
  simp +contextual [Statement, Instr.WellFormed, requester, sequencer, ring]
theorem uSt64 (q : Nat) : Statement (.uSt64 q) := by
  simp +contextual [Statement, Instr.WellFormed, requester, sequencer, ring]
theorem uRed (q : Nat) : Statement (.uRed q) := by
  simp +contextual [Statement, Instr.WellFormed, requester, sequencer, ring]
theorem uWaitt (q : Nat) : Statement (.uWaitt q) := by
  simp +contextual [Statement, Instr.WellFormed, requester, sequencer, ring]
theorem uWaitall (q : Nat) : Statement (.uWaitall q) := by
  simp +contextual [Statement, Instr.WellFormed, requester, sequencer, ring]
theorem uZero (q : Nat) : Statement (.uZero q) := by
  simp +contextual [Statement, Instr.WellFormed, requester, sequencer, ring]
theorem uRtile (q : Nat) : Statement (.uRtile q) := by
  simp +contextual [Statement, Instr.WellFormed, requester, sequencer, ring]
theorem uShinfo (q : Nat) : Statement (.uShinfo q) := by
  simp +contextual [Statement, Instr.WellFormed, requester, sequencer, ring]
theorem uDigest (q : Nat) : Statement (.uDigest q) := by
  simp +contextual [Statement, Instr.WellFormed, requester, sequencer, ring]
theorem uTime (q : Nat) : Statement (.uTime q) := by
  simp +contextual [Statement, Instr.WellFormed, requester, sequencer, ring]
theorem uTrig (q : Nat) : Statement (.uTrig q) := by
  simp +contextual [Statement, Instr.WellFormed, requester, sequencer, ring]
theorem uGfmul (q : Nat) (f : LaneFault) : Statement (.uGfmul q f) := by
  simp +contextual [Statement, Instr.WellFormed, requester, sequencer, ring]
theorem uXort (q : Nat) (f : LaneFault) : Statement (.uXort q f) := by
  simp +contextual [Statement, Instr.WellFormed, requester, sequencer, ring]
theorem uCrc (q : Nat) (f : LaneFault) : Statement (.uCrc q f) := by
  simp +contextual [Statement, Instr.WellFormed, requester, sequencer, ring]
theorem uCmpt (q : Nat) (f : LaneFault) : Statement (.uCmpt q f) := by
  simp +contextual [Statement, Instr.WellFormed, requester, sequencer, ring]
theorem uMtile (q : Nat) : Statement (.uMtile q) := by
  simp +contextual [Statement, Instr.WellFormed, requester, sequencer, ring]
theorem uApply (q : Nat) (ext : Ext) : Statement (.uApply q ext) := by
  simp +contextual [Statement, Instr.WellFormed, requester, sequencer, ring]
theorem uQread (q : Nat) : Statement (.uQread q) := by
  simp +contextual [Statement, Instr.WellFormed, requester, sequencer, ring]
theorem uQsend (q : Nat) : Statement (.uQsend q) := by
  simp +contextual [Statement, Instr.WellFormed, requester, sequencer, ring]
theorem uDecode (q : Nat) : Statement (.uDecode q) := by
  simp +contextual [Statement, Instr.WellFormed, requester, sequencer, ring]
theorem uTedq (q : Nat) (f : LaneFault) : Statement (.uTedq q f) := by
  simp +contextual [Statement, Instr.WellFormed, requester, sequencer, ring]
theorem uTeda (q : Nat) (f : LaneFault) : Statement (.uTeda q f) := by
  simp +contextual [Statement, Instr.WellFormed, requester, sequencer, ring]
theorem transferComplete (x : Nat) (resp : Resp) : Statement (.transferComplete x resp) := by
  simp [Statement, requester, sequencer, ring]
theorem fabricRetryTimeout (x : Nat) : Statement (.fabricRetryTimeout x) := by
  simp [Statement, requester, sequencer, ring]
theorem reductionTimeout (x : Nat) : Statement (.reductionTimeout x) := by
  simp [Statement, requester, sequencer, ring]
theorem writeArrival (agent : Nat) (addr : Nat) (data : List (Option Byte)) (ext : Ext) : Statement (.writeArrival agent addr data ext) := by
  simp [Statement, requester, sequencer, ring]
theorem pairingReadResponse (rid : Nat) (mask : BitVec 64) (error : Bool) : Statement (.pairingReadResponse rid mask error) := by
  simp [Statement, requester, sequencer, ring]
theorem readRequestSnoop (agent : Nat) (tile : Nat) (rid : Nat) : Statement (.readRequestSnoop agent tile rid) := by
  simp [Statement, requester, sequencer, ring]
theorem ownReadReturn (w : Nat) (ext : Ext) : Statement (.ownReadReturn w ext) := by
  simp [Statement, requester, sequencer, ring]
theorem completionReadReturn (slot : Nat) (ext : Ext) : Statement (.completionReadReturn slot ext) := by
  simp [Statement, requester, sequencer, ring]
theorem logReadbackReturn (slot : Nat) (ext : Ext) : Statement (.logReadbackReturn slot ext) := by
  simp [Statement, requester, sequencer, ring]
theorem pairExpiry (tile : Nat) : Statement (.pairExpiry tile) := by
  simp [Statement, requester, sequencer, ring]
theorem tileDeltaAsmTimeout (slot : Nat) : Statement (.tileDeltaAsmTimeout slot) := by
  simp [Statement, requester, sequencer, ring]
theorem parkedDeltaReread (ext : Ext) : Statement (.parkedDeltaReread ext) := by
  simp [Statement, requester, sequencer, ring]
theorem messageSend (ctx : Nat) : Statement (.messageSend ctx) := by
  simp [Statement, requester, sequencer, ring]
theorem accumRetryTimeout (ctx : Nat) (seq : Nat) : Statement (.accumRetryTimeout ctx seq) := by
  simp [Statement, requester, sequencer, ring]
theorem accumPacketReceive (src : Nat) (bytes : List Byte) : Statement (.accumPacketReceive src bytes) := by
  simp [Statement, requester, sequencer, ring]
theorem spillOverflowTimer : Statement (.spillOverflowTimer) := by
  simp [Statement, requester, sequencer, ring]
theorem assemblyTimeout (ctx : Nat) (seq : Nat) : Statement (.assemblyTimeout ctx seq) := by
  simp [Statement, requester, sequencer, ring]
theorem parkExpiry (ctx : Nat) (seq : Nat) : Statement (.parkExpiry ctx seq) := by
  simp [Statement, requester, sequencer, ring]
theorem accumApply (q : Nat) (ext : Ext) (f : LaneFault) : Statement (.accumApply q ext f) := by
  simp [Statement, requester, sequencer, ring]
theorem ackFlush (dst : Nat) : Statement (.ackFlush dst) := by
  simp [Statement, requester, sequencer, ring]
theorem ackPacketReceive (src : Nat) (bytes : List Byte) : Statement (.ackPacketReceive src bytes) := by
  simp [Statement, requester, sequencer, ring]
theorem readPacketReceive (src : Nat) (bytes : List Byte) (ext : Ext) : Statement (.readPacketReceive src bytes ext) := by
  simp [Statement, requester, sequencer, ring]
theorem readDataReceive (src : Nat) (bytes : List Byte) : Statement (.readDataReceive src bytes) := by
  simp [Statement, requester, sequencer, ring]
theorem readRetryTimeout (slot : Nat) : Statement (.readRetryTimeout slot) := by
  simp [Statement, requester, sequencer, ring]
theorem quietExpiry (region : Nat) : Statement (.quietExpiry region) := by
  simp [Statement, requester, sequencer, ring]
theorem migrationMapDisarm (region : Nat) : Statement (.migrationMapDisarm region) := by
  simp [Statement, requester, sequencer, ring]
theorem larkIntervalTick : Statement (.larkIntervalTick) := by
  simp [Statement, requester, sequencer, ring]
theorem larkReceive (src : Nat) (bytes : List Byte) : Statement (.larkReceive src bytes) := by
  simp [Statement, requester, sequencer, ring]
theorem reportReceive (src : Nat) (bytes : List Byte) : Statement (.reportReceive src bytes) := by
  simp [Statement, requester, sequencer, ring]
theorem reportRepeatTimer : Statement (.reportRepeatTimer) := by
  simp [Statement, requester, sequencer, ring]
theorem reportRecordRewrite (key : Nat) : Statement (.reportRecordRewrite key) := by
  simp [Statement, requester, sequencer, ring]
theorem rehomeWindowEnd : Statement (.rehomeWindowEnd) := by
  simp [Statement, requester, sequencer, ring]
theorem pathUnflag (dst : Nat) (path : Nat) : Statement (.pathUnflag dst path) := by
  simp [Statement, requester, sequencer, ring]
theorem guardWindowEnd (region : Nat) : Statement (.guardWindowEnd region) := by
  simp [Statement, requester, sequencer, ring]
theorem controllerErrorResponse (agent : Nat) (tile : Nat) (mask : BitVec 64) (ext : Ext) : Statement (.controllerErrorResponse agent tile mask ext) := by
  simp [Statement, requester, sequencer, ring]
theorem chunkStoreReceive (src : Nat) (addr : Nat) (bytes : List Byte) : Statement (.chunkStoreReceive src addr bytes) := by
  simp [Statement, requester, sequencer, ring]
theorem forecastWrite (w : Word) : Statement (.forecastWrite w) := by
  simp [Statement, requester, sequencer, ring]
theorem governorEvaluation : Statement (.governorEvaluation) := by
  simp [Statement, requester, sequencer, ring]
theorem fallowWarmEntry : Statement (.fallowWarmEntry) := by
  simp [Statement, requester, sequencer, ring]
theorem fallowColdEntry : Statement (.fallowColdEntry) := by
  simp [Statement, requester, sequencer, ring]
theorem mclkUnitGate : Statement (.mclkUnitGate) := by
  simp [Statement, requester, sequencer, ring]
theorem wakeTrigger : Statement (.wakeTrigger) := by
  simp [Statement, requester, sequencer, ring]
theorem wakeWave : Statement (.wakeWave) := by
  simp [Statement, requester, sequencer, ring]
theorem vlaneAck : Statement (.vlaneAck) := by
  simp [Statement, requester, sequencer, ring]
theorem lclkLock : Statement (.lclkLock) := by
  simp [Statement, requester, sequencer, ring]
theorem thermLevelChange (level : Nat) : Statement (.thermLevelChange level) := by
  simp [Statement, requester, sequencer, ring]
theorem throtReqChange (b : Bool) : Statement (.throtReqChange b) := by
  simp [Statement, requester, sequencer, ring]
theorem auditRingWrite (error : Bool) : Statement (.auditRingWrite error) := by
  simp [Statement, requester, sequencer, ring]
theorem auditCountWrite (v : Word) : Statement (.auditCountWrite v) := by
  simp [Statement, requester, sequencer, ring]
theorem auditCountPoll (resp : Resp) : Statement (.auditCountPoll resp) := by
  simp [Statement, requester, sequencer, ring]
theorem hebribryReadReceive (src : Nat) (off : Nat) (ext : Ext) : Statement (.hebribryReadReceive src off ext) := by
  simp [Statement, requester, sequencer, ring]
theorem reservedTypePacket (src : Nat) (bytes : List Byte) : Statement (.reservedTypePacket src bytes) := by
  simp [Statement, requester, sequencer, ring]

end Sys2Proof.Laws.Bounds
end

