-- ==== Sys2Proof/Tests/Slice0.lean ====
section
/-! SUPPORT. Our own tests: the well-formedness checks refuse ill-formed commands, single steps give what the spec's rules and worked
tables give, and every statement with hypotheses has concrete operands that meet them. -/

set_option Elab.async false

namespace Sys2Proof.Tests

open Sys2Proof Sys2Proof.Machine

/-! ## Small states -/

/-- Write little-endian fields (offset, length, value) into a byte string. -/
def sp (v : List Byte) (l : List (Nat × Nat × Nat)) : List Byte := l.foldl (fun v p => splice v p.1 (leBytes p.2.1 p.2.2)) v

/-- A descriptor: opcode, JOB_TAG 7, OP_TAG 99, the word at byte 8 (STEP or EPOCH), and more fields (R84). -/
def dsc (opc col8 : Nat) (l : List (Nat × Nat × Nat)) : List Byte := sp (zeros 64) ([(0, 1, opc), (2, 2, 7), (4, 4, 99), (8, 8, col8)] ++ l)

/-- A running operation of ring 0 that carries a descriptor. -/
def mkOp (id : Nat) (d : List Byte) (stage : Stage := .fresh) (cursor : Nat := 0) (note : Tab Nat := []) : Op :=
  { id := id, ring := 0, desc := d, bank := 0, boot := false, st := .running, started := true, stage := stage, cursor := cursor
    result := 0, aux := 0, pc := 0, regs := [], slots := [], bufs := 0, part := 0, refs := [], note := note, got := [], hold := 0
    control := none, resv := false }

/-- An engine in READY with all its lanes active. -/
def live : State := { State.reset with
  boot := { State.reset.boot with
    phase := .ready, lanes := BitVec.allOnes 32, defect := BitVec.allOnes 32, rickBase := 1000, rickTiles := 8192 }
  power := { State.reset.power with lanes := .active, pll := true }
  time := 10000000000#64 }

/-- `s` with the operation on sequencer 0. -/
def withOp (s : State) (o : Op) : State :=
  { s with ops := s.ops ++ [o], nextOp := o.id + 1, seqs := { s.seqs with q := s.seqs.q.set s.seqs.q.length o.id } }

/-- A region image (Table 2-5). -/
def img (base cnt lbase role : Nat) (link : Nat := 0xFF) (fl : Nat := 0) : List Byte :=
  sp (zeros 64) [(0, 4, base), (4, 4, cnt), (8, 4, lbase), (12, 1, role), (15, 1, fl), (16, 2, 7), (28, 1, link)]

/-- A region of unguarded tiles, of job 7. -/
def reg (base cnt : Nat) (role : Role := .data) (st : RegState := .live) (link : Nat := 0xFF) : Region :=
  { tileBase := base, tileCount := cnt, logicalBase := 0, role := role, format := .raw, guard := 0, adapt := false, guardMax := 0
    log := false, norm := false, snap := false, jobTag := 7, set := 0, member := 0xFF, sheaf := 0, board := 0, shelf := 0, row := 0
    link := link, digest := 0#64, confirmed := 0, epoch := 0, state := st, domainOvr := false, logBlock := none, dirtyBase := none
    guardBlock := none, guardLine := 0, guardLen := 0, built := [], rebuildDigest := 0#64, mig := none, migrated := none, quiet := none
    settleFail := false, builds := [], reguard := none, anchorInvalid := false, winStart := 0, winTiles := 0, winLoad := 0
    winCtrl := 0, ledger := none }

/-- The global address of a tile of this engine's stack. -/
def adr (tile : Nat) : Nat := gaddr 0 0 (tile * 4096)

/-- `s` with bytes stored at a global address. -/
def putm (s : State) (a : Nat) (v : List Byte) : State := { s with mem := memWrite s.mem a v }

/-! ## Bring-up and calibration -/

/-- `live` in another phase. -/
def inPhase (p : Phase) : State := { live with boot := { live.boot with phase := p } }
/-- The fields of a valid calibration record of engine 0 (Table 15-5) before its CRC. -/
def calHead : List Byte := (sp (zeros 128) [(0, 4, 0x57594341), (4, 1, 1), (8, 1, 0x88), (22, 2, 100), (24, 2, 10), (26, 1, 1), (27, 1, 1),
  (28, 1, 1), (44, 4, 0x3F800000), (48, 4, 0x3F800000)]).take 124
/-- A calibration write is under way. -/
def calBusy : State := { live with cal := { live.cal with busy := true } }
/-- The audit buffer of `s` is full. -/
def full (s : State) : State := { s with audit := { s.audit with resv := 256 } }
/-- `s` with registers. -/
def withRegs (s : State) (l : List (Nat × Word)) : State := { s with regs := l }

theorem witness_ResetClearsEngineState_3 : ∃ (s : State) (t : State), s.cal.busy = false ∧ (exec .coldReset s = .next t ∨ exec .warmReset s
    = .next t) :=
  ⟨live, State.reset, by decide +kernel, .inl rfl⟩

theorem witness_BringUpPhasesFollowTheTable_1 : ∃ (s : State), s.boot.phase = .reset :=
  ⟨State.reset, by decide +kernel⟩

theorem witness_BringUpPhasesFollowTheTable_2 : ∃ (s : State) (base : Nat) (tiles : Nat), s.boot.phase = .align ∧ base < 2 ^ 25 ∧ tiles < 2
    ^ 25 :=
  ⟨inPhase .align, 2 ^ 25 - 1, 2 ^ 25 - 1, by decide +kernel, by decide +kernel, by decide +kernel⟩

theorem witness_BringUpPhasesFollowTheTable_3 : ∃ (s : State), s.boot.phase = .fuse :=
  ⟨inPhase .fuse, by decide +kernel⟩

theorem witness_BringUpPhasesFollowTheTable_5 : ∃ (s : State), s.boot.bistBusy = true ∧ s.boot.phase = .test :=
  ⟨{ inPhase .test with boot := { (inPhase .test).boot with bistBusy := true } }, by decide +kernel, by decide +kernel⟩

theorem witness_CalibrationReadAndWrite_1 : ∃ (s : State), s.cal.busy = false :=
  ⟨live, by decide +kernel⟩

theorem witness_CalibrationReadAndWrite_2 : ∃ (s : State), s.cal.busy = false :=
  ⟨live, by decide +kernel⟩

theorem witness_CalibrationReadAndWrite_3 : ∃ (s : State), s.cal.busy = true :=
  ⟨calBusy, by decide +kernel⟩

theorem witness_CalibrationReadAndWrite_5 : ∃ (s : State) (w : Word), s.cal.busy = false ∧ bits w.toNat 0 2 = 2 ∧ (calValid s.strap.engine
    s.calData = false ∨ s.auditFull = true ∨ bits w.toNat 8 16 ≠ 0xCA1B ∨ s.cal.readDone = false) :=
  ⟨live, 0xCA1B02#32, by decide +kernel, by decide +kernel, by decide +kernel⟩

theorem witness_CalibrationReadAndWrite_6 : ∃ (s : State), s.cal.busy = true :=
  ⟨calBusy, by decide +kernel⟩

theorem witness_CalibrationReadAndWrite_7 : ∃ (s : State), s.cal.busy = true :=
  ⟨calBusy, by decide +kernel⟩

/-! ## The control bus -/

theorem witness_RegisterWritesApplyOrRefuse_1 : ∃ (s : State) (off : Nat) (mask : Nat) (w : Word), ownRow off w.toNat = false ∧ rw64Low off
    = false ∧ unaudited off = false ∧ s.regRule off w.toNat = some (mask, true) ∧ s.auditFull = false := by
  refine ⟨live, 0x194, 1023, 5#32, ?_, ?_, ?_, ?_, ?_⟩ <;> decide +kernel

theorem witness_RegisterWritesApplyOrRefuse_2 : ∃ (s : State) (off : Nat) (mask : Nat) (w : Word), ownRow off w.toNat = false ∧ rw64Low off
    = false ∧ unaudited off = true ∧ s.regRule off w.toNat = some (mask, true) :=
  ⟨live, 0x510, 2 ^ 32 - 1, 5#32, by decide +kernel, by decide +kernel, by decide +kernel, by decide +kernel⟩

theorem witness_RegisterWritesApplyOrRefuse_3 : ∃ (s : State) (off : Nat) (mask : Nat) (w : Word), ownRow off w.toNat = false ∧ rw64Low off
    = false ∧ unaudited off = false ∧ s.regRule off w.toNat = some (mask, false) :=
  ⟨live, 0x114, 33554431, 0xFFFFFFFF#32, by decide +kernel, by decide +kernel, by decide +kernel, by decide +kernel⟩

theorem witness_RegisterWritesApplyOrRefuse_4 : ∃ (s : State) (off : Nat) (mask : Nat) (w : Word) (ok : Bool), rw64Low off = false ∧ ownRow
    off w.toNat = false ∧ unaudited off = false ∧ s.regRule off w.toNat = some (mask, ok) ∧ s.auditFull = true := by
  refine ⟨full live, 0x194, 1023, 5#32, true, ?_, ?_, ?_, ?_, ?_⟩ <;> decide +kernel

theorem witness_RegisterWritesApplyOrRefuse_5 : ∃ (off : Nat), 4 ≤ off ∧ rw64Low (off - 4) = true :=
  ⟨0x214, by decide +kernel, by decide +kernel⟩

theorem witness_RegisterWritesApplyOrRefuse_6 : ∃ (s : State) (req : Nat) (off : Nat) (mask : Nat) (w : Word) (hi : Word), ownRow off
    w.toNat = false ∧ rw64Low off = true ∧ hwFind s.staged req (off + 4) = some hi ∧ s.regRule off (w.toNat + 2 ^ 32 * hi.toNat) = some
    (mask, true) ∧ s.auditFull = false := by
  refine ⟨{ live with staged := [⟨0, 0x214, 0#32⟩] }, 0, 0x210, 2^64-1, 0x200#32, 0#32, ?_, ?_, ?_, ?_, ?_⟩ <;> decide +kernel

theorem witness_RegisterWritesApplyOrRefuse_7 : ∃ (off : Nat), ro64Low off = true :=
  ⟨0x10, by decide +kernel⟩

theorem witness_ControlBusOtherWrites_1 : ∃ (s : State), s.auditRoom :=
  ⟨live, by unfold State.auditRoom; decide +kernel⟩

theorem witness_ControlBusOtherWrites_3 : ∃ (req : Nat) (q : Nat), req ≠ q :=
  ⟨0, 15, by decide +kernel⟩

theorem witness_ControlBusOtherWrites_4 : ∃ (s : State) (w : Word), w.getLsbD 0 = false ∧ s.auditFull = false ∧ (∃ mask, s.regRule 0x0130
    w.toNat = some (mask, true)) :=
  ⟨live, 0x00A6420A#32, by decide +kernel, by decide +kernel, ⟨0xFFFFFFF, by decide +kernel⟩⟩

theorem witness_ControlBusOtherWrites_5 : ∃ (s : State) (w : Word), w.getLsbD 31 = true ∧ s.auditFull = false ∧ (∃ mask, s.regRule 0x0128
    w.toNat = some (mask, true)) :=
  ⟨live, 0x80004000#32, by decide +kernel, by decide +kernel, ⟨0x81FFFFFF, by decide +kernel⟩⟩

/-- Line 0 is owned by tag 0 and line 1 by tag 7; the pending source 0 is unmasked and routed to target 0. -/
def owned : State := { withRegs live [(0x400, 0x10000#32), (0x404, 0x10007#32), (0x510, 0xFFFFFFFF#32), (0x600, 0x10#32)] with
  evt := { live.evt with pendN := 1#128, since := [(0, 5)] } }

theorem witness_EventRegistersAndLines_1 : ∃ (s : State) (i : Nat) (w : Word), i < 16 ∧ s.auditFull = false ∧ ((s.reg (0x0400 + 4 *
    i)).getLsbD 16 = false ∨ w &&& 0x1FFFF#32 = s.reg (0x0400 + 4 * i)) :=
  ⟨live, 15, 0x10007#32, by decide +kernel, by decide +kernel, by decide +kernel⟩

theorem witness_EventRegistersAndLines_2 : ∃ (s : State) (i : Nat) (w : Word), i < 16 ∧ (s.reg (0x0400 + 4 * i)).getLsbD 16 = true ∧ w &&&
    0x1FFFF#32 ≠ s.reg (0x0400 + 4 * i) :=
  ⟨owned, 0, 0x10008#32, by decide +kernel, by decide +kernel, by decide +kernel⟩

theorem witness_EventRegistersAndLines_3 : ∃ (s : State) (src : Nat) (w : Word), src < 128 ∧ s.auditFull = false ∧ (w.getLsbD 4 = false ∨
    s.lineOwnedBy (bits w.toNat 0 3) (bits w.toNat 3 1) (s.sourceTag src) = true) :=
  ⟨live, 127, 7#32, by decide +kernel, by decide +kernel, by decide +kernel⟩

theorem witness_EventRegistersAndLines_4 : ∃ (s : State) (src : Nat) (w : Word), src < 128 ∧ w.getLsbD 4 = true ∧ s.lineOwnedBy (bits
    w.toNat 0 3) (bits w.toNat 3 1) (s.sourceTag src) = false :=
  ⟨live, 127, 0x10#32, by decide +kernel, by decide +kernel, by decide +kernel⟩

theorem witness_EventRegistersAndLines_5 : ∃ (word : Nat), word < 4 :=
  ⟨3, by decide +kernel⟩

theorem witness_EventRegistersAndLines_7 : ∃ (s : State) (t : Nat), t < 8 ∧ (∃ p ∈ s.driving false, p.2 = t) :=
  ⟨owned, 0, by decide +kernel, by decide +kernel⟩

theorem witness_EventRegistersAndLines_8 : ∃ (s : State) (t : Nat) (since : Nat), t < 8 ∧ (∃ p ∈ s.driving false, p.2 = t) ∧ s.evt.since.get
    t = some since ∧ s.past since (us (bits (s.regN (0x0440 + 4 * t)) 0 10)) = true :=
  ⟨owned, 0, 5, by decide +kernel, by decide +kernel, by decide +kernel, by decide +kernel⟩

/-- Region 1, and comparators 10 (one shot) and 11 (periodic) that are due. -/
def cmpS : State := { withRegs live [(0x220, 1#32), (0x224, 0x5001#32)] with regions := [(1, reg 100 4)] }

theorem witness_ComparatorClaimAndFire_1 : ∃ (s : State) (n : Nat) (w : Word), 10 ≤ n ∧ n < 16 ∧ s.auditFull = false ∧ w.getLsbD 0 = true ∧
    s.regions.has (bits w.toNat 1 8) = true ∧ (∀ r, s.evt.cmpOwn.get n = some r → r = bits w.toNat 1 8) := by
  refine ⟨cmpS, 15, 3#32, ?_, ?_, ?_, ?_, ?_, fun _ h => nomatch h⟩ <;> decide +kernel

theorem witness_ComparatorClaimAndFire_2 : ∃ (s : State) (n : Nat) (w : Word), 10 ≤ n ∧ n < 16 ∧ s.regions.has (bits w.toNat 1 8) = false :=
  ⟨live, 10, 3#32, by decide +kernel, by decide +kernel, by decide +kernel⟩

theorem witness_ComparatorClaimAndFire_3 : ∃ (s : State) (n : Nat), 10 ≤ n ∧ n < 16 ∧ bitAt (s.regN (0x0220 + 4 * (n - 10))) 0 = true ∧
    s.reg64 (0x0240 + 8 * (n - 10)) ≤ s.now ∧ s.now + 2 ^ 27 < 2 ^ 64 := by
  refine ⟨cmpS, 11, ?_, ?_, ?_, ?_, ?_⟩ <;> decide +kernel

/-- An audit record that waits. -/
def aRec : AuditRec := ⟨5, 0, 0, 0, 0, 0, 1, 0x200, 77⟩
/-- The audit ring of 16 slots stands at tile 100, and two records wait. -/
def auditS : State := { withRegs live [(0x470, 0xA4#32), (0x480, BitVec.ofNat 32 (100 * 4096))] with
  audit := { live.audit with buf := [aRec, { aRec with seq := 1 }], w := 17#32, consumed := 10#32 } }
/-- The same ring full, and elsewhere. -/
def auditFar : State := { withRegs auditS [(0x470, 0xA4#32), (0x480, BitVec.ofNat 32 (100 * 4096)), (0x484, 0x400000#32)] with
  audit := { auditS.audit with w := 26#32 } }

theorem witness_AuditRingMovesOldestFirst_1 : ∃ (s : State) (r : AuditRec) (rest : List AuditRec), s.audit.buf = r :: rest ∧ s.auditRingFull
    = false ∧ s.audit.retry = false ∧ s.inStack (s.reg64 0x0480 + 32 * (s.audit.w.toNat % 2 ^ s.auditLog2)) 32 = true :=
  ⟨auditS, aRec, [{ aRec with seq := 1 }], by decide +kernel, by decide +kernel, by decide +kernel, by decide +kernel⟩

theorem witness_AuditRingMovesOldestFirst_2 : ∃ (s : State), s.auditRingFull = false ∧ s.audit.buf ≠ [] ∧ s.audit.retry = false :=
  ⟨auditS, by decide +kernel, by decide +kernel, by decide +kernel⟩

theorem witness_AuditRingMovesOldestFirst_3 : ∃ (s : State), s.auditLog2 ≠ 0 ∧ s.inStack s.consumedAddr 4 = true :=
  ⟨auditS, by decide +kernel, by decide +kernel⟩

theorem witness_AuditRingMovesOldestFirst_4 : ∃ (s : State), s.auditLog2 ≠ 0 ∧ s.inStack s.consumedAddr 4 = false ∧ s.past s.audit.polled
    (us (s.rf 0x0470 4 7)) = true ∧ s.auditRingFull = true ∧ s.audit.buf ≠ [] := by
  refine ⟨auditFar, ?_, ?_, ?_, ?_, ?_⟩ <;> decide +kernel

theorem witness_AuditRingMovesOldestFirst_5 : ∃ (s : State) (w : Word), s.auditRoom ∧ (∃ mask, s.regRule 0x0470 w.toNat = some (mask, true))
    :=
  ⟨live, 0xA5#32, by unfold State.auditRoom; decide +kernel, ⟨0x7FF, by decide +kernel⟩⟩

/-! ## Rings and operations -/

/-- A ring configuration word: EN, rings of 16 slots, job 7. -/
def cfgW : Nat := 1 + 16 * 4 + 512 * 4 + 0x10000 * 7
/-- The registers of ring 0: its descriptors at tile 50, its records at tile 51, its doorbells at tile 52 of node `hi` / 2^14. -/
def ringRegs (en : Bool) (hi : Nat := 0) : List (Nat × Word) :=
  [(ringReg 0 0, BitVec.ofNat 32 (adr 50)), (ringReg 0 8, BitVec.ofNat 32 (adr 51)), (ringReg 0 16, BitVec.ofNat 32 (adr 52)),
   (ringReg 0 20, BitVec.ofNat 32 hi)] ++ if en then [(ringReg 0 0x18, BitVec.ofNat 32 cfgW)] else []
/-- A ring whose doorbell pair the engine sees. -/
def ring0 : Machine.Ring :=
  { tail := 3#32, head := 1#32, cqTail := 2#32, cqHead := 0#32, stopped := false, cause := 0, watched := true, polling := false, due := 0 }
/-- Ring 0 is enabled. -/
def ringS : State := { withRegs live (ringRegs true) with rings := [(0, ring0)] }
/-- Ring 0 is not enabled; its doorbell pair stands at (9, 4). -/
def ringOff : State := putm (withRegs live (ringRegs false)) (adr 52) (leBytes 4 9 ++ leBytes 4 4)
/-- Ring 0 has its doorbell pair on another node. -/
def ringFar (polling : Bool) : State :=
  { withRegs live (ringRegs true 16384) with rings := [(0, { ring0 with watched := false, polling := polling })] }
/-- A QUEUED operation of ring 0. -/
def queuedOp : Op := { mkOp 5 (dsc 0x60 0 [(16, 1, 1), (24, 4, 1)]) with started := false, st := .queued }
/-- A final record of ring 0. -/
def rec0 : Rec :=
  { ring := 0, op := 9, opTag := 77, status := 0, final := true, opcode := 0x60, cursor := 1, time := 2, aux := 3, result := 4
    fast := false, resv := true, after := none }
/-- The control store has an entry for every opcode. -/
def coded (s : State) : State :=
  { s with ucode := { s.ucode with boot := false, store := [(1, BitVec.ofNat 128 (2 ^ 127 + 300 + 2 ^ 13 * 5)), (2, BitVec.ofNat 128 (2 ^ 127 + 300 + 2 ^ 13 * 5)), (96, BitVec.ofNat 128 (2 ^ 127 + 300 + 2 ^ 13 * 5))] } }
/-- Ring 0 with a descriptor at its head, and region 1. -/
def ringDesc (d : List Byte) : State := coded (putm { ringS with regions := [(1, { reg 100 4 with guard := 1 })] } (adr 50 + 64) d)
/-- A SCRUB of region 1. -/
def scrubDesc : List Byte := dsc 0x60 0 [(16, 1, 1), (24, 4, 4)]

theorem witness_RingWritesAndDoorbells_1 : ∃ (s : State) (req : Nat) (n : Nat) (w : Word) (ext : Ext) (v : List Byte), n < 64 ∧ w.getLsbD 0
    = true ∧ s.auditFull = false ∧ s.ringEn n = false ∧ s.ringOk n (w &&& 0xFFFF3FFF#32).toNat = true ∧ (∀ s1 : State, s1 = (s.setReg
    (ringReg n 0x18) (w &&& 0xFFFF3FFF#32)).auditWrite req (ringReg n 0x18) (s.regN (ringReg n 0x18)) (w &&& 0xFFFF3FFF#32).toNat →
    (s1.readAt ext (s.reg64 (ringReg n 16)) 8 1).1 = .data v ∧ (s1.readAt ext (s.reg64 (ringReg n 16)) 8 1).2 = { s1 with port := (s1.readAt
    ext (s.reg64 (ringReg n 16)) 8 1).2.port }) := by
  refine ⟨ringOff, 0, 0, BitVec.ofNat 32 cfgW, [], leBytes 4 9 ++ leBytes 4 4, ?_, ?_, ?_, ?_, ?_,
    (by intro s1 h; subst h; exact ⟨by decide +kernel, by decide +kernel⟩)⟩ <;> decide +kernel

theorem witness_RingWritesAndDoorbells_2 : ∃ (s : State) (n : Nat) (w : Word), n < 64 ∧ w.getLsbD 0 = true ∧ s.auditFull = false ∧ s.ringEn
    n = false ∧ s.ringOk n (w &&& 0xFFFF3FFF#32).toNat = false := by
  refine ⟨live, 63, 0x10001#32, ?_, ?_, ?_, ?_, ?_⟩ <;> decide +kernel

theorem witness_RingWritesAndDoorbells_3 : ∃ (s : State) (n : Nat) (w : Word), n < 64 ∧ w.getLsbD 0 = false ∧ s.ringEn n = true ∧
    s.auditFull = false ∧ s.live n = 0 ∧ (w &&& 0xFFFF3FFF#32) ||| 1#32 = s.reg (ringReg n 0x18) := by
  refine ⟨ringS, 0, BitVec.ofNat 32 (cfgW - 1), ?_, ?_, ?_, ?_, ?_, ?_⟩ <;> decide +kernel

theorem witness_RingWritesAndDoorbells_4 : ∃ (s : State) (n : Nat) (w : Word), n < 64 ∧ w.getLsbD 0 = false ∧ s.ringEn n = true ∧ s.live n ≠
    0 :=
  ⟨{ ringS with ops := [queuedOp] }, 0, 0#32, by decide +kernel, by decide +kernel, by decide +kernel, by decide +kernel⟩

theorem witness_RingWritesAndDoorbells_5 : ∃ (s : State) (n : Nat) (w : Word), n < 64 ∧ s.auditFull = false ∧ 1 ≤ bits w.toNat 0 7 ∧ bits
    w.toNat 0 7 ≤ 100 :=
  ⟨live, 63, 100#32, by decide +kernel, by decide +kernel, by decide +kernel, by decide +kernel⟩

theorem witness_RingWritesAndDoorbells_6 : ∃ (n : Nat) (w : Word), n < 64 ∧ (bits w.toNat 0 7 = 0 ∨ 100 < bits w.toNat 0 7) :=
  ⟨63, 101#32, by decide +kernel, .inr (by decide +kernel)⟩

theorem witness_RingWritesAndDoorbells_7 : ∃ (s : State) (n : Nat) (tail : Word) (head : Word) (r : Ring), s.ringEn n = true ∧ s.rings.get n
    = some r ∧ r.watched = true ∧ s.inStack (s.reg64 (ringReg n 16)) 8 = true ∧ s.countsOk n { r with tail := tail, cqHead := head } = true
    := by
  refine ⟨ringS, 0, 4#32, 1#32, ring0, ?_, ?_, ?_, ?_, ?_⟩ <;> decide +kernel

theorem witness_RingWritesAndDoorbells_8 : ∃ (s : State) (n : Nat) (tail : Word) (head : Word) (r : Ring), n < 64 ∧ s.ringEn n = true ∧
    s.rings.get n = some r ∧ r.watched = true ∧ r.stopped = false ∧ s.countsOk n { r with tail := tail, cqHead := head } = false := by
  refine ⟨ringS, 0, 99#32, 1#32, ring0, ?_, ?_, ?_, ?_, ?_, ?_⟩ <;> decide +kernel

theorem witness_RingWritesAndDoorbells_9 : ∃ (s : State) (n : Nat) (r : Ring), s.rings.get n = some r ∧ s.ringEn n = true ∧ r.watched =
    false ∧ r.polling = false ∧ r.due ≤ s.now := by
  refine ⟨ringFar false, 0, { ring0 with watched := false }, ?_, ?_, ?_, ?_, ?_⟩ <;> decide +kernel

theorem witness_RingWritesAndDoorbells_10 : ∃ (s : State) (n : Nat) (v : List Byte) (r : Ring), s.rings.get n = some r ∧ s.ringEn n = true ∧
    r.polling = true ∧ s.countsOk n { r with tail := BitVec.ofNat 32 (field v 0 4), cqHead := BitVec.ofNat 32 (field v 4 4), polling :=
    false } = true :=
  ⟨ringFar true, 0, leBytes 4 4 ++ leBytes 4 1, { ring0 with watched := false, polling := true }, by decide +kernel, by decide +kernel,
    by decide +kernel, by decide +kernel⟩

theorem witness_RingWritesAndDoorbells_11 : ∃ (s : State) (n : Nat) (r : Ring), s.rings.get n = some r ∧ s.ringEn n = true ∧ r.polling =
    true ∧ r.stopped = false ∧ n < 64 := by
  refine ⟨ringFar true, 0, { ring0 with watched := false, polling := true }, ?_, ?_, ?_, ?_, ?_⟩ <;> decide +kernel

/-- The read of the descriptor of ring 0. -/
def descRead (s : State) (ext : Ext) : Rd × State := State.readAt { s with fetchLast := 0 } ext (adr 50 + 64) 64 1

theorem witness_DescriptorsBecomeRunningOperations_1 : ∃ (s : State) (s1 : State) (ext : Ext) (n : Nat) (r : Ring) (d : List Byte),
    s.nextRing = some n ∧ s.rings.get n = some r ∧ State.readAt { s with fetchLast := n } ext (s.reg64 (ringReg n 0) + 64 * (r.head.toNat %
    2 ^ cfgSq (s.ringCfg n))) 64 1 = (.data d, s1) ∧ s.fetchStatus n d = 0 :=
  ⟨ringDesc scrubDesc, (descRead (ringDesc scrubDesc) []).2, [], 0, ring0, scrubDesc, by decide +kernel, by decide +kernel, by decide +kernel,
    by decide +kernel⟩

theorem witness_DescriptorsBecomeRunningOperations_2 : ∃ (s : State) (s1 : State) (ext : Ext) (n : Nat) (r : Ring) (d : List Byte),
    s.nextRing = some n ∧ s.rings.get n = some r ∧ State.readAt { s with fetchLast := n } ext (s.reg64 (ringReg n 0) + 64 * (r.head.toNat %
    2 ^ cfgSq (s.ringCfg n))) 64 1 = (.data d, s1) ∧ s.fetchStatus n d ≠ 0 :=
  ⟨ringDesc (zeros 64), (descRead (ringDesc (zeros 64)) []).2, [], 0, ring0, zeros 64, by decide +kernel, by decide +kernel,
    by decide +kernel, by decide +kernel⟩

theorem witness_DescriptorsBecomeRunningOperations_3 : ∃ (s : State) (s1 : State) (ext : Ext) (n : Nat) (r : Ring) (x : Rd), s.nextRing =
    some n ∧ n < 64 ∧ s.rings.get n = some r ∧ State.readAt { s with fetchLast := n } ext (s.reg64 (ringReg n 0) + 64 * (r.head.toNat % 2 ^
    cfgSq (s.ringCfg n))) 64 1 = (x, s1) ∧ s1.rings.get n = some r ∧ r.stopped = false ∧ (x = .error ∨ x = .path) := by
  refine ⟨ringS, (descRead ringS [(adr 50 + 64, .error)]).2, [(adr 50 + 64, .error)], 0, ring0, .error, ?_, ?_, ?_, ?_, ?_, ?_, (.inl rfl)⟩
    <;> decide +kernel

theorem witness_DescriptorsBecomeRunningOperations_4 : ∃ (s : State) (op : Nat) (o : Op), s.op? op = some o ∧ s.canStart o = true ∧
    o.isControl = false :=
  ⟨{ ringDesc scrubDesc with ops := [{ queuedOp with desc := scrubDesc }] }, 5, { queuedOp with desc := scrubDesc }, by decide +kernel,
    by decide +kernel, by decide +kernel⟩

theorem witness_DescriptorsBecomeRunningOperations_5 : ∃ (s : State) (id : Nat) (q : Nat) (rest : List Nat), s.seqReady = true ∧
    s.seqs.ready = id :: rest ∧ s.seqs.q.free 4 = some q :=
  ⟨{ coded live with seqs := { live.seqs with ready := [5, 6], q := [(0, 9)] }, ops := [queuedOp] }, 5, 1, [6], by decide +kernel,
    by decide +kernel, by decide +kernel⟩

theorem witness_CompletionRecordsFillTheirSlots_1 : ∃ (s : State) (n : Nat) (x : Rec) (r : Ring), n < 64 ∧ s.nextRec n = some x ∧
    s.rings.get n = some r ∧ s.ringEn n = true ∧ s.cqUsable n = true ∧ s.inStack (s.reg64 (ringReg n 8) + 32 * (r.cqTail.toNat % 2 ^ cfgCq
    (s.ringCfg n))) 32 = true := by
  refine ⟨{ ringS with recs := [rec0] }, 0, rec0, ring0, ?_, ?_, ?_, ?_, ?_, ?_⟩ <;> decide +kernel

theorem witness_CompletionRecordsFillTheirSlots_2 : ∃ (s : State) (n : Nat) (x : Rec) (r : Ring), n < 64 ∧ s.nextRec n = some x ∧
    s.rings.get n = some r ∧ s.ringEn n = true ∧ s.cqUsable n = true ∧ r.stopped = false := by
  refine ⟨{ ringS with recs := [rec0] }, 0, rec0, ring0, ?_, ?_, ?_, ?_, ?_, ?_⟩ <;> decide +kernel

/-- The target of a control operation, in a state. -/
def target (st : OpState) : Op := { mkOp 3 (dsc 0x60 0 [(16, 1, 1), (24, 4, 9)]) .walking with st := st, started := st != .queued }
/-- A control operation whose target is operation 3. -/
def controlOp (opc tag : Nat) : Op := { mkOp 4 (dsc opc 0 [(16, 4, tag), (20, 1, 0)]) with control := some 3 }
/-- A control operation and its target. -/
def controlS (opc tag : Nat) (st : OpState) : State :=
  { ringS with
    regions := [(1, { reg 100 9 with guard := 1 })], ops := [target st, controlOp opc tag], nextOp := 9
    seqs := { live.seqs with q := if st = .running then [(0, 3)] else [] } }

theorem witness_ControlsActOnTheirTarget_1 : ∃ (s : State) (op : Nat) (c : Op) (t : Op), s.op? op = some c ∧ c.opcode = 0x7D ∧ c.started =
    true ∧ c.stage = .fresh ∧ s.controlTarget c = some t ∧ s.mayControl c t ∧ t.id ≠ op ∧ s.cancelAllowed t = true ∧ t.st ≠ .cancelling ∧
    (t.st = .queued ∨ t.st = .suspended ∨ s.cancelNow t = true) := by
  refine ⟨controlS 0x7D 99 .queued, 4, controlOp 0x7D 99, target .queued, ?_, ?_, ?_, ?_, ?_, (by unfold State.mayControl; decide +kernel),
    ?_, ?_, ?_, (.inl (by decide +kernel))⟩ <;> decide +kernel

theorem witness_ControlsActOnTheirTarget_2 : ∃ (s : State) (op : Nat) (c : Op) (t : Op), s.op? op = some c ∧ c.opcode = 0x7D ∧ c.started =
    true ∧ c.stage = .fresh ∧ s.controlTarget c = some t ∧ s.mayControl c t ∧ t.id ≠ op ∧ s.cancelAllowed t = true ∧ (t.st = .running ∨ t.st
    = .suspending) ∧ s.cancelNow t = false := by
  refine ⟨controlS 0x7D 99 .running, 4, controlOp 0x7D 99, target .running, ?_, ?_, ?_, ?_, ?_, (by unfold State.mayControl; decide +kernel),
    ?_, ?_, (.inl (by decide +kernel)), ?_⟩ <;> decide +kernel

theorem witness_ControlsActOnTheirTarget_3 : ∃ (s : State) (op : Nat) (c : Op) (t : Op), s.op? op = some c ∧ c.opcode = 0x7E ∧ c.started =
    true ∧ c.stage = .fresh ∧ s.controlTarget c = some t ∧ s.mayControl c t ∧ t.id ≠ op ∧ t.long = true ∧ t.st = .running ∧ t.stage ≠
    .polling := by
  refine ⟨controlS 0x7E 99 .running, 4, controlOp 0x7E 99, target .running, ?_, ?_, ?_, ?_, ?_, (by unfold State.mayControl; decide +kernel),
    ?_, ?_, ?_, ?_⟩ <;> decide +kernel

theorem witness_ControlsActOnTheirTarget_4 : ∃ (s : State) (op : Nat) (c : Op) (t : Op), s.op? op = some c ∧ c.opcode = 0x7E ∧ c.started =
    true ∧ c.stage = .fresh ∧ s.controlTarget c = some t ∧ s.mayControl c t ∧ t.id ≠ op ∧ t.long = true ∧ t.st = .queued ∧ (∀ x ∈ s.ops,
    x.note.get nkTarget ≠ some op) := by
  refine ⟨controlS 0x7E 99 .queued, 4, controlOp 0x7E 99, target .queued, ?_, ?_, ?_, ?_, ?_, (by unfold State.mayControl; decide +kernel),
    ?_, ?_, ?_, ?_⟩ <;> decide +kernel

theorem witness_ControlsActOnTheirTarget_5 : ∃ (s : State) (op : Nat) (c : Op) (t : Op), s.op? op = some c ∧ c.opcode = 0x7F ∧ c.started =
    true ∧ c.stage = .fresh ∧ s.controlTarget c = some t ∧ s.mayControl c t ∧ t.id ≠ op ∧ t.long = true ∧ t.st = .suspended ∧ (∀ x ∈ s.ops,
    x.note.get nkTarget ≠ some op) ∧ s.op? t.id = some t := by
  refine ⟨controlS 0x7F 99 .suspended, 4, controlOp 0x7F 99, target .suspended, ?_, ?_, ?_, ?_, ?_,
    (by unfold State.mayControl; decide +kernel), ?_, ?_, ?_, ?_, ?_⟩ <;> decide +kernel

theorem witness_ControlsActOnTheirTarget_6 : ∃ (s : State) (op : Nat) (c : Op) (code : Instr), s.op? op = some c ∧ c.started = true ∧
    c.stage = .fresh ∧ (code = .cancel op ∧ c.opcode = 0x7D ∨ code = .suspend op ∧ c.opcode = 0x7E ∨ code = .resume op ∧ c.opcode = 0x7F) ∧
    s.controlTarget c = none :=
  ⟨{ controlS 0x7F 98 .suspended with ops := [target .suspended, { controlOp 0x7F 98 with control := none }] }, 4, { controlOp 0x7F 98 with
    control := none }, .resume 4, by decide +kernel, by decide +kernel, by decide +kernel, .inr (.inr (by decide +kernel)),
    by decide +kernel⟩

/-- A control operation of a ring of job 8. -/
def otherControl : Op := { controlOp 0x7D 99 with ring := 1 }

theorem witness_ControlsActOnTheirTarget_7 : ∃ (s : State) (op : Nat) (c : Op) (t : Op) (code : Instr), s.op? op = some c ∧ c.started = true
    ∧ c.stage = .fresh ∧ (code = .cancel op ∧ c.opcode = 0x7D ∨ code = .suspend op ∧ c.opcode = 0x7E ∨ code = .resume op ∧ c.opcode = 0x7F)
    ∧ s.controlTarget c = some t ∧ ¬s.mayControl c t :=
  ⟨{ withRegs (controlS 0x7D 99 .queued) [(ringReg 1 0x18, 0x80001#32), (ringReg 0 0x18, 0x70001#32)] with ops := [target .queued,
    otherControl] }, 4, otherControl, target .queued, .cancel 4, by decide +kernel, by decide +kernel, by decide +kernel,
    .inl (by decide +kernel), by decide +kernel, by unfold State.mayControl; decide +kernel⟩

/-! ## Regions and sheaves -/

/-- The state after a read of the engine's own. -/
def afterRead (s : State) (a n c : Nat) : State := (s.readAt [] a n c).2
/-- The state after the read of the sheaf table at tile 301. -/
def afterTable (s : State) : State := (s.readTable [] (adr 301)).2

/-- The image of a region of 4 tiles at tile 100. -/
def img0 : List Byte := img 100 4 0 1
/-- A REGION_SETUP of the image at tile 300. -/
def setupOp : Op := mkOp 4 (dsc 0x01 0 [(16, 8, adr 300)])
/-- That image in memory. -/
def setupS : State := putm live (adr 300) img0
/-- A REGION_RELEASE of region 1. -/
def releaseOp (st : Stage) (c : Nat) : Op := mkOp 4 (dsc 0x02 0 [(16, 1, 1)]) st c
/-- Region 1, in a state. -/
def oneRegion (st : RegState := .live) : State := { live with regions := [(1, reg 100 4 .data st)] }

theorem witness_RegionSetupRegisters_1 : ∃ (si : State) (s : State) (op : Nat) (ext : Ext) (o : Op) (v : List Byte) (r : Region), si.work op
    0x01 = some o ∧ o.stage = .fresh ∧ si.readAt ext (o.arg 16 8) 64 1 = (.data v, s) ∧ parseImage v = some r ∧ s.setupStatus o (some r) = 0
    := by
  refine ⟨withOp setupS setupOp, afterRead (withOp setupS setupOp) (adr 300) 64 1, 4, [], setupOp, img0, (parseImage img0).getD (reg 100 4),
    ?_, ?_, ?_, ?_, ?_⟩ <;> decide +kernel

theorem witness_RegionSetupRegisters_2 : ∃ (si : State) (s : State) (op : Nat) (ext : Ext) (o : Op) (v : List Byte), si.work op 0x01 = some
    o ∧ o.stage = .fresh ∧ si.readAt ext (o.arg 16 8) 64 1 = (.data v, s) ∧ s.setupStatus o (parseImage v) ≠ 0 :=
  ⟨withOp { setupS with regions := [(0, reg 102 4)] } setupOp, afterRead (withOp { setupS with regions := [(0, reg 102 4)] } setupOp) (adr
    300) 64 1, 4, [], setupOp, img0, by decide +kernel, by decide +kernel, by decide +kernel, by decide +kernel⟩

theorem witness_RegionSetupRegisters_3 : ∃ (s : State) (op : Nat) (o : Op) (r : Region), s.work op 0x01 = some o ∧ o.stage = .walking ∧
    s.regions.get (o.n nkRegion) = some r ∧ r.tileCount ≤ o.cursor :=
  ⟨withOp { live with regions := [(0, reg 100 4 .data .setup)] } { setupOp with stage := .walking, cursor := 4, note := [(nkRegion, 0)] }, 4,
    { setupOp with stage := .walking, cursor := 4, note := [(nkRegion, 0)] }, reg 100 4 .data .setup, by decide +kernel, by decide +kernel,
    by decide +kernel, by decide +kernel⟩

theorem witness_RegionReleaseZeroisesAndFrees_1 : ∃ (s : State) (op : Nat) (o : Op) (r : Region), s.work op 0x02 = some o ∧ o.stage = .fresh
    ∧ bitAt (o.arg 17 1) 0 = false ∧ s.releaseStatus o = 0 ∧ s.regions.get (o.arg 16 1) = some r := by
  refine ⟨withOp (oneRegion .live) (releaseOp .fresh 0), 4, releaseOp .fresh 0, reg 100 4, ?_, ?_, ?_, ?_, ?_⟩ <;> decide +kernel

theorem witness_RegionReleaseZeroisesAndFrees_2 : ∃ (s : State) (op : Nat) (o : Op), s.work op 0x02 = some o ∧ o.stage = .fresh ∧
    s.releaseStatus o ≠ 0 :=
  ⟨withOp (oneRegion .setup) (releaseOp .fresh 0), 4, releaseOp .fresh 0, by decide +kernel, by decide +kernel, by decide +kernel⟩

theorem witness_RegionReleaseZeroisesAndFrees_3 : ∃ (s : State) (op : Nat) (o : Op) (r : Region), s.work op 0x02 = some o ∧ o.stage =
    .walking ∧ bitAt (o.arg 17 1) 0 = false ∧ s.regions.get (o.arg 16 1) = some r ∧ o.cursor + 1 < r.tileCount := by
  refine ⟨withOp (oneRegion .releasing) (releaseOp .walking 1), 4, releaseOp .walking 1, reg 100 4 .data .releasing, ?_, ?_, ?_, ?_, ?_⟩ <;>
    decide +kernel

theorem witness_RegionReleaseZeroisesAndFrees_4 : ∃ (s : State) (op : Nat) (o : Op) (r : Region), s.work op 0x02 = some o ∧ o.stage =
    .walking ∧ bitAt (o.arg 17 1) 0 = false ∧ s.regions.get (o.arg 16 1) = some r ∧ r.tileCount ≤ o.cursor ∧ (∀ k x, Retire.zeroBank k x ∉
    s.retire) := by
  refine ⟨withOp (oneRegion .releasing) (releaseOp .walking 4), 4, releaseOp .walking 4, reg 100 4 .data .releasing, ?_, ?_, ?_, ?_, ?_,
    (nofun)⟩ <;> decide +kernel

/-- The CRC of the coefficients of two data members and one parity row, which a sheaf table carries (R60). -/
def coefCrc : Nat := (crc32c (coefBytes (cauchyBlock 2 1) 1 2)).toNat
/-- A member entry (Table 2-8). -/
def memberEntry (rg b t : Nat) (node : Nat := 0) : List Byte := sp (zeros 16) [(0, 4, node + 2 ^ 22 * rg), (4, 1, b), (5, 1, b), (6, 1, b), (8, 4, t)]
/-- The table of sheaf 9 (Table 2-7): two data members and one parity member. -/
def sheafTable (ep : Nat) (l : List (List Byte)) : List Byte := sp (zeros 16) [(0, 3, 9), (3, 1, 2), (4, 1, 1), (8, 4, coefCrc), (12, 4, ep)] ++ l.flatten
/-- Its members: region 1 of this engine, and regions of two others. -/
def table1 : List Byte := sheafTable 1 [memberEntry 1 1 4, memberEntry 2 2 4 1, memberEntry 3 3 4 2]
/-- The next membership: member 1 is region 5. -/
def table2 : List Byte := sheafTable 2 [memberEntry 1 1 4, memberEntry 5 2 4 1, memberEntry 3 3 4 2]
/-- One member. -/
def member (rg t : Nat) (node : Nat := 0) (st : MemState := .alive) : Member :=
  { node := node, agent := 0, region := rg, board := rg, shelf := rg, row := rg, tiles := t, st := st, suspect := false, level := none
    matched := true, lark := 0, mismatch := none }
/-- The sheaf of `table1`. -/
def sheaf1 : Sheaf := ((parseSheaf table1 0).map (fun t => t.sh)).getD ⟨2, 1, 0, 0, 0, 0, 1, []⟩
/-- Region 1 is member 0 of sheaf 9, and the next table lies at tile 301. -/
def joined : State :=
  { putm live (adr 301) table2 with
    regions := [(1, { reg 100 4 with sheaf := 9, member := 0, epoch := 1, board := 1, shelf := 1, row := 1 })], sheaves := [(9, sheaf1)] }
/-- A SHEAF_JOIN of region 1. -/
def joinOp : Op := mkOp 4 (dsc 0x03 0 [(16, 1, 1), (24, 8, adr 301)])
/-- A SHEAF_LEAVE of region 1 at an epoch. -/
def leaveOp (ep : Nat) : Op := mkOp 4 (dsc 0x04 ep [(16, 1, 1)])
/-- A MEMBERSHIP_UPDATE of sheaf 9. -/
def updateOp (ep : Nat) : Op := mkOp 4 (dsc 0x05 ep [(16, 3, 9), (24, 8, adr 301), (32, 8, 0x19)])

/-- Region 1 alone, of 4 tiles or 5, joins sheaf 9 by the table at tile 301. -/
def joining (n : Nat) : State := withOp (putm { live with regions := [(1, reg 100 n)] } (adr 301) table1) joinOp
/-- Region 1 is a member, and its table changes. -/
def updating (ep : Nat) : State := withOp joined (updateOp ep)

theorem witness_SheafMembershipChanges_1 : ∃ (si : State) (s : State) (op : Nat) (ext : Ext) (o : Op) (v : List Byte) (t : SheafTab),
    si.work op 0x03 = some o ∧ si.readTable ext (o.arg 24 8) = (.data v, s) ∧ parseSheaf v s.now = some t ∧ s.joinStatus o (some t) = 0 :=
  ⟨joining 4, afterTable (joining 4), 4, [], joinOp, table1, (parseSheaf table1 live.now).getD ⟨9, sheaf1⟩, by decide +kernel,
    by decide +kernel, by decide +kernel, by decide +kernel⟩

theorem witness_SheafMembershipChanges_2 : ∃ (si : State) (s : State) (op : Nat) (ext : Ext) (o : Op) (v : List Byte), si.work op 0x03 =
    some o ∧ si.readTable ext (o.arg 24 8) = (.data v, s) ∧ s.joinStatus o (parseSheaf v s.now) ≠ 0 :=
  ⟨joining 5, afterTable (joining 5), 4, [], joinOp, table1, by decide +kernel, by decide +kernel, by decide +kernel⟩

theorem witness_SheafMembershipChanges_3 : ∃ (s : State) (op : Nat) (o : Op), s.work op 0x04 = some o ∧ s.leaveStatus o = 0 :=
  ⟨withOp joined (leaveOp 1), 4, leaveOp 1, by decide +kernel, by decide +kernel⟩

theorem witness_SheafMembershipChanges_4 : ∃ (s : State) (op : Nat) (o : Op), s.work op 0x04 = some o ∧ s.leaveStatus o ≠ 0 :=
  ⟨withOp joined (leaveOp 2), 4, leaveOp 2, by decide +kernel, by decide +kernel⟩

theorem witness_SheafMembershipChanges_5 : ∃ (si : State) (s : State) (op : Nat) (ext : Ext) (o : Op) (v : List Byte) (t : SheafTab) (a :
    Sheaf), si.work op 0x05 = some o ∧ si.readTable ext (o.arg 24 8) = (.data v, s) ∧ parseSheaf v s.now = some t ∧ s.updateStatus o (some
    t) = 0 ∧ s.sheaves.get (o.arg 16 3) = some a := by
  refine ⟨updating 2, afterTable (updating 2), 4, [], updateOp 2, table2, (parseSheaf table2 live.now).getD ⟨9, sheaf1⟩, sheaf1, ?_, ?_, ?_,
    ?_, ?_⟩ <;> decide +kernel

theorem witness_SheafMembershipChanges_6 : ∃ (si : State) (s : State) (op : Nat) (ext : Ext) (o : Op) (v : List Byte), si.work op 0x05 =
    some o ∧ statesReserved (o.arg 32 9) = false ∧ si.readTable ext (o.arg 24 8) = (.data v, s) ∧ s.updateStatus o (parseSheaf v s.now) ≠ 0
    :=
  ⟨updating 1, afterTable (updating 1), 4, [], updateOp 1, table2, by decide +kernel, by decide +kernel, by decide +kernel, by decide +kernel⟩

theorem witness_SheafMembershipChanges_7 : ∃ (s : State) (op : Nat) (o : Op), s.work op 0x05 = some o ∧ statesReserved (o.arg 32 9) = true
    :=
  ⟨withOp joined (mkOp 4 (dsc 0x05 2 [(16, 3, 9), (24, 8, adr 301), (32, 8, 0x1D)])), 4, mkOp 4 (dsc 0x05 2 [(16, 3, 9), (24, 8, adr 301),
    (32, 8, 0x1D)]), by decide +kernel, by decide +kernel⟩

/-- A lark of member 1 of sheaf 9. -/
def larkPacket : List Byte := ({ typ := 5, cls := 1, job := 7, count := 1 } : Hdr).packet (sp (zeros 32) [(16, 3, 9), (19, 1, 1), (20, 4, 1)])
/-- A report of member 1 on member 2. -/
def reportPacket : List Byte :=
  ({ typ := 6, cls := 1, job := 7, sheaf := 9, src := 1, dst := 0, epoch := 1 } : Hdr).packet (sp (zeros 16) [(0, 1, 1), (1, 1, 2)])
/-- A report key that is due again. -/
def key0 : Key :=
  { sheaf := 9, epoch := 1, kind := 1, subject := 1, mask := 1#36, count := some 0, opened := 0, written := 0, changed := 0, due := true }

theorem witness_SheafMembershipChanges_8 : ∃ (s : State), s.past s.sward.tick (us (bits s.sward.cfg.toNat 0 10)) = true :=
  ⟨joined, by decide +kernel⟩

theorem witness_SheafMembershipChanges_9 : ∃ (s : State) (bytes : List Byte), s.aligned = true ∧ trailerOk bytes = true ∧ (Hdr.parse
    bytes).typ = 5 :=
  ⟨joined, larkPacket, by decide +kernel, packet_trailer _ _, by decide +kernel⟩

theorem witness_SheafMembershipChanges_10 : ∃ (s : State) (bytes : List Byte), s.aligned = true ∧ trailerOk bytes = true ∧ (Hdr.parse
    bytes).typ = 6 :=
  ⟨joined, reportPacket, by decide +kernel, packet_trailer _ _, by decide +kernel⟩

theorem witness_SheafMembershipChanges_12 : ∃ (s : State) (key : Nat) (k : Key), s.sward.keys[key]? = some k ∧ k.due = true ∧ s.past
    k.written 10000 = true :=
  ⟨{ joined with sward := { joined.sward with keys := [key0] } }, 0, key0, by decide +kernel, by decide +kernel, by decide +kernel⟩

theorem witness_LarksAndReports_1 : ∃ (s : State), s.past s.sward.tick (us (bits s.sward.cfg.toNat 0 10)) = true :=
  ⟨joined, by decide +kernel⟩

theorem witness_LarksAndReports_2 : ∃ (s : State) (bytes : List Byte), s.aligned = true ∧ trailerOk bytes = true ∧ (Hdr.parse bytes).typ = 5
    :=
  ⟨joined, larkPacket, by decide +kernel, packet_trailer _ _, by decide +kernel⟩

theorem witness_LarksAndReports_3 : ∃ (s : State) (src : Nat) (bytes : List Byte) (i : Instr), (i = .larkReceive src bytes ∨ i =
    .reportReceive src bytes) ∧ s.aligned = false :=
  ⟨inPhase .align, 0, [], .larkReceive 0 [], .inl rfl, by decide +kernel⟩

theorem witness_LarksAndReports_4 : ∃ (s : State) (src : Nat) (bytes : List Byte) (i : Instr), (i = .larkReceive src bytes ∨ i =
    .reportReceive src bytes) ∧ s.aligned = true ∧ trailerOk bytes = false :=
  ⟨joined, 0, zeros 40, .reportReceive 0 (zeros 40), .inr rfl, by decide +kernel, by decide +kernel⟩

theorem witness_LarksAndReports_5 : ∃ (s : State) (bytes : List Byte), s.aligned = true ∧ trailerOk bytes = true ∧ (Hdr.parse bytes).typ = 6
    ∧ (s.localMember (Hdr.parse bytes).sheaf (Hdr.parse bytes).dst = none ∨ ∃ j r, s.localMember (Hdr.parse bytes).sheaf (Hdr.parse
    bytes).dst = some (j, r) ∧ (r.jobTag ≠ (Hdr.parse bytes).job ∨ r.epoch ≠ (Hdr.parse bytes).epoch)) :=
  ⟨live, reportPacket, by decide +kernel, packet_trailer _ _, by decide +kernel, .inl (by decide +kernel)⟩

theorem witness_LarksAndReports_6 : ∃ (s : State) (j : Nat) (bytes : List Byte) (r : Region), s.aligned = true ∧ trailerOk bytes = true ∧
    (Hdr.parse bytes).typ = 6 ∧ s.localMember (Hdr.parse bytes).sheaf (Hdr.parse bytes).dst = some (j, r) ∧ r.jobTag = (Hdr.parse bytes).job
    ∧ r.epoch = (Hdr.parse bytes).epoch ∧ (Hdr.parse bytes).src < 36 := by
  refine ⟨joined, 1, reportPacket, { reg 100 4 with sheaf := 9, member := 0, epoch := 1, board := 1, shelf := 1, row := 1 }, ?_,
    (packet_trailer _ _), ?_, ?_, ?_, ?_, ?_⟩ <;> decide +kernel

theorem witness_LarksAndReports_8 : ∃ (s : State) (key : Nat) (k : Key), s.sward.keys[key]? = some k ∧ k.due = true ∧ s.past k.written 10000
    = true :=
  ⟨{ joined with sward := { joined.sward with keys := [key0] } }, 0, key0, by decide +kernel, by decide +kernel, by decide +kernel⟩

/-! ## Tables, microcode and steps -/

/-- A row block with good rows for two data members and one parity row. -/
def rowBlock : List Byte := cauchyBlock 2 1
/-- A TABLE_LOAD of region 1's row block at tile 300. -/
def tableOp : Op :=
  mkOp 4 ((dsc 0x70 0 [(16, 1, 1), (17, 1, 1), (18, 1, 1), (19, 1, 2), (24, 8, adr 300)]).take 32 ++
    leBytes 4 (crc32c rowBlock).toNat ++ zeros 28)
/-- CRC32C of the load is that of its table (Table 11-7). -/
theorem tableOp_crc : (crc32c rowBlock).toNat = tableOp.arg 32 4 := by
  have h := field_middle ((dsc 0x70 0 [(16, 1, 1), (17, 1, 1), (18, 1, 1), (19, 1, 2), (24, 8, adr 300)]).take 32)
    (leBytes 4 (crc32c rowBlock).toNat) (zeros 28)
  rw [leNat_leBytes, leBytes_length, Nat.mod_eq_of_lt (b := 256 ^ 4) (crc32c rowBlock).isLt] at h
  exact h.symm
/-- The block in memory, and region 1. -/
def tableS : State := { putm live (adr 300) rowBlock with regions := [(1, reg 100 4)] }
/-- The load waits for its install. -/
def tableWait : Op := { tableOp with stage := .waitRef, slots := [(tablePlace, ⟨.full, 0, rowBlock, []⟩)] }
/-- An operation found, with what `work` asks of it, is at work. -/
theorem work_of {s : State} {id code : Nat} {o : Op} (h : s.op? id = some o)
    (hc : (o.opcode == code && o.started && (o.st == .running || o.st == .suspending || o.st == .cancelling) &&
      s.seqs.q.any (fun p => p.2 == id) && !s.power.relock) = true) : s.work id code = some o := by
  simp only [State.work, h, hc, if_true]
/-- An operation found, with what `waiting` asks of it, waits. -/
theorem waiting_of {s : State} {id code : Nat} {o : Op} (h : s.op? id = some o)
    (hc : (o.opcode == code && o.started && (o.st == .running || o.st == .suspending || o.st == .cancelling)) = true) :
    s.waiting id code = some o := by
  simp only [State.waiting, h, hc, if_true]

theorem witness_TableLoadAndInstall_1 : ∃ (si : State) (s : State) (op : Nat) (ext : Ext) (o : Op) (v : List Byte), si.work op 0x70 = some o
    ∧ o.stage = .fresh ∧ o.loadMalformed = false ∧ si.loadConflict o = false ∧ si.readAt ext (o.arg 24 8) (tabBytes o.tabKind) 1 = (.data v,
    s) ∧ (crc32c v).toNat = o.arg 32 4 ∧ o.tableOk v = true :=
  ⟨withOp tableS tableOp, afterRead (withOp tableS tableOp) (adr 300) (tabBytes 1) 1, 4, [], tableOp, rowBlock,
    work_of rfl (by decide +kernel), by decide +kernel, by decide +kernel, by decide +kernel, Prod.ext (by decide +kernel) rfl, tableOp_crc,
    by decide +kernel⟩

theorem witness_TableLoadAndInstall_2 : ∃ (s : State) (op : Nat) (o : Op) (x : Slot), s.waiting op 0x70 = some o ∧ o.stage = .waitRef ∧
    o.slots.get tablePlace = some x ∧ s.loadRefs o.tabKind o.tabSlot = 0 :=
  ⟨withOp tableS tableWait, 4, tableWait, ⟨.full, 0, rowBlock, []⟩, waiting_of rfl (by decide +kernel), by decide +kernel, rfl,
    by decide +kernel⟩

/-- A UCODE_STAGE of 1,024 bytes at tile 300, with flags. -/
def stageOp (f : Nat) : Op := mkOp 4 (dsc 0x71 0 [(16, 8, adr 300), (24, 4, 1024), (28, 1, f)])
/-- A staging of 1,024 bytes has begun under TAG 1. -/
def staging : State := { live with ucode := { live.ucode with length := some 1024, present := 2#256, tag := some 1 } }
/-- A UCODE_ACTIVATE for a digest. -/
def activateOp (g : List Byte) : Op := { mkOp 4 [] with desc := (dsc 0x72 0 []).take 16 ++ g ++ zeros 16 }
/-- A staged image of 320 words whose entries and identity word are valid (R438). -/
def staged : State :=
  { live with ucode := { live.ucode with
      length := some 5120, present := BitVec.ofNat 256 (2 ^ 10 - 1)
      store := (opRows.map (fun r => (8192 + r.code, BitVec.ofNat 128 (2 ^ 127 + 300)))) ++ [(8192 + 319, BitVec.ofNat 128 (256 + 2 ^ 32 * 0x57594944))] } }
/-- Its digest. -/
def stagedDigest : List Byte := sha256 (staged.ucode.staged 5120)
/-- The DIGEST of an activation is what its descriptor holds there (Table 15-6). -/
theorem wantDigest_activate (g : List Byte) (h : g.length = 32) : (activateOp g).wantDigest = g := by
  have e := slice_middle ((dsc 0x72 0 []).take 16) g (zeros 16)
  rw [h] at e; exact e
/-- The staged image passes with its own digest. -/
theorem staged_ok : staged.ucode.imageOk (activateOp stagedDigest).wantDigest = true := by
  rw [wantDigest_activate stagedDigest (sha256_length _)]
  have h : (List.range (5120 / 512)).all staged.ucode.present.getLsbD = true := by decide +kernel
  have h1 : opRows.all (fun r => entryValid (staged.ucode.entry staged.ucode.inactive false r.code)) = true := by decide +kernel
  have h2 : identityOk (staged.ucode.identity 5120) = true := by decide +kernel
  have hl : staged.ucode.length = some 5120 := rfl
  simp only [Ucode.imageOk, hl, h, h1, h2, stagedDigest, beq_self_eq_true, Bool.and_self]
/-- It is presented. -/
def presented : State :=
  { withOp staged { activateOp stagedDigest with stage := .waitAuth } with ucode := { staged.ucode with presented := some (4, stagedDigest) } }

theorem witness_MicrocodeStagesAndActivates_1 : ∃ (s : State) (op : Nat) (o : Op), s.work op 0x71 = some o ∧ o.stage = .fresh ∧
    s.stageStatus o = 0 :=
  ⟨withOp live (stageOp 1), 4, stageOp 1, by decide +kernel, by decide +kernel, by decide +kernel⟩

theorem witness_MicrocodeStagesAndActivates_2 : ∃ (si : State) (s : State) (op : Nat) (ext : Ext) (o : Op) (v : List Byte), si.work op 0x71
    = some o ∧ o.stage = .walking ∧ o.n nkChunk < 256 ∧ o.n nkChunk + 1 < o.arg 24 4 / 512 ∧ si.ucode.present.getLsbD (o.n nkChunk) = false
    ∧ (si.distributes o = true → si.creditOk (si.level (si.groupAddr (o.n nkChunk))) 3 1 = true) ∧ si.readAt ext (o.arg 16 8 + 512 * o.n
    nkChunk) 512 3 = (.data v, s) ∧ s.op? op = some o := by
  refine ⟨withOp staging { stageOp 0 with stage := .walking }, afterRead (withOp staging { stageOp 0 with stage := .walking }) (adr 300) 512
    3, 4, [], { stageOp 0 with stage := .walking }, zeros 512, ?_, ?_, ?_, ?_, ?_, ?_, ?_, ?_⟩ <;> decide +kernel

theorem witness_MicrocodeStagesAndActivates_3 : ∃ (s : State) (addr : Nat) (v : List Byte), s.own addr = true ∧ ucodeWindow ≤ gOff addr ∧
    gOff addr - ucodeWindow < 0x2000000 ∧ gOff addr % 512 = 0 ∧ v.length = 512 ∧ (s.boot.phase = .test ∨ s.boot.phase = .load ∨ s.boot.phase
    = .ready) ∧ s.oldBound = false ∧ (∀ o ∈ s.ops, o.opcode ≠ 0x72) ∧ s.ucode.tag = some (bits (gOff addr - ucodeWindow) 17 8) ∧ (∀ l,
    s.ucode.length = some l → bits (gOff addr - ucodeWindow) 9 8 < l / 512) ∧ s.ucode.present.getLsbD (bits (gOff addr - ucodeWindow) 9 8) =
    false := by
  refine ⟨staging, ucodeWindow + 2 ^ 17, zeros 512, ?_, ?_, ?_, ?_, ?_, (.inr (.inr (by decide +kernel))), ?_, ?_, ?_,
    (by intro l h; cases h; decide +kernel), ?_⟩ <;> decide +kernel

theorem witness_MicrocodeStagesAndActivates_4 : ∃ (s : State) (op : Nat) (o : Op), s.work op 0x72 = some o ∧ o.stage = .fresh ∧
    s.ucode.presented = none ∧ s.ucode.imageOk o.wantDigest = true :=
  ⟨withOp staged (activateOp stagedDigest), 4, activateOp stagedDigest, work_of rfl (by decide +kernel), by decide +kernel, by decide +kernel,
    staged_ok⟩

theorem witness_MicrocodeStagesAndActivates_5 : ∃ (s : State) (op : Nat) (o : Op), s.work op 0x72 = some o ∧ o.stage = .fresh ∧
    s.ucode.presented = none ∧ s.ucode.imageOk o.wantDigest = false :=
  ⟨withOp live (activateOp (zeros 32)), 4, activateOp (zeros 32), by decide +kernel, by decide +kernel, by decide +kernel, by decide +kernel⟩

theorem witness_MicrocodeStagesAndActivates_6 : ∃ (s : State) (op : Nat) (o : Op) (d : List Byte), s.ucode.presented = some (op, d) ∧
    s.waiting op 0x72 = some o :=
  ⟨presented, 4, { activateOp stagedDigest with stage := .waitAuth }, stagedDigest, rfl, waiting_of rfl (by decide +kernel)⟩

theorem witness_MicrocodeStagesAndActivates_7 : ∃ (s : State) (op : Nat) (o : Op) (d : List Byte), s.ucode.presented = some (op, d) ∧
    s.waiting op 0x72 = some o :=
  ⟨presented, 4, { activateOp stagedDigest with stage := .waitAuth }, stagedDigest, rfl, waiting_of rfl (by decide +kernel)⟩

/-- An operation on step 1 of set 0. -/
def stepOp (opc : Nat) (st : Stage := .fresh) : Op := mkOp 4 (dsc opc 1 [(16, 8, 1)]) st
/-- Step 1 of set 0 is OPEN, or CLOSED. -/
def stepS (closed : Bool) : State :=
  { live with
    regions := [(1, { reg 100 4 with digest := 5#64 }), (2, { reg 200 4 with digest := 7#64, set := 1 })]
    sets := [(0, { SetTab.new 0 with h := 1, n := some 2, live := [(1, closed)] })] }
/-- Sheaf 9 waits for the level of two members of another engine. -/
def unmatched : State :=
  { live with
    sheaves := [(9, ⟨2, 1, 2, 0, 0, 0, 1, [member 1 4, { member 1 4 1 with matched := false }, { member 1 4 1 with matched := false }]⟩)]
    regions := [(1, { reg 100 4 with sheaf := 9, member := 0 })] }

theorem witness_StepOpens_1 : ∃ (s : State) (op : Nat) (o : Op), s.work op 0x10 = some o ∧ o.stage = .fresh ∧ (∀ k ∈ o.sets, s.openRow1 o k
    = false ∧ s.openRow2 o.step k = false ∧ s.openRow3 k = false ∧ s.openRow4 k = false) ∧ (∀ p ∈ s.awaited o, p.2.2.mismatch = none) :=
  ⟨withOp (oneRegion .live) (stepOp 0x10), 4, stepOp 0x10, by decide +kernel, by decide +kernel, by decide +kernel, by decide +kernel⟩

theorem witness_StepOpens_2 : ∃ (s : State) (op : Nat) (o : Op) (k : Nat), s.work op 0x10 = some o ∧ o.stage = .fresh ∧ k ∈ o.sets ∧
    (s.openRow1 o k = true ∨ s.openRow2 o.step k = true ∨ s.openRow3 k = true ∨ s.openRow4 k = true) :=
  ⟨withOp { oneRegion .live with sets := [(0, { SetTab.new 0 with n := some 7 })] } (stepOp 0x10), 4, stepOp 0x10, 0, by decide +kernel,
    by decide +kernel, by decide +kernel, by decide +kernel⟩

theorem witness_StepOpens_3 : ∃ (s : State) (op : Nat) (o : Op), s.waiting op 0x10 = some o ∧ (o.stage = .waitBank ∨ o.stage = .waitSlot) ∧
    s.openReady o = true :=
  ⟨withOp (oneRegion .live) (stepOp 0x10 .waitBank), 4, stepOp 0x10 .waitBank, by decide +kernel, .inl (by decide +kernel), by decide +kernel⟩

theorem witness_StepOpens_4 : ∃ (s : State) (op : Nat) (since : Nat) (sheaf : Nat) (i : Nat) (o : Op) (x : Member), s.waiting op 0x10 = some
    o ∧ o.stage = .waitLevel since ∧ (∀ p ∈ s.awaited o, p.2.2.mismatch = none) ∧ (s.awaited o).find? (fun p => !p.2.2.matched) = some
    (sheaf, i, x) ∧ s.past since (100000 * s.rf 0x0194 0 10) = true := by
  refine ⟨withOp unmatched (stepOp 0x10 (.waitLevel 0)), 4, 0, 9, 1, stepOp 0x10 (.waitLevel 0), { member 1 4 1 with matched := false }, ?_,
    ?_, ?_, ?_, ?_⟩ <;> decide +kernel

/-- An empty tap and no held READ, with no operation in a stage that moves by itself, is calm. -/
theorem calm_of {s : State} (h : (s.tap.queue.isEmpty && s.tap.held.isEmpty && s.tap.slots.isEmpty && s.port.heldReads.isEmpty &&
    s.ops.all (fun o => o.stage == .fresh || o.stage == .walking)) = true) : s.calm := by
  simp only [Bool.and_eq_true, List.isEmpty_iff, List.all_eq_true, Bool.or_eq_true, beq_iff_eq] at h
  refine ⟨h.1.1.1.1, h.1.1.1.2, h.1.1.2, h.1.2, fun o ho => ?_⟩
  rcases h.2 o ho with e | e <;> simp [e]

theorem witness_CloseFenceConfirm_1 : ∃ (s : State) (op : Nat) (o : Op), s.work op 0x14 = some o ∧ o.stage = .fresh ∧ s.calm ∧ (∀ x ∈ s.ops,
    x.id = op → x = o) ∧ (∀ k ∈ o.sets, (s.setTab k).live.contains (o.step, false) = true) :=
  ⟨withOp (stepS false) (stepOp 0x14), 4, stepOp 0x14, by decide +kernel, by decide +kernel, calm_of (by decide +kernel), by decide +kernel,
    by decide +kernel⟩

theorem witness_CloseFenceConfirm_2 : ∃ (s : State) (op : Nat) (k : Nat) (o : Op), s.work op 0x14 = some o ∧ o.stage = .fresh ∧ k ∈ o.sets ∧
    (s.setTab k).live.contains (o.step, false) = false :=
  ⟨withOp (stepS true) (stepOp 0x14), 4, 0, stepOp 0x14, by decide +kernel, by decide +kernel, by decide +kernel, by decide +kernel⟩

theorem witness_CloseFenceConfirm_3 : ∃ (s : State) (op : Nat) (o : Op), s.work op 0x13 = some o ∧ o.stage = .fresh ∧ s.calm ∧ (∀ k ∈
    o.sets, (s.setTab k).live.contains (o.step, true) = true) ∧ s.fenceDone (o.arg 16 8) o.step s.tap.nextId = true ∧ s.fenceStatus (o.arg
    16 8) o.step = stOk := by
  refine ⟨withOp (stepS true) (stepOp 0x13), 4, stepOp 0x13, ?_, ?_, (calm_of (by decide +kernel)), ?_, ?_, ?_⟩ <;> decide +kernel

theorem witness_CloseFenceConfirm_4 : ∃ (s : State) (op : Nat) (o : Op), s.work op 0x11 = some o ∧ o.stage = .fresh ∧ s.calm ∧ (∀ k ∈
    o.sets, (s.setTab k).live.contains (o.step, true) = true ∧ (s.setTab k).live.any (fun p => decide (p.1 < o.step)) = false) ∧ (∀ x ∈
    s.ops, x.id ≠ op → x.opcode ≠ 0x11 ∧ x.opcode ≠ 0x53) ∧ s.fenceDone (o.arg 16 8) o.step s.tap.nextId = true ∧ s.fenceStatus (o.arg 16 8)
    o.step = stOk := by
  refine ⟨withOp (stepS true) (stepOp 0x11), 4, stepOp 0x11, ?_, ?_, (calm_of (by decide +kernel)), ?_, ?_, ?_, ?_⟩ <;> decide +kernel

/-- A STEP_ROLLBACK of step 1. -/
def rollOp (st : Stage) : Op := mkOp 4 (dsc 0x12 1 [(16, 8, 1), (24, 6, 1)]) st
/-- The closed step, with a log region and the parity and parity-bank regions of sheaf 9. -/
def logS : State :=
  { stepS true with
    regions := [(1, { reg 100 4 with log := true, link := 2, logBlock := some 0, dirtyBase := some 0 }), (2, reg 200 12 .deltaLog),
      (3, reg 300 12 .pending), (4, { reg 400 4 .parityHome .live 3 with sheaf := 9, member := 2 })]
    sheaves := [(9, ⟨2, 1, 2, 0, 0, 0, 1, [member 1 4, member 1 4 1, member 1 4 1]⟩)] }
/-- Its bank of step 1 in a state. -/
def bankS (st : BankState) : State := { logS with banks := [(bankKey 3 1, ⟨st, 1, 0⟩)] }
/-- A MERGE_BANK of region 4 for step 1. -/
def mergeOp (st : Stage := .fresh) : Op := mkOp 4 (dsc 0x22 1 [(16, 1, 4)]) st

theorem witness_RollbackAndRetireWork_1 : ∃ (s : State) (op : Nat) (o : Op), s.work op 0x12 = some o ∧ o.stage = .fresh ∧ s.rollbackStatus o
    = 0 ∧ s.startedBefore o [0x14, 0x11, 0x12, 0x53] (fun _ => true) = [] :=
  ⟨withOp logS (rollOp .fresh), 4, rollOp .fresh, by decide +kernel, by decide +kernel, by decide +kernel, by decide +kernel⟩

theorem witness_RollbackAndRetireWork_2 : ∃ (s : State) (op : Nat) (o : Op), s.work op 0x12 = some o ∧ o.stage = .walking ∧ s.rollBusy o =
    false ∧ (s.rollTiles o).length ≤ o.cursor :=
  ⟨withOp logS (rollOp .walking), 4, rollOp .walking, by decide +kernel, by decide +kernel, by decide +kernel, by decide +kernel⟩

theorem witness_RollbackAndRetireWork_4 : ∃ (s : State) (k : Nat) (n : Nat), s.retire = [.confirmMap k n] ∧ s.forcedBank = none :=
  ⟨{ logS with retire := [.confirmMap 0 1] }, 0, 1, by decide +kernel, by decide +kernel⟩

theorem witness_RollbackAndRetireWork_5 : ∃ (s : State) (k : Nat) (f : Nat) (n : Nat), s.retire = [.rollbackMap k f n] ∧ s.forcedBank = none
    :=
  ⟨{ logS with retire := [.rollbackMap 0 1 2] }, 0, 1, 2, by decide +kernel, by decide +kernel⟩

theorem witness_RollbackAndRetireWork_6 : ∃ (s : State) (j : Nat) (x : Nat) (l : List Retire), s.retire = .zeroBank j x :: l ∧ s.snap.cut =
    none :=
  ⟨{ bankS .zeroing with retire := [.zeroBank 3 1] }, 3, 1, [], by decide +kernel, by decide +kernel⟩

theorem witness_MergeBankXorsIntoCommitted_1 : ∃ (s : State) (op : Nat) (o : Op) (r : Region) (b : Bank), s.work op 0x22 = some o ∧ o.stage
    = .fresh ∧ s.regions.get (o.arg 16 1) = some r ∧ r.role = .parityHome ∧ r.sheaf ≠ 0 ∧ s.banks.get (bankKey r.link (s.bankOf r o.step)) =
    some b ∧ b.step = o.step ∧ b.st = .confirmed := by
  refine ⟨withOp (bankS .confirmed) mergeOp, 4, mergeOp, { reg 400 4 .parityHome .live 3 with sheaf := 9, member := 2 }, ⟨.confirmed, 1, 0⟩,
    ?_, ?_, ?_, ?_, ?_, ?_, ?_, ?_⟩ <;> decide +kernel

theorem witness_MergeBankXorsIntoCommitted_2 : ∃ (s : State) (op : Nat) (o : Op) (r : Region) (q : Region) (b : Bank), s.work op 0x22 = some
    o ∧ o.stage = .walking ∧ s.regions.get (o.arg 16 1) = some r ∧ s.regions.get r.link = some q ∧ s.banks.get (bankKey r.link (s.bankOf r
    o.step)) = some b ∧ b.pos + 1 < r.tileCount ∧ s.laneReady = true ∧ s.snap.cut = none ∧ r.guard = 0 ∧ r.reguard = none ∧ q.guard = 0 ∧
    q.reguard = none ∧ s.bankOf r o.step < 3 ∧ r.tileBase + b.pos ≠ q.tileBase + (s.bankOf r o.step * r.tileCount + b.pos) := by
  refine ⟨withOp (bankS .merging) (mergeOp .walking), 4, mergeOp .walking, { reg 400 4 .parityHome .live 3 with sheaf := 9, member := 2 }, reg
    300 12 .pending, ⟨.merging, 1, 0⟩, ?_, ?_, ?_, ?_, ?_, ?_, ?_, ?_, ?_, ?_, ?_, ?_, ?_, ?_⟩ <;> decide +kernel

theorem witness_MergeBankXorsIntoCommitted_3 : ∃ (s : State) (op : Nat) (o : Op) (r : Region), s.work op 0x22 = some o ∧ o.stage = .walking
    ∧ s.regions.get (o.arg 16 1) = some r ∧ s.banks.get (bankKey r.link (s.bankOf r o.step)) = none :=
  ⟨withOp logS (mergeOp .walking), 4, mergeOp .walking, { reg 400 4 .parityHome .live 3 with sheaf := 9, member := 2 }, by decide +kernel,
    by decide +kernel, by decide +kernel, by decide +kernel⟩

/-- A NORM_REDUCE of step 1 to the cell at tile 300, for 2 engines. -/
def normOp (st : Stage := .fresh) : Op := mkOp 4 (dsc 0x53 1 [(16, 8, 1), (24, 8, adr 300), (32, 4, 2)]) st
/-- A cell with contributions. -/
def normCell (n : Nat) : List Byte := sp (zeros 192) [(0, 8, 5), (176, 8, n)]

theorem witness_NormReduceAddsAndPolls_1 : ∃ (s : State) (op : Nat) (o : Op), s.work op 0x53 = some o ∧ o.stage = .fresh ∧ (∀ k ∈ o.sets,
    (s.setTab k).live.contains (o.step, true) = true) ∧ s.inStack (o.arg 24 8) 192 = true ∧ s.meetsRegion (gOff (o.arg 24 8)) 192 = false ∧
    s.tap.queue = [] ∧ s.tap.held = [] := by
  refine ⟨withOp (stepS true) normOp, 4, normOp, ?_, ?_, ?_, ?_, ?_, ?_, ?_⟩ <;> decide +kernel

/-- The adds of the operation are acknowledged, and it has added to ARRIVED. -/
def normWait (arrived : Nat) : Op := { normOp .polling with note := [(nkArrived, arrived)] }
/-- It polls a cell with contributions. -/
def normPoll (n : Nat) : State := withOp (putm live (adr 300) (normCell n)) (normWait 1)

theorem witness_NormReduceAddsAndPolls_2 : ∃ (s : State) (op : Nat) (o : Op), s.waiting op 0x53 = some o ∧ o.stage = .polling ∧ o.n nkErrors
    = 0 ∧ o.n nkArrived = 0 ∧ (∀ x ∈ s.port.xfers, x.op ≠ op) ∧ s.inStack (o.arg 24 8 + 176) 8 = true ∧ s.meetsRegion (gOff (o.arg 24 8 +
    176)) 8 = false ∧ s.tap.queue = [] ∧ s.tap.held = [] := by
  refine ⟨withOp live (normOp .polling), 4, normOp .polling, ?_, ?_, ?_, ?_, ?_, ?_, ?_, ?_, ?_⟩ <;> decide +kernel

theorem witness_NormReduceAddsAndPolls_3 : ∃ (s : State) (s1 : State) (op : Nat) (ext : Ext) (o : Op) (v : List Byte), s.waiting op 0x53 =
    some o ∧ o.stage = .polling ∧ o.n nkErrors = 0 ∧ o.n nkArrived = 1 ∧ s.past o.hold 200 = true ∧ s.readAt ext (o.arg 24 8) 192 1 = (.data
    v, s1) ∧ field v 176 8 = o.arg 32 4 := by
  refine ⟨normPoll 2, afterRead (normPoll 2) (adr 300) 192 1, 4, [], normWait 1, normCell 2, ?_, ?_, ?_, ?_, ?_, ?_, ?_⟩ <;> decide +kernel

theorem witness_NormReduceAddsAndPolls_4 : ∃ (s : State) (s1 : State) (op : Nat) (ext : Ext) (o : Op) (v : List Byte), s.waiting op 0x53 =
    some o ∧ o.stage = .polling ∧ o.n nkErrors = 0 ∧ o.n nkArrived = 1 ∧ s.past o.hold 200 = true ∧ s.readAt ext (o.arg 24 8) 192 1 = (.data
    v, s1) ∧ o.arg 32 4 < field v 176 8 := by
  refine ⟨normPoll 3, afterRead (normPoll 3) (adr 300) 192 1, 4, [], normWait 1, normCell 3, ?_, ?_, ?_, ?_, ?_, ?_, ?_⟩ <;> decide +kernel

/-! ## Parity, degraded reads, rebuild, foster, migration -/

/-! The value and the state that a read gives, where it gives a value. -/

def left {α β : Type} (d : α) : α ⊕ β → α
  | .inl a => a
  | .inr _ => d
def tileOf : TileRes → List Byte
  | .tile v _ => v
  | _ => []
def isTile (b : Bool) : TileRes → Bool
  | .tile _ c => b == c
  | _ => false
def dataOf : MemRd → List Byte × Nat
  | .data v n => (v, n)
  | _ => ([], 0)
def isData : MemRd → Bool
  | .data _ _ => true
  | _ => false
theorem pair_left {α β γ : Type} (d : α) {x : (α ⊕ β) × γ} (h : x.1.isLeft = true) : x = (.inl (left d x.1), x.2) := by
  rcases x with ⟨a | b, c⟩ <;> simp_all [left]
theorem pair_tile {γ : Type} (b : Bool) {x : TileRes × γ} (h : isTile b x.1 = true) : x = (.tile (tileOf x.1) b, x.2) := by
  rcases x with ⟨a | _, c⟩ <;> simp_all [isTile, tileOf]
theorem pair_data {γ : Type} {x : MemRd × γ} (h : isData x.1 = true) : x = (.data (dataOf x.1).1 (dataOf x.1).2, x.2) := by
  rcases x with ⟨a | _, c⟩ <;> simp_all [isData, dataOf]
theorem pair_some {α γ : Type} (d : α) {x : Option α × γ} (h : x.1.isSome = true) : x = (some (x.1.getD d), x.2) := by
  rcases x with ⟨_ | a, c⟩ <;> simp_all
theorem getD_some {α : Type} (d : α) {x : Option α} (h : x.isSome = true) : x = some (x.getD d) := by
  cases x <;> simp_all
theorem pair_none {α γ : Type} {x : Option α × γ} (h : x.1.isNone = true) : x = (none, x.2) := by
  rcases x with ⟨_ | a, c⟩ <;> simp_all
/-- The line of a tile without a guard, or one that lies above it, is apart from it. -/
theorem apart_of {r : Region} {t : Nat} (h : (match r.lineOff t with
    | none => true
    | some off => decide ((r.tileBase + t) * 4096 + 4096 ≤ off)) = true) : r.lineApart t := by
  intro off e v
  simp only [e, decide_eq_true_eq] at h
  exact .inr h

/-- Sheaf 9 with all its members on this engine: regions 1 and 2, and parity region 4. -/
def sheaf9 (st : MemState := .alive) : Sheaf := ⟨2, 1, 0, 0, 0, coefCrc, 1, [member 1 4 0 st, member 2 4, member 4 4]⟩
/-- Its regions; region 3 holds the pending banks. -/
def fam1 : Region := { reg 100 4 with sheaf := 9, member := 0, epoch := 1 }
def fam4 : Region := { reg 400 4 .parityHome .live 3 with sheaf := 9, member := 2, epoch := 1 }
/-- The sheaf, with member 0 in a state. -/
def fam (st : MemState := .alive) : State :=
  { live with
    tables := { live.tables with rows := [(1, ⟨0, 1, rowBlock, zeros 128, 0, 0⟩), (2, ⟨0, 1, rowBlock, zeros 128, 0, 0⟩), (4, ⟨0, 1, rowBlock, zeros 128, 0, 0⟩)] }
    sheaves := [(9, sheaf9 st)]
    regions := [(1, fam1), (2, { reg 200 4 with logicalBase := 4, sheaf := 9, member := 1, epoch := 1 }), (3, reg 300 12 .pending), (4, fam4)] }
/-- An ENCODE_FULL of the four stripes. -/
def encodeOp (st : Stage := .fresh) (c : Nat := 0) : Op := mkOp 5 (dsc 0x20 0 [(16, 1, 4), (20, 3, 0), (24, 4, 4)]) st c
/-- A VERIFY_STRIPES of the four stripes, with a list at tile 600. -/
def verifyOp (st : Stage := .fresh) (c : Nat := 0) : Op :=
  mkOp 5 (dsc 0x21 0 [(16, 1, 4), (20, 3, 0), (24, 4, 4), (28, 8, adr 600), (36, 4, 2)]) st c
/-- The data tiles of stripe 0. -/
def stripe0 (s : State) : (List (List Byte) ⊕ Nat) × State := s.storedData [] 9 0 (sheaf9) (List.range 2)

theorem witness_ParityEncodeAndVerify_1 : ∃ (s : State) (op : Nat) (o : Op) (r : Region) (sh : Sheaf), s.work op 0x20 = some o ∧ o.stage =
    .fresh ∧ s.regions.get (o.arg 16 1) = some r ∧ s.sheafOf r = some sh ∧ countOk (o.arg 24 4) = true ∧ o.arg 28 8 = 0 ∧ o.arg 36 4 = 0 ∧
    s.encodeRefused o r sh = false := by
  refine ⟨withOp fam encodeOp, 5, encodeOp, fam4, sheaf9, ?_, ?_, ?_, ?_, ?_, ?_, ?_, ?_⟩ <;> decide +kernel

theorem witness_ParityEncodeAndVerify_2 : ∃ (s : State) (op : Nat) (o : Op) (r : Region) (sh : Sheaf), s.work op 0x20 = some o ∧ o.stage =
    .fresh ∧ s.regions.get (o.arg 16 1) = some r ∧ s.sheafOf r = some sh ∧ countOk (o.arg 24 4) = true ∧ o.arg 28 8 = 0 ∧ o.arg 36 4 = 0 ∧
    s.encodeRefused o r sh = true := by
  refine ⟨withOp (fam .removed) encodeOp, 5, encodeOp, fam4, sheaf9 .removed, ?_, ?_, ?_, ?_, ?_, ?_, ?_, ?_⟩ <;> decide +kernel

theorem witness_ParityEncodeAndVerify_3 : ∃ (s : State) (s1 : State) (op : Nat) (ext : Ext) (o : Op) (r : Region) (sh : Sheaf) (d : List
    (List Byte)), s.work op 0x20 = some o ∧ o.stage = .walking ∧ s.regions.get (o.arg 16 1) = some r ∧ s.sheafOf r = some sh ∧ o.cursor <
    o.arg 20 3 + o.arg 24 4 ∧ s.cbwHolds (o.arg 16 1) o.cursor = false ∧ s.laneReady = true ∧ r.strengthAt o.cursor = 0 ∧ s.storedData ext
    r.sheaf o.cursor sh (List.range sh.k) = (.inl d, s1) ∧ s1.auditRoom := by
  refine ⟨withOp fam (encodeOp .walking), (stripe0 (withOp fam (encodeOp .walking))).2, 5, [], encodeOp .walking, fam4, sheaf9, left []
    (stripe0 (withOp fam (encodeOp .walking))).1, ?_, ?_, ?_, ?_, ?_, ?_, ?_, ?_, (pair_left [] (by decide +kernel)),
    (by unfold State.auditRoom; decide +kernel)⟩ <;> decide +kernel

theorem witness_ParityEncodeAndVerify_4 : ∃ (s : State) (op : Nat) (o : Op) (r : Region) (sh : Sheaf), s.work op 0x20 = some o ∧ o.stage =
    .walking ∧ s.regions.get (o.arg 16 1) = some r ∧ s.sheafOf r = some sh ∧ o.arg 20 3 + o.arg 24 4 ≤ o.cursor := by
  refine ⟨withOp fam (encodeOp .walking 4), 5, encodeOp .walking 4, fam4, sheaf9, ?_, ?_, ?_, ?_, ?_⟩ <;> decide +kernel

theorem witness_ParityEncodeAndVerify_5 : ∃ (s : State) (op : Nat) (o : Op) (r : Region) (sh : Sheaf), s.work op 0x21 = some o ∧ o.stage =
    .fresh ∧ s.regions.get (o.arg 16 1) = some r ∧ s.sheafOf r = some sh ∧ countOk (o.arg 24 4) = true ∧ o.arg 28 8 % 4 = 0 ∧ sh.allAlive
    (sh.k + sh.m) = true ∧ o.arg 20 3 + o.arg 24 4 ≤ sh.stripes := by
  refine ⟨withOp fam verifyOp, 5, verifyOp, fam4, sheaf9, ?_, ?_, ?_, ?_, ?_, ?_, ?_, ?_⟩ <;> decide +kernel

/-- The verification at its first stripe, with the data tiles that it reads and what its rows say. -/
def verifying : State := (withOp fam (verifyOp .walking)).modOp 5 (fun x => x.keep nkErrors 0)
def verifyRows : (Bool ⊕ Nat) × State :=
  (stripe0 verifying).2.rowsAgree [] 0 4 9 0 sheaf9 (left [] (stripe0 verifying).1) (List.range 1)

theorem witness_ParityEncodeAndVerify_6 : ∃ (s : State) (s1 : State) (s2 : State) (op : Nat) (ext : Ext) (o : Op) (o2 : Op) (r : Region) (sh
    : Sheaf) (d : List (List Byte)) (b : Bool), s.work op 0x21 = some o ∧ o.stage = .walking ∧ s.regions.get (o.arg 16 1) = some r ∧
    s.sheafOf r = some sh ∧ o.cursor + 1 < o.arg 20 3 + o.arg 24 4 ∧ o.n nkIssued ≠ o.cursor + 1 ∧ s.laneReady = true ∧ (s.modOp op (fun x
    => x.keep nkErrors 0)).storedData ext r.sheaf o.cursor sh (List.range sh.k) = (.inl d, s1) ∧ s1.rowsAgree ext r.set (o.arg 16 1) r.sheaf
    o.cursor sh d (List.range sh.m) = (.inl b, s2) ∧ s2.op? op = some o2 ∧ o2.desc = o.desc ∧ writeStatus ext (o.arg 28 8 + 4 * o2.result) =
    stOk := by
  refine ⟨withOp fam (verifyOp .walking), (stripe0 verifying).2, verifyRows.2, 5, [], verifyOp .walking, (verifyOp .walking).keep nkErrors 0,
    fam4, sheaf9, left [] (stripe0 verifying).1, left false verifyRows.1, ?_, ?_, ?_, ?_, ?_, ?_, ?_, (pair_left [] (by decide +kernel)),
    (pair_left false (by decide +kernel)), ?_, ?_, ?_⟩ <;> decide +kernel

theorem witness_ParityEncodeAndVerify_7 : ∃ (s : State) (op : Nat) (o : Op) (r : Region) (sh : Sheaf), s.work op 0x21 = some o ∧ o.stage =
    .walking ∧ s.regions.get (o.arg 16 1) = some r ∧ s.sheafOf r = some sh ∧ o.arg 20 3 + o.arg 24 4 ≤ o.cursor := by
  refine ⟨withOp fam (verifyOp .walking 4), 5, verifyOp .walking 4, fam4, sheaf9, ?_, ?_, ?_, ?_, ?_⟩ <;> decide +kernel

/-- A DEGRADED_READ of member 0, two tiles to tile 600, by region 4. -/
def degradedOp (st : Stage := .fresh) (c : Nat := 0) (ep : Nat := 1) : Op :=
  mkOp 5 (dsc 0x30 ep [(16, 1, 4), (17, 1, 0), (18, 1, 1), (20, 4, 0), (24, 4, 2), (28, 8, adr 600)]) st c [(nkSheaf, 10), (nkMember, 3)]
/-- Tile 0 of member 0 decoded. -/
def decoded0 (s : State) : TileRes × State := s.targetTile [] (some 5) 0 4 fam4 (sheaf9 .removed) 0 0

theorem witness_DegradedReadDecodesTiles_1 : ∃ (s : State) (op : Nat) (o : Op), s.work op 0x30 = some o ∧ o.stage = .fresh ∧
    s.degradedStatus o = 0 :=
  ⟨withOp (fam .removed) degradedOp, 5, degradedOp, by decide +kernel, by decide +kernel, by decide +kernel⟩

theorem witness_DegradedReadDecodesTiles_2 : ∃ (s : State) (op : Nat) (o : Op), s.work op 0x30 = some o ∧ o.stage = .fresh ∧
    s.degradedStatus o ≠ 0 :=
  ⟨withOp (fam .removed) (degradedOp .fresh 0 2), 5, degradedOp .fresh 0 2, by decide +kernel, by decide +kernel, by decide +kernel⟩

/-- A DEGRADED_READ at its first tile. -/
def degrading : State := ((withOp (fam .removed) (degradedOp .walking)).freshEpoch 5 1).modOp 5 (fun x => x.keep nkErrors 0)

theorem witness_DegradedReadDecodesTiles_3 : ∃ (s : State) (s1 : State) (op : Nat) (ext : Ext) (o : Op) (o1 : Op) (r : Region) (sh : Sheaf)
    (x : Member) (v : List Byte) (dest : Nat), s.work op 0x30 = some o ∧ o.stage = .walking ∧ o.cursor + 1 < o.arg 20 4 + o.arg 24 4 ∧ o.st
    = .running ∧ s.regions.get (o.arg 16 1) = some r ∧ s.sheafOf r = some sh ∧ sh.mem? (o.arg 17 1) = some x ∧ o.sameMember r = true ∧ o.n
    nkIssued ≠ o.cursor + 1 ∧ sh.virtual (o.arg 17 1) o.cursor = false ∧ (x.st = .removed ∨ x.suspect = true) ∧ s.laneReady = true ∧
    State.targetTile ((s.freshEpoch op r.epoch).modOp op (fun x => x.keep nkErrors 0)) ext (some op) 0 (o.arg 16 1) r sh (o.arg 17 1)
    o.cursor = (.tile v true, s1) ∧ v.length = 4096 ∧ s1.op? op = some o1 ∧ dest = o.arg 28 8 + 4096 * (o.cursor - o.arg 20 4) ∧ writeStatus
    ext dest = stOk ∧ s1.inStack dest 4096 = true := by
  refine ⟨withOp (fam .removed) (degradedOp .walking), (decoded0 degrading).2, 5, [], degradedOp .walking, ((decoded0 degrading).2.op? 5).getD
    degradedOp, fam4, sheaf9 .removed, member 1 4 0 .removed, tileOf (decoded0 degrading).1, adr 600, ?_, ?_, ?_, ?_, ?_, ?_, ?_, ?_, ?_,
    ?_, (.inl (by decide +kernel)), ?_, (pair_tile true (by decide +kernel)), ?_, (getD_some _ (by decide +kernel)), ?_, ?_, ?_⟩ <;>
    decide +kernel

theorem witness_DegradedReadDecodesTiles_4 : ∃ (s : State) (op : Nat) (o : Op), s.work op 0x30 = some o ∧ o.stage = .walking ∧ o.arg 20 4 +
    o.arg 24 4 ≤ o.cursor :=
  ⟨withOp (fam .removed) (degradedOp .walking 2), 5, degradedOp .walking 2, by decide +kernel, by decide +kernel, by decide +kernel⟩

/-- A REBUILD of region 1. -/
def rebuildOp (st : Stage := .fresh) (c : Nat := 0) (ep : Nat := 1) (l : List (Nat × Nat × Nat) := []) : Op :=
  mkOp 5 (dsc 0x31 ep ([(16, 1, 1), (20, 4, 0), (24, 4, 4)] ++ l)) st c [(nkSheaf, 10), (nkMember, 1)]
/-- Region 1 FOSTERING with built tiles and builds. -/
def fostering (built : Tab Unit) (builds : Tab Nat) : Region := { fam1 with state := .fostering, built := built, builds := builds }
/-- Sheaf 9 with region 1 FOSTERING. -/
def fosterS (built : Tab Unit) (builds : Tab Nat := []) : State := { fam .replaced with regions := (fam .replaced).regions.set 1 (fostering built builds) }
/-- All four tiles. -/
def allFour : Tab Unit := [(0, ()), (1, ()), (2, ()), (3, ())]
/-- The value that builds tile 0. -/
def build0 (s : State) (op : Option Nat) (cls : Nat) (b : Tab Nat) : TileRes × State := s.buildValue [] op cls 1 (fostering [] b) (sheaf9 .replaced) 0

theorem witness_RebuildBuildsTiles_1 : ∃ (s : State) (op : Nat) (o : Op), s.work op 0x31 = some o ∧ o.stage = .fresh ∧ s.rebuildStatus o = 0
    :=
  ⟨withOp (fosterS []) rebuildOp, 5, rebuildOp, by decide +kernel, by decide +kernel, by decide +kernel⟩

theorem witness_RebuildBuildsTiles_2 : ∃ (s : State) (op : Nat) (o : Op), s.work op 0x31 = some o ∧ o.stage = .fresh ∧ s.rebuildStatus o ≠ 0
    :=
  ⟨withOp (fosterS []) (rebuildOp .fresh 0 3), 5, rebuildOp .fresh 0 3, by decide +kernel, by decide +kernel, by decide +kernel⟩

theorem witness_RebuildBuildsTiles_3 : ∃ (s : State) (s1 : State) (op : Nat) (ext : Ext) (o : Op) (r : Region) (r1 : Region) (sh : Sheaf) (v
    : List Byte) (d : Bool), s.work op 0x31 = some o ∧ o.stage = .walking ∧ s.regions.get (o.arg 16 1) = some r ∧ s.sheafOf r = some sh ∧
    o.cursor < o.arg 20 4 + o.arg 24 4 ∧ o.sameMember r = true ∧ r.state = .fostering ∧ r.built.has o.cursor = false ∧ s.cbwHolds (o.arg 16
    1) o.cursor = false ∧ s.laneReady = true ∧ (s.freshEpoch op r.epoch).buildValue ext (some op) 3 (o.arg 16 1) r sh o.cursor = (.tile v d,
    s1) ∧ s1.regions.get (o.arg 16 1) = some r1 ∧ r1.lineApart o.cursor ∧ s1.auditRoom := by
  refine ⟨withOp (fosterS []) (rebuildOp .walking), (build0 ((withOp (fosterS []) (rebuildOp .walking)).freshEpoch 5 1) (some 5) 3 []).2, 5,
    [], rebuildOp .walking, fostering [] [], fostering [] [], sheaf9 .replaced, tileOf (build0 ((withOp (fosterS []) (rebuildOp
    .walking)).freshEpoch 5 1) (some 5) 3 []).1, true, ?_, ?_, ?_, ?_, ?_, ?_, ?_, ?_, ?_, ?_, (pair_tile true (by decide +kernel)), ?_,
    (apart_of (by decide +kernel)), (by unfold State.auditRoom; decide +kernel)⟩ <;> decide +kernel

theorem witness_RebuildBuildsTiles_4 : ∃ (s : State) (op : Nat) (o : Op) (r : Region), s.work op 0x31 = some o ∧ o.stage = .walking ∧
    s.regions.get (o.arg 16 1) = some r ∧ o.arg 20 4 + o.arg 24 4 ≤ o.cursor ∧ r.built.length < r.tileCount := by
  refine ⟨withOp (fosterS [(1, ())]) (rebuildOp .walking 4), 5, rebuildOp .walking 4, fostering [(1, ())] [], ?_, ?_, ?_, ?_, ?_⟩ <;>
    decide +kernel

theorem witness_RebuildBuildsTiles_5 : ∃ (s : State) (op : Nat) (o : Op) (r : Region), s.work op 0x31 = some o ∧ o.stage = .walking ∧
    s.regions.get (o.arg 16 1) = some r ∧ o.arg 20 4 + o.arg 24 4 ≤ o.cursor ∧ r.tileCount ≤ r.built.length ∧ (bitAt (o.arg 30 1) 0 = false
    ∨ r.rebuildDigest.toNat = o.arg 32 8) := by
  refine ⟨withOp (fosterS allFour) (rebuildOp .walking 4), 5, rebuildOp .walking 4, fostering allFour [], ?_, ?_, ?_, ?_, ?_, ?_⟩ <;>
    decide +kernel

theorem witness_RebuildBuildsTiles_6 : ∃ (s : State) (op : Nat) (o : Op) (r : Region), s.work op 0x31 = some o ∧ o.stage = .walking ∧
    s.regions.get (o.arg 16 1) = some r ∧ o.arg 20 4 + o.arg 24 4 ≤ o.cursor ∧ r.tileCount ≤ r.built.length ∧ bitAt (o.arg 30 1) 0 = true ∧
    r.rebuildDigest.toNat ≠ o.arg 32 8 := by
  refine ⟨withOp (fosterS allFour) (rebuildOp .walking 4 1 [(30, 1, 1), (32, 8, 5)]), 5, rebuildOp .walking 4 1 [(30, 1, 1), (32, 8, 5)],
    fostering allFour [], ?_, ?_, ?_, ?_, ?_, ?_, ?_⟩ <;> decide +kernel

theorem witness_RebuildBuildsTiles_7 : ∃ (s : State) (s1 : State) (region : Nat) (tile : Nat) (n : Nat) (ext : Ext) (r : Region) (r1 :
    Region) (sh : Sheaf) (v : List Byte) (d : Bool), s.regions.get region = some r ∧ r.builds.get tile = some n ∧ s.sheafOf r = some sh ∧
    r.state = .fostering ∧ r.built.has tile = false ∧ s.c0Ready sh tile [r.member] = true ∧ s.buildValue ext none 0 region r sh tile =
    (.tile v d, s1) ∧ s1.regions.get region = some r1 ∧ r1.lineApart tile := by
  refine ⟨fosterS [] [(0, 1)], (build0 (fosterS [] [(0, 1)]) none 0 [(0, 1)]).2, 1, 0, 1, [], fostering [] [(0, 1)], fostering [] [(0, 1)],
    sheaf9 .replaced, tileOf (build0 (fosterS [] [(0, 1)]) none 0 [(0, 1)]).1, true, ?_, ?_, ?_, ?_, ?_, ?_,
    (pair_tile true (by decide +kernel)), ?_, (apart_of (by decide +kernel))⟩ <;> decide +kernel

/-- The image that a FOSTER takes the place of, and the table that names region 6 in it. -/
def fosterImg : List Byte := img 800 4 4 1
def fosterTab : List Byte := sheafTable 2 [memberEntry 1 1 4 1, memberEntry 6 6 4, memberEntry 3 3 4 2]
/-- A FOSTER of member 1 of sheaf 9 by region 6, with member states. -/
def fosterOp (states : Nat) : Op :=
  mkOp 5 (dsc 0x32 2 [(16, 1, 6), (17, 1, 1), (24, 8, adr 300), (32, 8, adr 301), (40, 9, states)])
/-- Region 6 is a foster region, and both lie in memory. -/
def fosterReady : State :=
  { putm (putm live (adr 300) fosterImg) (adr 301) fosterTab with
    regions := [(6, reg 800 8 .foster)], tables := { live.tables with rows := [(6, ⟨0, 1, rowBlock, zeros 128, 0, 0⟩)] } }

/-- A FOSTER at its start, after the read of its image, and after that of its table. -/
def fosterAt (states : Nat) : State := withOp fosterReady (fosterOp states)
def fosterImgRead (states : Nat) : State := afterRead (fosterAt states) (adr 300) 64 1

theorem witness_FosterTakesTheIndex_1 : ∃ (si : State) (s1 : State) (s : State) (op : Nat) (ext : Ext) (o : Op) (v : List Byte) (w : List
    Byte) (img : Region) (r : Region) (t : SheafTab), si.work op 0x32 = some o ∧ statesReserved (o.arg 40 9) = false ∧ si.readAt ext (o.arg
    24 8) 64 1 = (.data v, s1) ∧ s1.readTable ext (o.arg 32 8) = (.data w, s) ∧ parseImage v = some img ∧ parseSheaf w s.now = some t ∧
    s.fosterStatus o (some img) (some t) = 0 ∧ s.regions.get (o.arg 16 1) = some r := by
  refine ⟨fosterAt 0x19, fosterImgRead 0x19, afterTable (fosterImgRead 0x19), 5, [], fosterOp 0x19, fosterImg, fosterTab, (parseImage
    fosterImg).getD (reg 0 0), reg 800 8 .foster, (parseSheaf fosterTab live.now).getD ⟨0, sheaf9⟩, ?_, ?_, ?_, ?_, ?_, ?_, ?_, ?_⟩ <;>
    decide +kernel

theorem witness_FosterTakesTheIndex_2 : ∃ (si : State) (s1 : State) (s : State) (op : Nat) (ext : Ext) (o : Op) (v : List Byte) (w : List
    Byte), si.work op 0x32 = some o ∧ statesReserved (o.arg 40 9) = false ∧ si.readAt ext (o.arg 24 8) 64 1 = (.data v, s1) ∧ s1.readTable
    ext (o.arg 32 8) = (.data w, s) ∧ s.fosterStatus o (parseImage v) (parseSheaf w s.now) ≠ 0 := by
  refine ⟨fosterAt 0x15, fosterImgRead 0x15, afterTable (fosterImgRead 0x15), 5, [], fosterOp 0x15, fosterImg, fosterTab, ?_, ?_, ?_, ?_, ?_⟩
    <;> decide +kernel

theorem witness_FosterTakesTheIndex_3 : ∃ (s : State) (op : Nat) (o : Op), s.work op 0x32 = some o ∧ statesReserved (o.arg 40 9) = true :=
  ⟨fosterAt 0x1D, 5, fosterOp 0x1D, by decide +kernel, by decide +kernel⟩

/-- The image of the region that a MIGRATE copies, and what it keeps of it. -/
def migImg : List Byte := img 800 4 100 1
def migrated0 : Migrated := Migrated.mk 9 0 (2 ^ 22) migImg 0#64 false
/-- A MIGRATE of member 0 of sheaf 9 into the image, under region `r`. -/
def migrateOp (st : Stage := .fresh) (c : Nat := 0) (r : Nat := 6) : Op :=
  mkOp 5 (dsc 0x33 0 [(16, 1, r), (17, 1, 0), (18, 3, 9), (24, 4, 2 ^ 22), (30, 2, 1), (32, 8, adr 300)]) st c
/-- Region 6, with the copy under way or not. -/
def migRegion (m : Option Migrated) : Region := { reg 800 8 .foster with migrated := m }
def migS (m : Option Migrated) : State := { putm fam (adr 300) migImg with regions := fam.regions ++ [(6, migRegion m)] }
/-- The read of its tile 0. -/
def mig0 (s : State) : MemRd × State := s.migRead [] 5 7 9 0 (2 ^ 22) 2 0

theorem witness_MigrateAndRegroup_1 : ∃ (si : State) (s : State) (op : Nat) (ext : Ext) (o : Op) (v : List Byte), si.work op 0x33 = some o ∧
    o.stage = .fresh ∧ si.readAt ext (o.arg 32 8) 64 1 = (.data v, s) ∧ s.op? op = some o ∧ s.migrateStatus o (parseImage v) = 0 := by
  refine ⟨withOp (migS none) migrateOp, afterRead (withOp (migS none) migrateOp) (adr 300) 64 1, 5, [], migrateOp, migImg, ?_, ?_, ?_, ?_, ?_⟩
    <;> decide +kernel

theorem witness_MigrateAndRegroup_2 : ∃ (si : State) (s : State) (op : Nat) (ext : Ext) (o : Op) (v : List Byte), si.work op 0x33 = some o ∧
    o.stage = .fresh ∧ si.readAt ext (o.arg 32 8) 64 1 = (.data v, s) ∧ s.op? op = some o ∧ s.migrateStatus o (parseImage v) ≠ 0 := by
  refine ⟨withOp (migS none) (migrateOp .fresh 0 1), afterRead (withOp (migS none) (migrateOp .fresh 0 1)) (adr 300) 64 1, 5, [], migrateOp
    .fresh 0 1, migImg, ?_, ?_, ?_, ?_, ?_⟩ <;> decide +kernel

theorem witness_FosterTakesTheIndex_4 : ∃ (si : State) (s : State) (op : Nat) (ext : Ext) (o : Op) (v : List Byte), si.work op 0x33 = some o
    ∧ o.stage = .fresh ∧ si.readAt ext (o.arg 32 8) 64 1 = (.data v, s) ∧ s.migrateStatus o (parseImage v) = 0 ∧ s.op? op = some o := by
  refine ⟨withOp (migS none) migrateOp, afterRead (withOp (migS none) migrateOp) (adr 300) 64 1, 5, [], migrateOp, migImg, ?_, ?_, ?_, ?_, ?_⟩
    <;> decide +kernel

theorem witness_MigrateAndRegroup_3 : ∃ (s : State) (s1 : State) (op : Nat) (n : Nat) (ext : Ext) (o : Op) (r : Region) (img : Region) (m :
    Migrated) (v : List Byte), s.work op 0x33 = some o ∧ o.stage = .walking ∧ o.st = .running ∧ s.regions.get (o.arg 16 1) = some r ∧
    r.migrated = some m ∧ parseImage m.image = some img ∧ o.n nkPass = 0 ∧ o.cursor < img.tileCount ∧ img.guard = 0 ∧ s.migRead ext op
    o.jobTag m.sheaf m.member m.source 2 o.cursor = (.data v n, s1) ∧ s1.regions.has (o.arg 16 1) = true ∧ s1.op? op = some o := by
  refine ⟨withOp (migS (some migrated0)) (migrateOp .walking), (mig0 (withOp (migS (some migrated0)) (migrateOp .walking))).2, 5, (dataOf
    (mig0 (withOp (migS (some migrated0)) (migrateOp .walking))).1).2, [], migrateOp .walking, migRegion (some migrated0), (parseImage
    migImg).getD (reg 0 0), migrated0, (dataOf (mig0 (withOp (migS (some migrated0)) (migrateOp .walking))).1).1, ?_, ?_, ?_, ?_, ?_, ?_,
    ?_, ?_, ?_, (pair_data (by decide +kernel)), ?_, ?_⟩ <;> decide +kernel

theorem witness_MigrateAndRegroup_4 : ∃ (s : State) (op : Nat) (o : Op) (r : Region) (img : Region) (m : Migrated), s.work op 0x33 = some o
    ∧ o.stage = .walking ∧ s.regions.get (o.arg 16 1) = some r ∧ r.migrated = some m ∧ parseImage m.image = some img ∧ o.n nkPass = 0 ∧
    img.tileCount ≤ o.cursor ∧ img.granules ≤ (if o.arg 30 2 = 0 then 64 else o.arg 30 2) := by
  refine ⟨withOp (migS (some migrated0)) (migrateOp .walking 4), 5, migrateOp .walking 4, migRegion (some migrated0), (parseImage migImg).getD
    (reg 0 0), migrated0, ?_, ?_, ?_, ?_, ?_, ?_, ?_, ?_⟩ <;> decide +kernel

/-- The table of a REGROUP of sheaf 9, whose member 1 moves to another engine. -/
def regroupTab : List Byte := sheafTable 2 [memberEntry 1 1 4, memberEntry 2 2 4 1, memberEntry 4 4 4]
/-- The REGROUP with that one table. -/
def regroupOp (st : Stage := .fresh) (ep : Nat := 2) : Op :=
  if st = .fresh then mkOp 5 (dsc 0x06 ep [(16, 8, adr 301), (24, 2, 1)])
  else mkOp 5 (dsc 0x06 ep [(16, 8, adr 301), (24, 2, 1)]) st 1 [(nkTables, leNat regroupTab)]
/-- The table in memory. -/
def regroupS : State := putm fam (adr 301) regroupTab

/-- It has begun its second pass, whose tiles are copied. -/
def laterPass : Op := { migrateOp .walking with note := [(nkPass, 1), (nkBegan, 1)] }
/-- The tables that a REGROUP reads. -/
def regroupRead (ep : Nat) : (List (List Byte) ⊕ Nat) × State := (withOp regroupS (regroupOp .fresh ep)).readTables [] 1 (adr 301)

theorem witness_FosterTakesTheIndex_5 : ∃ (s : State) (op : Nat) (o : Op) (r : Region) (img : Region) (m : Migrated), s.work op 0x33 = some
    o ∧ o.stage = .walking ∧ s.regions.get (o.arg 16 1) = some r ∧ r.migrated = some m ∧ parseImage m.image = some img ∧ o.n nkPass ≠ 0 ∧
    o.n nkLen ≤ o.n nkPos ∧ o.n nkBegan ≤ (if o.arg 30 2 = 0 then 64 else o.arg 30 2) := by
  refine ⟨withOp (migS (some migrated0)) laterPass, 5, laterPass, migRegion (some migrated0), (parseImage migImg).getD (reg 0 0), migrated0,
    ?_, ?_, ?_, ?_, ?_, ?_, ?_, ?_⟩ <;> decide +kernel

theorem witness_FosterTakesTheIndex_6 : ∃ (s : State) (op : Nat) (o : Op), s.work op 0x06 = some o ∧ o.stage = .walking ∧ o.arg 24 2 ≤
    o.cursor :=
  ⟨withOp regroupS (regroupOp .walking), 5, regroupOp .walking, by decide +kernel, by decide +kernel, by decide +kernel⟩

/-- A REGROUP whose one table names no region of this engine. -/
def strangersOp : Op :=
  { regroupOp .prepared with note := [(nkTables, leNat (sheafTable 2 [memberEntry 1 1 4 1, memberEntry 2 2 4 2, memberEntry 4 4 4 3]))] }

theorem witness_FosterTakesTheIndex_7 : ∃ (s : State) (op : Nat) (o : Op), s.work op 0x06 = some o ∧ o.stage = .prepared ∧ (∀ t ∈ o.tables,
    s.concerns t = false) :=
  ⟨withOp live strangersOp, 5, strangersOp, by decide +kernel, by decide +kernel, by decide +kernel⟩

theorem witness_MigrateAndRegroup_5 : ∃ (si : State) (s : State) (op : Nat) (ext : Ext) (o : Op) (vs : List (List Byte)), si.work op 0x06 =
    some o ∧ o.stage = .fresh ∧ 1 ≤ o.arg 24 2 ∧ o.arg 24 2 ≤ 256 ∧ si.readTables ext (o.arg 24 2) (o.arg 16 8) = (.inl vs, s) ∧ s.op? op =
    some o ∧ s.regroupStatus o vs = 0 := by
  refine ⟨withOp regroupS regroupOp, (regroupRead 2).2, 5, [], regroupOp, left [] (regroupRead 2).1, ?_, ?_, ?_, ?_,
    (pair_left [] (by decide +kernel)), ?_, ?_⟩ <;> decide +kernel

theorem witness_MigrateAndRegroup_6 : ∃ (si : State) (s : State) (op : Nat) (ext : Ext) (o : Op) (vs : List (List Byte)), si.work op 0x06 =
    some o ∧ o.stage = .fresh ∧ 1 ≤ o.arg 24 2 ∧ o.arg 24 2 ≤ 256 ∧ si.readTables ext (o.arg 24 2) (o.arg 16 8) = (.inl vs, s) ∧ s.op? op =
    some o ∧ s.regroupStatus o vs ≠ 0 := by
  refine ⟨withOp regroupS (regroupOp .fresh 3), (regroupRead 3).2, 5, [], regroupOp .fresh 3, left [] (regroupRead 3).1, ?_, ?_, ?_, ?_,
    (pair_left [] (by decide +kernel)), ?_, ?_⟩ <;> decide +kernel

theorem witness_MigrateAndRegroup_7 : ∃ (s : State) (op : Nat) (o : Op), s.work op 0x06 = some o ∧ o.stage = .fresh ∧ (o.arg 24 2 = 0 ∨ 256
    < o.arg 24 2) :=
  ⟨withOp live (mkOp 5 (dsc 0x06 2 [(16, 8, adr 301), (24, 2, 257)])), 5, mkOp 5 (dsc 0x06 2 [(16, 8, adr 301), (24, 2, 257)]),
    by decide +kernel, by decide +kernel, .inr (by decide +kernel)⟩

theorem witness_MigrateAndRegroup_8 : ∃ (s : State) (op : Nat) (o : Op), s.work op 0x06 = some o ∧ o.stage = .walking ∧ o.arg 24 2 ≤
    o.cursor :=
  ⟨withOp regroupS (regroupOp .walking), 5, regroupOp .walking, by decide +kernel, by decide +kernel, by decide +kernel⟩

theorem witness_MigrateAndRegroup_9 : ∃ (s : State) (op : Nat) (o : Op), s.work op 0x06 = some o ∧ o.stage = .prepared :=
  ⟨withOp regroupS (regroupOp .prepared), 5, regroupOp .prepared, by decide +kernel, by decide +kernel⟩

/-! ## Page guard -/

/-- A read gives what guard decode gives. -/
theorem readGuard_of {s : State} {ext : Ext} {r : Region} {t off : Nat} {z line : List Byte} {fl : List Nat}
    (hp : r.strengthAt t ≠ 0) (hr : s.tileRaw ext (r.tileBase + t) = (z, fl)) (ho : r.lineOff t = some off)
    (hl : s.fetch ext (s.stackAddr off) (2 * guardSymbols (r.strengthAt t)) = .data line)
    (hz : (guardDecode (r.strengthAt t) z line fl).isSome = true) :
    (s.readGuard ext r t).ok = true ∧ (s.readGuard ext r t).lineBad = false := by
  unfold State.readGuard
  rw [hr, if_neg hp, ho]
  dsimp only
  rw [hl]
  dsimp only
  cases e : guardDecode (r.strengthAt t) z line fl with
  | none => rw [e] at hz; cases hz
  | some o => exact ⟨rfl, rfl⟩
/-- Zeros joined. -/
theorem zeros_append (m n : Nat) : zeros m ++ zeros n = zeros (m + n) := by simp [zeros]
/-- Empty memory reads as zeros. -/
theorem memRead_nil (a n : Nat) : memRead [] a n = zeros n := by
  apply List.ext_getElem <;> simp [memRead, zeros, byteAt, Tab.get]
/-- A tile of empty memory, with answers that only flag sectors. -/
theorem tileRaw_nil {s : State} {ext : Ext} (tile : Nat) (hm : s.mem = []) (he : ∀ a v, extFind ext a ≠ some (.data v)) :
    s.tileRaw ext tile = (zeros 4096, (List.range 64).filter (fun i => extFind ext (s.tileAddr tile + 64 * i) == some .error)) := by
  have h1 : ∀ (l : List Nat), l.flatMap (fun i => match extFind ext (s.tileAddr tile + 64 * i) with
      | some (.data v) => fit 64 v
      | _ => memRead s.mem (s.tileAddr tile + 64 * i) 64) = zeros (64 * l.length) := by
    intro l
    induction l with
    | nil => rfl
    | cons i l ih =>
      rw [List.flatMap_cons, ih, hm, memRead_nil, List.length_cons]
      have e : (match extFind ext (s.tileAddr tile + 64 * i) with
        | some (.data v) => fit 64 v
        | _ => zeros 64) = zeros 64 := by
        cases h : extFind ext (s.tileAddr tile + 64 * i) with
        | none => rfl
        | some x => cases x with
          | error => rfl
          | data v => exact absurd h (he _ v)
      rw [e, zeros_append]; congr 1; omega
  have h := h1 (List.range 64)
  rw [List.length_range] at h
  exact Prod.ext h rfl
/-- Guard decode of a tile of zeros at strength 1. -/
theorem decode_zeros (fl : List Nat) (hf : fl = [] ∨ guardSymbols 1 <
      (fl.flatMap (fun sct => (List.range 32).map (fun i => guardSymbols 1 + 32 * sct + i))).length) :
    (guardDecode 1 (zeros 4096) (zeros 8) fl).isSome = true := by
  have h := guardDecode_zeros 1 (by decide) fl hf
  cases e : guardDecode 1 (zeros 4096) (zeros 8) fl with
  | none => rw [show zeros (2 * guardSymbols 1) = zeros 8 from rfl, e] at h; cases h
  | some o => rfl
/-- A guarded region with its lines from tile 900. -/
def guarded : Region := { reg 100 4 with guard := 1, guardMax := 3, adapt := true, guardBlock := some 900, guardLine := 256 }
/-- It is region 1. -/
def guardS (r : Region := guarded) : State := { live with regions := [(1, r)] }
/-- A SCRUB of three tiles from tile 1. -/
def scrubOp (st : Stage := .fresh) (c : Nat := 0) (cnt : Nat := 3) (fl : Nat := 0) : Op :=
  mkOp 5 (dsc 0x60 0 [(1, 1, fl), (16, 1, 1), (17, 1, 1), (20, 4, 1), (24, 4, cnt)]) st c

theorem witness_ScrubCorrectsTiles_1 : ∃ (s : State) (op : Nat) (o : Op) (r : Region), s.work op 0x60 = some o ∧ o.stage = .fresh ∧
    s.regions.get (o.arg 16 1) = some r ∧ countOk (o.arg 24 4) = true ∧ r.guard ≠ 0 ∧ o.arg 20 4 + o.arg 24 4 ≤ r.tileCount := by
  refine ⟨withOp guardS scrubOp, 5, scrubOp, guarded, ?_, ?_, ?_, ?_, ?_, ?_⟩ <;> decide +kernel

theorem witness_ScrubCorrectsTiles_2 : ∃ (s : State) (op : Nat) (o : Op) (r : Region), s.work op 0x60 = some o ∧ o.stage = .fresh ∧
    s.regions.get (o.arg 16 1) = some r ∧ countOk (o.arg 24 4) = true ∧ (r.guard = 0 ∨ r.tileCount < o.arg 20 4 + o.arg 24 4) :=
  ⟨withOp guardS (scrubOp .fresh 0 4), 5, scrubOp .fresh 0 4, guarded, by decide +kernel, by decide +kernel, by decide +kernel,
    by decide +kernel, .inr (by decide +kernel)⟩

/-- The guarded read of tile 1 in the scrub's state. -/
theorem guarded_ok :
    ((withOp guardS (scrubOp .walking 1)).readGuard [] guarded (scrubOp .walking 1).cursor).ok = true ∧
    ((withOp guardS (scrubOp .walking 1)).readGuard [] guarded (scrubOp .walking 1).cursor).lineBad = false :=
  readGuard_of (s := withOp guardS (scrubOp .walking 1)) (ext := []) (r := guarded) (t := (scrubOp .walking 1).cursor) (off := 900 * 4096 + 256)
    (line := zeros 8) (by decide +kernel) (tileRaw_nil _ rfl (fun _ _ h => nomatch h)) rfl (by decide +kernel)
    (decode_zeros _ (.inl (by decide +kernel)))
/-- The line of tile 1 of the guarded region lies above its tiles. -/
theorem guarded_apart : guarded.lineApart 1 := apart_of (by decide +kernel)

theorem witness_ScrubCorrectsTiles_3 : ∃ (s : State) (op : Nat) (ext : Ext) (o : Op) (r : Region) (x : TileRd), s.work op 0x60 = some o ∧
    o.stage = .walking ∧ o.st = .running ∧ o.cursor + 1 < o.arg 20 4 + o.arg 24 4 ∧ s.regions.get (o.arg 16 1) = some r ∧ (r.state =
    .fostering → r.built.has o.cursor = true) ∧ s.readGuard ext r o.cursor = x ∧ x.ok = true ∧ x.lineBad = false ∧ s.cbwHolds (o.arg 16 1)
    o.cursor = false ∧ r.strengthAt o.cursor ≠ 0 ∧ r.lineApart o.cursor := by
  refine ⟨withOp guardS (scrubOp .walking 1), 5, [], scrubOp .walking 1, guarded, (withOp guardS (scrubOp .walking 1)).readGuard [] guarded
    (scrubOp .walking 1).cursor, ?_, ?_, ?_, ?_, ?_, ?_, (rfl), (guarded_ok.1), (guarded_ok.2), ?_, ?_, (guarded_apart)⟩ <;> decide +kernel

/-- The scrub past its last tile, with its summary written or not. -/
def scrubbed (issued fl : Nat) : Op := { scrubOp .walking 4 3 fl with note := [(nkIssued, issued)] }

theorem witness_ScrubCorrectsTiles_4 : ∃ (s : State) (op : Nat) (o : Op), s.work op 0x60 = some o ∧ o.stage = .walking ∧ o.arg 20 4 + o.arg
    24 4 ≤ o.cursor ∧ o.n nkIssued = o.cursor + 1 ∧ s.engineHeld op = false ∧ o.n nkErrors = 0 ∧ o.fAuto = false := by
  refine ⟨withOp guardS (scrubbed 5 0), 5, scrubbed 5 0, ?_, ?_, ?_, ?_, ?_, ?_, ?_⟩ <;> decide +kernel

theorem witness_ScrubCorrectsTiles_5 : ∃ (s : State) (op : Nat) (o : Op), s.work op 0x60 = some o ∧ o.stage = .walking ∧ o.arg 20 4 + o.arg
    24 4 ≤ o.cursor ∧ o.n nkIssued = o.cursor + 1 ∧ s.engineHeld op = false ∧ o.n nkErrors = 0 ∧ o.fAuto = true ∧ o.st = .running := by
  refine ⟨withOp guardS (scrubbed 5 4), 5, scrubbed 5 4, ?_, ?_, ?_, ?_, ?_, ?_, ?_, ?_⟩ <;> decide +kernel

/-- One with a SUMMARY at tile 700. -/
def summaryOp : Op := mkOp 5 (dsc 0x60 0 [(16, 1, 1), (17, 1, 1), (20, 4, 1), (24, 4, 3), (28, 8, adr 700)]) .walking 4

theorem witness_ScrubCorrectsTiles_6 : ∃ (s : State) (op : Nat) (ext : Ext) (o : Op) (r : Region), s.work op 0x60 = some o ∧ o.stage =
    .walking ∧ o.arg 20 4 + o.arg 24 4 ≤ o.cursor ∧ o.n nkIssued ≠ o.cursor + 1 ∧ s.regions.get (o.arg 16 1) = some r ∧ o.arg 28 8 ≠ 0 ∧
    writeStatus ext (o.arg 28 8) = stOk := by
  refine ⟨withOp guardS summaryOp, 5, [], summaryOp, guarded, ?_, ?_, ?_, ?_, ?_, ?_, ?_⟩ <;> decide +kernel

/-- A GUARD_SET of region 1, and the region while it walks. -/
def guardOp (g : Nat) (st : Stage := .fresh) (c : Nat := 0) : Op := mkOp 5 (dsc 0x61 0 [(16, 1, 1), (17, 1, g)]) st c
def walked : Region := { guarded with guard := 0, reguard := some ⟨1, 0⟩ }
/-- A window of one hour from the start, in which a raise is due. -/
def windowS (r : Region) (on : Nat := 1) : State := withRegs (guardS r) [(0x11C, BitVec.ofNat 32 on)]
def due : Region := { guarded with winTiles := 4, winLoad := 64 }

theorem witness_GuardStrengthChanges_1 : ∃ (s : State) (op : Nat) (o : Op) (r : Region), s.work op 0x61 = some o ∧ o.stage = .fresh ∧
    s.regions.get (o.arg 16 1) = some r ∧ r.role ≠ .rick ∧ bits (o.arg 17 1) 0 3 ≤ r.guardMax ∧ r.reguard = none := by
  refine ⟨withOp guardS (guardOp 3), 5, guardOp 3, guarded, ?_, ?_, ?_, ?_, ?_, ?_⟩ <;> decide +kernel

theorem witness_GuardStrengthChanges_2 : ∃ (s : State) (op : Nat) (o : Op) (r : Region), s.work op 0x61 = some o ∧ o.stage = .fresh ∧
    s.regions.get (o.arg 16 1) = some r ∧ (r.role = .rick ∨ r.guardMax < bits (o.arg 17 1) 0 3 ∨ r.reguard ≠ none) :=
  ⟨withOp guardS (guardOp 4), 5, guardOp 4, guarded, by decide +kernel, by decide +kernel, by decide +kernel, .inr (.inl (by decide +kernel))⟩

theorem witness_GuardStrengthChanges_3 : ∃ (s : State) (s1 : State) (op : Nat) (off : Nat) (ext : Ext) (o : Op) (r : Region) (w : Reguard)
    (v : List Byte), s.work op 0x61 = some o ∧ o.stage = .walking ∧ o.st = .running ∧ s.regions.get (o.arg 16 1) = some r ∧ r.reguard = some
    w ∧ w.guard ≠ 0 ∧ o.cursor + 1 < r.tileCount ∧ s.filling (o.arg 16 1) = false ∧ r.state ≠ .fostering ∧ r.lineOff o.cursor = some off ∧
    s.readTile ext (o.arg 16 1) r o.cursor = (some v, s1) := by
  refine ⟨withOp (guardS walked) (guardOp 1 .walking), ((withOp (guardS walked) (guardOp 1 .walking)).readTile [] 1 walked 0).2, 5, 900 *
    4096, [], guardOp 1 .walking, walked, ⟨1, 0⟩, ((withOp (guardS walked) (guardOp 1 .walking)).readTile [] 1 walked 0).1.getD [], ?_, ?_,
    ?_, ?_, ?_, ?_, ?_, ?_, ?_, ?_, (pair_some [] (by decide +kernel))⟩ <;> decide +kernel

theorem witness_GuardStrengthChanges_4 : ∃ (s : State) (op : Nat) (o : Op) (r : Region) (w : Reguard), s.work op 0x61 = some o ∧ o.stage =
    .walking ∧ s.regions.get (o.arg 16 1) = some r ∧ r.reguard = some w ∧ r.tileCount ≤ o.cursor := by
  refine ⟨withOp (guardS walked) (guardOp 1 .walking 4), 5, guardOp 1 .walking 4, walked, ⟨1, 0⟩, ?_, ?_, ?_, ?_, ?_⟩ <;> decide +kernel

theorem witness_GuardStrengthChanges_5 : ∃ (s : State) (j : Nat) (r : Region), s.regions.get j = some r ∧ s.past r.winStart (bits (s.regN
    0x011C) 1 8 * 360000000000) = true ∧ r.reguard = none ∧ s.filling j = false ∧ r.adapt = true ∧ r.role ≠ .rick ∧ bitAt (s.regN 0x011C) 0
    = true ∧ s.raiseDue r = true ∧ r.guard < r.guardMax ∧ s.auditFull = false := by
  refine ⟨windowS due, 1, due, ?_, ?_, ?_, ?_, ?_, ?_, ?_, ?_, ?_, ?_⟩ <;> decide +kernel

theorem witness_GuardStrengthChanges_6 : ∃ (s : State) (j : Nat) (r : Region), s.regions.get j = some r ∧ s.past r.winStart (bits (s.regN
    0x011C) 1 8 * 360000000000) = true ∧ r.reguard = none ∧ s.filling j = false ∧ r.adapt = true ∧ r.role ≠ .rick ∧ bitAt (s.regN 0x011C) 0
    = true ∧ s.raiseDue r = true ∧ r.guard < r.guardMax ∧ s.auditFull = true := by
  refine ⟨full (windowS due), 1, due, ?_, ?_, ?_, ?_, ?_, ?_, ?_, ?_, ?_, ?_⟩ <;> decide +kernel

theorem witness_GuardStrengthChanges_7 : ∃ (s : State) (j : Nat) (r : Region), s.regions.get j = some r ∧ s.past r.winStart (bits (s.regN
    0x011C) 1 8 * 360000000000) = true ∧ r.reguard = none ∧ s.filling j = false ∧ r.adapt = true ∧ r.role ≠ .rick ∧ bitAt (s.regN 0x011C) 0
    = true ∧ s.raiseDue r = true ∧ r.guardMax ≤ r.guard := by
  refine ⟨windowS { due with guard := 3 }, 1, { due with guard := 3 }, ?_, ?_, ?_, ?_, ?_, ?_, ?_, ?_, ?_⟩ <;> decide +kernel

theorem witness_GuardStrengthChanges_8 : ∃ (s : State) (j : Nat) (r : Region), s.regions.get j = some r ∧ s.past r.winStart (bits (s.regN
    0x011C) 1 8 * 360000000000) = true ∧ r.reguard = none ∧ s.filling j = false ∧ (r.adapt = false ∨ r.role = .rick ∨ bitAt (s.regN 0x011C)
    0 = false ∨ s.raiseDue r = false) :=
  ⟨windowS due 0, 1, due, by decide +kernel, by decide +kernel, by decide +kernel, by decide +kernel, .inr (.inr (.inl (by decide +kernel)))⟩

/-- The answers of a read whose sector 0 is flagged, and of one whose guard line is flagged too. -/
def flag0 (s : State) : Ext := ((List.range 64).filter (fun i => (1#64).getLsbD i)).map (fun i => (s.tileAddr 101 + 64 * i, Resp.error))
def lineErr : Ext := [(adr 900 + 256, .error)]
/-- They hold no data. -/
theorem flag0_error (a : Nat) (v : List Byte) : extFind (flag0 guardS ++ []) a ≠ some (.data v) := by
  intro h
  have e : flag0 guardS ++ [] = [(guardS.tileAddr 101 + 64 * 0, Resp.error)] := by decide +kernel
  rw [e] at h
  simp only [extFind] at h
  split at h <;> simp_all
/-- A read that guard decode gives is a read. -/
theorem readTile_of {s : State} {ext : Ext} {j : Nat} {r : Region} {t : Nat} (h : (s.readGuard ext r t).ok = true) :
    (s.readTile ext j r t).1.isSome = true := by
  simp only [State.readTile, State.readPlain, h, if_true, Option.isSome_some]
/-- A read of tile 101 whose sector 0 is flagged is given by the guard. -/
theorem flagged_read : (guardS.seen.readTile (flag0 guardS ++ []) 1 guarded (101 - guarded.tileBase)).1.isSome = true :=
  readTile_of (readGuard_of (s := guardS.seen) (ext := flag0 guardS ++ []) (r := guarded) (t := 101 - guarded.tileBase) (off := 900 * 4096 + 256)
    (line := zeros 8) (by decide +kernel) (tileRaw_nil _ rfl flag0_error) rfl (by decide +kernel) (decode_zeros _ (.inr (by decide +kernel)))).1

theorem witness_FlaggedReadsAnswerCorrected_1 : ∃ (s : State) (tile : Nat) (j : Nat) (mask : BitVec 64) (ext : Ext) (r : Region) (v : _) (s1
    : _), tile < stackTiles ∧ s.regionAt tile = some (j, r) ∧ r.strengthAt (tile - r.tileBase) ≠ 0 ∧ s.seen.readTile (((List.range
    64).filter (fun i => mask.getLsbD i)).map (fun i => (s.tileAddr tile + 64 * i, Resp.error)) ++ ext) j r (tile - r.tileBase) = (some v,
    s1) :=
  ⟨guardS, 101, 1, 1#64, [], guarded, (guardS.seen.readTile (flag0 guardS ++ []) 1 guarded (101 - guarded.tileBase)).1.getD [],
    (guardS.seen.readTile (flag0 guardS ++ []) 1 guarded (101 - guarded.tileBase)).2, by decide +kernel, by decide +kernel,
    by decide +kernel, pair_some [] flagged_read⟩

theorem witness_FlaggedReadsAnswerCorrected_2 : ∃ (s : State) (tile : Nat) (j : Nat) (mask : BitVec 64) (ext : Ext) (r : Region) (s1 : _),
    tile < stackTiles ∧ s.regionAt tile = some (j, r) ∧ r.strengthAt (tile - r.tileBase) ≠ 0 ∧ s.seen.readTile (((List.range 64).filter (fun
    i => mask.getLsbD i)).map (fun i => (s.tileAddr tile + 64 * i, Resp.error)) ++ ext) j r (tile - r.tileBase) = (none, s1) :=
  ⟨guardS, 101, 1, 1#64, lineErr, guarded, (guardS.seen.readTile (flag0 guardS ++ lineErr) 1 guarded (101 - guarded.tileBase)).2,
    by decide +kernel, by decide +kernel, by decide +kernel, pair_none (by decide +kernel)⟩

theorem witness_FlaggedReadsAnswerCorrected_3 : ∃ (tile : Nat), stackTiles ≤ tile :=
  ⟨stackTiles, by decide +kernel⟩

/-! ## Snapshots -/

/-- A region that snapshots cover. -/
def snapped1 : Region := { reg 100 4 with snap := true, digest := 5#64 }
/-- The rick of 64 tiles, and two regions of set 0 that snapshots cover, whose step 3 is confirmed. -/
def rickS : State :=
  { putm live (adr 101) [7#8, 9#8] with
    regions := [(0, reg 10000 64 .rick), (1, snapped1), (2, { reg 200 2 with snap := true })]
    sets := [(0, { SetTab.new 0 with c := 3, h := 3, n := some 4 })] }
/-- A SNAP_CUT of step 3. -/
def cutOp (scope : Nat := 1) (fl : Nat := 0) (mask : Nat := 1) (st : Stage := .fresh) (c : Nat := 0) : Op :=
  mkOp 5 (dsc 0x40 3 [(1, 1, fl), (16, 8, mask), (24, 1, scope), (25, 1, 0xFF)]) st c
/-- The cut of the two regions, under way. -/
def theCut (frozen : Option Nat) (scope : Nat := 1) : Cut :=
  { op := 5, slot := 0, step := 3, scope := scope, mask := 1, regions := [1, 2], frozen := frozen, seq := 1, next := 0, held := 0 }
def cutting (o : Op) (c : Cut) (k : Tab Copy := []) : State :=
  { withOp rickS o with snap := { rickS.snap with cut := some c, copies := k } }

theorem witness_SnapCutAndFreeze_1 : ∃ (s : State) (op : Nat) (o : Op) (x : _), s.work op 0x40 = some o ∧ o.stage = .fresh ∧ o.cutMalformed
    = false ∧ (o.fAuto = true → s.snap.interval ≤ s.elapsed ∧ s.auditFull = false) ∧ s.cutConflict o = false ∧ s.pickSlot (o.arg 25 1) =
    some x := by
  refine ⟨withOp rickS cutOp, 5, cutOp, 0, ?_, ?_, ?_, ?_, ?_, ?_⟩ <;> decide +kernel

theorem witness_SnapCutAndFreeze_2 : ∃ (s : State) (op : Nat) (o : Op), s.work op 0x40 = some o ∧ o.stage = .fresh ∧ o.cutMalformed = true
    :=
  ⟨withOp rickS (cutOp 3), 5, cutOp 3, by decide +kernel, by decide +kernel, by decide +kernel⟩

theorem witness_SnapCutAndFreeze_3 : ∃ (s : State) (op : Nat) (o : Op), s.work op 0x40 = some o ∧ o.stage = .fresh ∧ o.cutMalformed = false
    ∧ o.fAuto = true ∧ s.elapsed < s.snap.interval := by
  refine ⟨({ withOp rickS (cutOp 1 4) with snap := { rickS.snap with interval := 101 } } : State), 5, cutOp 1 4, ?_, ?_, ?_, ?_, ?_⟩ <;>
    decide +kernel

theorem witness_SnapCutAndFreeze_4 : ∃ (s : State) (op : Nat) (o : Op), s.work op 0x40 = some o ∧ o.stage = .fresh ∧ o.cutMalformed = false
    ∧ o.fAuto = false ∧ s.cutConflict o = true := by
  refine ⟨withOp rickS (cutOp 1 0 4), 5, cutOp 1 0 4, ?_, ?_, ?_, ?_, ?_⟩ <;> decide +kernel

theorem witness_SnapCutAndFreeze_5 : ∃ (s : State) (op : Nat) (o : Op) (c : Cut), s.waiting op 0x40 = some o ∧ s.snap.cut = some c ∧ c.op =
    op ∧ c.frozen = none ∧ o.st = .running ∧ s.freezeReady c = true ∧ (o.fAuto = true → s.auditFull = false) ∧ s.cutSlotOk c = true ∧ (∀
    since, o.stage = .waitStill since → c.scope = 2 → s.now ≤ since + 1000000) := by
  refine ⟨cutting (cutOp 1 0 1 (.waitStill 5)) (theCut none), 5, cutOp 1 0 1 (.waitStill 5), theCut none, ?_, ?_, ?_, ?_, ?_, ?_, ?_, ?_,
    (fun _ _ h => nomatch h)⟩ <;> decide +kernel

/-- The slot of a cut is no more EMPTY. -/
def slotTaken : State :=
  let s := cutting (cutOp 1 0 1 (.waitStill 5)) (theCut none)
  { s with snap := { s.snap with slot0 := ⟨.complete, 1, 1⟩ } }

theorem witness_SnapCutAndFreeze_6 : ∃ (s : State) (op : Nat) (o : Op) (c : Cut), s.waiting op 0x40 = some o ∧ s.snap.cut = some c ∧ c.op =
    op ∧ c.frozen = none ∧ o.st = .running ∧ s.freezeReady c = true ∧ (o.fAuto = true → s.auditFull = false) ∧ s.cutSlotOk c = false ∧
    (s.snapSlot c.slot).st ≠ .draining ∧ (∀ since, o.stage = .waitStill since → c.scope = 2 → s.now ≤ since + 1000000) := by
  refine ⟨slotTaken, 5, cutOp 1 0 1 (.waitStill 5), theCut none, ?_, ?_, ?_, ?_, ?_, ?_, ?_, ?_, ?_, (fun _ _ h => nomatch h)⟩ <;>
    decide +kernel

/-- A device cut, while a write from before its start waits in the tap. -/
def unstill : State :=
  { cutting (cutOp 2 0 0 (.waitStill 5)) { theCut none 2 with held := 1 } with
    tap := { rickS.tap with nextId := 1, held := [⟨0, 0, 1, none, 1, 0, 0, [], none, 0#64, .none, none, none, false⟩] } }

theorem witness_SnapCutAndFreeze_7 : ∃ (s : State) (op : Nat) (since : Nat) (o : Op) (c : Cut), s.waiting op 0x40 = some o ∧ s.snap.cut =
    some c ∧ c.op = op ∧ c.scope = 2 ∧ c.frozen = none ∧ o.stage = .waitStill since ∧ s.past since 1000000 = true ∧ s.freezeReady c = false
    := by
  refine ⟨unstill, 5, 5, cutOp 2 0 0 (.waitStill 5), { theCut none 2 with held := 1 }, ?_, ?_, ?_, ?_, ?_, ?_, ?_, ?_⟩ <;> decide +kernel

/-- The copy of tile 0 by command 3, and of the last two tiles by command 4. -/
def copy0 : Tab Copy := [(3, ⟨5, 0, 1, true⟩)]
def copyLast : Tab Copy := [(4, ⟨5, 4, 2, false⟩)]
def copyOp (c : Nat) : Op := cutOp 1 0 1 .copying c

theorem witness_CopyCompletionsEndTheCut_1 : ∃ (s : State) (tag : Nat) (k : Copy) (c : Cut) (o : Op), s.snap.copies.get tag = some k ∧
    s.snap.cut = some c ∧ c.op = k.op ∧ s.op? k.op = some o ∧ o.st = .running ∧ o.cursor + k.count ≠ s.tilesOf c.regions := by
  refine ⟨cutting (copyOp 4) (theCut (some 5)) copy0, 3, ⟨5, 0, 1, true⟩, theCut (some 5), copyOp 4, ?_, ?_, ?_, ?_, ?_, ?_⟩ <;>
    decide +kernel

theorem witness_CopyCompletionsEndTheCut_2 : ∃ (s : State) (tag : Nat) (j : Nat) (i : Nat) (t : Nat) (k : Copy) (c : Cut) (o : Op) (r :
    Region) (q : Region), s.snap.copies.get tag = some k ∧ s.snap.cut = some c ∧ c.op = k.op ∧ s.op? k.op = some o ∧ o.st = .running ∧
    o.cursor + k.count ≠ s.tilesOf c.regions ∧ k.count = 1 ∧ s.copyPlace c.regions k.first = some (j, r, t) ∧ r.guard = 0 ∧ s.rick = some
    (i, q) := by
  refine ⟨cutting (copyOp 4) (theCut (some 5)) copy0, 3, 1, 0, 0, ⟨5, 0, 1, true⟩, theCut (some 5), copyOp 4, snapped1, reg 10000 64 .rick,
    ?_, ?_, ?_, ?_, ?_, ?_, ?_, ?_, ?_, ?_⟩ <;> decide +kernel

theorem witness_CopyCompletionsEndTheCut_3 : ∃ (s : State) (tag : Nat) (k : Copy) (c : Cut) (o : Op), s.snap.copies.get tag = some k ∧
    s.snap.cut = some c ∧ c.op = k.op ∧ s.op? k.op = some o ∧ o.st ≠ .cancelling ∧ o.cursor + k.count = s.tilesOf c.regions ∧
    (s.snap.copies.del tag).vals.all (fun x => x.op != c.op) = true := by
  refine ⟨cutting (copyOp 4) (theCut (some 5)) copyLast, 4, ⟨5, 4, 2, false⟩, theCut (some 5), copyOp 4, ?_, ?_, ?_, ?_, ?_, ?_, ?_⟩ <;>
    decide +kernel

theorem witness_CopyCompletionsEndTheCut_4 : ∃ (s : State) (tag : Nat) (status : Nat) (k : Copy) (c : Cut) (o : Op), s.snap.copies.get tag =
    some k ∧ s.snap.cut = some c ∧ c.op = k.op ∧ s.op? k.op = some o ∧ status ≠ 0 := by
  refine ⟨cutting (copyOp 4) (theCut (some 5)) copyLast, 4, 1, ⟨5, 4, 2, false⟩, theCut (some 5), copyOp 4, ?_, ?_, ?_, ?_, ?_⟩ <;>
    decide +kernel

/-- What a read gives. -/
def rdData : Rd → List Byte
  | .data v => v
  | _ => []
def isRd : Rd → Bool
  | .data _ => true
  | _ => false
theorem pair_rd {γ : Type} {x : Rd × γ} (h : isRd x.1 = true) : x = (.data (rdData x.1), x.2) := by
  rcases x with ⟨a | _ | _, c⟩ <;> simp_all [isRd, rdData]
/-- An entry of a slot directory (Table 8-3), and what a drain stores of it. -/
def snapEntry : SnapEntry := ⟨1, 1, 0, 0, 0, 4, 0, 4, adr (10000 + 3 + 1), 5⟩
def snapEntry2 : SnapEntry := ⟨2, 1, 0, 0, 0, 2, 0, 2, adr (10000 + 3 + 5), 5⟩
def storedEntry : SnapEntry := { snapEntry with addr := gaddr 1 0 0, digest := 0 }
/-- Bytes 0 to 55 of the header of a COMPLETE slot with that entry (Table 8-2). -/
def slotHead : List Byte := (sp (zeros 64) [(0, 4, 0x5759534C), (4, 1, 2), (5, 1, 1), (6, 2, 2), (8, 6, 3), (14, 2, 7), (16, 8, 1)]).take 56
/-- The slot in memory, but for its header's CRC. -/
def slotS : State :=
  { putm (putm rickS (adr 10000) slotHead) (adr 10001) (snapEntry.bytes ++ snapEntry2.bytes) with
    snap := { rickS.snap with slot0 := ⟨.complete, 1, 1⟩, seq := 1 } }
/-- A SNAP_DRAIN, SNAP_RESTORE or SNAP_DISCARD of slot 0. -/
def drainOp (st : Stage := .fresh) (c : Nat := 0) (x : Nat := 0) : Op :=
  mkOp 6 (dsc 0x41 0 [(16, 1, x), (24, 8, gaddr 1 0 0), (32, 8, adr 20000), (48, 8, 2 ^ 30)]) st c
def discardOp (x : Nat) : Op := mkOp 6 (dsc 0x43 0 [(16, 1, x)])

/-- A drain's read of its manifest pair. -/
def pairRead (x : Nat) : Rd × State := (withOp slotS (drainOp .fresh 0 x)).readAt [] (adr 20000) (2 * cellBytes) 3

theorem witness_SnapDrainDiscardInterval_1 : ∃ (si : State) (s1 : State) (s : State) (op : Nat) (ext : Ext) (o : Op) (codes : List Byte)
    (pair : List Byte), si.work op 0x41 = some o ∧ o.stage = .fresh ∧ (if o.arg 40 8 = 0 then (Rd.data (zeros 256), si) else si.readAt ext
    (o.arg 40 8) 256 3) = (.data codes, s1) ∧ s1.readAt ext (o.arg 32 8) (2 * cellBytes) 3 = (.data pair, s) ∧ s.op? op = some o ∧
    s.drainStatus o codes pair = 0 :=
  ⟨withOp slotS (drainOp .fresh 0 0), withOp slotS (drainOp .fresh 0 0), (pairRead 0).2, 6, [], drainOp .fresh 0 0, zeros 256, rdData
    (pairRead 0).1, by decide +kernel, by decide +kernel, rfl, pair_rd (by decide +kernel), rfl, by decide +kernel⟩

theorem witness_SnapDrainDiscardInterval_2 : ∃ (si : State) (s1 : State) (s : State) (op : Nat) (ext : Ext) (o : Op) (codes : List Byte)
    (pair : List Byte), si.work op 0x41 = some o ∧ o.stage = .fresh ∧ (if o.arg 40 8 = 0 then (Rd.data (zeros 256), si) else si.readAt ext
    (o.arg 40 8) 256 3) = (.data codes, s1) ∧ s1.readAt ext (o.arg 32 8) (2 * cellBytes) 3 = (.data pair, s) ∧ s.op? op = some o ∧
    s.drainStatus o codes pair ≠ 0 :=
  ⟨withOp slotS (drainOp .fresh 0 1), withOp slotS (drainOp .fresh 0 1), (pairRead 1).2, 6, [], drainOp .fresh 0 1, zeros 256, rdData
    (pairRead 1).1, by decide +kernel, by decide +kernel, rfl, pair_rd (by decide +kernel), rfl, by decide +kernel⟩

/-- A drain of two entries at its first chunk. -/
def draining : State := { withOp slotS (drainOp .walking) with snap := { slotS.snap with slot0 := ⟨.draining, 1, 1⟩ } }
def chunkRead (s : State) : Option (List (List Byte)) × State := (s.modOp 6 (fun x => x.keep nkErrors 0)).readSlotTiles [] snapEntry 4 0

theorem witness_SnapDrainDiscardInterval_3 : ∃ (s : State) (s1 : State) (op : Nat) (i : Nat) (t : Nat) (ext : Ext) (o : Op) (e : SnapEntry)
    (d : SnapEntry) (l : List (List Byte)), s.work op 0x41 = some o ∧ o.stage = .walking ∧ entryAt (withTiles (s.slotEntries (o.arg 16 1)))
    0 o.cursor = some (i, e, t) ∧ o.cursor + chunkLen e t < entryTiles (s.slotEntries (o.arg 16 1)) ∧ o.n nkIssued ≠ o.cursor + 1 ∧
    (o.narrow i = 0 ∨ s.laneReady = true) ∧ (s.modOp op (fun x => x.keep nkErrors 0)).readSlotTiles ext e (chunkLen e t) t = (some l, s1) ∧
    (o.storeEntries (s.slotEntries (o.arg 16 1)) 0 (o.arg 24 8))[i]? = some d ∧ (storedForm (o.narrow i) t l).2 ≠ [] ∧ writeStatus ext
    (d.addr + 4096 * (storedForm (o.narrow i) t l).1) = stOk := by
  refine ⟨draining, (chunkRead draining).2, 6, 0, 0, [], drainOp .walking, snapEntry, storedEntry, (chunkRead draining).1.getD [], ?_, ?_, ?_,
    ?_, ?_, (.inl (by decide +kernel)), (pair_some [] (by decide +kernel)), ?_, ?_, ?_⟩ <;> decide +kernel

theorem witness_SnapDrainDiscardInterval_4 : ∃ (s : State) (op : Nat) (a : Nat) (ext : Ext) (o : Op), s.work op 0x41 = some o ∧ o.stage =
    .walking ∧ entryTiles (s.slotEntries (o.arg 16 1)) ≤ o.cursor ∧ a = o.arg 32 8 + cellBytes * ((o.n nkSeq + 1) % 2) ∧ o.n nkIssued ≠
    o.cursor + 1 ∧ o.n nkIssued ≠ o.cursor + 2 ∧ writeStatus ext (a + 64) = stOk := by
  refine ⟨withOp slotS (drainOp .walking 8), 6, adr 20000 + cellBytes, [], drainOp .walking 8, ?_, ?_, ?_, ?_, ?_, ?_, ?_⟩ <;> decide +kernel

/-- Its manifest header is written. -/
def drained : Op := { drainOp .walking 8 with note := [(nkIssued, 10)] }

theorem witness_SnapDrainDiscardInterval_5 : ∃ (s : State) (op : Nat) (a : Nat) (o : Op), s.work op 0x41 = some o ∧ o.stage = .walking ∧
    entryTiles (s.slotEntries (o.arg 16 1)) ≤ o.cursor ∧ a = o.arg 32 8 + cellBytes * ((o.n nkSeq + 1) % 2) ∧ o.n nkIssued = o.cursor + 2 ∧
    s.engineHeld op = false ∧ o.n nkErrors = 0 := by
  refine ⟨withOp slotS drained, 6, adr 20000 + cellBytes, drained, ?_, ?_, ?_, ?_, ?_, ?_, ?_⟩ <;> decide +kernel

theorem witness_SnapDrainDiscardInterval_6 : ∃ (s : State) (op : Nat) (o : Op), s.work op 0x43 = some o ∧ (s.snapSlot (o.arg 16 1)).st =
    .empty :=
  ⟨withOp slotS (discardOp 1), 6, discardOp 1, by decide +kernel, by decide +kernel⟩

theorem witness_SnapDrainDiscardInterval_7 : ∃ (s : State) (op : Nat) (o : Op), s.work op 0x43 = some o ∧ ((s.snapSlot (o.arg 16 1)).st =
    .complete ∨ (s.snapSlot (o.arg 16 1)).st = .drained) :=
  ⟨withOp slotS (discardOp 0), 6, discardOp 0, by decide +kernel, .inl (by decide +kernel)⟩

theorem witness_SnapDrainDiscardInterval_8 : ∃ (s : State) (op : Nat) (o : Op), s.work op 0x43 = some o ∧ ((s.snapSlot (o.arg 16 1)).st =
    .filling ∨ (s.snapSlot (o.arg 16 1)).st = .draining) :=
  ⟨({ withOp slotS (discardOp 0) with snap := { slotS.snap with slot0 := ⟨.draining, 1, 1⟩ } } : State), 6, discardOp 0, by decide +kernel,
    .inr (by decide +kernel)⟩

/-! ## Restores -/

/-- What a state reads of a slot whose header carries its own CRC. -/
theorem slot_read {s u : State} {x : Nat} {h : List Byte} (hl : h.length = 56)
    (ha : s.stackAddr ((s.slotTile x).1 * 4096) + 64 ≤ s.stackAddr ((s.slotTile x).1 * 4096 + 4096))
    (h1 : u.mem = memWrite s.mem (s.stackAddr ((s.slotTile x).1 * 4096)) (h ++ s.headerCrc x h)) (h2 : u.strap = s.strap) (h3 : u.regions = s.regions) :
    u.slotTile x = s.slotTile x ∧ u.stackRead ((u.slotTile x).1 * 4096) 64 = h ++ s.headerCrc x h ∧
      u.stackRead ((u.slotTile x).1 * 4096 + 4096) 8192 = s.stackRead ((s.slotTile x).1 * 4096 + 4096) 8192 := by
  have hw : (h ++ s.headerCrc x h).length = 64 := by rw [List.length_append, hl, State.headerCrc, leBytes_length]
  have ht : u.slotTile x = s.slotTile x := by unfold State.slotTile State.rick; rw [h3]
  have hs : ∀ a, u.stackAddr a = s.stackAddr a := fun a => by unfold State.stackAddr; rw [h2]
  have hr : ∀ a n, u.stackRead a n = memRead u.mem (s.stackAddr a) n := fun a n => by unfold State.stackRead; rw [hs]
  have e := memRead_memWrite_self s.mem (s.stackAddr ((s.slotTile x).1 * 4096)) (h ++ s.headerCrc x h)
  rw [hw] at e
  refine ⟨ht, ?_, ?_⟩
  · rw [ht, hr, h1]; exact e
  · rw [ht, hr, h1]; exact memRead_memWrite_apart _ _ _ _ _ (.inr (by rw [hw]; exact ha))
/-- A slot header that carries its own CRC passes (R235). -/
theorem headerOk_of {s u : State} {x : Nat} {h : List Byte} (hl : h.length = 56) (hm : field h 0 4 = 0x5759534C)
    (ha : s.stackAddr ((s.slotTile x).1 * 4096) + 64 ≤ s.stackAddr ((s.slotTile x).1 * 4096 + 4096))
    (h1 : u.mem = memWrite s.mem (s.stackAddr ((s.slotTile x).1 * 4096)) (h ++ s.headerCrc x h)) (h2 : u.strap = s.strap) (h3 : u.regions = s.regions) :
    u.headerOk x = true := by
  obtain ⟨ht, hr, hd⟩ := slot_read hl ha h1 h2 h3
  have h8 : (s.headerCrc x h).length = 8 := leBytes_length _ _
  have f1 : field (h ++ s.headerCrc x h) 0 4 = field h 0 4 := by
    simp [field, slice, fit, List.take_append, hl, h8, zeros]
  have f2 : (h ++ s.headerCrc x h).take 56 = h := by rw [← hl, List.take_left]
  have f3 : (h ++ s.headerCrc x h).drop 56 = s.headerCrc x h := by rw [← hl, List.drop_left]
  have f4 : h.take 56 = h := by rw [← hl, List.take_length]
  have hc : u.headerCrc x (h ++ s.headerCrc x h) = s.headerCrc x h := by
    rw [State.headerCrc, hd, f2, State.headerCrc, f4]
  unfold State.headerOk
  rw [hr]
  dsimp only
  rw [f1, f3, hm, hc, beq_self_eq_true, beq_self_eq_true, Bool.and_self]
/-- The slot with its header's CRC. -/
def slotGood : State := slotS.stackWrite ((slotS.slotTile 0).1 * 4096) (slotHead ++ slotS.headerCrc 0 slotHead)
/-- What a restore reads of it. -/
def slotGoodBytes : List Byte := (slotHead ++ slotS.headerCrc 0 slotHead) ++ slotS.stackRead ((slotS.slotTile 0).1 * 4096 + 4096) 8192
/-- A SNAP_RESTORE from slot 0. -/
def restoreOp (st : Stage := .fresh) (c job : Nat := 0) (note : Tab Nat := []) : Op :=
  mkOp 6 (dsc 0x42 0 [(2, 2, 7 + job), (16, 1, 0), (17, 1, 1), (18, 2, 0), (20, 4, 0)]) st c note
theorem slotHead_length : slotHead.length = 56 := by decide +kernel
theorem slotGood_apart : slotS.stackAddr ((slotS.slotTile 0).1 * 4096) + 64 ≤ slotS.stackAddr ((slotS.slotTile 0).1 * 4096 + 4096) := by decide +kernel
theorem slotGood_ok : (withOp slotGood restoreOp).headerOk 0 = true :=
  headerOk_of slotHead_length (by decide +kernel) slotGood_apart rfl rfl rfl
theorem slotGood_bytes (o : Op) : slotGoodBytes = (withOp slotGood o).stackRead (((withOp slotGood o).slotTile 0).1 * 4096) 64 ++
    (withOp slotGood o).stackRead (((withOp slotGood o).slotTile 0).1 * 4096 + 4096) 8192 := by
  obtain ⟨_, hr, hd⟩ := slot_read (u := withOp slotGood o) slotHead_length slotGood_apart rfl rfl rfl
  rw [hr, hd, slotGoodBytes]
/-- It passes the checks of R258. -/
theorem slotGood_status : (withOp slotGood restoreOp).restoreStatus restoreOp (slotSnapshot slotGoodBytes) .error = 0 := by
  have hx : restoreOp.arg 16 1 = 0 := by decide +kernel
  unfold State.restoreStatus
  simp only [hx, slotGood_ok]
  decide +kernel
/-- An entry of more tiles than a chunk holds, of region 1, in a slot. -/
def bigEntry : SnapEntry := ⟨1, 1, 0, 0, 0, 20, 0, 20, adr (10000 + 8), 5⟩
def bigRegion : Region := { reg 100 24 with snap := true }
/-- The notes of a running restore: its source, and its one target. -/
def restoreNotes : Tab Nat := [(nkTargets, 1), (nkSource, leNat (sp slotHead [(6, 2, 1)] ++ zeros 8 ++ bigEntry.bytes))]
/-- The restore at tile c. -/
def restoring (c : Nat) : Op := restoreOp .walking c 0 restoreNotes
def restoreS (c : Nat) : State := withOp { slotS with regions := [(0, reg 10000 64 .rick), (1, bigRegion)] } (restoring c)
def chunk0 : List Nat := (List.range 16).map (· + 0)
/-- Its chunk, read. -/
def restoreRead : (List Byte ⊕ Nat) × State := (restoreS 0).readStoredTiles [] (restoring 0).snapshot bigEntry 16 0
/-- A region whose tiles of a list have no line. -/
theorem linesApart_of {r : Region} {l : List Nat} (h : l.all (fun x => (r.lineOff x).isNone) = true) : r.linesApart l := by
  intro x hx y _ off e
  have := List.all_eq_true.mp h x hx
  rw [e] at this; cases this

theorem witness_SnapRestoreWritesTiles_1 : ∃ (s : State) (op : Nat) (o : Op) (v : List Byte), s.work op 0x42 = some o ∧ o.stage = .fresh ∧
    o.arg 16 1 < 2 ∧ o.arg 24 8 = 0 ∧ v = s.stackRead ((s.slotTile (o.arg 16 1)).1 * 4096) 64 ++ s.stackRead ((s.slotTile (o.arg 16 1)).1 *
    4096 + 4096) 8192 ∧ (slotSnapshot v).scope ≠ 2 ∧ s.restoreStatus o (slotSnapshot v) .error = 0 :=
  ⟨withOp slotGood restoreOp, 6, restoreOp, slotGoodBytes, rfl, by decide +kernel, by decide +kernel, by decide +kernel, slotGood_bytes _,
    by decide +kernel, slotGood_status⟩

theorem witness_SnapRestoreWritesTiles_2 : ∃ (s : State) (op : Nat) (o : Op) (v : List Byte), s.work op 0x42 = some o ∧ o.stage = .fresh ∧
    o.arg 16 1 < 2 ∧ o.arg 24 8 = 0 ∧ v = s.stackRead ((s.slotTile (o.arg 16 1)).1 * 4096) 64 ++ s.stackRead ((s.slotTile (o.arg 16 1)).1 *
    4096 + 4096) 8192 ∧ (slotSnapshot v).scope ≠ 2 ∧ s.restoreStatus o (slotSnapshot v) .error ≠ 0 := by
  refine ⟨withOp slotGood (restoreOp .fresh 0 1), 6, restoreOp .fresh 0 1, slotGoodBytes, (rfl), ?_, ?_, ?_, (slotGood_bytes _), ?_, ?_⟩ <;>
    decide +kernel

theorem witness_SnapRestoreWritesTiles_3 : ∃ (s : State) (s1 : State) (op : Nat) (i : Nat) (t : Nat) (j : Nat) (ext : Ext) (o : Op) (e :
    SnapEntry) (r : Region) (r1 : Region) (v : List Byte) (ts : List Nat) (places : List Nat), s.work op 0x42 = some o ∧ o.stage = .walking
    ∧ o.st = .running ∧ entryAt (withTiles o.snapshot.tiled) 0 o.cursor = some (i, e, t) ∧ j = o.n (nkTargets + i) ∧ ts = (List.range
    (chunkLen e t)).map (· + t) ∧ o.cursor + chunkLen e t < entryTiles o.snapshot.tiled ∧ t + chunkLen e t < e.tiles ∧ s.regions.get j =
    some r ∧ (∀ x ∈ ts, s.cbwHolds j x = false) ∧ places = ts.filterMap e.place ∧ s.readStoredTiles ext o.snapshot e (if places.isEmpty then
    0 else places.getLastD 0 + 1 - places.headD 0) (places.headD 0) = (.inl v, s1) ∧ s1.regions.get j = some r1 ∧ r1.linesApart ts ∧ s1.op?
    op = some o := by
  refine ⟨restoreS 0, restoreRead.2, 6, 0, 0, 1, [], restoring 0, bigEntry, bigRegion, (restoreRead.2.regions.get 1).getD (reg 0 0), left []
    restoreRead.1, chunk0, (List.range 16), ?_, ?_, ?_, ?_, ?_, ?_, ?_, ?_, ?_, ?_, ?_, (pair_left [] (by decide +kernel)),
    (getD_some _ (by decide +kernel)), (linesApart_of (by decide +kernel)), ?_⟩ <;> decide +kernel

theorem witness_SnapRestoreWritesTiles_4 : ∃ (s : State) (op : Nat) (o : Op), s.work op 0x42 = some o ∧ o.stage = .walking ∧ entryTiles
    o.snapshot.tiled ≤ o.cursor ∧ o.n nkSaved = 0 :=
  ⟨restoreS 20, 6, restoring 20, by decide +kernel, by decide +kernel, by decide +kernel, by decide +kernel⟩

/-! ## The Tedder -/

/-- θ, anchor and residue of four blocks, and an output region. -/
def thetaR : Region := { reg 500 4 with format := .fp32 }
def anchorR : Region := { reg 600 4 .watch with format := .fp32, digest := 9#64 }
def tedS : State :=
  { live with regions := [(0, thetaR), (1, anchorR), (2, { reg 700 4 .tedderResidue with format := .fp32 }), (3, reg 800 8 .tedderOut .live 2)] }
/-- A TED_PACK of the four blocks in format E2M1 with a cell at tile 900, for two contributions. -/
def packOp (st : Stage := .fresh) (c : Nat := 0) (note : Tab Nat := []) (fmt : Nat := 10) (fl : Nat := 0) : Op :=
  mkOp 5 (dsc 0x50 0 [(16, 1, 0), (17, 1, 1), (18, 1, 2), (19, 1, 3), (20, 1, fmt), (21, 1, fl), (32, 4, 4), (36, 4, 2), (40, 8, adr 900)]) st c note
/-- The cell: MAX, NONFINITE and ARRIVED (Table 9-3). -/
def cell (maxl nonf arrived : Nat) : List Byte := sp (zeros 64) [(0, 8, maxl), (8, 8, nonf), (16, 8, arrived)]
/-- The pack polls the cell. -/
def polling : Op := packOp .polling 0 [(nkArrived, 1)]
def pollS (nonf arrived : Nat) : State := withOp (putm tedS (adr 900) (cell 0x3F000000 nonf arrived)) polling
def pollRead (nonf arrived : Nat) : State := afterRead (pollS nonf arrived) (adr 900) 64 1

theorem witness_TedPackGathersItsScale_1 : ∃ (s : State) (op : Nat) (o : Op), s.work op 0x50 = some o ∧ o.stage = .fresh ∧ s.packStatus o =
    0 :=
  ⟨withOp tedS packOp, 5, packOp, by decide +kernel, by decide +kernel, by decide +kernel⟩

theorem witness_TedPackGathersItsScale_2 : ∃ (s : State) (op : Nat) (o : Op), s.work op 0x50 = some o ∧ o.stage = .fresh ∧ s.packStatus o ≠
    0 :=
  ⟨withOp tedS (packOp .fresh 0 [] 5), 5, packOp .fresh 0 [] 5, by decide +kernel, by decide +kernel, by decide +kernel⟩

theorem witness_TedPackGathersItsScale_3 : ∃ (s : State) (op : Nat) (o : Op), s.work op 0x50 = some o ∧ o.stage = .walking ∧ o.n nkPassTwo ≠
    2 ∧ o.tedLast ≤ o.n nkBlock ∧ bitAt (o.arg 21 1) 4 = false ∧ s.inStack (o.arg 40 8) 64 = true ∧ s.meetsRegion (gOff (o.arg 40 8)) 64 =
    false ∧ s.tap.queue = [] ∧ s.tap.held = [] ∧ o.n nkArrived = 0 ∧ (∀ x ∈ s.port.xfers, x.op ≠ op) := by
  refine ⟨withOp tedS (packOp .walking 0 [(nkBlock, 4), (nkMaxl, 77)]), 5, packOp .walking 0 [(nkBlock, 4), (nkMaxl, 77)], ?_, ?_, ?_, ?_, ?_,
    ?_, ?_, ?_, ?_, ?_, ?_⟩ <;> decide +kernel

theorem witness_TedPackGathersItsScale_4 : ∃ (s : State) (op : Nat) (o : Op), s.work op 0x50 = some o ∧ o.stage = .walking ∧ o.n nkPassTwo ≠
    2 ∧ o.tedLast ≤ o.n nkBlock ∧ bitAt (o.arg 21 1) 4 = true := by
  refine ⟨withOp tedS (packOp .walking 0 [(nkBlock, 4), (nkMaxl, 77)] 10 16), 5, packOp .walking 0 [(nkBlock, 4), (nkMaxl, 77)] 10 16, ?_, ?_,
    ?_, ?_, ?_⟩ <;> decide +kernel

theorem witness_TedPackGathersItsScale_5 : ∃ (s : State) (s1 : State) (op : Nat) (ext : Ext) (o : Op) (v : List Byte), s.waiting op 0x50 =
    some o ∧ o.stage = .polling ∧ o.n nkErrors = 0 ∧ (o.n nkArrived ≠ 0 ∨ bitAt (o.arg 21 1) 4 = true) ∧ s.past o.hold 200 = true ∧ s.readAt
    ext (o.arg 40 8) 64 1 = (.data v, s1) ∧ s1.op? op = some o ∧ field v 16 8 = o.arg 36 4 ∧ field v 8 8 = 0 := by
  refine ⟨pollS 0 2, pollRead 0 2, 5, [], polling, cell 0x3F000000 0 2, ?_, ?_, ?_, (.inl (by decide +kernel)), ?_, ?_, ?_, ?_, ?_⟩ <;>
    decide +kernel

theorem witness_TedPackGathersItsScale_6 : ∃ (s : State) (s1 : State) (op : Nat) (ext : Ext) (o : Op) (v : List Byte), s.waiting op 0x50 =
    some o ∧ o.stage = .polling ∧ o.n nkErrors = 0 ∧ (o.n nkArrived ≠ 0 ∨ bitAt (o.arg 21 1) 4 = true) ∧ s.past o.hold 200 = true ∧ s.readAt
    ext (o.arg 40 8) 64 1 = (.data v, s1) ∧ s1.op? op = some o ∧ (o.arg 36 4 < field v 16 8 ∨ 0 < field v 8 8) := by
  refine ⟨pollS 1 2, pollRead 1 2, 5, [], polling, cell 0x3F000000 1 2, ?_, ?_, ?_, (.inl (by decide +kernel)), ?_, ?_, ?_,
    (.inr (by decide +kernel))⟩ <;> decide +kernel

theorem witness_TedPackGathersItsScale_7 : ∃ (s : State) (s1 : State) (op : Nat) (ext : Ext) (o : Op) (v : List Byte), s.waiting op 0x50 =
    some o ∧ o.stage = .polling ∧ o.n nkErrors = 0 ∧ (o.n nkArrived ≠ 0 ∨ bitAt (o.arg 21 1) 4 = true) ∧ s.past o.hold 200 = true ∧ s.readAt
    ext (o.arg 40 8) 64 1 = (.data v, s1) ∧ s1.op? op = some o ∧ field v 16 8 < o.arg 36 4 ∧ field v 8 8 = 0 := by
  refine ⟨pollS 0 1, pollRead 0 1, 5, [], polling, cell 0x3F000000 0 1, ?_, ?_, ?_, (.inl (by decide +kernel)), ?_, ?_, ?_, ?_, ?_⟩ <;>
    decide +kernel

theorem witness_TedPackGathersItsScale_8 : ∃ (s : State) (op : Nat) (o : Op), s.work op 0x50 = some o ∧ o.stage = .walking ∧ o.st = .running
    ∧ o.n nkPassTwo = 2 ∧ o.cursor + o.packSize o.cursor < o.tedLast ∧ o.n nkIssued = 2 * o.cursor + 2 ∧ s.engineHeld op = false ∧ o.n
    nkErrors = 0 := by
  refine ⟨withOp tedS (packOp .walking 2 [(nkPassTwo, 2), (nkIssued, 6)]), 5, packOp .walking 2 [(nkPassTwo, 2), (nkIssued, 6)], ?_, ?_, ?_,
    ?_, ?_, ?_, ?_, ?_⟩ <;> decide +kernel

theorem witness_TedPackGathersItsScale_9 : ∃ (s : State) (op : Nat) (o : Op), s.work op 0x50 = some o ∧ o.stage = .walking ∧ o.n nkPassTwo =
    2 ∧ o.tedLast ≤ o.cursor :=
  ⟨withOp tedS (packOp .walking 4 [(nkPassTwo, 2)]), 5, packOp .walking 4 [(nkPassTwo, 2)], by decide +kernel, by decide +kernel,
    by decide +kernel, by decide +kernel⟩

/-- A TED_APPLY of the four blocks, with its table at tile 901, for two generations. -/
def applyOp (st : Stage := .fresh) (c : Nat := 0) (site : Nat := 0) : Op :=
  mkOp 5 (dsc 0x51 3 [(16, 1, 0), (17, 1, 1), (18, 1, 2), (19, 1, 3), (20, 1, 10), (21, 1, site), (22, 1, 2), (28, 4, 4), (32, 8, adr 901),
    (40, 8, adr 1000), (48, 8, 8 * 4096)]) st c
/-- The table: site 0 takes part with weight 1, at decay 1 and rate 1 (Table 9-7). -/
def applyTab : List Byte := sp (zeros 128) [(0, 4, 0x3F800000), (64, 4, 0x3F800000), (84, 1, 1), (88, 4, 0x3F800000)]
def applyS : State := putm tedS (adr 901) applyTab
/-- A read of an area that gives a length of 0 gives its slot too. -/
theorem pair_zero {x : (Nat × List Byte ⊕ Nat) × State} (h : (match x.1 with
    | .inl p => p.1 == 0
    | .inr _ => false) = true) : x = (.inl (0, (left (0, []) x.1).2), x.2) := by
  rcases x with ⟨⟨n, v⟩ | b, c⟩
  · have e : n = 0 := by simpa using h
    subst e; rfl
  · cases h
/-- The engine's own slot of block 0. -/
def area0 (s : State) : (Nat × List Byte ⊕ Nat) × State := (s.modOp 5 (fun x => x.keep nkErrors 0)).readArea [] ⟨4, 2, 1, 0x7, 2⟩ anchorR.tileCount (s.outBase (applyOp .walking)) (applyOp .walking).cursor

theorem witness_TedApplyAndAnchorLoad_1 : ∃ (si : State) (s : State) (op : Nat) (ext : Ext) (o : Op) (tab : List Byte), si.work op 0x51 =
    some o ∧ o.stage = .fresh ∧ o.applyEncoded = true ∧ si.readAt ext (o.arg 32 8) 128 2 = (.data tab, s) ∧ s.op? op = some o ∧
    s.applyStatus o tab = 0 := by
  refine ⟨withOp applyS applyOp, afterRead (withOp applyS applyOp) (adr 901) 128 2, 5, [], applyOp, applyTab, ?_, ?_, ?_, ?_, ?_, ?_⟩ <;>
    decide +kernel

theorem witness_TedApplyAndAnchorLoad_2 : ∃ (si : State) (s : State) (op : Nat) (ext : Ext) (o : Op) (tab : List Byte), si.work op 0x51 =
    some o ∧ o.stage = .fresh ∧ o.applyEncoded = true ∧ si.readAt ext (o.arg 32 8) 128 2 = (.data tab, s) ∧ s.op? op = some o ∧
    s.applyStatus o tab ≠ 0 := by
  refine ⟨withOp applyS (applyOp .fresh 0 1), afterRead (withOp applyS (applyOp .fresh 0 1)) (adr 901) 128 2, 5, [], applyOp .fresh 0 1,
    applyTab, ?_, ?_, ?_, ?_, ?_, ?_⟩ <;> decide +kernel

theorem witness_TedApplyAndAnchorLoad_3 : ∃ (s : State) (op : Nat) (o : Op), s.work op 0x51 = some o ∧ o.stage = .fresh ∧ o.applyEncoded =
    false :=
  ⟨withOp live (mkOp 5 (dsc 0x51 3 [(20, 1, 99)])), 5, mkOp 5 (dsc 0x51 3 [(20, 1, 99)]), by decide +kernel, by decide +kernel,
    by decide +kernel⟩

theorem witness_TedApplyAndAnchorLoad_4 : ∃ (s : State) (s1 : State) (op : Nat) (ext : Ext) (o : Op) (k : TedFmt) (rt : Region) (ra :
    Region) (v : List Byte), s.work op 0x51 = some o ∧ o.stage = .walking ∧ o.cursor < o.tedLast ∧ s.unitBegun op o.cursor = false ∧ tedFmt
    o.tedFormat = some k ∧ s.regions.get o.theta = some rt ∧ s.regions.get o.anchor = some ra ∧ rt.quiet = none ∧ ra.quiet = none ∧
    s.laneFree = true ∧ (s.modOp op (fun x => x.keep nkErrors 0)).readArea ext k ra.tileCount (s.outBase o) o.cursor = (.inl (0, v), s1) ∧
    (s1.op? op).isSome = true := by
  refine ⟨withOp applyS (applyOp .walking), (area0 (withOp applyS (applyOp .walking))).2, 5, [], applyOp .walking, ⟨4, 2, 1, 0x7, 2⟩, thetaR,
    anchorR, (left (0, []) (area0 (withOp applyS (applyOp .walking))).1).2, ?_, ?_, ?_, ?_, (rfl), ?_, ?_, ?_, ?_, ?_,
    (pair_zero (by decide +kernel)), ?_⟩ <;> decide +kernel

theorem witness_TedApplyAndAnchorLoad_5 : ∃ (s : State) (op : Nat) (o : Op), s.work op 0x51 = some o ∧ o.stage = .walking ∧ o.tedLast ≤
    o.cursor :=
  ⟨withOp applyS (applyOp .walking 4), 5, applyOp .walking 4, by decide +kernel, by decide +kernel, by decide +kernel⟩

/-- A TED_ANCHOR_LOAD of the first blocks, with CHECK. -/
def anchorOp (st : Stage := .fresh) (c : Nat := 0) (cnt : Nat := 4) (dig : Nat := 9) (res : Nat := 2) : Op :=
  mkOp 5 (dsc 0x52 0 [(16, 1, 1), (17, 1, 0), (18, 1, res), (19, 1, 1), (24, 4, cnt), (40, 8, dig)]) st c

theorem witness_TedApplyAndAnchorLoad_6 : ∃ (s : State) (op : Nat) (o : Op) (ra : Region), s.work op 0x52 = some o ∧ o.stage = .fresh ∧
    s.regions.get o.anchor = some ra ∧ s.tedRegions o none = true ∧ s.tedBusy o = false := by
  refine ⟨withOp tedS anchorOp, 5, anchorOp, anchorR, ?_, ?_, ?_, ?_, ?_⟩ <;> decide +kernel

theorem witness_TedApplyAndAnchorLoad_7 : ∃ (s : State) (op : Nat) (o : Op) (ra : Region), s.work op 0x52 = some o ∧ o.stage = .fresh ∧
    s.regions.get o.anchor = some ra ∧ (s.tedRegions o none = false ∨ s.tedBusy o = true) :=
  ⟨withOp tedS (anchorOp .fresh 0 4 9 3), 5, anchorOp .fresh 0 4 9 3, anchorR, by decide +kernel, by decide +kernel, by decide +kernel,
    .inl (by decide +kernel)⟩

/-- One whose last tile is left, with no θ and no residue, from tile 1100. -/
def loadOp : Op := mkOp 5 (dsc 0x52 0 [(16, 1, 1), (17, 1, 0xFF), (18, 1, 0xFF), (19, 1, 1), (24, 4, 4), (32, 8, adr 1100), (40, 8, 9)]) .walking 3
def loadRead : Rd × State := ((withOp tedS loadOp).modOp 5 (fun x => x.keep nkErrors 0)).readAt [] (adr 1103) 4096 2

theorem witness_TedApplyAndAnchorLoad_8 : ∃ (s : State) (s1 : State) (op : Nat) (ext : Ext) (o : Op) (ra : Region) (v : List Byte), s.work
    op 0x52 = some o ∧ o.stage = .walking ∧ o.cursor < o.tedLast ∧ s.unitBegun op o.cursor = false ∧ s.regions.get o.anchor = some ra ∧
    ra.quiet = none ∧ o.thetaOf = none ∧ o.residueOf = none ∧ o.loadSize o.cursor = 1 ∧ (s.modOp op (fun x => x.keep nkErrors 0)).readAt ext
    (o.arg 32 8 + 4096 * o.cursor) 4096 2 = (.data v, s1) ∧ s1.regions.get o.anchor = some ra ∧ s1.op? op = some (o.keep nkErrors 0) ∧
    s1.inStack (s1.tileAddr (ra.tileBase + o.cursor)) 4096 = true ∧ v.length = 4096 ∧ writeStatus ext (s1.tileAddr (ra.tileBase + o.cursor))
    = stOk := by
  refine ⟨withOp tedS loadOp, loadRead.2, 5, [], loadOp, anchorR, rdData loadRead.1, ?_, ?_, ?_, ?_, ?_, ?_, ?_, ?_, ?_,
    (pair_rd (by decide +kernel)), ?_, ?_, ?_, ?_, ?_⟩ <;> decide +kernel

theorem witness_TedApplyAndAnchorLoad_9 : ∃ (s : State) (op : Nat) (o : Op) (ra : Region), s.work op 0x52 = some o ∧ o.stage = .walking ∧
    o.tedLast ≤ o.cursor ∧ s.regions.get o.anchor = some ra ∧ o.tedLast = ra.tileCount ∧ o.tedCount ≠ 0 ∧ bitAt (o.arg 19 1) 0 = true ∧
    ra.digest.toNat ≠ o.arg 40 8 := by
  refine ⟨withOp tedS (anchorOp .walking 4 4 8), 5, anchorOp .walking 4 4 8, anchorR, ?_, ?_, ?_, ?_, ?_, ?_, ?_, ?_⟩ <;> decide +kernel

theorem witness_TedApplyAndAnchorLoad_10 : ∃ (s : State) (op : Nat) (o : Op) (ra : Region), s.work op 0x52 = some o ∧ o.stage = .walking ∧
    o.tedLast ≤ o.cursor ∧ s.regions.get o.anchor = some ra ∧ o.tedLast = ra.tileCount ∧ o.tedCount ≠ 0 ∧ (bitAt (o.arg 19 1) 0 = false ∨
    ra.digest.toNat = o.arg 40 8) := by
  refine ⟨withOp tedS (anchorOp .walking 4), 5, anchorOp .walking 4, anchorR, ?_, ?_, ?_, ?_, ?_, ?_, (.inr (by decide +kernel))⟩ <;>
    decide +kernel

theorem witness_TedApplyAndAnchorLoad_11 : ∃ (s : State) (op : Nat) (o : Op) (ra : Region), s.work op 0x52 = some o ∧ o.stage = .walking ∧
    o.tedLast ≤ o.cursor ∧ s.regions.get o.anchor = some ra ∧ (o.tedLast ≠ ra.tileCount ∨ o.tedCount = 0) :=
  ⟨withOp tedS (anchorOp .walking 3 3), 5, anchorOp .walking 3 3, anchorR, by decide +kernel, by decide +kernel, by decide +kernel,
    by decide +kernel, .inl (by decide +kernel)⟩

/-! ## Primitives -/

/-- A microcode word of its fields (Table 11-2). -/
def uw (opc fa fb fc : Nat) (cls csrc imm imm2 : Nat := 0) : Nat :=
  opc + 2 ^ 8 * fa + 2 ^ 14 * fb + 2 ^ 20 * fc + 2 ^ 26 * cls + 2 ^ 28 * csrc + 2 ^ 64 * imm + 2 ^ 96 * imm2
/-- An entry word: its program starts at word 256 with 8 slots. -/
def entry0 : Nat := 256 + 2 ^ 13 * 9 + 2 ^ 18 * 10 + 2 ^ 23 * 11 + 2 ^ 28 * 8 + 2 ^ 34 * 1 + 2 ^ 127
/-- Operation `o` stands on sequencer 0 before word `w`. -/
def ust (w : Nat) (o : Op) (s : State := live) : State :=
  withOp { s with ucode := { s.ucode with boot := false, store := [(128, BitVec.ofNat 128 entry0), (0x50, BitVec.ofNat 128 entry0), (256, BitVec.ofNat 128 w)] } } o
/-- An operation of an opcode at word 256, with S-registers and full slots. -/
def uop (opc : Nat := 0x80) (rg : List Nat := []) (sl : Tab Slot := []) : Op :=
  { mkOp 5 (dsc opc 0 [(16, 1, 0), (17, 1, 1), (18, 1, 2), (20, 1, 10)]) with
    bufs := 8, pc := 256, regs := rg.zipIdx.map (fun p => (p.2, BitVec.ofNat 64 p.1)), slots := sl }
theorem runs_of {s : State} {q w opc : Nat} {o : Op} (h : s.primOp q = some o)
    (h1 : s.codeWord o = some w ∧ uwOpc w = opc ∧ o.wordOk w = true ∧ s.wordWaits o w = false ∧ o.badSlot w = none ∧ o.pc < 8191) :
    s.runs q o w opc := ⟨h, h1⟩

theorem witness_RegisterPrimitivesCompute_1 : ∃ (s : State) (q : Nat) (w : Nat) (o : Op), s.runs q o w 0x01 :=
  ⟨ust (uw 1 0 0 4 0 0 3) (uop 0x80 [29, 3]), 0, uw 1 0 0 4 0 0 3, uop 0x80 [29, 3], runs_of rfl (by decide +kernel)⟩

theorem witness_RegisterPrimitivesCompute_2 : ∃ (s : State) (q : Nat) (w : Nat) (o : Op), s.runs q o w 0x02 :=
  ⟨ust (uw 2 0 1 4 0 0 0) (uop 0x80 [29, 3]), 0, uw 2 0 1 4 0 0 0, uop 0x80 [29, 3], runs_of rfl (by decide +kernel)⟩

theorem witness_RegisterPrimitivesCompute_3 : ∃ (s : State) (q : Nat) (w : Nat) (o : Op), s.runs q o w 0x03 :=
  ⟨ust (uw 3 0 0 4 0 0 4294967295) (uop 0x80 [29, 3]), 0, uw 3 0 0 4 0 0 4294967295, uop 0x80 [29, 3], runs_of rfl (by decide +kernel)⟩

theorem witness_RegisterPrimitivesCompute_4 : ∃ (s : State) (q : Nat) (w : Nat) (o : Op), s.runs q o w 0x04 :=
  ⟨ust (uw 4 1 0 4 0 0 0) (uop 0x80 [29, 3]), 0, uw 4 1 0 4 0 0 0, uop 0x80 [29, 3], runs_of rfl (by decide +kernel)⟩

theorem witness_RegisterPrimitivesCompute_5 : ∃ (s : State) (q : Nat) (w : Nat) (o : Op), s.runs q o w 0x05 :=
  ⟨ust (uw 5 0 1 4 0 0 0) (uop 0x80 [29, 3]), 0, uw 5 0 1 4 0 0 0, uop 0x80 [29, 3], runs_of rfl (by decide +kernel)⟩

theorem witness_RegisterPrimitivesCompute_6 : ∃ (s : State) (q : Nat) (w : Nat) (o : Op), s.runs q o w 0x06 :=
  ⟨ust (uw 6 0 1 0 0 0 0) (uop 0x80 [29, 3]), 0, uw 6 0 1 0 0 0 0, uop 0x80 [29, 3], runs_of rfl (by decide +kernel)⟩

theorem witness_RegisterPrimitivesCompute_7 : ∃ (s : State) (q : Nat) (w : Nat) (o : Op), s.runs q o w 0x07 :=
  ⟨ust (uw 7 0 1 4 0 0 0) (uop 0x80 [29, 3]), 0, uw 7 0 1 4 0 0 0, uop 0x80 [29, 3], runs_of rfl (by decide +kernel)⟩

theorem witness_RegisterPrimitivesCompute_8 : ∃ (s : State) (q : Nat) (w : Nat) (o : Op), s.runs q o w 0x08 :=
  ⟨ust (uw 8 0 0 4 0 0 60) (uop 0x80 [29, 3]), 0, uw 8 0 0 4 0 0 60, uop 0x80 [29, 3], runs_of rfl (by decide +kernel)⟩

theorem witness_RegisterPrimitivesCompute_9 : ∃ (s : State) (q : Nat) (w : Nat) (o : Op), s.runs q o w 0x09 :=
  ⟨ust (uw 9 0 0 4 0 0 2) (uop 0x80 [29, 3]), 0, uw 9 0 0 4 0 0 2, uop 0x80 [29, 3], runs_of rfl (by decide +kernel)⟩

theorem witness_RegisterPrimitivesCompute_10 : ∃ (s : State) (q : Nat) (w : Nat) (o : Op), s.runs q o w 0x0A :=
  ⟨ust (uw 10 0 1 4 0 0 0) (uop 0x80 [29, 3]), 0, uw 10 0 1 4 0 0 0, uop 0x80 [29, 3], runs_of rfl (by decide +kernel)⟩

theorem witness_RegisterPrimitivesCompute_11 : ∃ (s : State) (q : Nat) (w : Nat) (o : Op), s.runs q o w 0x0B :=
  ⟨ust (uw 11 0 0 4 0 0 193) (uop 0x80 [29, 3]), 0, uw 11 0 0 4 0 0 193, uop 0x80 [29, 3], runs_of rfl (by decide +kernel)⟩

theorem witness_ControlAndQueryPrimitives_1 : ∃ (s : State) (q : Nat) (w : Nat) (o : Op), s.runs q o w 0x10 :=
  ⟨ust (uw 0x10 0 1 0 + 2 ^ 32 * 300 + 2 ^ 45 * 3) (uop 0x80 [2, 3]) (live), 0, uw 0x10 0 1 0 + 2 ^ 32 * 300 + 2 ^ 45 * 3, uop 0x80 [2, 3],
    runs_of rfl (by decide +kernel)⟩

theorem witness_ControlAndQueryPrimitives_2 : ∃ (s : State) (q : Nat) (w : Nat) (o : Op), s.runs q o w 0x11 ∧ o.st = .running :=
  ⟨ust (uw 0x11 0 0 0) (uop) (live), 0, uw 0x11 0 0 0, uop, runs_of rfl (by decide +kernel), by decide +kernel⟩

theorem witness_ControlAndQueryPrimitives_3 : ∃ (s : State) (q : Nat) (w : Nat) (o : Op), s.runs q o w 0x12 ∧ bits (uwImm w) 0 16 = stOk ∧
    bitAt (uwImm w) 31 = false :=
  ⟨ust (uw 0x12 0 0 0) (uop) (live), 0, uw 0x12 0 0 0, uop, runs_of rfl (by decide +kernel), by decide +kernel, by decide +kernel⟩

theorem witness_ControlAndQueryPrimitives_4 : ∃ (s : State) (q : Nat) (w : Nat) (o : Op), s.runs q o w 0x12 :=
  ⟨ust (uw 0x12 0 0 0 0 0 (2 ^ 31)) (uop 0x80 [0x10A]) (live), 0, uw 0x12 0 0 0 0 0 (2 ^ 31), uop 0x80 [0x10A],
    runs_of rfl (by decide +kernel)⟩

theorem witness_ControlAndQueryPrimitives_5 : ∃ (s : State) (q : Nat) (w : Nat) (o : Op), s.runs q o w 0x25 :=
  ⟨ust (uw 0x25 0 0 4) (uop 0x80 [] [(0, Slot.failed stCheckFail)]) (live), 0, uw 0x25 0 0 4, uop 0x80 [] [(0, Slot.failed stCheckFail)],
    runs_of rfl (by decide +kernel)⟩

theorem witness_ControlAndQueryPrimitives_6 : ∃ (s : State) (q : Nat) (w : Nat) (o : Op), s.runs q o w 0x26 :=
  ⟨ust (uw 0x26 0 0 4) (uop) (live), 0, uw 0x26 0 0 4, uop, runs_of rfl (by decide +kernel)⟩

theorem witness_ControlAndQueryPrimitives_7 : ∃ (s : State) (q : Nat) (w : Nat) (o : Op), s.runs q o w 0x27 :=
  ⟨ust (uw 0x27 2 0 0) (uop) (live), 0, uw 0x27 2 0 0, uop, runs_of rfl (by decide +kernel)⟩

theorem witness_ControlAndQueryPrimitives_8 : ∃ (s : State) (q : Nat) (w : Nat) (o : Op) (r : _), s.runs q o w 0x28 ∧ s.regions.get (bits
    (o.s (uwFa w)) 0 8) = some r :=
  ⟨ust (uw 0x28 0 1 4) (uop 0x80 [1, 3]) (fam), 0, uw 0x28 0 1 4, uop 0x80 [1, 3], fam1, runs_of rfl (by decide +kernel), by decide +kernel⟩

theorem witness_ControlAndQueryPrimitives_9 : ∃ (s : State) (q : Nat) (w : Nat) (o : Op) (r : _) (sh : _), s.runs q o w 0x29 ∧ s.regions.get
    (bits (o.s (uwFa w)) 0 8) = some r ∧ s.sheafOf r = some sh :=
  ⟨ust (uw 0x29 0 0 4) (uop 0x80 [1]) (fam), 0, uw 0x29 0 0 4, uop 0x80 [1], fam1, sheaf9, runs_of rfl (by decide +kernel), by decide +kernel,
    by decide +kernel⟩

theorem witness_ControlAndQueryPrimitives_10 : ∃ (s : State) (q : Nat) (w : Nat) (o : Op) (r : _), s.runs q o w 0x2A ∧ s.regions.get (bits
    (o.s (uwFa w)) 0 8) = some r :=
  ⟨ust (uw 0x2A 0 0 4) (uop 0x80 [1]) (fam), 0, uw 0x2A 0 0 4, uop 0x80 [1], fam1, runs_of rfl (by decide +kernel), by decide +kernel⟩

theorem witness_ControlAndQueryPrimitives_11 : ∃ (s : State) (q : Nat) (w : Nat) (o : Op), s.runs q o w 0x2B :=
  ⟨ust (uw 0x2B 0 0 4) (uop) (live), 0, uw 0x2B 0 0 4, uop, runs_of rfl (by decide +kernel)⟩

theorem witness_ControlAndQueryPrimitives_12 : ∃ (s : State) (q : Nat) (w : Nat) (o : Op), s.runs q o w 0x2C ∧ (s.seqs.trigOwn.get (bits
    (o.s (uwFa w)) 0 8) = none ∨ s.seqs.trigOwn.get (bits (o.s (uwFa w)) 0 8) = some o.id) ∧ s.outstanding o.id = false :=
  ⟨ust (uw 0x2C 0 0 0) (uop 0x80 [7]) (live), 0, uw 0x2C 0 0 0, uop 0x80 [7], runs_of rfl (by decide +kernel), .inl (by decide +kernel),
    by decide +kernel⟩

/-- A tile of another engine. -/
def far : Nat := gaddr 1 0 4096
/-- Slots 0 and 1, full of tiles that differ in one byte. -/
def tileOne : List Byte := 1#8 :: zeros 4095
def tileTwo : List Byte := 2#8 :: zeros 4095
def slots2 : Tab Slot := [(0, Slot.full tileOne), (1, Slot.full tileTwo)]
/-- An operation of job 7 with a region of its own job in the stack. -/
def mine : State := { live with regions := [(1, reg 100 4)] }

theorem witness_TransferPrimitivesIssue_1 : ∃ (s : State) (q : Nat) (w : Nat) (o : Op), s.runs q o w 0x20 ∧ s.xferStatus o (o.s (uwFb w))
    4096 = 0 ∧ s.creditOk (s.level (o.s (uwFb w))) (uwCls w) (s.xferCredits (o.s (uwFb w)) 4096) = true :=
  ⟨ust (uw 0x20 0 1 0 2) (uop 0x80 [0, far]) (live), 0, uw 0x20 0 1 0 2, uop 0x80 [0, far], runs_of rfl (by decide +kernel),
    by decide +kernel, by decide +kernel⟩

theorem witness_TransferPrimitivesIssue_2 : ∃ (s : State) (q : Nat) (w : Nat) (o : Op), s.runs q o w 0x22 ∧ s.xferStatus o (o.s (uwFa w)) 8
    = 0 ∧ s.creditOk (s.level (o.s (uwFa w))) (uwCls w) (s.xferCredits (o.s (uwFa w)) 8) = true :=
  ⟨ust (uw 0x22 1 0 4 2) (uop 0x80 [0, far]) (live), 0, uw 0x22 1 0 4 2, uop 0x80 [0, far], runs_of rfl (by decide +kernel),
    by decide +kernel, by decide +kernel⟩

theorem witness_TransferPrimitivesIssue_3 : ∃ (s : State) (q : Nat) (w : Nat) (o : Op) (x : Slot), s.runs q o w 0x21 ∧ o.slots.get (o.slotA
    w) = some x ∧ x.st = .full ∧ s.own (o.s (uwFb w)) = false ∧ uwCls w ≠ 0 ∧ s.xferStatus o (o.s (uwFb w)) 4096 = 0 ∧ s.creditOk (s.level
    (o.s (uwFb w))) (uwCls w) (s.xferCredits (o.s (uwFb w)) 4096) = true :=
  ⟨ust (uw 0x21 0 1 0 2) (uop 0x80 [0, far] slots2) (live), 0, uw 0x21 0 1 0 2, uop 0x80 [0, far] slots2, Slot.full tileOne,
    runs_of rfl (by decide +kernel), rfl, rfl, by decide +kernel, by decide +kernel, by decide +kernel, by decide +kernel⟩

theorem witness_TransferPrimitivesIssue_4 : ∃ (s : State) (q : Nat) (w : Nat) (o : Op), s.runs q o w 0x23 ∧ s.own (o.s (uwFa w)) = false ∧
    uwCls w ≠ 0 ∧ s.xferStatus o (o.s (uwFa w)) 8 = 0 ∧ s.creditOk (s.level (o.s (uwFa w))) (uwCls w) (s.xferCredits (o.s (uwFa w)) 8) =
    true :=
  ⟨ust (uw 0x23 1 0 0 2) (uop 0x80 [9, far]) (live), 0, uw 0x23 1 0 0 2, uop 0x80 [9, far], runs_of rfl (by decide +kernel),
    by decide +kernel, by decide +kernel, by decide +kernel, by decide +kernel⟩

theorem witness_TransferPrimitivesIssue_5 : ∃ (s : State) (q : Nat) (w : Nat) (o : Op), s.runs q o w 0x24 ∧ s.own (o.s (uwFa w)) = false ∧
    s.xferStatus o (o.s (uwFa w)) 8 = 0 ∧ s.creditOk (s.level (o.s (uwFa w))) (uwCls w) (s.xferCredits (o.s (uwFa w)) 8) = true :=
  ⟨ust (uw 0x24 1 0 0 2 0 1) (uop 0x80 [9, far]) (live), 0, uw 0x24 1 0 0 2 0 1, uop 0x80 [9, far], runs_of rfl (by decide +kernel),
    by decide +kernel, by decide +kernel, by decide +kernel⟩

theorem witness_TransferPrimitivesIssue_6 : ∃ (s : State) (q : Nat) (w : Nat) (o : Op), s.runs q o w 0x20 ∧ s.xferStatus o (o.s (uwFb w))
    4096 ≠ 0 :=
  ⟨ust (uw 0x20 0 1 0 2) (uop 0x80 [0, far + 8]) (live), 0, uw 0x20 0 1 0 2, uop 0x80 [0, far + 8], runs_of rfl (by decide +kernel),
    by decide +kernel⟩

theorem witness_TransferPrimitivesIssue_7 : ∃ (s : State) (q : Nat) (w : Nat) (o : Op) (x : Slot), s.runs q o w 0x21 ∧ o.slots.get (o.slotA
    w) = some x ∧ x.st = .full ∧ s.own (o.s (uwFb w)) = true ∧ s.xferStatus o (o.s (uwFb w)) 4096 = 0 ∧ s.creditOk (s.level (o.s (uwFb w)))
    (uwCls w) (s.xferCredits (o.s (uwFb w)) 4096) = true :=
  ⟨ust (uw 0x21 0 1 0 2) (uop 0x80 [0, adr 101] slots2) (mine), 0, uw 0x21 0 1 0 2, uop 0x80 [0, adr 101] slots2, Slot.full tileOne,
    runs_of rfl (by decide +kernel), rfl, rfl, by decide +kernel, by decide +kernel, by decide +kernel⟩

theorem witness_TransferPrimitivesIssue_8 : ∃ (s : State) (q : Nat) (w : Nat) (o : Op), s.runs q o w 0x23 ∧ s.own (o.s (uwFa w)) = true ∧
    s.xferStatus o (o.s (uwFa w)) 8 = 0 ∧ s.creditOk (s.level (o.s (uwFa w))) (uwCls w) (s.xferCredits (o.s (uwFa w)) 8) = true :=
  ⟨ust (uw 0x23 1 0 0 2) (uop 0x80 [9, adr 101]) (mine), 0, uw 0x23 1 0 0 2, uop 0x80 [9, adr 101], runs_of rfl (by decide +kernel),
    by decide +kernel, by decide +kernel, by decide +kernel⟩

theorem witness_TransferPrimitivesIssue_9 : ∃ (s : State) (q : Nat) (w : Nat) (o : Op), s.runs q o w 0x24 ∧ s.own (o.s (uwFa w)) = true ∧
    s.xferStatus o (o.s (uwFa w)) 8 = 0 ∧ s.creditOk (s.level (o.s (uwFa w))) (uwCls w) (s.xferCredits (o.s (uwFa w)) 8) = true :=
  ⟨ust (uw 0x24 1 0 0 2) (uop 0x80 [9, adr 101]) (mine), 0, uw 0x24 1 0 0 2, uop 0x80 [9, adr 101], runs_of rfl (by decide +kernel),
    by decide +kernel, by decide +kernel, by decide +kernel⟩

theorem witness_LanePrimitivesCompute_1 : ∃ (s : State) (q : Nat) (w : Nat) (o : Op) (a : List Byte) (r : Nat), s.boot.lanes ≠ 0#32 ∧ s.runs
    q o w 0x30 ∧ uwCsrc w = 0 ∧ uwAcc w = false ∧ o.slots.get (o.slotA w) = some (Slot.full a) ∧ a.length = 4096 ∧ r < uwRows w :=
  ⟨ust (uw 0x30 0 0 2 0 0 2 0x0503) (uop 0x80 [] slots2) (live), 0, uw 0x30 0 0 2 0 0 2 0x0503, uop 0x80 [] slots2, tileOne, 1,
    by decide +kernel, runs_of rfl (by decide +kernel), by decide +kernel, by decide +kernel, rfl, by decide +kernel, by decide +kernel⟩

theorem witness_LanePrimitivesCompute_2 : ∃ (s : State) (q : Nat) (w : Nat) (o : Op) (a : List Byte) (b : List Byte), s.boot.lanes ≠ 0#32 ∧
    s.runs q o w 0x31 ∧ o.slots.get (o.slotA w) = some (Slot.full a) ∧ o.slots.get (uwFb w) = some (Slot.full b) ∧ a.length = 4096 ∧
    b.length = 4096 :=
  ⟨ust (uw 0x31 0 1 2) (uop 0x80 [] slots2) (live), 0, uw 0x31 0 1 2, uop 0x80 [] slots2, tileOne, tileTwo, by decide +kernel,
    runs_of rfl (by decide +kernel), rfl, rfl, by decide +kernel, by decide +kernel⟩

theorem witness_LanePrimitivesCompute_3 : ∃ (s : State) (q : Nat) (w : Nat) (o : Op) (a : List Byte), s.boot.lanes ≠ 0#32 ∧ s.runs q o w
    0x32 ∧ o.slots.get (o.slotA w) = some (Slot.full a) :=
  ⟨ust (uw 0x32 0 0 4) (uop 0x80 [] slots2) (live), 0, uw 0x32 0 0 4, uop 0x80 [] slots2, tileOne, by decide +kernel,
    runs_of rfl (by decide +kernel), rfl⟩

theorem witness_LanePrimitivesCompute_4 : ∃ (s : State) (q : Nat) (w : Nat) (o : Op) (a : List Byte) (b : List Byte), s.boot.lanes ≠ 0#32 ∧
    s.runs q o w 0x33 ∧ o.slots.get (o.slotA w) = some (Slot.full a) ∧ o.slots.get (uwFb w) = some (Slot.full b) :=
  ⟨ust (uw 0x33 0 1 4) (uop 0x80 [] slots2) (live), 0, uw 0x33 0 1 4, uop 0x80 [] slots2, tileOne, tileTwo, by decide +kernel,
    runs_of rfl (by decide +kernel), rfl, rfl⟩

theorem witness_LanePrimitivesCompute_5 : ∃ (a : List Byte) (b : List Byte), a.length = 4096 ∧ b.length = 4096 :=
  ⟨tileOne, tileTwo, by decide +kernel, by decide +kernel⟩

/-- An engine that reset left without a lane. -/
def laneless : State := { live with boot := { live.boot with lanes := 0#32 } }

theorem witness_LanePrimitivesCompute_6 : ∃ (s : State) (q : Nat) (w : Nat) (o : Op), s.boot.lanes = 0#32 ∧ s.runs q o w 0x31 :=
  ⟨ust (uw 0x31 0 1 2) (uop 0x80 [] slots2) (laneless), 0, uw 0x31 0 1 2, uop 0x80 [] slots2, by decide +kernel,
    runs_of rfl (by decide +kernel)⟩

/-- A sheaf whose member 1 has fewer tiles. -/
def famShort : State := { fam with sheaves := [(9, { sheaf9 with members := [member 1 4, member 2 2, member 4 4] })] }
/-- A send context for the sheaf's parity member, of another engine. -/
def ctx0 : SendCtx :=
  { region := 1, sheaf := 9, row := 0, dst := 2, node := 1, agent := 0, next := 7, fencedBy := none, msgs := [], fails := [], cfail := none
    retired := [], late := [] }
def sheafShort : Sheaf := { sheaf9 with members := [member 1 4, member 2 2, member 4 4] }
def fam2 : Region := { reg 200 4 with logicalBase := 4, sheaf := 9, member := 1, epoch := 1 }
def famCtx : State := { fam with port := { fam.port with sctx := [(3, ctx0)] } }
/-- Registers: region 1, members 1 and 2 of its sheaf, tiles 3 and 1, mask 6 (members 1 and 2), context 3. -/
def bop (opc : Nat := 0x20) : Op := uop opc [1, 1 + 256, 6, 3, 1, 1 + 2 * 256] slots2

theorem witness_BuiltInPrimitivesAct_1 : ∃ (s : State) (q : Nat) (w : Nat) (o : Op) (r : _) (sh : _) (x : _), s.runs q o w 0x40 ∧ s.memberOf
    (bits (o.s (uwFa w)) 0 8) (bits (o.s (uwFa w)) 8 8) = some (r, sh, x) ∧ sh.virtual (bits (o.s (uwFa w)) 8 8) (o.s (uwFb w)) = true :=
  ⟨ust (uw 0x40 1 3 8) (bop) (famShort), 0, uw 0x40 1 3 8, bop, fam1, sheafShort, member 2 2, runs_of rfl (by decide +kernel), rfl,
    by decide +kernel⟩

theorem witness_BuiltInPrimitivesAct_2 : ∃ (s : State) (q : Nat) (w : Nat) (o : Op) (r : _) (sh : _) (x : _) (j : _) (p : _), s.runs q o w
    0x40 ∧ s.memberOf (bits (o.s (uwFa w)) 0 8) (bits (o.s (uwFa w)) 8 8) = some (r, sh, x) ∧ sh.virtual (bits (o.s (uwFa w)) 8 8) (o.s
    (uwFb w)) = false ∧ s.isLocal x = true ∧ s.localMember r.sheaf (bits (o.s (uwFa w)) 8 8) = some (j, p) :=
  ⟨ust (uw 0x40 1 3 8) (bop) (fam), 0, uw 0x40 1 3 8, bop, fam1, sheaf9, member 2 4, 2, fam2, runs_of rfl (by decide +kernel), rfl,
    by decide +kernel, by decide +kernel, by decide +kernel⟩

theorem witness_BuiltInPrimitivesAct_3 : ∃ (s : State) (q : Nat) (w : Nat) (o : Op) (r : _) (x : _), s.runs q o w 0x44 ∧ s.memberOf (bits
    (o.s (uwFa w)) 0 8) 0 = some (r, x) ∧ ((List.range x.1.m).filter (fun i => bitAt (o.s (uwFb w)) (x.1.k + i))).length = ((List.range
    x.1.k).filter (fun i => !bitAt (o.s (uwFb w)) i)).length ∧ (s.recovery (bits (o.s (uwFa w)) 0 8) ((List.range x.1.m).filter (fun i =>
    bitAt (o.s (uwFb w)) (x.1.k + i))) ((List.range x.1.k).filter (bitAt (o.s (uwFb w)))) ((List.range x.1.k).filter (fun i => !bitAt (o.s
    (uwFb w)) i))).isSome = true ∧ s.tables.dec.length < 64 :=
  ⟨ust (uw 0x44 0 2 8) (bop) (fam), 0, uw 0x44 0 2 8, bop, fam1, (sheaf9, member 1 4), runs_of rfl (by decide +kernel), rfl,
    by decide +kernel, by decide +kernel, by decide +kernel⟩

/-- What QREAD reads. -/
def qread : MemRd × State := (ust (uw 0x42 2 1 3 1) bop fam).readOwnMember [] 0 9 1 3

theorem witness_BuiltInPrimitivesAct_4 : ∃ (s : State) (q : Nat) (w : Nat) (o : Op) (r : _) (sh : _) (x : _) (v : _) (n : _) (s1 : _),
    s.runs q o w 0x42 ∧ s.memberOf (bits (o.s (uwFb w)) 0 8) (bits (o.s (uwFb w)) 8 8) = some (r, sh, x) ∧ s.isLocal x = true ∧
    s.readOwnMember [] (bits (uwImm w) 0 8) r.sheaf (bits (o.s (uwFb w)) 8 8) (o.s (uwFc w)) = (.data v n, s1) ∧ s1.op? o.id = some o :=
  ⟨ust (uw 0x42 2 1 3 1) (bop) (fam), 0, uw 0x42 2 1 3 1, bop, fam1, sheaf9, member 2 4, (dataOf qread.1).1, (dataOf qread.1).2, qread.2,
    runs_of rfl (by decide +kernel), rfl, by decide +kernel, pair_data (by decide +kernel), rfl⟩

theorem witness_BuiltInPrimitivesAct_5 : ∃ (s : State) (q : Nat) (w : Nat) (o : Op) (c : _) (x : _), s.runs q o w 0x43 ∧ s.port.sctx.get
    (bits (o.s (uwFb w)) 0 10) = some c ∧ s.ctxTakes c = true ∧ s.codeFree ≠ 0 ∧ o.slots.get (o.slotA w) = some x ∧ x.st = .full :=
  ⟨ust (uw 0x43 0 3 0 1) (bop) (famCtx), 0, uw 0x43 0 3 0 1, bop, ctx0, Slot.full tileOne, runs_of rfl (by decide +kernel), by decide +kernel,
    by decide +kernel, by decide +kernel, rfl, rfl⟩

theorem witness_BuiltInPrimitivesAct_6 : ∃ (s : State) (q : Nat) (w : Nat) (o : Op) (r : _) (v : _), s.runs q o w 0x41 ∧ s.regions.get (bits
    (o.s (uwFa w)) 0 8) = some r ∧ s.port.applyQ = [] ∧ bits (uwImm w) 4 2 = 3 ∧ o.s (uwFb w) < r.tileCount ∧ s.cbwHolds (bits (o.s (uwFa
    w)) 0 8) (o.s (uwFb w)) = false ∧ bitAt (uwImm w) 0 = true ∧ r.role.digested = true ∧ o.slots.get (o.slotC w) = some (Slot.full v) ∧
    r.lineApart (o.s (uwFb w)) := by
  refine ⟨ust (uw 0x41 0 4 1 0 0 0x31) (bop) (fam), 0, uw 0x41 0 4 1 0 0 0x31, bop, fam1, tileTwo, (runs_of rfl (by decide +kernel)), ?_, ?_,
    ?_, ?_, ?_, ?_, ?_, (rfl), (apart_of (by decide +kernel))⟩ <;> decide +kernel

theorem witness_BuiltInPrimitivesAct_7 : ∃ (s : State) (q : Nat) (w : Nat) (o : Op) (x : _), s.runs q o w 0x48 ∧ s.boot.lanes ≠ 0#32 ∧
    o.slots.get (o.slotA w) = some x ∧ x.st = .full :=
  ⟨ust (uw 0x48 0 1 4) (bop 0x50) (tedS), 0, uw 0x48 0 1 4, bop 0x50, Slot.full tileOne, runs_of rfl (by decide +kernel), by decide +kernel,
    rfl, rfl⟩

theorem witness_BuiltInPrimitivesAct_8 : ∃ (s : State) (q : Nat) (w : Nat) (o : Op) (rt : _) (ra : _), s.runs q o w 0x49 ∧ s.boot.lanes ≠
    0#32 ∧ o.opcode = 0x51 ∧ s.regions.get o.theta = some rt ∧ s.regions.get o.anchor = some ra ∧ rt.format = .fp32 ∧ s.regionAt
    (rt.tileBase + rt.blockTile o.cursor) = some (o.theta, rt) ∧ s.regionAt (ra.tileBase + o.cursor) = some (o.anchor, ra) ∧ rt.tileBase +
    rt.blockTile o.cursor < stackTiles ∧ ra.tileBase + o.cursor < stackTiles ∧ s.strap.node < 2 ^ 18 ∧ s.strap.engine < 16 := by
  refine ⟨ust (uw 0x49 0 0 6) (bop 0x51) (tedS), 0, uw 0x49 0 0 6, bop 0x51, thetaR, anchorR, (runs_of rfl (by decide +kernel)), ?_, ?_, ?_,
    ?_, ?_, ?_, ?_, ?_, ?_, ?_, ?_⟩ <;> decide +kernel

/-! ## The calibration write -/

/-- A record with frequency F 0 alone (Table 14-4), without its CRC. -/
def calRec : List Byte := sp (zeros 124) [(0, 4, 0x57594341), (4, 1, 1), (8, 1, 0x80), (22, 2, 1), (24, 2, 1), (26, 1, 1), (27, 1, 1), (28, 1, 1),
  (44, 4, 0x3F800000), (48, 4, 0x3F800000)]
/-- Its CRC-32C. -/
def calSum : List Byte := leBytes 4 4162370789
theorem calRec_front : (calRec.take 62).foldl crc32cByte 0xFFFFFFFF#32 = 4038569348#32 := by decide +kernel
theorem calRec_back : (calRec.drop 62).foldl crc32cByte 4038569348#32 = 4162370789#32 ^^^ 0xFFFFFFFF#32 := by decide +kernel
theorem calRec_crc : crc32c calRec = 4162370789#32 := by
  have h : calRec = calRec.take 62 ++ calRec.drop 62 := (List.take_append_drop 62 calRec).symm
  rw [crc32c, h, List.foldl_append, calRec_front, calRec_back]
  decide
/-- The record stands in WY_CAL_DATA, and the flash was read. -/
def calReady : State :=
  { live with
    regs := (List.range 32).map (fun i => (0x0280 + 4 * i, BitVec.ofNat 32 (field (calRec ++ calSum) (4 * i) 4)))
    cal := { live.cal with readDone := true } }
theorem calReady_valid : calValid calReady.strap.engine calReady.calData = true := by
  have h : calReady.calData = calRec ++ calSum := by decide +kernel
  have h1 : (calRec ++ calSum).take 124 = calRec := by decide +kernel
  unfold calValid
  rw [h, h1, calRec_crc]
  decide +kernel

theorem witness_CalibrationReadAndWrite_4 : ∃ (s : State) (w : Word), s.cal.busy = false ∧ bits w.toNat 0 2 = 2 ∧ bits w.toNat 8 16 = 0xCA1B
    ∧ s.cal.readDone = true ∧ calValid s.strap.engine s.calData = true ∧ s.auditFull = false := by
  refine ⟨calReady, 0xCA1B02#32, ?_, ?_, ?_, ?_, (calReady_valid), ?_⟩ <;> decide +kernel

/-! ## User entries and transfers -/

theorem witness_UserEntriesAndTransfers_1 : ∃ (s : State) (op : Nat) (q : Nat) (w : Nat) (o : Op) (f : Prim), o.id = op ∧ o.user = true ∧
    s.seqs.q.find? (fun p => p.2 == op) = some (q, op) ∧ s.primOp q = some o ∧ s.codeWord o = some w ∧ userPrim (uwOpc w) = some f :=
  ⟨ust (uw 1 0 0 4 0 0 3) uop, 5, 0, uw 1 0 0 4 0 0 3, uop, primMovi, by decide +kernel, by decide +kernel, by decide +kernel, rfl,
    by decide +kernel, rfl⟩

theorem witness_UserEntriesAndTransfers_2 : ∃ (s : State) (op : Nat) (q : Nat) (w : Nat) (o : Op), o.id = op ∧ o.user = true ∧
    s.seqs.q.find? (fun p => p.2 == op) = some (q, op) ∧ s.primOp q = some o ∧ s.codeWord o = some w ∧ userPrim (uwOpc w) = none :=
  ⟨ust (uw 0x42 0 0 0 2) uop, 5, 0, uw 0x42 0 0 0 2, uop, by decide +kernel, by decide +kernel, by decide +kernel, rfl, by decide +kernel,
    rfl⟩

theorem witness_UserEntriesAndTransfers_3 : ∃ (s : State) (op : Nat) (o : Op), s.op? op = some o ∧ o.user = true ∧ o.started = true ∧
    (s.seqs.q.any (fun p => p.2 == op) = true ∧ s.past o.hold 10000 = true ∨ (o.st = .suspending ∨ o.st = .cancelling) ∧ o.control.any (fun
    c => s.past c 10000) = true) :=
  ⟨ust 1 uop, 5, uop, by decide +kernel, by decide +kernel, by decide +kernel, .inl ⟨by decide +kernel, by decide +kernel⟩⟩

/-- A load of an S-register from another engine, by operation 5. -/
def xload : Xfer :=
  { id := 4, op := 5, kind := .load64 6, addr := gaddr 1 0 8, cls := 2, tries := 1, path := 0, onPath := 0, timeout := 300, first := live.now - 400
    due := live.now - 100 }
/-- A load of slot 2, tried n times, and a reduction. -/
def xtile (n : Nat) : Xfer := { xload with kind := .loadTile 2, addr := far, tries := n }
def xsum : Xfer := { xload with kind := .reduce true 5#64 }
/-- One transfer is outstanding. -/
def xst (x : Xfer) : State := let s := ust 1 uop; { s with port := { s.port with xfers := [x], nextXfer := 5 } }

theorem witness_UserEntriesAndTransfers_4 : ∃ (s : State) (x : Nat) (r : Nat) (y : Xfer) (o : Op), s.port.xfers.find? (fun z => z.id == x) =
    some y ∧ y.kind = .load64 r ∧ s.own y.addr = false ∧ s.op? y.op = some o :=
  ⟨xst xload, 4, 6, xload, uop, by decide +kernel, by decide +kernel, by decide +kernel, by decide +kernel⟩

theorem witness_UserEntriesAndTransfers_5 : ∃ (s : State) (x : Nat) (k : Nat) (y : Xfer) (o : Op), s.port.xfers.find? (fun z => z.id == x) =
    some y ∧ y.kind = .loadTile k ∧ s.own y.addr = false ∧ s.op? y.op = some o :=
  ⟨xst (xtile 1), 4, 2, xtile 1, uop, by decide +kernel, by decide +kernel, by decide +kernel, by decide +kernel⟩

theorem witness_UserEntriesAndTransfers_6 : ∃ (s : State) (x : Nat) (k : Nat) (y : Xfer) (o : Op), s.port.xfers.find? (fun z => z.id == x) =
    some y ∧ y.kind = .loadTile k ∧ s.own y.addr = false ∧ s.op? y.op = some o :=
  ⟨xst (xtile 1), 4, 2, xtile 1, uop, by decide +kernel, by decide +kernel, by decide +kernel, by decide +kernel⟩

theorem witness_UserEntriesAndTransfers_7 : ∃ (s : State) (x : Nat) (k : Nat) (y : Xfer), s.port.xfers.find? (fun z => z.id == x) = some y ∧
    y.kind = .loadTile k ∧ s.own y.addr = false ∧ y.due ≤ s.now ∧ y.tries < 64 ∧ s.now < y.first + 1000000 := by
  refine ⟨xst (xtile 1), 4, 2, xtile 1, ?_, ?_, ?_, ?_, ?_, ?_⟩ <;> decide +kernel

theorem witness_UserEntriesAndTransfers_8 : ∃ (s : State) (x : Nat) (k : Nat) (y : Xfer) (o : Op), s.port.xfers.find? (fun z => z.id == x) =
    some y ∧ y.kind = .loadTile k ∧ s.own y.addr = false ∧ s.op? y.op = some o ∧ (y.due ≤ s.now ∧ 64 ≤ y.tries ∨ y.first + 1000000 ≤ s.now)
    :=
  ⟨xst (xtile 64), 4, 2, xtile 64, uop, by decide +kernel, by decide +kernel, by decide +kernel, by decide +kernel, .inl (by decide +kernel)⟩

theorem witness_UserEntriesAndTransfers_9 : ∃ (s : State) (x : Nat) (y : Xfer) (o : Op) (max : Bool) (v : Word64), s.port.xfers.find? (fun z
    => z.id == x) = some y ∧ y.kind = .reduce max v ∧ s.own y.addr = false ∧ y.due ≤ s.now ∧ s.op? y.op = some o := by
  refine ⟨xst xsum, 4, xsum, uop, true, 5#64, ?_, ?_, ?_, ?_, ?_⟩ <;> decide +kernel

/-! ## The tap -/

/-- 128 bytes, of which some are written. -/
def some128 : List (Option Byte) := (List.range 128).map (fun i => if i % 3 = 0 then none else some (BitVec.ofNat 8 (i * 7)))
/-- A write to bytes 128 and on of tile 0 of region 1 that the tap holds. -/
def heldW (id : Nat) (cap : Capture) (slot : Option Nat := none) (n : Option Nat := none) : Held :=
  { id := id, gid := id, agent := 1, op := none, region := 1, tile := 0, off := 128, data := some128, inStep := n, need := 4#64, cap := cap, slot := slot
    cbw := none, build := false }
/-- A data region of four tiles with writes held and a write at the input. -/
def tapS (h : List Held) (q : List Queued := []) (st : RegState := .live) : State :=
  { live with regions := [(1, reg 100 4 .data st)], tap := { live.tap with held := h, queue := q, nextId := 40 } }
def queuedW : Queued := ⟨1, none, 100 * 4096 + 128, some128⟩
def held32 : List Held := (List.range 32).map (fun i => heldW i .waitTurn)

theorem witness_WritesArriveAtTheTap_1 : ∃ (addr : Nat) (data : List (Option Byte)), stackBytes < addr + data.length :=
  ⟨stackBytes - 1, some128, by decide +kernel⟩

theorem witness_WritesArriveAtTheTap_2 : ∃ (s : State) (addr : Nat) (data : List (Option Byte)), addr + data.length ≤ stackBytes ∧
    s.meetsRegion addr data.length = false :=
  ⟨tapS [], 900 * 4096 + 64, some128, by decide +kernel, by decide +kernel⟩

theorem witness_WritesArriveAtTheTap_3 : ∃ (s : State) (addr : Nat) (data : List (Option Byte)), addr + data.length ≤ stackBytes ∧
    s.meetsRegion addr data.length = true :=
  ⟨tapS [], 100 * 4096 + 128, some128, by decide +kernel, by decide +kernel⟩

theorem witness_WritesArriveAtTheTap_4 : ∃ (s : State) (q : Queued) (l : List Queued), s.tap.queue = q :: l ∧ 32 ≤ s.heldWrites :=
  ⟨tapS held32 [queuedW], queuedW, [], by decide +kernel, by decide +kernel⟩

theorem witness_WritesArriveAtTheTap_5 : ∃ (s : State) (q : Queued) (l : List Queued) (j : _) (r : _), s.tap.queue = q :: l ∧ s.heldWrites <
    32 ∧ q.data ≠ [] ∧ q.off % 4096 + q.data.length ≤ 4096 ∧ s.regionAt (q.off / 4096) = some (j, r) ∧ ((r.role.engineOnly = true ∧ q.agent
    ≠ engineAgent) ∨ r.state = .releasing) ∧ q.op = none := by
  refine ⟨tapS [] [queuedW] .releasing, queuedW, [], 1, reg 100 4 .data .releasing, ?_, ?_, ?_, ?_, ?_, (.inr (by decide +kernel)), ?_⟩ <;>
    decide +kernel

theorem witness_WritesArriveAtTheTap_6 : ∃ (s : State) (q : Queued) (l : List Queued) (j : _) (r : _), s.tap.queue = q :: l ∧ s.heldWrites <
    32 ∧ q.data ≠ [] ∧ q.off % 4096 + q.data.length ≤ 4096 ∧ s.regionAt (q.off / 4096) = some (j, r) ∧ r.role.captured = true ∧ r.state ≠
    .releasing ∧ s.restoring j = false := by
  refine ⟨tapS [] [queuedW], queuedW, [], 1, reg 100 4, ?_, ?_, ?_, ?_, ?_, ?_, ?_, ?_⟩ <;> decide +kernel

/-- A read of tile 100 by agent 0 in flight, and its entry. -/
def inflight7 : Inflight := ⟨7, 0, 100, false⟩
def pairE : PairEntry := ⟨[1#8], 1#64, 0#64, 2000⟩
def pairS (edge : Nat) : State :=
  { tapS [] with boot := { live.boot with mclk := BitVec.ofNat 64 edge }, tap := { live.tap with inflight := [inflight7], pairs := [(100, pairE)] } }
def readS : State := { tapS [] with tap := { live.tap with inflight := [inflight7] } }
/-- A slot that is not fully written. -/
def deltaD (closed : Bool) (opened : Nat) (step : Option Nat := none) : Delta :=
  { region := 1, tile := 0, delta := [1#8], written := 4#64, opened := opened, step := step, base := none, readback := step.isSome, closed := closed
    discard := false, waiting := false, bank := 0, stepNo := 0, gen := 0, tbank := 0, msgs := 0, order := 0, noted := false, settle := false
    carried := none }
def slotD (x : Delta) (h : List Held := []) : State := let s := tapS h; { s with tap := { s.tap with slots := [(0, x)] } }

theorem witness_PairingAndAssemblyTimers_1 : ∃ (tile : Nat), stackTiles ≤ tile :=
  ⟨stackTiles, by decide +kernel⟩

theorem witness_PairingAndAssemblyTimers_2 : ∃ (tile : Nat), tile < stackTiles :=
  ⟨100, by decide +kernel⟩

theorem witness_PairingAndAssemblyTimers_3 : ∃ (s : State) (rid : Nat) (q : Inflight), s.tap.inflight.find? (fun x => x.rid == rid) = some q
    ∧ s.tap.pairs.get q.tile = none :=
  ⟨readS, 7, inflight7, by decide +kernel, by decide +kernel⟩

theorem witness_PairingAndAssemblyTimers_4 : ∃ (s : State) (tile : Nat) (e : PairEntry), s.tap.pairs.get tile = some e ∧ e.edge + 1600 *
    s.rf 0x010C 0 10 ≤ s.boot.mclk.toNat :=
  ⟨pairS 2000000, 100, pairE, by decide +kernel, by decide +kernel⟩

theorem witness_PairingAndAssemblyTimers_5 : ∃ (s : State) (tile : Nat) (e : PairEntry), s.tap.pairs.get tile = some e ∧ s.boot.mclk.toNat <
    e.edge + 1600 * s.rf 0x010C 0 10 :=
  ⟨pairS 2000, 100, pairE, by decide +kernel, by decide +kernel⟩

theorem witness_PairingAndAssemblyTimers_6 : ∃ (s : State) (slot : Nat) (d : Delta), s.tap.slots.get slot = some d ∧ d.closed = false ∧
    s.tap.held.any (fun h => h.slot == some slot) = false ∧ d.written ≠ allSectors ∧ s.past d.opened (25 * s.rf 0x010C 10 6) = true := by
  refine ⟨slotD (deltaD false 0), 0, deltaD false 0, ?_, ?_, ?_, ?_, ?_⟩ <;> decide +kernel

theorem witness_PairingAndAssemblyTimers_7 : ∃ (s : State) (slot : Nat) (d : Delta), s.tap.slots.get slot = some d ∧ d.closed = false ∧
    s.tap.held.any (fun h => h.slot == some slot) = false ∧ d.written ≠ allSectors ∧ s.past d.opened (25 * s.rf 0x010C 10 6) = false := by
  refine ⟨slotD (deltaD false live.now), 0, deltaD false live.now, ?_, ?_, ?_, ?_, ?_⟩ <;> decide +kernel

/-- An error response for a sector of tile 100. -/
def bad100 (sector : Nat) : Ext := [(adr 100 + 64 * sector, .error)]
/-- What a read of tile 0 of region 1 gives then. -/
def badRead (s : State) (k : Nat) : Option (List Byte) × State := s.readTile (bad100 k) 1 (reg 100 4) 0

theorem witness_TapReadsReturn_1 : ∃ (s : State) (w : Nat) (ext : Ext) (h : Held) (r : Region), s.tap.held.find? (fun x => x.id == w &&
    x.cap == .ownRead) = some h ∧ s.regions.get h.region = some r ∧ r.strengthAt h.tile = 0 ∧ (s.tileRaw ext (r.tileBase + h.tile)).2.any
    (fun i => h.need.getLsbD i) = false :=
  ⟨tapS [heldW 0 .ownRead], 0, [], heldW 0 .ownRead, reg 100 4, by decide +kernel, by decide +kernel, by decide +kernel, by decide +kernel⟩

theorem witness_TapReadsReturn_2 : ∃ (s : State) (w : Nat) (ext : Ext) (h : Held) (r : Region) (s1 : _), s.tap.held.find? (fun x => x.id ==
    w && x.cap == .ownRead) = some h ∧ s.regions.get h.region = some r ∧ r.strengthAt h.tile = 0 ∧ (s.tileRaw ext (r.tileBase +
    h.tile)).2.any (fun i => h.need.getLsbD i) = true ∧ s.readTile ext h.region r h.tile = (none, s1) :=
  ⟨tapS [heldW 0 .ownRead], 0, bad100 2, heldW 0 .ownRead, reg 100 4, (badRead (tapS [heldW 0 .ownRead]) 2).2, by decide +kernel,
    by decide +kernel, by decide +kernel, by decide +kernel, pair_none (by decide +kernel)⟩

theorem witness_TapReadsReturn_3 : ∃ (s : State) (s1 : State) (slot : Nat) (ext : Ext) (d : Delta) (r : Region) (r1 : Region) (clean : Bool)
    (v : _), s.tap.slots.get slot = some d ∧ d.closed = true ∧ d.waiting = false ∧ d.msgs = 0 ∧ s.regions.get d.region = some r ∧ clean =
    (r.strengthAt d.tile == 0 && (s.tileRaw ext (r.tileBase + d.tile)).2.all (fun i => d.written.getLsbD i)) ∧ (clean = true ∧ s1 = s ∨
    clean = false ∧ s.readTile ext d.region r d.tile = (some v, s1)) ∧ s1.regions.get d.region = some r1 ∧ s1.tap.slots.get slot = some d := by
  refine ⟨slotD (deltaD true 0), slotD (deltaD true 0), 0, [], deltaD true 0, reg 100 4, reg 100 4, true, [], ?_, ?_, ?_, ?_, ?_, ?_,
    (.inl ⟨rfl, rfl⟩), ?_, ?_⟩ <;> decide +kernel

theorem witness_TapReadsReturn_4 : ∃ (s : State) (s1 : State) (slot : Nat) (ext : Ext) (d : Delta) (r : Region) (clean : Bool),
    s.tap.slots.get slot = some d ∧ d.closed = true ∧ d.waiting = false ∧ d.msgs = 0 ∧ s.regions.get d.region = some r ∧ clean =
    (r.strengthAt d.tile == 0 && (s.tileRaw ext (r.tileBase + d.tile)).2.all (fun i => d.written.getLsbD i)) ∧ clean = false ∧ s.readTile
    ext d.region r d.tile = (none, s1) := by
  refine ⟨slotD (deltaD true 0), (badRead (slotD (deltaD true 0)) 0).2, 0, bad100 0, deltaD true 0, reg 100 4, false, ?_, ?_, ?_, ?_, ?_, ?_,
    ?_, (pair_none (by decide +kernel))⟩ <;> decide +kernel

/-- A region with a log in region 6. -/
def logged : Region := { reg 100 4 .data .live 6 with log := true, logBlock := some 0 }
def logArea : Region := reg 700 64 .deltaLog
def logDelta : Delta := deltaD false 0 (some 12)
def logHeld : Held := heldW 0 .logRead (some 0) (some 12)
def logW : State := { slotD logDelta [logHeld] with regions := [(1, logged), (6, logArea)] }
def logBack : Option (List Byte) × State := logW.readPlain [] 6 logArea 0

theorem witness_TapReadsReturn_5 : ∃ (s : State) (s1 : State) (slot : Nat) (j : Nat) (lt : Nat) (j1 : Nat) (lt1 : Nat) (n : Nat) (ext : Ext)
    (h : Held) (d : Delta) (r : Region) (q : Region) (q1 : Region) (v : List Byte) (old : List Byte), s.tap.held.find? (fun x => x.cap ==
    .logRead && x.slot == some slot) = some h ∧ s.tap.slots.get slot = some d ∧ s.regions.get d.region = some r ∧ h.region = d.region ∧
    h.tile = d.tile ∧ d.step = some n ∧ s.logTile r (s.bankOf r n) d.tile = some (j, q, lt) ∧ s.readPlain ext j q lt = (some v, s1) ∧
    h.inStep = some n ∧ r.role.captured = true ∧ r.log = true ∧ s1.tap.slots.get slot = some d ∧ s1.logTile r (s1.bankOf r n) d.tile = some
    (j1, q1, lt1) ∧ q1.lineApart lt1 ∧ old = s1.tileBytes r d.tile := by
  refine ⟨logW, logBack.2, 0, 6, 0, 6, 0, 12, [], logHeld, logDelta, logged, logArea, logArea, logBack.1.getD [], logBack.2.tileBytes logged
    0, ?_, ?_, ?_, ?_, ?_, ?_, ?_, (pair_some [] (by decide +kernel)), ?_, ?_, ?_, ?_, ?_, (apart_of (by decide +kernel)), (rfl)⟩ <;>
    decide +kernel

/-- A parked delta of step 4, whose log tile is tile 0 of region 6. -/
def parked : ParkRef := ⟨1, 0, 0, 4, 0, 0⟩
def parkS (l : List ParkRef) : State :=
  { live with regions := [(1, logged), (6, logArea)], tap := { live.tap with park := l }, port := { live.port with sctx := [(3, ctx0)] } }
def parkLeft : State := let s := parkS [parked]; { s with tap := { s.tap with park := s.tap.park.filter (fun x => x != parked) } }
def parkRead : Option (List Byte) × State := parkLeft.readPlain [] 6 logArea 0
def parkBad : Option (List Byte) × State := parkLeft.readPlain [(adr 700, .error)] 6 logArea 0

theorem witness_TapReadsReturn_6 : ∃ (s : State) (ext : Ext) (p : ParkRef) (r : Region) (q : Region) (j : Nat) (lt : Nat) (v : _) (s1 : _),
    s.nextParked = some p ∧ s.codeFree ≠ 0 ∧ s.regions.get p.region = some r ∧ s.logTile r p.bank p.tile = some (j, q, lt) ∧ ({ s with tap
    := { s.tap with park := s.tap.park.filter (fun x => x != p) } } : State).readPlain ext j q lt = (some v, s1) :=
  ⟨parkS [parked], [], parked, logged, logArea, 6, 0, parkRead.1.getD [], parkRead.2, by decide +kernel, by decide +kernel, by decide +kernel,
    by decide +kernel, pair_some [] (by decide +kernel)⟩

theorem witness_TapReadsReturn_7 : ∃ (s : State) (ext : Ext) (p : ParkRef) (r : Region) (q : Region) (j : Nat) (lt : Nat) (s1 : _),
    s.nextParked = some p ∧ s.codeFree ≠ 0 ∧ s.regions.get p.region = some r ∧ s.logTile r p.bank p.tile = some (j, q, lt) ∧ ({ s with tap
    := { s.tap with park := s.tap.park.filter (fun x => x != p) } } : State).readPlain ext j q lt = (none, s1) :=
  ⟨parkS [parked], [(adr 700, .error)], parked, logged, logArea, 6, 0, parkBad.2, by decide +kernel, by decide +kernel, by decide +kernel,
    by decide +kernel, pair_none (by decide +kernel)⟩

/-! ## Messages -/

/-- A message of stripe 1 and step 4 in the send context. -/
def msg (st : MsgState) (tries : Nat) (bank : Nat := 3) : Msg :=
  { seq := 6, stripe := 1, bank := bank, step := 4, slot := 0, coef := 3#8, gen := 1, st := st, tries := tries, path := 0, onPath := 0, timeout := 600
    first := live.now - 1000, due := live.now - 10, handoff := 0, settle := false }
def sentLate : Msg := { msg .sent 2 with first := 0 }
def sentEarly : Msg := { msg .sent 1 with due := live.now + 10 }
/-- The context with messages; the parity member of its sheaf is on another engine. -/
def ctxWith (l : List Msg) : SendCtx := { ctx0 with msgs := l }
def sendS (l : List Msg) : State :=
  { fam with sheaves := [(9, ⟨2, 1, 0, 0, 0, coefCrc, 1, [member 1 4, member 2 4, member 4 4 1]⟩)], port := { fam.port with sctx := [(3, ctxWith l)] } }
/-- The same without a credit. -/
def stalled : State := { sendS [msg .queued 0] with regs := [(0x0144, 0#32), (0x0148, 0#32)] }

theorem witness_MessagesAreTriedAndFail_1 : ∃ (s : State) (n : Nat) (c : SendCtx) (m : Msg), s.port.sctx.get n = some c ∧ c.msgs.find? (fun
    x => x.st == .queued) = some m ∧ c.msgs.find? (fun x => x.seq == m.seq) = some m ∧ s.mayTry c m = true ∧ s.creditOk (s.level (gaddr
    c.node c.agent 0)) 1 1 = true := by
  refine ⟨sendS [msg .queued 0], 3, ctxWith [msg .queued 0], msg .queued 0, ?_, ?_, ?_, ?_, ?_⟩ <;> decide +kernel

theorem witness_MessagesAreTriedAndFail_2 : ∃ (s : State) (n : Nat) (c : SendCtx) (m : Msg), s.port.sctx.get n = some c ∧ c.msgs.find? (fun
    x => x.st == .queued) = some m ∧ c.msgs.find? (fun x => x.seq == m.seq) = some m ∧ s.mayTry c m = true ∧ s.creditOk (s.level (gaddr
    c.node c.agent 0)) 1 1 = false := by
  refine ⟨stalled, 3, ctxWith [msg .queued 0], msg .queued 0, ?_, ?_, ?_, ?_, ?_⟩ <;> decide +kernel

theorem witness_MessagesAreTriedAndFail_3 : ∃ (s : State) (n : Nat) (seq : Nat) (c : SendCtx) (m : Msg), s.port.sctx.get n = some c ∧
    c.msgs.find? (fun x => x.seq == seq && x.st == .sent) = some m ∧ c.msgs.find? (fun x => x.seq == seq) = some m ∧ 0 < m.tries ∧ m.due ≤
    s.now ∧ m.tries < 64 ∧ s.now < m.first + 1000000 ∧ s.mayTry c m = true := by
  refine ⟨sendS [msg .sent 1], 3, 6, ctxWith [msg .sent 1], msg .sent 1, ?_, ?_, ?_, ?_, ?_, ?_, ?_, ?_⟩ <;> decide +kernel

theorem witness_MessagesAreTriedAndFail_4 : ∃ (s : State) (n : Nat) (seq : Nat) (c : SendCtx) (m : Msg), s.port.sctx.get n = some c ∧
    c.msgs.find? (fun x => x.seq == seq && x.st == .sent) = some m ∧ c.msgs.find? (fun x => x.seq == seq) = some m ∧ 0 < m.tries ∧ s.now <
    m.due ∧ s.now < m.first + 1000000 := by
  refine ⟨sendS [sentEarly], 3, 6, ctxWith [sentEarly], sentEarly, ?_, ?_, ?_, ?_, ?_, ?_⟩ <;> decide +kernel

theorem witness_MessagesAreTriedAndFail_5 : ∃ (s : State) (n : Nat) (seq : Nat) (c : SendCtx) (m : Msg), s.port.sctx.get n = some c ∧
    c.msgs.find? (fun x => x.seq == seq && x.st == .sent) = some m ∧ c.msgs.find? (fun x => x.seq == seq) = some m ∧ 0 < m.tries ∧ ((m.due ≤
    s.now ∧ 64 ≤ m.tries) ∨ m.first + 1000000 ≤ s.now) :=
  ⟨sendS [sentLate], 3, 6, ctxWith [sentLate], sentLate, by decide +kernel, by decide +kernel, by decide +kernel, by decide +kernel,
    .inr (by decide +kernel)⟩

/-! ## ACCUM packets -/

/-- Packet 2 of message 6 of member 0, for stripe 1 of the committed parity. -/
def accumHdr : Hdr :=
  { typ := 1, pkt := 2, cls := 1, job := 7, sheaf := 9, src := 0, dst := 2, bank := 3, sctx := 3, stripe := 1, seq := 6, epoch := 1, step := 4, lag := 1 }
def accumPkt : List Byte := accumHdr.packet (tileOne.take 512)
def wrongClass : Hdr := { accumHdr with cls := 2 }
/-- One SEQ of the receive window, and the context. -/
def rx (st : RxState) (mask : Nat) (place : Option Nat := none) (first : Nat := live.now) : Rx :=
  { st := st, mask := mask, data := [], header := accumHdr.bytes, first := first, place := place }
def rctx0 (l : Tab Rx) : RecvCtx := { region := 4, sheaf := 9, src := 0, base := 5, win := l, floor := none }
def recvS (l : Tab Rx) : State := { fam with regs := [(0x0104, 500000#32), (0x0108, 16384#32)], port := { fam.port with rctx := [(2, rctx0 l)] } }
/-- Landing of one unit with 24 complete messages, and no spill area. -/
def fullS (e : Option (Nat × Nat)) : State :=
  let s := recvS ((List.range 24).map (fun i => (i, rx .applying 255)))
  { s with regs := [(0x0100, BitVec.ofNat 32 (0x04200310 + 0x1000)), (0x0108, 0#32)], port := { s.port with spillEvent := e } }
def noSpill (l : Tab Rx) : State := { recvS l with regs := [(0x0108, 0#32)] }

theorem witness_AccumPacketsAssemble_1 : ∃ (s : State) (v : List Byte), s.aligned = true ∧ trailerOk v = false :=
  ⟨fam, zeros 40, by decide +kernel, by decide +kernel⟩

theorem witness_AccumPacketsAssemble_2 : ∃ (s : State) (v : List Byte), s.aligned = true ∧ trailerOk v = true ∧ (Hdr.parse v).typ = 1 ∧
    (Hdr.parse v).cls ≠ 1 :=
  ⟨fam, wrongClass.packet (zeros 512), by decide +kernel, packet_trailer _ _, by decide +kernel, by decide +kernel⟩

theorem witness_AccumPacketsAssemble_3 : ∃ (s : State) (v : List Byte), s.aligned = true ∧ trailerOk v = true ∧ (Hdr.parse v).typ = 1 ∧
    (Hdr.parse v).cls = 1 ∧ s.overflow = true :=
  ⟨fullS none, accumPkt, by decide +kernel, packet_trailer _ _, by decide +kernel, by decide +kernel, by decide +kernel⟩

theorem witness_AccumPacketsAssemble_4 : ∃ (s : State) (n : Nat) (j : Nat) (v : List Byte) (h : Hdr) (r : Region) (sh : Sheaf) (x : Member)
    (c : RecvCtx) (p : RecvCtx), s.aligned = true ∧ trailerOk v = true ∧ h = Hdr.parse v ∧ h.typ = 1 ∧ h.cls = 1 ∧ s.overflow = false ∧
    s.localMember h.sheaf h.dst = some (j, r) ∧ s.sheaves.get h.sheaf = some sh ∧ sh.k ≤ h.dst ∧ h.src < sh.k ∧ h.job = r.jobTag ∧ h.epoch =
    r.epoch ∧ sh.mem? h.src = some x ∧ h.stripe < r.tileCount ∧ h.stripe < x.tiles ∧ (h.bank = 3 ∨ h.bank = h.step % (sh.dMax + 1)) ∧
    (s.isLocal x = true ∨ x.matched = true) ∧ s.port.rctx.find? (fun p => p.2.region == j && p.2.src == h.src) = some (n, p) ∧
    s.port.rctx.get n = some c ∧ c.floor = none ∧ h.lag = (h.seq + 2 ^ 32 - c.base) % 2 ^ 32 ∧ c.base < 2 ^ 32 ∧ (c.win.get c.base).map (fun
    y => y.st) ≠ some .done ∧ c.win.get h.seq = none ∧ ⟨n, h.seq⟩ ∉ s.port.applyQ := by
  refine ⟨recvS [], 2, 4, accumPkt, accumHdr, fam4, sheaf9, member 1 4, rctx0 [], rctx0 [], ?_, (packet_trailer _ _), ?_, ?_, ?_, ?_, ?_, ?_,
    ?_, ?_, ?_, ?_, ?_, ?_, ?_, (.inl (by decide +kernel)), (.inl (by decide +kernel)), ?_, ?_, ?_, ?_, ?_, ?_, ?_, ?_⟩ <;> decide +kernel

theorem witness_AccumPacketsAssemble_5 : ∃ (s : State) (n : Nat) (j : Nat) (v : List Byte) (h : Hdr) (r : Region) (sh : Sheaf) (x : Member)
    (c : RecvCtx) (p : RecvCtx) (y : _), s.aligned = true ∧ trailerOk v = true ∧ h = Hdr.parse v ∧ h.typ = 1 ∧ h.cls = 1 ∧ s.overflow =
    false ∧ s.localMember h.sheaf h.dst = some (j, r) ∧ s.sheaves.get h.sheaf = some sh ∧ sh.k ≤ h.dst ∧ h.src < sh.k ∧ h.job = r.jobTag ∧
    h.epoch = r.epoch ∧ sh.mem? h.src = some x ∧ h.stripe < r.tileCount ∧ h.stripe < x.tiles ∧ (h.bank = 3 ∨ h.bank = h.step % (sh.dMax +
    1)) ∧ (s.isLocal x = true ∨ x.matched = true) ∧ s.port.rctx.find? (fun p => p.2.region == j && p.2.src == h.src) = some (n, p) ∧
    s.port.rctx.get n = some c ∧ c.floor = none ∧ h.lag = (h.seq + 2 ^ 32 - c.base) % 2 ^ 32 ∧ c.base < 2 ^ 32 ∧ (c.win.get c.base).map (fun
    y => y.st) ≠ some .done ∧ c.win.get h.seq = some y ∧ y.st = .assembling ∧ (Hdr.parse y.header).fixed = h.fixed ∧ bitAt y.mask h.pkt =
    false ∧ y.mask + 2 ^ h.pkt = 255 := by
  refine ⟨recvS [(6, rx .assembling 251)], 2, 4, accumPkt, accumHdr, fam4, sheaf9, member 1 4, rctx0 [(6, rx .assembling 251)], rctx0 [(6, rx
    .assembling 251)], rx .assembling 251, ?_, (packet_trailer _ _), ?_, ?_, ?_, ?_, ?_, ?_, ?_, ?_, ?_, ?_, ?_, ?_, ?_,
    (.inl (by decide +kernel)), (.inl (by decide +kernel)), ?_, ?_, ?_, ?_, ?_, ?_, ?_, ?_, ?_, ?_, ?_⟩ <;> decide +kernel

theorem witness_AccumPacketsAssemble_6 : ∃ (s : State) (n : Nat) (j : Nat) (v : List Byte) (h : Hdr) (r : Region) (sh : Sheaf) (x : Member)
    (c : RecvCtx) (p : RecvCtx) (y : _) (q : _), s.aligned = true ∧ trailerOk v = true ∧ h = Hdr.parse v ∧ h.typ = 1 ∧ h.cls = 1 ∧
    s.overflow = false ∧ s.localMember h.sheaf h.dst = some (j, r) ∧ s.sheaves.get h.sheaf = some sh ∧ sh.k ≤ h.dst ∧ h.src < sh.k ∧ h.job =
    r.jobTag ∧ h.epoch = r.epoch ∧ sh.mem? h.src = some x ∧ h.stripe < r.tileCount ∧ h.stripe < x.tiles ∧ (h.bank = 3 ∨ h.bank = h.step %
    (sh.dMax + 1)) ∧ (s.isLocal x = true ∨ x.matched = true) ∧ s.port.rctx.find? (fun p => p.2.region == j && p.2.src == h.src) = some (n,
    p) ∧ s.port.rctx.get n = some c ∧ c.floor = none ∧ h.lag = (h.seq + 2 ^ 32 - c.base) % 2 ^ 32 ∧ c.base < 2 ^ 32 ∧ (c.win.get c.base).map
    (fun y => y.st) ≠ some .done ∧ c.win.get h.seq = some y ∧ y.st = .assembling ∧ y.place = some q ∧ (Hdr.parse y.header).fixed = h.fixed ∧
    s.port.applyQ = [] ∧ bitAt y.mask h.pkt = false ∧ y.mask + 2 ^ h.pkt ≠ 255 := by
  refine ⟨recvS [(6, rx .assembling 1 (some 0))], 2, 4, accumPkt, accumHdr, fam4, sheaf9, member 1 4, rctx0 [(6, rx .assembling 1 (some 0))],
    rctx0 [(6, rx .assembling 1 (some 0))], rx .assembling 1 (some 0), 0, ?_, (packet_trailer _ _), ?_, ?_, ?_, ?_, ?_, ?_, ?_, ?_, ?_, ?_,
    ?_, ?_, ?_, (.inl (by decide +kernel)), (.inl (by decide +kernel)), ?_, ?_, ?_, ?_, ?_, ?_, ?_, ?_, ?_, ?_, ?_, ?_, ?_⟩ <;>
    decide +kernel

theorem witness_AccumPacketsAssemble_7 : ∃ (s : State) (n : Nat) (seq : Nat) (c : RecvCtx) (x : Rx) (p : _), s.port.rctx.get n = some c ∧
    c.win.get seq = some x ∧ x.st = .assembling ∧ x.place = none ∧ s.past x.first 20000 = true ∧ s.spillPlace = some p := by
  refine ⟨recvS [(6, rx .assembling 3 none (live.now - 20000))], 2, 6, rctx0 [(6, rx .assembling 3 none (live.now - 20000))], rx .assembling 3
    none (live.now - 20000), 0, ?_, ?_, ?_, ?_, ?_, ?_⟩ <;> decide +kernel

theorem witness_AccumPacketsAssemble_8 : ∃ (s : State) (n : Nat) (seq : Nat) (c : RecvCtx) (x : Rx), s.port.rctx.get n = some c ∧ c.win.get
    seq = some x ∧ x.st = .assembling ∧ x.place = none ∧ s.past x.first 20000 = true ∧ s.spillPlace = none := by
  refine ⟨noSpill [(6, rx .assembling 3 none (live.now - 20000))], 2, 6, rctx0 [(6, rx .assembling 3 none (live.now - 20000))], rx .assembling
    3 none (live.now - 20000), ?_, ?_, ?_, ?_, ?_, ?_⟩ <;> decide +kernel

theorem witness_AccumPacketsAssemble_9 : ∃ (s : State) (n : Nat) (seq : Nat) (c : RecvCtx) (x : Rx) (p : _), s.port.rctx.get n = some c ∧
    c.win.get seq = some x ∧ x.st = .assembling ∧ x.place = some p ∧ s.past x.first 2000000 = true := by
  refine ⟨recvS [(6, rx .assembling 3 (some 0) 0)], 2, 6, rctx0 [(6, rx .assembling 3 (some 0) 0)], rx .assembling 3 (some 0) 0, 0, ?_, ?_,
    ?_, ?_, ?_⟩ <;> decide +kernel

theorem witness_AccumPacketsAssemble_10 : ∃ (s : State) (since : Nat) (cls : Nat), s.port.spillEvent = some (since, cls) ∧ s.overflow =
    false :=
  ⟨let s := recvS []; { s with port := { s.port with spillEvent := some (5, 1) } }, 5, 1, by decide +kernel, by decide +kernel⟩

theorem witness_AccumPacketsAssemble_11 : ∃ (s : State) (since : Nat) (cls : Nat), s.port.spillEvent = some (since, cls) ∧ s.overflow = true
    ∧ s.past since 100000 = true :=
  ⟨fullS (some (5, 1)), 5, 1, by decide +kernel, by decide +kernel, by decide +kernel⟩

/-! ## Applies -/

/-- A complete message of a bank and a step. -/
def applyHdr (bank step : Nat) : Hdr := { accumHdr with bank := bank, step := step }
def applyRx (bank step : Nat) : Rx := { rx .applying 255 with data := tileOne, header := (applyHdr bank step).bytes }
def applyCtx (bank step : Nat) : RecvCtx := rctx0 [(6, applyRx bank step)]
/-- It is in its queue; step 3 is confirmed and step 4 live. -/
def applyM (bank step : Nat) (l : Nat := 0) : State :=
  { fam with
    port := { fam.port with rctx := [(2, applyCtx bank step)], applyQ := [⟨2, 6⟩], applyLast := l }
    sets := [(0, { SetTab.new 0 with c := 3, h := 9, n := some 10, live := [(4, false)] })] }
/-- Its queue, and another message in front of a queue of its own. -/
def queue1 : Nat := applyQueue 1
def otherRx : Rx := { applyRx 3 4 with header := { accumHdr with stripe := 2 }.bytes }
def turnS : State :=
  let s := applyM 3 4 ((applyQueue 2 + 63) % 64)
  { s with port := { s.port with rctx := [(2, rctx0 [(6, applyRx 3 4), (7, otherRx)])], applyQ := [⟨2, 6⟩, ⟨2, 7⟩] } }
def lanesGone (bank step : Nat) : State := let s := applyM bank step; { s with boot := { s.boot with lanes := 0#32 } }
def busyS : State := { applyM 0 4 with banks := [(bankKey 3 0, ⟨.active, 2, 0⟩)] }
/-- What the apply reads. -/
def applyRead : Option (List Byte) × State := (applyM 3 4).readApply [] 4 fam4 1
def bankRead : Option (List Byte) × State := (applyM 0 4).readApply [] 3 (reg 300 12 .pending) 1

theorem witness_CompleteMessagesApply_1 : ∃ (s : State) (k : Nat) (a : Apply) (c : RecvCtx) (x : Rx) (r : Region) (h : Hdr), s.applyFront k
    = some a ∧ s.port.rctx.get a.ctx = some c ∧ c.win.get a.seq = some x ∧ s.regions.get c.region = some r ∧ h = Hdr.parse x.header ∧
    s.applyBlocked a = false ∧ s.applyTurn k = false := by
  refine ⟨turnS, queue1, ⟨2, 6⟩, rctx0 [(6, applyRx 3 4), (7, otherRx)], applyRx 3 4, fam4, applyHdr 3 4, ?_, (rfl), (rfl), ?_, ?_, ?_, ?_⟩
    <;> decide +kernel

theorem witness_CompleteMessagesApply_2 : ∃ (s : State) (k : Nat) (ext : Ext) (a : Apply) (c : RecvCtx) (x : Rx) (r : Region) (h : Hdr) (v :
    _) (s1 : _) (r1 : _), s.applyFront k = some a ∧ s.port.rctx.get a.ctx = some c ∧ c.win.get a.seq = some x ∧ s.regions.get c.region =
    some r ∧ h = Hdr.parse x.header ∧ h.bank = 3 ∧ s.applyBlocked a = false ∧ s.applyTurn k = true ∧ s.encoding c.region = false ∧
    s.boot.lanes ≠ 0#32 ∧ s.laneReady = true ∧ s.readApply ext c.region r h.stripe = (some v, s1) ∧ s1.boot.lanes ≠ 0#32 ∧ s1.regions.get
    c.region = some r1 ∧ (s.rxData x).length = 4096 ∧ v.length = 4096 ∧ r.lineApart h.stripe := by
  refine ⟨applyM 3 4, queue1, [], ⟨2, 6⟩, applyCtx 3 4, applyRx 3 4, fam4, applyHdr 3 4, applyRead.1.getD [], applyRead.2, fam4, ?_, (rfl),
    (rfl), ?_, ?_, ?_, ?_, ?_, ?_, ?_, ?_, (pair_some [] (by decide +kernel)), ?_, ?_, ?_, ?_, (apart_of (by decide +kernel))⟩ <;>
    decide +kernel

theorem witness_CompleteMessagesApply_3 : ∃ (s : State) (k : Nat) (ext : Ext) (a : Apply) (c : RecvCtx) (x : Rx) (r : Region) (h : Hdr) (v :
    _) (s1 : _) (p : _), s.applyFront k = some a ∧ s.port.rctx.get a.ctx = some c ∧ c.win.get a.seq = some x ∧ s.regions.get c.region = some
    r ∧ h = Hdr.parse x.header ∧ h.bank ≠ 3 ∧ s.applyBlocked a = false ∧ s.applyTurn k = true ∧ s.bankDecision r h.bank h.step = .apply ∧
    s.regions.get r.link = some p ∧ s.boot.lanes ≠ 0#32 ∧ s.laneReady = true ∧ s.readApply ext r.link p (h.bank * r.tileCount + h.stripe) =
    (some v, s1) ∧ s1.boot.lanes ≠ 0#32 ∧ (s.rxData x).length = 4096 ∧ v.length = 4096 ∧ p.lineApart (h.bank * r.tileCount + h.stripe) := by
  refine ⟨applyM 0 4, queue1, [], ⟨2, 6⟩, applyCtx 0 4, applyRx 0 4, fam4, applyHdr 0 4, bankRead.1.getD [], bankRead.2, reg 300 12 .pending,
    ?_, (rfl), (rfl), ?_, ?_, ?_, ?_, ?_, ?_, ?_, ?_, ?_, (pair_some [] (by decide +kernel)), ?_, ?_, ?_, (apart_of (by decide +kernel))⟩
    <;> decide +kernel

theorem witness_CompleteMessagesApply_4 : ∃ (s : State) (k : Nat) (a : Apply) (c : RecvCtx) (x : Rx) (r : Region) (h : Hdr), s.applyFront k
    = some a ∧ s.port.rctx.get a.ctx = some c ∧ c.win.get a.seq = some x ∧ s.regions.get c.region = some r ∧ h = Hdr.parse x.header ∧ h.bank
    = 3 ∧ s.applyBlocked a = false ∧ s.applyTurn k = true ∧ s.encoding c.region = false ∧ s.boot.lanes = 0#32 := by
  refine ⟨lanesGone 3 4, queue1, ⟨2, 6⟩, applyCtx 3 4, applyRx 3 4, fam4, applyHdr 3 4, ?_, (rfl), (rfl), ?_, ?_, ?_, ?_, ?_, ?_, ?_⟩ <;>
    decide +kernel

theorem witness_CompleteMessagesApply_5 : ∃ (s : State) (k : Nat) (a : Apply) (c : RecvCtx) (x : Rx) (r : Region) (h : Hdr), s.applyFront k
    = some a ∧ s.port.rctx.get a.ctx = some c ∧ c.win.get a.seq = some x ∧ s.regions.get c.region = some r ∧ h = Hdr.parse x.header ∧ h.bank
    ≠ 3 ∧ (s.applyBlocked a = true ∨ s.applyTurn k = true) ∧ s.bankDecision r h.bank h.step = .busy := by
  refine ⟨busyS, queue1, ⟨2, 6⟩, applyCtx 0 4, applyRx 0 4, fam4, applyHdr 0 4, ?_, (rfl), (rfl), ?_, ?_, ?_, (.inr (by decide +kernel)), ?_⟩
    <;> decide +kernel

theorem witness_CompleteMessagesApply_6 : ∃ (s : State) (k : Nat) (a : Apply) (c : RecvCtx) (x : Rx) (r : Region) (h : Hdr) (late : _),
    s.applyFront k = some a ∧ s.port.rctx.get a.ctx = some c ∧ c.win.get a.seq = some x ∧ s.regions.get c.region = some r ∧ h = Hdr.parse
    x.header ∧ h.bank ≠ 3 ∧ (s.applyBlocked a = true ∨ s.applyTurn k = true) ∧ s.bankDecision r h.bank h.step = .discard late := by
  refine ⟨applyM 0 2, queue1, ⟨2, 6⟩, applyCtx 0 2, applyRx 0 2, fam4, applyHdr 0 2, true, ?_, (rfl), (rfl), ?_, ?_, ?_,
    (.inr (by decide +kernel)), ?_⟩ <;> decide +kernel

/-! ## Acknowledgements -/

/-- An entry of an ACK packet (Table 5-6): context, kind, status, SEQ, epoch. -/
def ackEnt (ctx kind st ep : Nat) : List Byte := leBytes 2 (ctx + 1024 * kind) ++ leBytes 2 st ++ leBytes 4 6 ++ leBytes 4 ep ++ zeros 4
def ackPkt (e : List Byte) : List Byte := ({ typ := 2, cls := 1, count := 1 } : Hdr).packet e
/-- An entry of the engine's own waits to be sent. -/
def ackS (l : List Msg) : State := let s := sendS l; { s with port := { s.port with acks := [⟨16, 7, live.now - 60, 9, 1, [⟨3, 0, 0, 6, 0⟩]⟩] } }

theorem witness_AcknowledgementsRetireMessages_1 : ∃ (s : State), s.aligned = true :=
  ⟨ackS [], by decide +kernel⟩

theorem witness_AcknowledgementsRetireMessages_2 : ∃ (s : State) (src : Nat) (v : List Byte) (e : List Byte) (c : _) (m : _), s.aligned =
    true ∧ trailerOk v = true ∧ (Hdr.parse v).typ = 2 ∧ (Hdr.parse v).count = 1 ∧ e = slice (payloadOf v) 0 16 ∧ s.port.sctx.get (bits
    (field e 0 2) 0 10) = some c ∧ c.msgs.find? (fun m => m.seq == field e 4 4 && (m.st == .sent || m.st == .fenced)) = some m ∧ c.key = src
    ∧ bits (field e 0 2) 10 2 ≠ 3 := by
  refine ⟨ackS [msg .sent 1], 16, ackPkt (ackEnt 3 0 0 0), ackEnt 3 0 0 0, ctxWith [msg .sent 1], msg .sent 1, ?_, (packet_trailer _ _), ?_,
    ?_, ?_, ?_, ?_, ?_, ?_⟩ <;> decide +kernel

theorem witness_AcknowledgementsRetireMessages_3 : ∃ (s : State) (src : Nat) (v : List Byte) (e : List Byte) (c : _) (m : _) (r : _),
    s.aligned = true ∧ trailerOk v = true ∧ (Hdr.parse v).typ = 2 ∧ (Hdr.parse v).count = 1 ∧ e = slice (payloadOf v) 0 16 ∧ s.port.sctx.get
    (bits (field e 0 2) 0 10) = some c ∧ c.msgs.find? (fun m => m.seq == field e 4 4 && (m.st == .sent || m.st == .fenced)) = some m ∧ c.key
    = src ∧ bits (field e 0 2) 10 2 = 3 ∧ field e 2 2 = stStaleEpoch ∧ s.regions.get c.region = some r ∧ r.epoch < field e 8 4 := by
  refine ⟨ackS [msg .fenced 1], 16, ackPkt (ackEnt 3 3 stStaleEpoch 5), ackEnt 3 3 stStaleEpoch 5, ctxWith [msg .fenced 1], msg .fenced 1,
    fam1, ?_, (packet_trailer _ _), ?_, ?_, ?_, ?_, ?_, ?_, ?_, ?_, ?_, ?_⟩ <;> decide +kernel

theorem witness_AcknowledgementsRetireMessages_4 : ∃ (s : State) (src : Nat) (v : List Byte) (e : List Byte) (c : _) (m : _), s.aligned =
    true ∧ trailerOk v = true ∧ (Hdr.parse v).typ = 2 ∧ (Hdr.parse v).count = 1 ∧ e = slice (payloadOf v) 0 16 ∧ s.port.sctx.get (bits
    (field e 0 2) 0 10) = some c ∧ c.msgs.find? (fun m => m.seq == field e 4 4 && (m.st == .sent || m.st == .fenced)) = some m ∧ c.key = src
    ∧ bits (field e 0 2) 10 2 = 3 ∧ (field e 2 2 = stNackTag ∨ field e 2 2 = stCheckFail) := by
  refine ⟨ackS [msg .fenced 1], 16, ackPkt (ackEnt 3 3 stNackTag 0), ackEnt 3 3 stNackTag 0, ctxWith [msg .fenced 1], msg .fenced 1, ?_,
    (packet_trailer _ _), ?_, ?_, ?_, ?_, ?_, ?_, ?_, (.inl (by decide +kernel))⟩ <;> decide +kernel

theorem witness_AcknowledgementsRetireMessages_5 : ∃ (s : State) (v : List Byte) (e : List Byte), s.aligned = true ∧ trailerOk v = true ∧
    (Hdr.parse v).typ = 2 ∧ (Hdr.parse v).count = 1 ∧ e = slice (payloadOf v) 0 16 ∧ s.port.sctx.get (bits (field e 0 2) 0 10) = none := by
  refine ⟨ackS [], ackPkt (ackEnt 4 0 0 0), ackEnt 4 0 0 0, ?_, (packet_trailer _ _), ?_, ?_, ?_, ?_⟩ <;> decide +kernel

theorem witness_AcknowledgementsRetireMessages_6 : ∃ (s : State) (v : List Byte), s.aligned = true ∧ trailerOk v = false :=
  ⟨ackS [], zeros 40, by decide +kernel, by decide +kernel⟩

/-! ## Reads, answers and peers -/

/-- A READ of stripe 1 of member 0, and one of a sheaf that the engine does not have. -/
def readHdr : Hdr := { typ := 3, cls := 3, job := 7, sheaf := 9, src := 2, dst := 0, stripe := 1, seq := 6, epoch := 1, sctx := 2 }
def readNone : Hdr := { readHdr with sheaf := 8 }
def readPkt (h : Hdr) : List Byte := h.packet (leBytes 1 0 ++ zeros 15)
/-- What the engine reads for it. -/
def readView : Option (List Byte) × State := fam.packetIn.viewTile [] 1 fam1 0 readHdr.stripe
/-- A READ of operation 5 that waits for packets, and an answer's packet. -/
def rq (keep : Bool) (mask tries : Nat) (first : Nat := live.now - 5) : ReadReq :=
  { op := 5, sheaf := 9, dst := 0, node := 1, agent := 0, cls := 2, view := 0, stripe := 1, seq := 6, keep := keep, target := 3, mask := mask, data := []
    step := 0, tries := tries, path := 0, onPath := 0, timeout := 600, first := first, due := live.now }
def rqS (q : ReadReq) : State := let s := ust 1 uop; { s with port := { s.port with rreq := [(2, q)] } }
def dataHdr : Hdr := { typ := 4, cls := 2, pkt := 1, sctx := 2, seq := 6 }
def dataPkt : List Byte := dataHdr.packet (tileOne.take 512)
def refusal : List Byte := dataHdr.packet (leBytes 2 stStaleEpoch ++ zeros 14)
def reservedHdr : Hdr := { typ := 7 }
/-- A peer's read of region 1. -/
def peerRead : Option (List Byte) × State := fam.packetIn.readTile [] 1 fam1 (100 * 4096 / 4096 - fam1.tileBase)

theorem witness_ReadsAnswersAndPeers_1 : ∃ (s : State), s.aligned = false :=
  ⟨State.reset, by decide +kernel⟩

theorem witness_ReadsAnswersAndPeers_2 : ∃ (s : State) (v : List Byte) (h : Hdr), s.aligned = true ∧ h = Hdr.parse v ∧ trailerOk v = true ∧
    h.typ = 3 ∧ h.cls = 3 ∧ s.localMember h.sheaf h.dst = none := by
  refine ⟨fam, readPkt readNone, readNone, ?_, ?_, (packet_trailer _ _), ?_, ?_, ?_⟩ <;> decide +kernel

theorem witness_ReadsAnswersAndPeers_3 : ∃ (s : State) (v : List Byte) (ext : Ext) (h : Hdr) (j : _) (r : _) (d : _) (s1 : _), s.aligned =
    true ∧ h = Hdr.parse v ∧ trailerOk v = true ∧ h.typ = 3 ∧ h.cls = 3 ∧ s.localMember h.sheaf h.dst = some (j, r) ∧ h.job = r.jobTag ∧
    field (payloadOf v) 0 1 = 0 ∧ h.src ≠ 0xFF ∧ h.epoch = r.epoch ∧ h.stripe < r.tileCount ∧ r.state ≠ .fostering ∧ s.cbwBefore j h.stripe
    = false ∧ s.packetIn.viewTile ext j r 0 h.stripe = (some d, s1) := by
  refine ⟨fam, readPkt readHdr, [], readHdr, 1, fam1, readView.1.getD [], readView.2, ?_, ?_, (packet_trailer _ _), ?_, ?_, ?_, ?_, ?_, ?_,
    ?_, ?_, ?_, ?_, (pair_some (x := readView) [] (by decide +kernel))⟩ <;> decide +kernel

theorem witness_ReadsAnswersAndPeers_4 : ∃ (s : State) (src : Nat) (v : List Byte) (h : Hdr) (q : ReadReq) (o : Op), s.aligned = true ∧ h =
    Hdr.parse v ∧ trailerOk v = true ∧ h.typ = 4 ∧ s.port.rreq.get h.sctx = some q ∧ q.seq = h.seq ∧ dstKey q.node q.agent = src ∧ s.op?
    q.op = some o ∧ q.keep = false ∧ (payloadOf v).length = 16 ∧ field (payloadOf v) 0 2 ≠ stOk := by
  refine ⟨rqS (rq false 0 1), 16, refusal, dataHdr, rq false 0 1, uop, ?_, ?_, (packet_trailer _ _), ?_, ?_, ?_, ?_, ?_, ?_, ?_, ?_⟩ <;>
    decide +kernel

theorem witness_ReadsAnswersAndPeers_5 : ∃ (s : State) (src : Nat) (v : List Byte) (h : Hdr) (q : ReadReq) (o : Op), s.aligned = true ∧ h =
    Hdr.parse v ∧ trailerOk v = true ∧ h.typ = 4 ∧ s.port.rreq.get h.sctx = some q ∧ q.seq = h.seq ∧ dstKey q.node q.agent = src ∧ s.op?
    q.op = some o ∧ q.keep = false ∧ (payloadOf v).length ≠ 16 ∧ s.overflow = false ∧ bitAt q.mask h.pkt = false ∧ q.mask + 2 ^ h.pkt = 255
    := by
  refine ⟨rqS (rq false 253 1), 16, dataPkt, dataHdr, rq false 253 1, uop, ?_, ?_, (packet_trailer _ _), ?_, ?_, ?_, ?_, ?_, ?_, ?_, ?_, ?_,
    ?_⟩ <;> decide +kernel

theorem witness_ReadsAnswersAndPeers_6 : ∃ (s : State) (src : Nat) (v : List Byte) (h : Hdr) (q : ReadReq) (o : Op), s.aligned = true ∧ h =
    Hdr.parse v ∧ trailerOk v = true ∧ h.typ = 4 ∧ s.port.rreq.get h.sctx = some q ∧ q.seq = h.seq ∧ dstKey q.node q.agent = src ∧ s.op?
    q.op = some o ∧ q.keep = true ∧ (payloadOf v).length = 16 := by
  refine ⟨rqS (rq true 0 1), 16, refusal, dataHdr, rq true 0 1, uop, ?_, ?_, (packet_trailer _ _), ?_, ?_, ?_, ?_, ?_, ?_, ?_⟩ <;>
    decide +kernel

theorem witness_ReadsAnswersAndPeers_7 : ∃ (s : State) (src : Nat) (v : List Byte) (h : Hdr) (q : ReadReq) (o : Op), s.aligned = true ∧ h =
    Hdr.parse v ∧ trailerOk v = true ∧ h.typ = 4 ∧ s.port.rreq.get h.sctx = some q ∧ q.seq = h.seq ∧ dstKey q.node q.agent = src ∧ s.op?
    q.op = some o ∧ q.keep = true ∧ (payloadOf v).length ≠ 16 ∧ s.overflow = false ∧ bitAt q.mask h.pkt = false ∧ q.mask + 2 ^ h.pkt = 255
    := by
  refine ⟨rqS (rq true 253 1), 16, dataPkt, dataHdr, rq true 253 1, uop, ?_, ?_, (packet_trailer _ _), ?_, ?_, ?_, ?_, ?_, ?_, ?_, ?_, ?_, ?_⟩
    <;> decide +kernel

theorem witness_ReadsAnswersAndPeers_8 : ∃ (s : State) (src : Nat) (v : List Byte) (h : Hdr) (q : ReadReq) (o : Op), s.aligned = true ∧ h =
    Hdr.parse v ∧ trailerOk v = true ∧ h.typ = 4 ∧ s.port.rreq.get h.sctx = some q ∧ q.seq = h.seq ∧ dstKey q.node q.agent = src ∧ s.op?
    q.op = some o ∧ (payloadOf v).length ≠ 16 ∧ s.overflow = false ∧ bitAt q.mask h.pkt = false ∧ q.mask + 2 ^ h.pkt ≠ 255 := by
  refine ⟨rqS (rq true 0 1), 16, dataPkt, dataHdr, rq true 0 1, uop, ?_, ?_, (packet_trailer _ _), ?_, ?_, ?_, ?_, ?_, ?_, ?_, ?_, ?_⟩ <;>
    decide +kernel

theorem witness_ReadsAnswersAndPeers_9 : ∃ (s : State) (slot : Nat) (q : ReadReq) (o : Op), s.port.rreq.get slot = some q ∧ s.op? q.op =
    some o ∧ (q.due ≤ s.now ∧ 64 ≤ q.tries ∨ q.first + 1000000 ≤ s.now) :=
  ⟨rqS (rq true 0 64), 2, rq true 0 64, uop, by decide +kernel, by decide +kernel, .inl (by decide +kernel)⟩

theorem witness_ReadsAnswersAndPeers_10 : ∃ (s : State) (slot : Nat) (q : ReadReq) (o : Op), s.port.rreq.get slot = some q ∧ s.op? q.op =
    some o ∧ q.due ≤ s.now ∧ q.tries < 64 ∧ s.now < q.first + 1000000 ∧ q.cls ≠ 0 := by
  refine ⟨rqS (rq true 0 1), 2, rq true 0 1, uop, ?_, ?_, ?_, ?_, ?_, ?_⟩ <;> decide +kernel

theorem witness_ReadsAnswersAndPeers_11 : ∃ (s : State) (off : Nat), s.aligned = true ∧ (off % 4096 ≠ 0 ∨ stackBytes ≤ off) :=
  ⟨fam, 77, by decide +kernel, .inl (by decide +kernel)⟩

theorem witness_ReadsAnswersAndPeers_12 : ∃ (s : State) (off : Nat) (ext : Ext), s.aligned = true ∧ off % 4096 = 0 ∧ off < stackBytes ∧
    s.regionAt (off / 4096) = none ∧ (s.tileRaw ext (off / 4096)).2 = [] := by
  refine ⟨fam, 900 * 4096, [], ?_, ?_, ?_, ?_, ?_⟩ <;> decide +kernel

theorem witness_ReadsAnswersAndPeers_13 : ∃ (s : State) (off : Nat) (ext : Ext) (j : _) (r : _) (v : _) (s1 : _), s.aligned = true ∧ off %
    4096 = 0 ∧ off < stackBytes ∧ s.regionAt (off / 4096) = some (j, r) ∧ s.packetIn.readTile ext j r (off / 4096 - r.tileBase) = (some v,
    s1) :=
  ⟨fam, 100 * 4096, [], 1, fam1, peerRead.1.getD [], peerRead.2, by decide +kernel, by decide +kernel, by decide +kernel, by decide +kernel,
    pair_some (x := peerRead) [] (by decide +kernel)⟩

theorem witness_ReadsAnswersAndPeers_14 : ∃ (s : State) (v : List Byte), s.aligned = true ∧ trailerOk v = false :=
  ⟨fam, zeros 40, by decide +kernel, by decide +kernel⟩

theorem witness_ReadsAnswersAndPeers_15 : ∃ (s : State) (v : List Byte), s.aligned = true ∧ trailerOk v = true ∧ ((Hdr.parse v).typ = 0 ∨ 6
    < (Hdr.parse v).typ) :=
  ⟨fam, reservedHdr.packet [], by decide +kernel, packet_trailer _ _, .inr (by decide +kernel)⟩

/-! ## Quiet, migration maps and paths -/

/-- Region 1 quiet for d ticks; its migration map, unread for d ticks. -/
def quietR (d : Nat) : Region := { reg 100 4 with quiet := some (live.now - d) }
def mapOf (frozen : Bool) (d : Nat) : MigMap := ⟨[], frozen, live.now - d⟩
def mapR (frozen : Bool) (d : Nat) : Region := { reg 100 4 with mig := some (mapOf frozen d) }
def oneS (r : Region) : State := { live with regions := [(1, r), (2, reg 200 4)] }
/-- Engine 1 of node 0 has four paths; path 0 has counts. -/
def placed : TabSlot := ⟨0, 1, leBytes 4 (2 ^ 31 + 2 ^ 18) ++ leBytes 4 4 ++ zeros 2040, [], 0, 0⟩
def pathS (c : PathCnt) (l : Tab Word) (full : Bool := false) (n : Nat := 1) (start : Nat := 0) : State :=
  { live with
    regs := l, port := { live.port with paths := [(8 * n, c)], winStart := start }
    audit := { live.audit with resv := if full then 256 else 0 }, tables := { live.tables with place := [(0, placed)] } }
/-- The loop is on; a path that is due. -/
def loopOn : Tab Word := [(0x0130, 0xA64101#32)]
def dueP : PathCnt := ⟨10, 9, none⟩
def flagged (t : Nat) : PathCnt := ⟨0, 0, some t⟩

theorem witness_QuietMapAndPathTimers_1 : ∃ (s : State) (j : Nat) (since : Nat) (r : Region), s.regions.get j = some r ∧ r.quiet = some
    since ∧ s.past since 1000000 = true :=
  ⟨oneS (quietR 1000000), 1, live.now - 1000000, quietR 1000000, by decide +kernel, by decide +kernel, by decide +kernel⟩

theorem witness_QuietMapAndPathTimers_2 : ∃ (s : State) (j : Nat) (since : Nat) (r : Region), s.regions.get j = some r ∧ r.quiet = some
    since ∧ s.past since 1000000 = false :=
  ⟨oneS (quietR 999999), 1, live.now - 999999, quietR 999999, by decide +kernel, by decide +kernel, by decide +kernel⟩

theorem witness_QuietMapAndPathTimers_3 : ∃ (s : State) (j : Nat) (r : Region) (m : MigMap), s.regions.get j = some r ∧ r.mig = some m ∧
    m.frozen = false ∧ s.past m.last 1000000000 = true :=
  ⟨oneS (mapR false 1000000000), 1, mapR false 1000000000, mapOf false 1000000000, by decide +kernel, by decide +kernel, by decide +kernel,
    by decide +kernel⟩

theorem witness_QuietMapAndPathTimers_4 : ∃ (s : State) (j : Nat) (r : Region) (m : MigMap), s.regions.get j = some r ∧ r.mig = some m ∧
    (m.frozen = true ∨ s.past m.last 1000000000 = false) :=
  ⟨oneS (mapR false 5), 1, mapR false 5, mapOf false 5, by decide +kernel, by decide +kernel, .inr (by decide +kernel)⟩

theorem witness_QuietMapAndPathTimers_5 : ∃ (s : State), s.past s.port.winStart (10000 * s.rf 0x0130 20 8) = false :=
  ⟨pathS dueP [] false 1 live.now, by decide +kernel⟩

theorem witness_QuietMapAndPathTimers_6 : ∃ (s : State) (key : Nat) (c : PathCnt), s.past s.port.winStart (10000 * s.rf 0x0130 20 8) = true
    ∧ s.port.paths = [(key, c)] ∧ s.pathDue key c = false :=
  ⟨pathS ⟨10, 0, none⟩ [], 8, ⟨10, 0, none⟩, by decide +kernel, by decide +kernel, by decide +kernel⟩

theorem witness_QuietMapAndPathTimers_7 : ∃ (s : State) (key : Nat) (c : PathCnt), s.past s.port.winStart (10000 * s.rf 0x0130 20 8) = true
    ∧ s.port.paths = [(key, c)] ∧ s.pathDue key c = true ∧ s.pathsScarce (key / 8) = false ∧ bitAt (s.regN 0x0130) 0 = true ∧ s.auditFull =
    false := by
  refine ⟨pathS dueP loopOn, 8, dueP, ?_, ?_, ?_, ?_, ?_, ?_⟩ <;> decide +kernel

theorem witness_QuietMapAndPathTimers_8 : ∃ (s : State) (key : Nat) (c : PathCnt), s.past s.port.winStart (10000 * s.rf 0x0130 20 8) = true
    ∧ s.port.paths = [(key, c)] ∧ s.pathDue key c = true ∧ s.pathsScarce (key / 8) = true ∧ s.auditFull = false := by
  refine ⟨pathS dueP [] false 2, 16, dueP, ?_, ?_, ?_, ?_, ?_⟩ <;> decide +kernel

theorem witness_QuietMapAndPathTimers_9 : ∃ (s : State) (key : Nat) (c : PathCnt), s.past s.port.winStart (10000 * s.rf 0x0130 20 8) = true
    ∧ s.port.paths = [(key, c)] ∧ s.pathDue key c = true ∧ bitAt (s.regN 0x0130) 0 = true ∧ s.auditFull = true := by
  refine ⟨pathS dueP loopOn true, 8, dueP, ?_, ?_, ?_, ?_, ?_⟩ <;> decide +kernel

theorem witness_QuietMapAndPathTimers_10 : ∃ (s : State) (dst : Nat) (path : Nat) (since : Nat) (c : PathCnt), s.port.paths.get (pathKey dst
    path) = some c ∧ c.flag = some since ∧ s.past since (100000 * s.rf 0x0130 12 8) = true ∧ s.auditFull = false :=
  ⟨pathS (flagged 5) [], 1, 0, 5, flagged 5, by decide +kernel, by decide +kernel, by decide +kernel, by decide +kernel⟩

theorem witness_QuietMapAndPathTimers_11 : ∃ (s : State) (dst : Nat) (path : Nat) (since : Nat) (c : PathCnt), s.port.paths.get (pathKey dst
    path) = some c ∧ c.flag = some since ∧ (s.past since (100000 * s.rf 0x0130 12 8) = false ∨ s.auditFull = true) :=
  ⟨pathS (flagged 5) [] true, 1, 0, 5, flagged 5, by decide +kernel, by decide +kernel, .inr (by decide +kernel)⟩

/-! ## Power -/

/-- A forecast address. -/
def forecastS : State := { live with regs := [(0x0210, BitVec.ofNat 32 (adr 50)), (0x0214, BitVec.ofNat 32 (adr 50 / 2 ^ 32))] }
/-- The lanes in a state since long, with an operation that is ready to run or without. -/
def lanesS (l : LaneState) (l5 : List Nat := []) : State := { live with power := { live.power with lanes := l }, seqs := { live.seqs with ready := l5 } }
def voltS : State := { live with power := { live.power with wantV := true, pll := false, wakeF := 3 } }
def lockS : State := { live with power := { live.power with relock := true, lclkReq := 4, target := 8 } }

/-- Reset names no forecast word's address, so that one is set here too. -/
def noForecast : State := { live with regs := [(0x0210, 0#32), (0x0214, 0#32)] }

theorem witness_ForecastAndGovernor_1 : ∃ (s : State), s.reg64 0x0210 ≠ 0 :=
  ⟨forecastS, by decide +kernel⟩

theorem witness_ForecastAndGovernor_2 : ∃ (s : State), s.reg64 0x0210 = 0 :=
  ⟨noForecast, by decide +kernel⟩

theorem witness_ForecastAndGovernor_3 : ∃ (s : State), (s.power.lanes = .active ∨ s.power.lanes = .waking) ∧ s.past s.power.lastEval 1000 =
    true :=
  ⟨live, .inl (by decide +kernel), by decide +kernel⟩

theorem witness_ForecastAndGovernor_4 : ∃ (s : State), ((s.power.lanes ≠ .active ∧ s.power.lanes ≠ .waking) ∨ s.past s.power.lastEval 1000 =
    false) :=
  ⟨lanesS .warm, .inl (by decide +kernel)⟩

theorem witness_LanesVoltagesAndLevels_1 : ∃ (s : State), s.power.lanes = .active ∧ bitAt (s.regN 0x0200) 0 = true ∧ s.power.relock = false
    ∧ s.power.wantV = false ∧ s.wakeCause = false ∧ s.past s.power.lastWork s.warmIdle = true := by
  refine ⟨lanesS .active, ?_, ?_, ?_, ?_, ?_, ?_⟩ <;> decide +kernel

theorem witness_LanesVoltagesAndLevels_2 : ∃ (s : State), s.power.lanes = .warm ∧ bitAt (s.regN 0x0200) 1 = true ∧ s.power.relock = false ∧
    s.power.wantV = false ∧ s.expected = false ∧ s.past s.power.warmSince s.coldIdle = true := by
  refine ⟨lanesS .warm, ?_, ?_, ?_, ?_, ?_, ?_⟩ <;> decide +kernel

theorem witness_LanesVoltagesAndLevels_3 : ∃ (s : State), s.power.lanes = .cold ∧ s.past s.power.coldSince (us 1000) = true ∧ s.past
    s.power.lastArrival (us 1000) = true :=
  ⟨lanesS .cold, by decide +kernel, by decide +kernel, by decide +kernel⟩

theorem witness_LanesVoltagesAndLevels_4 : ∃ (s : State), (s.power.lanes ≠ .cold ∨ s.past s.power.coldSince (us 1000) = false ∨ s.past
    s.power.lastArrival (us 1000) = false) :=
  ⟨lanesS .warm, .inl (by decide +kernel)⟩

theorem witness_LanesVoltagesAndLevels_5 : ∃ (s : State), s.wakeCause = true ∧ s.boot.lanes ≠ 0#32 ∧ s.power.lanes = .warm :=
  ⟨lanesS .warm [5], by decide +kernel, by decide +kernel, by decide +kernel⟩

theorem witness_LanesVoltagesAndLevels_6 : ∃ (s : State), s.wakeCause = true ∧ s.boot.lanes ≠ 0#32 ∧ s.power.lanes = .cold :=
  ⟨lanesS .cold [5], by decide +kernel, by decide +kernel, by decide +kernel⟩

theorem witness_LanesVoltagesAndLevels_7 : ∃ (s : State), s.power.lanes = .waking ∧ s.power.pll = true ∧ s.power.relock = false ∧
    s.power.wantV = false ∧ s.power.waveDue ≤ s.now := by
  refine ⟨lanesS .waking [5], ?_, ?_, ?_, ?_, ?_⟩ <;> decide +kernel

theorem witness_LanesVoltagesAndLevels_8 : ∃ (s : State), s.power.wantV = true :=
  ⟨voltS, by decide +kernel⟩

theorem witness_LanesVoltagesAndLevels_9 : ∃ (s : State), s.power.relock = true :=
  ⟨lockS, by decide +kernel⟩

theorem witness_LanesVoltagesAndLevels_10 : ∃ (s : State) (l : Nat), l % 4 ≠ s.power.therm :=
  ⟨live, 3, by decide +kernel⟩

theorem witness_LanesVoltagesAndLevels_11 : ∃ (s : State) (l : Nat), l % 4 = s.power.therm :=
  ⟨live, 4, by decide +kernel⟩

/-! ## The machine -/

/-- A primitive's command waits, and finds no operation. -/
def waitsS : State := { live with pending := [.uMovi 3] }

theorem witness_StepRunsTheFrontCommand_1 : ∃ (s : State) (c : Instr) (l : List Instr), s.pending = c :: l :=
  ⟨waitsS, .uMovi 3, [], by decide +kernel⟩

theorem witness_EmptyQueueTicks_1 : ∃ (s : State), s.pending = [] :=
  ⟨live, by decide +kernel⟩

theorem witness_CommandsAnswerAndLeaveTheQueue_3 : ∃ (c : Instr) (s : State) (t : State), exec c s = .next t :=
  ⟨.uMovi 3, live, live, rfl⟩

theorem witness_StepKeepsMemoryForm_1 : ∃ (s : State) (t : State), s.memOk ∧ s.queueOk ∧ Sys2Proof.Machine.step s = .next t :=
  ⟨waitsS, live, by unfold State.memOk; decide +kernel, by unfold State.queueOk; decide +kernel, rfl⟩

/-- A tile of a guarded region. -/
def guard2 : Region := { reg 100 4 with guard := 2, guardMax := 3, guardBlock := some 900, guardLine := 512 }

theorem witness_TileWritesMoveTheDigest_1 : ∃ (s : State) (j : Nat) (t : Nat) (r : Region) (v : List Byte), s.regions.get j = some r ∧
    v.length = 4096 ∧ r.lineApart t :=
  ⟨guardS guard2, 1, 1, guard2, tileOne, by decide +kernel, by decide +kernel, apart_of (by decide +kernel)⟩

theorem witness_TileWritesMoveTheDigest_2 : ∃ (s : State) (j : Nat) (t : Nat) (r : Region) (v : List Byte), s.regions.get j = some r ∧
    v.length = 4096 ∧ r.lineApart t :=
  ⟨guardS guard2, 1, 1, guard2, tileOne, by decide +kernel, by decide +kernel, apart_of (by decide +kernel)⟩

theorem witness_TileWritesMoveTheDigest_3 : ∃ (s : State) (j : Nat) (t : Nat) (r : Region) (v : List Byte) (off : _), s.regions.get j = some
    r ∧ v.length = 4096 ∧ r.lineApart t ∧ r.lineOff t = some off ∧ r.strengthAt t ≠ 0 :=
  ⟨guardS guard2, 1, 1, guard2, tileOne, 900 * 4096 + 512, by decide +kernel, by decide +kernel, apart_of (by decide +kernel),
    by decide +kernel, by decide +kernel⟩

theorem witness_TileWritesMoveTheDigest_4 : ∃ (s : State) (j : Nat) (t : Nat) (r : Region) (v : List Byte) (a : _), s.regions.get j = some r
    ∧ v.length = 4096 ∧ r.lineApart t ∧ (a < s.tileAddr (r.tileBase + t) ∨ s.tileAddr (r.tileBase + t) + 4096 ≤ a) ∧ (∀ off, r.lineOff t =
    some off → r.strengthAt t ≠ 0 → a < s.stackAddr off ∨ s.stackAddr off + (guardLine (r.strengthAt t) v).length ≤ a) :=
  ⟨guardS guard2, 1, 1, guard2, tileOne, adr 102, by decide +kernel, by decide +kernel, apart_of (by decide +kernel),
    .inr (by decide +kernel), fun off e _ => by cases e; exact .inl (by decide +kernel)⟩

theorem witness_TileWritesMoveTheDigest_5 : ∃ (s : State) (j : Nat) (t : Nat) (r : Region) (v : List Byte) (k : _), s.regions.get j = some r
    ∧ v.length = 4096 ∧ r.lineApart t ∧ k ≠ j :=
  ⟨guardS guard2, 1, 1, guard2, tileOne, 2, by decide +kernel, by decide +kernel, apart_of (by decide +kernel), by decide +kernel⟩


/-! ## Worked examples of the spec -/

/-- Example 2-1: the Cauchy rows of a 3 + 2 sheaf, and the products of its stripe. -/
theorem test_example_2_1_rows : (List.range 2).map (fun j => (List.range 3).map (cauchy 2 j)) = [[0x8E#8, 0xF4#8, 0x47#8], [0xF4#8, 0x8E#8, 0xA7#8]] := by
  decide +kernel
theorem test_example_2_1_parity : gfMul 0x8E#8 0x05#8 ^^^ gfMul 0xF4#8 0x10#8 ^^^ gfMul 0x47#8 0x81#8 = 0x10#8 ∧ gfMul 0x8E#8 0x23#8 = 0x9F#8 := by
  decide +kernel
/-- Region 1 reads the rows of Example 2-1. -/
def rowsS : State := { live with tables := { live.tables with rows := [(1, ⟨0, 1, cauchyBlock 3 2, zeros 128, 0, 0⟩)] } }
/-- Example 2-2: the recovery rows for data members 0 and 1. -/
theorem test_example_2_2_recovery : rowsS.recovery 1 [0, 1] [2] [0, 1] = some [[0x0A#8, 0x0C#8, 0x7B#8], [0x0C#8, 0x0A#8, 0x01#8]] := by decide +kernel
/-- Example 4-2: the digest after one write, from the CRCs of its tile. -/
theorem test_example_4_2_digest :
    0x3C1D0E4277A59B08#64 + (0x0FEDCBA987654321#64 - 0x123456789ABCDEF0#64) * 519#64 = 0x9F19A4724108BA5F#64 := by decide +kernel
/-- The elements of Example 4-3. -/
def normOld : List Byte := sp (zeros 64) [(0, 4, 0x3FC00000), (20, 4, 0x40400000), (36, 4, 0x00000001)]
def normNew : List Byte := sp (zeros 64) [(0, 4, 0x3FA00000), (20, 4, 0x40408000)]
/-- Example 4-3: the squares of three differences. -/
theorem test_example_4_3_norm : plainNorm .fp32 0 normOld normNew = (2 ^ 294 + 2 ^ 284 + 1, 0) := by decide +kernel
/-- Example 6-1: the step after a rollback of 9,417 and 9,418. -/
theorem test_example_6_1_step : nextStep 9417 9418 = 9423 := by decide +kernel
/-- Example 6-2: RESULT of a reduction over two engines. -/
theorem test_example_6_2_result :
    normResult (sp (zeros 192) [(8 * 9, 8, 0x80), (8 * 8, 8, 0x20000000), (0, 8, 2), (176, 8, 2)]) = 0x3FC0040000000000 := by decide +kernel
/-- Example 9-1: scale byte and first codes of an MXFP4 block. -/
theorem test_example_9_1_codes : (tedFmt 10).map (fun k =>
    let r := k.quantise 0 0 ((fvOf32 0x3EC00000) :: (fvOf32 0xBE100000) :: (fvOf32 0x3C800000) :: List.replicate 29 (fvOf32 0))
    (r.1, r.2.take 4)) = some (0x7B, [0x7, 0xC, 0, 0]) := by decide +kernel
/-- Example 9-2: an element of an apply, with the blocks of sites 0, 1 at lag 1, 2 and 3. -/
theorem test_example_9_2_apply :
    (applyElement (fvOf32 0x3F800000) (fvOf32 0x3FC00000) [(fvOf32 0x3F800000, fvOf32 0xBD800000), (fvOf32 0x3F000000, fvOf32 0xBD000000),
      (fvOf32 0x3F800000, fvOf32 0xBD800000), (fvOf32 0x3FC00000, fvOf32 0xBE000000)]).word 8 23 (0, 0) = 0x3FB58000 := by decide +kernel
/-- Example 10-1: the generator of four guard symbols. -/
theorem test_example_10_1_generator : guardPoly 4 = [0x40#16, 0x78#16, 0x36#16, 0x0F#16, 1#16] := by decide +kernel
/-- Example 11-1: the fields of a GFMUL word. -/
theorem test_example_11_1_word : let w := 0x00000000000000090000000050049430
    uwOpc w = 0x30 ∧ uwFa w = 20 ∧ uwFb w = 18 ∧ uwFc w = 0 ∧ uwCsrc w = 1 ∧ uwIndA w = true ∧ uwRows w = 1 ∧ uwAcc w = true := by decide +kernel
/-- The vector of Example 11-2 and its product as a lane forms it and as it may get it wrong. -/
def twoBytes (a b : Byte) : List Byte := a :: b :: zeros 62
/-- Example 11-2: checks of the input, of its product, of swapped bytes and of a wrong byte. -/
theorem test_example_11_2_checks : [twoBytes 0x23#8 0x10#8, gfScale 0xF4#8 (twoBytes 0x23#8 0x10#8), twoBytes 0xFB#8 0xEA#8, twoBytes 0xEB#8 0xFB#8].map
    (fun v => (laneChecks v).1) = [0x33#8, 0x11#8, 0x11#8, 0x10#8] ∧
    laneChecks (twoBytes 0x23#8 0x10#8) = (0x33#8, 0x03#8) ∧ laneChecks (gfScale 0xF4#8 (twoBytes 0x23#8 0x10#8)) = (0x11#8, 0x01#8) ∧
    (laneChecks (twoBytes 0xFB#8 0xEA#8)).2 = 0x32#8 := by decide +kernel

/-! ## Single steps -/

/-- R332: ADD wraps modulo 2^64, and ADDI sign-extends its immediate. -/
theorem test_add_wraps : (match exec (.uAdd 0) (ust (uw 2 0 1 4) (uop 0x80 [2 ^ 64 - 1, 2])) with
    | .next t => (t.op? 5).map (fun o => o.s 4)
    | _ => none) = some 1 := by decide +kernel
theorem test_addi_extends : (match exec (.uAddi 0) (ust (uw 3 0 0 4 0 0 (2 ^ 32 - 1)) (uop 0x80 [7])) with
    | .next t => (t.op? 5).map (fun o => o.s 4)
    | _ => none) = some 6 := by decide +kernel
/-- A write that ends at the last byte of the stack is inside it; one byte further is not (R44). -/
theorem test_last_byte : (match exec (.writeArrival 1 (stackBytes - 1) [some 9#8] []) live with
    | .next t => byteAt t.mem (stackBytes - 1)
    | _ => 0#8) = 9#8 := by decide +kernel
theorem test_past_the_stack : exec (.writeArrival 1 stackBytes [some 9#8] []) live = .fault .outsideStack := rfl
/-- An empty queue lets one tick pass. -/
theorem test_tick : (match step live with
    | .next t => t.time
    | _ => 0#64) = live.time + 1#64 := by decide +kernel

/-! ## Ill-formed commands -/

/-- Control-bus writes with a requester above 15, an offset outside the window or off its boundary, a ring above 63. -/
theorem test_ill_formed_bus : [.controlBusReject 16 0#16 false, .registerWrite 16 0 0#32, .registerWrite 0 65536 0#32, .registerWrite 0 2 0#32,
    .reg64HighWrite 0 8 0#32, .reg64LowRead 0 4, .chipSelWrite 0 16 0#32, .ringEnable 0 64 0#32 [], .ringDisable 16 0 0#32,
    .ringPollWrite 0 64 0#32].all (fun c => !Instr.WellFormed c) = true := by decide +kernel
theorem test_ill_formed_bus_more : [.bistStart 16 0#32, .rehomeCfgWrite 16 0#32, .ledgerEnable 16 0#32, .auditRingConfigWrite 0 65536 0#32,
    .calRead 16 false, .calWrite 16 0#32, .evtSwset 16 0#32, .cmpCfgWrite 0 9 0#32, .cmpCfgWrite 0 16 0#32, .evtOwnWrite 0 16 0#32,
    .evtRouteWrite 0 128 0#32, .evtPendClear 0 true 4 0#32].all (fun c => !Instr.WellFormed c) = true := by decide +kernel
/-- Events that name no ring, comparator, target, tag, region, queue, byte of the stack or whole chunk. -/
theorem test_ill_formed_events : [.doorbellWrite 64 0#32 0#32, .doorbellPoll 64, .doorbellPollReturn 64 .error, .completionRecordWrite 64 false,
    .comparatorFire 9, .cpidleAssert 8, .moderationHoldExpiry 8, .authVerdict [] true, .thermLevelChange 4, .copyCompletion 64 0,
    .copyCompletion 0 16].all (fun c => !Instr.WellFormed c) = true := by decide +kernel
theorem test_ill_formed_units : [.writeArrival 1 stackBytes [] [], .writeArrival 1 0 (List.replicate 4097 none) [], .chunkStoreReceive 0 0 [],
    .quietExpiry 256, .migrationMapDisarm 256, .guardWindowEnd 256, .tileBuildDone 256 0 [], .accumApply 64 [] noFault,
    .accumApply 0 [] ⟨[(32, [])], []⟩].all (fun c => !Instr.WellFormed c) = true := by decide +kernel
/-- Primitives of a sequencer that does not exist. -/
theorem test_ill_formed_words : [.uMovi 4, .uAdd 4, .uAddi 4, .uSub 4, .uAnd 4, .uOr 4, .uXor 4, .uShl 4, .uShr 4, .uMul 4, .uField 4, .uBr 4,
    .uYield 4, .uEnd 4, .uLdt 4, .uStt 4, .uLd64 4, .uSt64 4, .uRed 4, .uWaitt 4, .uWaitall 4, .uZero 4].all (fun c => !Instr.WellFormed c) = true := by
  decide +kernel
theorem test_ill_formed_words_more : [.uRtile 4, .uShinfo 4, .uDigest 4, .uTime 4, .uTrig 4, .uGfmul 4 noFault, .uXort 4 noFault, .uCrc 4 noFault,
    .uCmpt 4 noFault, .uMtile 4, .uApply 4 [], .uQread 4, .uQsend 4, .uDecode 4, .uTedq 4 noFault, .uTeda 4 noFault, .uGfmul 0 ⟨[(32, [])], []⟩,
    .uXort 0 ⟨[(32, [])], []⟩, .uCrc 0 ⟨[(32, [])], []⟩, .uCmpt 0 ⟨[(32, [])], []⟩, .uTedq 0 ⟨[(32, [])], []⟩,
    .uTeda 0 ⟨[(32, [])], []⟩].all (fun c => !Instr.WellFormed c) = true := by decide +kernel
/-- A fault's bytes are bounded by four outputs, and by a tile as held. -/
theorem test_ill_formed_fault : LaneFault.ok ⟨[(0, List.replicate 16385 0#8)], []⟩ = false ∧ LaneFault.ok ⟨[], List.replicate 4097 0#8⟩ = false := by
  decide +kernel
/-- The largest names that exist are well-formed. -/
theorem test_well_formed : [.registerWrite 15 65532 0#32, .reg64HighWrite 15 65532 0#32, .reg64LowRead 15 65528, .ringEnable 15 63 0#32 [],
    .cmpCfgWrite 15 10 0#32, .evtRouteWrite 15 127 0#32, .copyCompletion 63 15, .uMovi 3, .uTeda 3 noFault, .quietExpiry 255,
    .writeArrival 99 (stackBytes - 1) [] []].all Instr.WellFormed = true := by decide +kernel

end Sys2Proof.Tests
end

section
/-! SUPPORT. What an event and an audit record leave: every signal changes the event block and the audit log, and a record that moves to the
audit ring writes one slot of it (R446, R449, R453 to R457). -/

namespace Sys2Proof.Machine

/-- `t` is `s` but for what signals touch: the event block, the audit log, and what a slot of the audit ring written by the engine may touch,
that is the stack, the input of the tap and the issues of the port. -/
def State.SignalsOnly (s t : State) : Prop :=
  t = { s with mem := t.mem, tap := { s.tap with queue := t.tap.queue }, port := { s.port with tx := t.port.tx }
               evt := t.evt, audit := t.audit }

theorem State.SignalsOnly.trans {s t u : State} (h : s.SignalsOnly t) (g : t.SignalsOnly u) : s.SignalsOnly u := by
  unfold State.SignalsOnly at g ⊢
  rw [g, h]

section
variable {s t : State} (h : s.SignalsOnly t)
include h
theorem State.SignalsOnly.reg_eq (off : Nat) : t.reg off = s.reg off := by rw [h]; rfl
theorem State.SignalsOnly.receipt_eq : t.receipt = s.receipt := by rw [h]
end

theorem State.signalsOnly_setAudit (s : State) (a : Audit) : s.SignalsOnly { s with audit := a } := rfl

theorem State.signalsOnly_store (s : State) (a : Nat) (v : List Byte) (cls : Nat) : s.SignalsOnly (s.store a v cls) := by
  unfold State.store State.storeFor State.putWrite
  split
  · split <;> rfl
  · rfl

/-- An occurrence of a source changes the event block alone (R446). -/
theorem State.event_changes_evt (s : State) (src detail : Nat) : ∃ e, s.event src detail = { s with evt := e } := by
  unfold State.event State.occur State.setPending
  dsimp only
  split <;> exact ⟨_, rfl⟩

/-- Beside its event, the full condition is all that settling the audit log sets (R457). -/
theorem State.settleAudit_sets_full (s : State) :
    ∃ e, s.settleAudit = { s with evt := e, audit := { s.audit with full := s.auditFull } } := by
  unfold State.settleAudit
  split
  next h =>
    rw [Bool.and_eq_true] at h
    obtain ⟨e, he⟩ := State.event_changes_evt { s with audit := { s.audit with full := true } } 93 s.audit.lost.toNat
    exact ⟨e, by rw [he, h.1]⟩
  next => exact ⟨s.evt, rfl⟩

theorem State.signalsOnly_settleAudit (s : State) : s.SignalsOnly s.settleAudit := by
  obtain ⟨e, he⟩ := s.settleAudit_sets_full
  rw [he]
  rfl

theorem State.signalsOnly_auditMove (s : State) : s.SignalsOnly s.auditMove := by
  unfold State.auditMove
  split
  · rfl
  · exact (State.signalsOnly_store _ _ _ _).trans (State.signalsOnly_setAudit _ _)

theorem State.signalsOnly_auditForm (s : State) (status origin index kind object detail epoch : Nat) (resv : Bool) :
    s.SignalsOnly (s.auditForm status origin index kind object detail epoch resv) := by
  unfold State.auditForm
  extract_lets _ _ s0 _ s1 _ s2
  have h1 : s.SignalsOnly s1 := by cases resv <;> rfl
  split
  · exact h1.trans ((State.signalsOnly_setAudit _ _).trans (State.signalsOnly_settleAudit _))
  · have h2 : s1.SignalsOnly s2 := by
      unfold s2
      split
      · exact State.signalsOnly_auditMove _
      · rfl
    exact (h1.trans h2).trans ((State.signalsOnly_setAudit _ _).trans (State.signalsOnly_settleAudit _))

/-- With a free entry in the audit buffer a record joins its end, and nothing else but the event block changes (R454, R455). -/
theorem State.auditForm_of_room (s : State) (status origin index kind object detail epoch : Nat) (h : s.auditUsed < 256) :
    ∃ e f, s.auditForm status origin index kind object detail epoch false = { s with
      evt := e
      audit := { s.audit with
        full := f
        seq := s.audit.seq + 1#32
        buf := s.audit.buf ++ [⟨s.now % 2 ^ 48, status, s.audit.seq.toNat, epoch, origin, index, kind, object, detail⟩] } } := by
  have hu : ¬ 256 ≤ State.auditUsed { s with audit := { s.audit with seq := s.audit.seq + 1#32 } } := Nat.not_le.mpr h
  obtain ⟨e, he⟩ := State.settleAudit_sets_full { s with audit := { s.audit with
    seq := s.audit.seq + 1#32
    buf := s.audit.buf ++ [⟨s.now % 2 ^ 48, status, s.audit.seq.toNat, epoch, origin, index, kind, object, detail⟩] } }
  exact ⟨e, _, .trans (by simp [State.auditForm, State.auditFull, hu]) he⟩

end Sys2Proof.Machine
end

section
/-! SUPPORT. A register write that applies (R419, R453), and the two registers of the control bus whose write does more. -/

namespace Sys2Proof.Machine

/-- A write that its rule lets take effect, with room in the log, sets its register and signals. -/
theorem State.write32_applied (s : State) (req off mask : Nat) (w : Word) (hrule : s.regRule off w.toNat = some (mask, true))
    (hlog : unaudited off = false) (hfull : s.auditFull = false) :
    (s.setReg off (BitVec.ofNat 32 (w.toNat &&& mask))).SignalsOnly (s.write32 req off w) := by
  simp only [State.write32, hrule, hlog, hfull]
  exact State.signalsOnly_auditForm _ _ _ _ _ _ _ _ _

/-- What the registers read after a write that applies. -/
theorem State.reg_write32_applied (s : State) {off mask : Nat} {w : Word} (hrule : s.regRule off w.toNat = some (mask, true))
    (hlog : unaudited off = false) (hfull : s.auditFull = false) (req k : Nat) :
    (s.write32 req off w).reg k = if k = off then BitVec.ofNat 32 (w.toNat &&& mask) else s.reg k := by
  rw [(s.write32_applied req off mask w hrule hlog hfull).reg_eq, State.reg_setReg]

/-- The writable bits of WY_REHOME_CFG (Table 17-3). -/
theorem State.regRule_rehomeCfg (s : State) (v : Nat) : (s.regRule 0x0130 v).map (·.1) = some 0xFFFFFFF := rfl
/-- The writable bits of WY_TEN_BASE (Table 17-3). -/
theorem State.regRule_tenBase (s : State) (v : Nat) : (s.regRule 0x0128 v).map (·.1) = some 0x81FFFFFF := rfl

/-- A running maximum is at or above where it starts. -/
theorem le_foldl_of_le_step {α : Type} {f : Nat → α → Nat} (hf : ∀ m x, m ≤ f m x) (l : List α) (m : Nat) : m ≤ l.foldl f m :=
  List.foldlRecOn l f le_rfl (fun n hn x _ => hn.trans (hf n x))

/-- A running maximum is at or above what the step of any member reaches. -/
theorem le_foldl_of_mem {α : Type} {f : Nat → α → Nat} (hf : ∀ m x, m ≤ f m x) {l : List α} {x : α} {v : Nat} (hx : x ∈ l)
    (hv : ∀ m, v ≤ f m x) (m : Nat) : v ≤ l.foldl f m := by
  obtain ⟨a, b, rfl⟩ := List.append_of_mem hx
  rw [List.foldl_append, List.foldl_cons]
  exact (hv _).trans (le_foldl_of_le_step hf b _)

/-- A write of WY_REHOME_CFG with EN 0 that applies clears the flag of every path (R166). -/
theorem execRehomeCfgWrite_applied (s : State) (req mask : Nat) (w : Word) (hen : w.getLsbD 0 = false) (hfull : s.auditFull = false)
    (hrule : s.regRule 0x0130 w.toNat = some (mask, true)) :
    execRehomeCfgWrite req w s = .next { s.write32 req 0x0130 w with port := { (s.write32 req 0x0130 w).port with
      paths := (s.write32 req 0x0130 w).port.paths.map (fun p => (p.1, { p.2 with flag := none })) } } := by
  simp only [execRehomeCfgWrite, hen, hfull, hrule]
  rfl

/-- LEDGER_ENABLE with EN 1 that applies takes a receipt count at or above its own and every receipt of the ledger (R392, R395). -/
theorem execLedgerEnable_applied (s : State) (req mask : Nat) (w : Word) (hen : w.getLsbD 31 = true) (hfull : s.auditFull = false)
    (hrule : s.regRule 0x0128 w.toNat = some (mask, true)) :
    ∃ n, execLedgerEnable req w s = .next { s.write32 req 0x0128 w with receipt := n } ∧ (s.write32 req 0x0128 w).receipt ≤ n ∧
      ∀ e x, e < 512 → (s.write32 req 0x0128 w).ledgerEntry e = some x → x.receipt ≤ n := by
  simp only [execLedgerEnable, hen, hfull, hrule]
  refine ⟨_, rfl, ?_, fun e x he hx => ?_⟩
  · refine le_foldl_of_le_step (fun m e => ?_) _ _
    split
    · exact Nat.le_max_left _ _
    · exact le_rfl
  · refine le_foldl_of_mem (fun m e => ?_) (List.mem_range.mpr he) (fun m => ?_) _
    · split
      · exact Nat.le_max_left _ _
      · exact le_rfl
    · rw [hx]
      exact Nat.le_max_right _ _

/-- A select word reads what its requester wrote, 0 included, which is not listed (R461). -/
theorem chipSel_get_own (t : Tab Nat) (q v : Nat) : ((if v = 0 then t.del q else t.set q v).get q).getD 0 = v := by
  split
  next hv => simp [Tab.get_del, hv]
  next => rw [Tab.get_set_self, Option.getD_some]

theorem chipSel_get_other (t : Tab Nat) (q v p : Nat) (h : p ≠ q) : (if v = 0 then t.del q else t.set q v).get p = t.get p := by
  split
  · rw [Tab.get_del, if_neg h]
  · exact Tab.get_set_ne _ _ _ _ h

end Sys2Proof.Machine
end

section
/-! The statements of the architecture and the control bus: O1, O5, O44. -/

namespace Sys2Proof.Machine

/-- Settles O5: each command sets its own words and forms its record, which touches no register; the clauses then read off the record's place
in the buffer, the select table, the paths and the running maximum of the receipts. -/
theorem controlBusOtherWrites : Obligations.ControlBusOtherWrites := by
  refine ⟨fun s req addr we hroom => ?reject, fun s q w => ?ownSelect, fun s req q w h => ?otherSelect,
    fun s req w hen hfull ⟨mask, hrule⟩ => ?rehome, fun s req w hen hfull ⟨mask, hrule⟩ => ?ledger⟩
  case reject =>
    have hused : s.auditUsed < 256 := Nat.lt_of_le_of_lt (Nat.le_add_right _ _) hroom
    obtain ⟨e, f, h⟩ := (s.send (.cbErr req)).auditForm_of_room 0 (reqOrigin req) (reqIndex req) 0x03 addr.toNat (bit we) 0 hused
    exact ⟨_, _, congrArg Host.Outcome.next h, rfl, rfl, rfl, rfl, rfl, rfl, rfl, rfl, rfl, rfl⟩
  case ownSelect =>
    exact ⟨_, congrArg Host.Outcome.next (if_pos rfl), rfl, chipSel_get_own _ _ _, fun p hp => chipSel_get_other _ _ _ _ hp⟩
  case otherSelect => exact congrArg Host.Outcome.next (if_neg h)
  case rehome =>
    have hmask : mask = 0xFFFFFFF := by simpa [hrule] using s.regRule_rehomeCfg w.toNat
    have hreg := s.reg_write32_applied hrule rfl hfull req
    refine ⟨_, execRehomeCfgWrite_applied s req mask w hen hfull hrule, ?_, ?_, fun o ho => ?_⟩
    · exact (hreg _).trans (by rw [if_pos rfl, hmask])
    · intro p hp
      obtain ⟨q, -, rfl⟩ := List.mem_map.mp hp
      rfl
    · exact (hreg _).trans (if_neg ho)
  case ledger =>
    have hmask : mask = 0x81FFFFFF := by simpa [hrule] using s.regRule_tenBase w.toNat
    obtain ⟨n, hexec, hown, hall⟩ := execLedgerEnable_applied s req mask w hen hfull hrule
    refine ⟨_, hexec, ?_, ?_, hall⟩
    · exact (s.reg_write32_applied hrule rfl hfull req _).trans (by rw [if_pos rfl, hmask])
    · exact (s.write32_applied req _ mask w hrule rfl hfull).receipt_eq ▸ hown

/-! ## The resets (R31) -/

/-- With no WRITE of the calibration record under way a reset leaves the flash sector as it is (R425). -/
theorem State.flashLeft_of_idle (s : State) (h : s.cal.busy = false) : s.flashLeft = (s.cal.flash, s) := by
  simp [State.flashLeft, h]

/-- Settles O1: both resets are the reset state with the named fields put in, so every clause reads one field. -/
theorem resetClearsEngineState : Obligations.ResetClearsEngineState := by
  refine ⟨fun s => ⟨_, rfl, ?_⟩, fun s => ⟨_, rfl, ?_⟩, fun s t hbusy h => ?_⟩
  · and_intros <;> rfl
  · and_intros <;> rfl
  · have hflash : s.flashLeft.1 = s.cal.flash := congrArg Prod.fst (s.flashLeft_of_idle hbusy)
    rcases h with h | h <;>
    · cases h
      exact congrArg Cal.reset hflash

/-! ## Writes at the tap (R14, R17, R18, R49) -/

/-- A region in RELEASING of four tiles from tile 100. -/
def releasingRegion : Region :=
  { tileBase := 100, tileCount := 4, logicalBase := 0, role := .data, format := .raw, guard := 0, adapt := false, guardMax := 0
    log := false, norm := false, snap := false, jobTag := 7, set := 0, member := 0xFF, sheaf := 0, board := 0, shelf := 0, row := 0
    link := 0xFF, digest := 0#64, confirmed := 0, epoch := 0, state := .releasing, domainOvr := false, logBlock := none
    dirtyBase := none, guardBlock := none, guardLine := 0, guardLen := 0, built := [], rebuildDigest := 0#64, mig := none
    migrated := none, quiet := none, settleFail := false, builds := [], reguard := none, anchorInvalid := false, winStart := 0
    winTiles := 0, winLoad := 0, winCtrl := 0, ledger := none }

/-- One byte that the engine itself writes into tile 100, for no operation, as it writes an audit record (R455). -/
def ownWriteToReleasing : Queued := ⟨engineAgent, none, 100 * 4096, [some 9#8]⟩

/-- The engine with that write at the input of its tap. -/
def ownWriteWaits : State :=
  { State.reset with regions := [(1, releasingRegion)], tap := { Tap.reset with queue := [ownWriteToReleasing] } }

/-- The tap takes the engine's own write to the region in RELEASING, and the port issues nothing: its error would be noted in the operation
that waits for it, and none does. -/
theorem ownWriteWaits_admitMove_tx : ownWriteWaits.admitMove.map (fun u => u.port.tx) = some [] := by decide +kernel

/-- Refutes O44: the clause for a region in RELEASING covers the engine's own writes too, and one that no operation waits for
gets no error response. -/
theorem not_writesArriveAtTheTap : ¬ Obligations.WritesArriveAtTheTap := by
  rintro ⟨-, h⟩
  obtain ⟨-, hadmit⟩ := h ownWriteWaits ownWriteToReleasing [] rfl
  obtain ⟨hrefuse, -⟩ := hadmit 1 releasingRegion (by decide) (by decide) (by decide) rfl
  obtain ⟨u, hu, -, -, -, htx, -⟩ := hrefuse (.inr rfl) rfl
  have hnone := ownWriteWaits_admitMove_tx
  rw [hu, Option.map_some, htx] at hnone
  exact absurd hnone (by simp)

end Sys2Proof.Machine
end

section
/-! SUPPORT. What every operation keeps: the queue, the straps and the canonical form of memory (R44, R465, log entry 1). Each operation of
the model has one lemma, named after it, by which a proof follows the operation's own shape: its branches, its loops and its calls. -/

namespace Sys2Proof.Machine

/-- `t` keeps what no operation of the engine changes: the queue, the straps and, where `s₀` has it, the canonical form of memory
(R44, R465). -/
def State.Keeps (s₀ t : State) : Prop := t.pending = s₀.pending ∧ t.strap = s₀.strap ∧ (s₀.memOk → t.memOk)

/-- The state that an operation gives, if it gives one, keeps what `s₀` has. -/
inductive State.KeepsAll (s₀ : State) : Option State → Prop
  | none : s₀.KeepsAll none
  | some {t : State} : s₀.Keeps t → s₀.KeepsAll (some t)

/-- However a walk's unit ends, its state keeps what `s₀` has. -/
inductive State.KeepsWalk (s₀ : State) : Walk → Prop
  | go {t : State} : s₀.Keeps t → s₀.KeepsWalk (.go t)
  | stop {st : Nat} {t : State} : s₀.Keeps t → s₀.KeepsWalk (.stop st t)
  | wait {t : State} : s₀.Keeps t → s₀.KeepsWalk (.wait t)

/-- The outcome is a next state, which keeps what `s₀` has. -/
inductive State.Goes (s₀ : State) : Out → Prop
  | next {t : State} : s₀.Keeps t → s₀.Goes (.next t)

section
variable {s₀ s t : State}

theorem State.Keeps.refl (s : State) : s.Keeps s := ⟨rfl, rfl, id⟩

/-- Every field beside the queue, the straps and the memory may take any value. -/
theorem State.Keeps.update {free fetchLast nextOp starts receipt : Nat} {time : Word64} {regs : Tab Word} {chipSel : Tab Nat}
    {staged latch : List HighWord} {boot : Boot} {ucode : Ucode} {rings : Tab Ring} {ops : List Op} {recs : List Rec} {seqs : Seqs}
    {regions : Tab Region} {sheaves : Tab Sheaf} {tables : Tables} {tap : Tap} {port : Port} {sward : Sward} {sets : Tab SetTab}
    {banks : Tab Bank} {retire : List Retire} {snap : Snap} {power : Power} {cal : Cal} {evt : Evt} {audit : Audit}
    {saves : List Saved} (hk : s₀.Keeps s) :
    s₀.Keeps ⟨s.pending, free, s.strap, time, s.mem, regs, chipSel, staged, latch, boot, ucode, rings, fetchLast, ops, nextOp, starts,
      recs, seqs, regions, sheaves, tables, tap, port, sward, sets, banks, retire, snap, power, cal, evt, audit, receipt, saves⟩ := hk

theorem State.Keeps.ite {c : Prop} [Decidable c] (hk : s₀.Keeps s) (g : s₀.Keeps t) : s₀.Keeps (if c then s else t) := by
  split
  · exact hk
  · exact g

theorem State.Keeps.ite_snd {α : Type} {c : Prop} [Decidable c] {p q : α × State} (hp : s₀.Keeps p.2) (hq : s₀.Keeps q.2) :
    s₀.Keeps (if c then p else q).2 := by
  split
  · exact hp
  · exact hq

theorem State.Keeps.ite_fst {α : Type} {c : Prop} [Decidable c] {p q : State × α} (hp : s₀.Keeps p.1) (hq : s₀.Keeps q.1) :
    s₀.Keeps (if c then p else q).1 := by
  split
  · exact hp
  · exact hq

theorem State.Keeps.foldl {α : Type} {f : State → α → State} {l : List α} (hk : s₀.Keeps s)
    (hf : ∀ t x, s₀.Keeps t → s₀.Keeps (f t x)) : s₀.Keeps (l.foldl f s) := by
  induction l generalizing s with
  | nil => exact hk
  | cons x l ih => exact ih (hf s x hk)

theorem State.Keeps.pair {α : Type} {x : α} (hk : s₀.Keeps s) : s₀.Keeps (x, s).2 := hk

theorem State.Keeps.pair_fst {α : Type} {x : α} (hk : s₀.Keeps s) : s₀.Keeps (s, x).1 := hk

/-- The state in the second place of a pair, under the pair's name for it. -/
theorem State.Keeps.snd {α : Type} {p : α × State} {x : α} (e : p = (x, t)) (hk : s₀.Keeps p.2) : s₀.Keeps t := by
  subst e
  exact hk

theorem State.Keeps.of_some {o : Option State} (e : o = some t) (hk : s₀.KeepsAll o) : s₀.Keeps t := by
  cases e
  cases hk
  assumption

section
variable {w : Walk}

theorem State.Keeps.of_go (e : w = .go t) (hw : s₀.KeepsWalk w) : s₀.Keeps t := by
  subst e
  cases hw
  assumption

theorem State.Keeps.of_stop {st : Nat} (e : w = .stop st t) (hw : s₀.KeepsWalk w) : s₀.Keeps t := by
  subst e
  cases hw
  assumption

theorem State.Keeps.of_wait (e : w = .wait t) (hw : s₀.KeepsWalk w) : s₀.Keeps t := by
  subst e
  cases hw
  assumption

end

theorem State.Keeps.stackWrite {off : Nat} {v : List Byte} (hk : s₀.Keeps s) : s₀.Keeps (s.stackWrite off v) :=
  ⟨hk.1, hk.2.1, fun hb => State.memOk_stackWrite (hk.2.2 hb) off v⟩

theorem State.Keeps.stackZero {off n : Nat} (hk : s₀.Keeps s) : s₀.Keeps (s.stackZero off n) :=
  ⟨hk.1, hk.2.1, fun hb => State.memOk_stackZero (hk.2.2 hb) off n⟩

end

end Sys2Proof.Machine
end

section
/-! SUPPORT. Memory, counters, tiles and copies: these operations keep the queue, the straps and the form of memory. -/

namespace Sys2Proof.Machine

section
variable {s₀ s : State}

theorem State.Keeps.send {x : Tx} (hk : s₀.Keeps s) : s₀.Keeps (s.send x) := .update hk

theorem State.Keeps.seen (hk : s₀.Keeps s) : s₀.Keeps (s.seen) := .update hk

theorem State.Keeps.packetIn (hk : s₀.Keeps s) : s₀.Keeps (s.packetIn) := .send (.seen hk)

theorem State.Keeps.writeLoose {off : Nat} {v : List (Option Byte)} (hk : s₀.Keeps s) : s₀.Keeps (s.writeLoose off v) := .stackWrite hk

theorem State.Keeps.putWrite {agent : Nat} {op : Option Nat} {off : Nat} {v : List (Option Byte)} (hk : s₀.Keeps s) :
    s₀.Keeps (s.putWrite agent op off v) := .ite (.update hk) (.writeLoose hk)

theorem State.Keeps.storeFor {op : Option Nat} {a : Nat} {v : List Byte} {cls : Nat} (hk : s₀.Keeps s) : s₀.Keeps (s.storeFor op a v cls) :=
  .ite (.putWrite hk) (.send hk)

theorem State.Keeps.store {a : Nat} {v : List Byte} {cls : Nat} (hk : s₀.Keeps s) : s₀.Keeps (s.store a v cls) := .storeFor hk

theorem State.Keeps.engineWrite {op a : Nat} {v : List Byte} {cls : Nat} (hk : s₀.Keeps s) : s₀.Keeps (s.engineWrite op a v cls) :=
  .storeFor hk

theorem State.Keeps.setReg {off : Nat} {w : Word} (hk : s₀.Keeps s) : s₀.Keeps (s.setReg off w) := .update hk

theorem State.Keeps.bumpBy {off n : Nat} (hk : s₀.Keeps s) : s₀.Keeps (s.bumpBy off n) := .ite hk (.setReg hk)

theorem State.Keeps.bump {off : Nat} (hk : s₀.Keeps s) : s₀.Keeps (s.bump off) := .bumpBy hk

theorem State.Keeps.modRegion {i : Nat} {f : Region → Region} (hk : s₀.Keeps s) : s₀.Keeps (s.modRegion i f) := .update hk

theorem State.Keeps.modSheaf {i : Nat} {f : Sheaf → Sheaf} (hk : s₀.Keeps s) : s₀.Keeps (s.modSheaf i f) := .update hk

theorem State.Keeps.modOp {id : Nat} {f : Op → Op} (hk : s₀.Keeps s) : s₀.Keeps (s.modOp id f) := .update hk

theorem State.Keeps.modSet {k : Nat} {f : SetTab → SetTab} (hk : s₀.Keeps s) : s₀.Keeps (s.modSet k f) := .update hk

theorem State.Keeps.putSet {k : Nat} {t : SetTab} (hk : s₀.Keeps s) : s₀.Keeps (s.putSet k t) := .update hk

theorem State.Keeps.putLine {r : Region} {t g : Nat} {v : List Byte} (hk : s₀.Keeps s) : s₀.Keeps (s.putLine r t g v) := by
  unfold State.putLine
  split
  · exact .ite hk (.stackWrite hk)
  · exact hk

theorem State.Keeps.xorLine {r : Region} {t g : Nat} {d : List Byte} (hk : s₀.Keeps s) : s₀.Keeps (s.xorLine r t g d) := by
  unfold State.xorLine
  split
  · exact .ite hk (.stackWrite hk)
  · exact hk

theorem State.Keeps.refreshPair {tile : Nat} {v : List Byte} (hk : s₀.Keeps s) : s₀.Keeps (s.refreshPair tile v) := .update hk

theorem State.Keeps.putTile {r : Region} {t : Nat} {v : List Byte} (hk : s₀.Keeps s) : s₀.Keeps (s.putTile r t v) :=
  .refreshPair (.putLine (.stackWrite hk))

theorem State.Keeps.putPart {r : Region} {t : Nat} {v : List Byte} (hk : s₀.Keeps s) : s₀.Keeps (s.putPart r t v) :=
  .refreshPair (.xorLine (.stackWrite hk))

theorem State.Keeps.setCodes {c : Cut} {i n code : Nat} (hk : s₀.Keeps s) : s₀.Keeps (s.setCodes c i n code) := .stackWrite hk

theorem State.Keeps.issueCopy {c : Cut} {tag i n : Nat} {prio : Bool} (hk : s₀.Keeps s) : s₀.Keeps (s.issueCopy c tag i n prio) :=
  .update (.setCodes hk)

theorem State.Keeps.cbwAsk {j t : Nat} (hk : s₀.Keeps s) : s₀.Keeps (s.cbwAsk j t) := by
  unfold State.cbwAsk
  split
  · extract_lets
    split
    · split
      · exact .issueCopy hk
      · exact hk
    · exact hk
  · exact hk

theorem State.Keeps.zeroMap {c : Cut} (hk : s₀.Keeps s) : s₀.Keeps (s.zeroMap c) := .stackZero hk

theorem State.Keeps.cbwEngine {j t : Nat} (hk : s₀.Keeps s) : s₀.Keeps (s.cbwEngine j t) := .ite (.cbwAsk hk) (.bump (.update (.cbwAsk hk)))

theorem State.Keeps.endWaits (hk : s₀.Keeps s) : s₀.Keeps (s.endWaits) := .foldl hk fun _ _ g => .ite g (.bumpBy (.update g))

theorem State.Keeps.repairTile {j t : Nat} {r : Region} {v : List Byte} (hk : s₀.Keeps s) : s₀.Keeps (s.repairTile j t r v) :=
  .ite (.cbwEngine (.ite hk (.update hk))) (.putTile hk)

theorem State.KeepsAll.repairMove (hk : s₀.Keeps s) : s₀.KeepsAll (s.repairMove) := by
  unfold State.repairMove
  split
  · exact .none
  · extract_lets
    split
    · exact .some (.putTile (.update hk))
    · exact .some (.update hk)

theorem State.Keeps.noteRead {i t : Nat} {r : Region} {x : TileRd} (hk : s₀.Keeps s) : s₀.Keeps (s.noteRead i t r x) := by
  unfold State.noteRead
  extract_lets _ s1
  have h1 : s₀.Keeps s1 := .ite (.bump hk) hk
  exact .ite (.modRegion h1)
    (.ite (.putLine (.bump (.modRegion h1))) (.ite (.modRegion h1) (.repairTile (.bump (.bumpBy (.modRegion h1))))))

theorem State.Keeps.freshNat (hk : s₀.Keeps s) : s₀.Keeps (s.freshNat).2 := .pair (.update hk)

theorem State.Keeps.freeBytes {n : Nat} (hk : s₀.Keeps s) : s₀.Keeps (s.freeBytes n).2 := .pair (.freshNat hk)

end

end Sys2Proof.Machine
end

section
/-! SUPPORT. Events, the audit log and the ends of operations: these operations keep the queue, the straps and the form of memory. -/

namespace Sys2Proof.Machine

section
variable {s₀ s : State}

theorem State.Keeps.settleLines (hk : s₀.Keeps s) : s₀.Keeps (s.settleLines) := .update hk

theorem State.Keeps.setPending {src : Nat} {fast : Bool} (hk : s₀.Keeps s) : s₀.Keeps (s.setPending src fast) :=
  .ite (.update hk) (.update hk)

theorem State.Keeps.occur {src detail : Nat} {fast : Bool} (hk : s₀.Keeps s) : s₀.Keeps (s.occur src detail fast) :=
  .settleLines (.update (.setPending hk))

theorem State.Keeps.event {src detail : Nat} (hk : s₀.Keeps s) : s₀.Keeps (s.event src detail) := .occur hk

theorem State.Keeps.settleAudit (hk : s₀.Keeps s) : s₀.Keeps (s.settleAudit) := .ite (.event (.update hk)) (.update hk)

theorem State.Keeps.auditMove (hk : s₀.Keeps s) : s₀.Keeps (s.auditMove) := by
  unfold State.auditMove
  split
  · exact hk
  · exact .update (.store hk)

theorem State.Keeps.auditForm {status origin index kind object detail epoch : Nat} {resv : Bool} (hk : s₀.Keeps s) :
    s₀.Keeps (s.auditForm status origin index kind object detail epoch resv) := by
  unfold State.auditForm
  extract_lets _ _ s0 _ _ _ s2
  have h0 : s₀.Keeps s0 := .ite (.update hk) hk
  have h2 : s₀.Keeps s2 := .ite (.auditMove (.update h0)) (.update h0)
  exact .ite (.settleAudit (.update (.update h0))) (.settleAudit (.update h2))

theorem State.Keeps.auditWrite {req off old new : Nat} (hk : s₀.Keeps s) : s₀.Keeps (s.auditWrite req off old new) := .auditForm hk

theorem State.Keeps.auditRefuse {req off w : Nat} (hk : s₀.Keeps s) : s₀.Keeps (s.auditRefuse req off w) := .auditForm hk

theorem State.Keeps.auditFinal {o : Op} {status aux : Nat} (hk : s₀.Keeps s) : s₀.Keeps (s.auditFinal o status aux) := by
  unfold State.auditFinal
  extract_lets
  split
  · exact hk
  · split
    · exact .ite (.settleAudit (.update hk)) hk
    · split <;> exact .auditForm hk

theorem State.Keeps.finishOne {o : Op} {st cursor result aux : Nat} (hk : s₀.Keeps s) : s₀.Keeps (s.finishOne o st cursor result aux) :=
  .auditFinal (.update hk)

theorem State.Keeps.releaseControls {id status cursor : Nat} (hk : s₀.Keeps s) : s₀.Keeps (s.releaseControls id status cursor) :=
  .foldl hk fun _ _ g => .finishOne g

theorem State.Keeps.finish {o : Op} {status cursor result aux : Nat} (hk : s₀.Keeps s) : s₀.Keeps (s.finish o status cursor result aux) :=
  .releaseControls (.finishOne hk)

theorem State.Keeps.fail {o : Op} {status : Nat} (hk : s₀.Keeps s) : s₀.Keeps (s.fail o status) := .finish hk

theorem State.Keeps.interim {o : Op} {status cursor : Nat} (hk : s₀.Keeps s) : s₀.Keeps (s.interim o status cursor) := .update hk

theorem State.Keeps.stopRing {n cause : Nat} (hk : s₀.Keeps s) : s₀.Keeps (s.stopRing n cause) := by
  unfold State.stopRing
  split
  · exact hk
  · exact .ite hk (.auditForm (.event (.update hk)))

theorem State.Keeps.makeReady {id : Nat} (hk : s₀.Keeps s) : s₀.Keeps (s.makeReady id) := .ite hk (.update hk)

theorem State.Keeps.leaveSeq {id : Nat} (hk : s₀.Keeps s) : s₀.Keeps (s.leaveSeq id) := .ite (.bump (.update hk)) hk

theorem State.Keeps.putSlot {x : Nat} {v : SnapSlot} (hk : s₀.Keeps s) : s₀.Keeps (s.putSlot x v) := .update hk

theorem State.Keeps.setSlotState {x : Nat} {st : SnapState} (hk : s₀.Keeps s) : s₀.Keeps (s.setSlotState x st) := .stackWrite (.putSlot hk)

theorem State.Keeps.dropCut {op : Nat} (hk : s₀.Keeps s) : s₀.Keeps (s.dropCut op) := by
  unfold State.dropCut
  split
  · exact hk
  · exact .ite hk (.update (.setSlotState (.zeroMap hk)))

theorem State.Keeps.cancelClean {o : Op} (hk : s₀.Keeps s) : s₀.Keeps (s.cancelClean o) := by
  unfold State.cancelClean
  split
  · exact hk
  · split
    · split
      · exact .update hk
      · exact hk
    · exact .ite (.update hk) (.ite (.modRegion hk) (.ite (.dropCut hk) (.ite (.bump (.setSlotState hk)) (.ite (.event hk) hk))))

theorem State.Keeps.cancelOp {o : Op} (hk : s₀.Keeps s) : s₀.Keeps (s.cancelOp o) := .finish (.cancelClean hk)

theorem State.Keeps.yieldPoint {id : Nat} (hk : s₀.Keeps s) : s₀.Keeps (s.yieldPoint id) := by
  unfold State.yieldPoint
  split
  · exact hk
  · extract_lets s1
    have h1 : s₀.Keeps s1 := .leaveSeq (.modOp (.interim hk))
    split
    · exact .foldl (.update h1) fun _ _ g => .finishOne g
    · exact .cancelOp hk
    · exact .ite hk (.makeReady (.leaveSeq hk))
    · exact hk

end

end Sys2Proof.Machine
end

section
/-! SUPPORT. Waits of operations: these operations keep the queue, the straps and the form of memory. -/

namespace Sys2Proof.Machine

section
variable {s₀ s : State}

theorem State.Keeps.park {id : Nat} {f : Op → Op} (hk : s₀.Keeps s) : s₀.Keeps (s.park id f) := .leaveSeq (.modOp hk)

theorem State.Keeps.unpark {id : Nat} {f : Op → Op} (hk : s₀.Keeps s) : s₀.Keeps (s.unpark id f) := .makeReady (.modOp hk)

end

end Sys2Proof.Machine
end

section
/-! SUPPORT. Bring-up and calibration: these operations keep the queue, the straps and the form of memory. -/

namespace Sys2Proof.Machine

section
variable {s₀ s : State}

theorem State.Keeps.loadCal {flashError : Bool} (hk : s₀.Keeps s) : s₀.Keeps (s.loadCal flashError) :=
  .ite (.update hk) (.event (.update hk))

theorem State.Keeps.settleReady (hk : s₀.Keeps s) : s₀.Keeps (s.settleReady) := .ite (.update hk) hk

theorem State.Keeps.enterFailed {cause : Nat} (hk : s₀.Keeps s) : s₀.Keeps (s.enterFailed cause) := .event (.update hk)

theorem State.Keeps.flashLeft (hk : s₀.Keeps s) : s₀.Keeps (s.flashLeft).2 := .ite_snd (.pair (.freshNat hk)) hk

theorem State.Goes.coldReset (hk : s₀.Keeps s) : s₀.Goes (execColdReset s) := .next hk

theorem State.Goes.warmReset (hk : s₀.Keeps s) : s₀.Goes (execWarmReset s) := .next hk

theorem State.Goes.resetRelease (hk : s₀.Keeps s) : s₀.Goes (execResetRelease s) := .next (.ite (.update hk) hk)

theorem State.Goes.alignAck {lanes : BitVec 32} {rickBase rickTiles : Nat} (hk : s₀.Keeps s) :
    s₀.Goes (execAlignAck lanes rickBase rickTiles s) := .next (.ite (.update hk) hk)

theorem State.Goes.fuseDone {flashError : Bool} (hk : s₀.Keeps s) : s₀.Goes (execFuseDone flashError s) :=
  .next (.ite (.ite (.update (.loadCal hk)) (.enterFailed (.loadCal hk))) hk)

theorem State.Goes.bistStart {req : Nat} {w : Word} (hk : s₀.Keeps s) : s₀.Goes (execBistStart req w s) := .next (.ite (.update hk) hk)

theorem State.Goes.bistDone {pass : BitVec 32} {guardOk : Bool} (hk : s₀.Keeps s) : s₀.Goes (execBistDone pass guardOk s) := by
  unfold execBistDone
  extract_lets
  exact .next
    (.ite (.ite (.ite (.settleReady (.update (.update hk))) (.enterFailed (.update hk))) (.ite (.update hk) (.event (.update hk)))) hk)

theorem State.Keeps.putCalData {v : List Byte} (hk : s₀.Keeps s) : s₀.Keeps (s.putCalData v) := .foldl hk fun _ _ g => .setReg g

theorem State.Keeps.calLast {n : Nat} {done : Bool} (hk : s₀.Keeps s) : s₀.Keeps (s.calLast n done) := .update hk

theorem State.Goes.calRead {req : Nat} {flashError : Bool} (hk : s₀.Keeps s) : s₀.Goes (execCalRead req flashError s) := by
  unfold execCalRead
  extract_lets
  exact .next (.ite hk (.ite (.calLast (.putCalData (.freshNat hk))) (.calLast (.putCalData hk))))

theorem State.Goes.calWrite {req : Nat} {w : Word} (hk : s₀.Keeps s) : s₀.Goes (execCalWrite req w s) := by
  unfold execCalWrite
  extract_lets
  exact .next
    (.ite hk (.ite (.ite (.calLast hk) (.auditRefuse (.calLast hk))) (.ite (.calLast hk) (.ite (.auditRefuse (.calLast hk)) (.update hk)))))

theorem State.Goes.calWriteDone {flashError : Bool} (hk : s₀.Keeps s) : s₀.Goes (execCalWriteDone flashError s) :=
  .next (.ite hk (.auditForm (.update (.ite (.freshNat hk) hk))))

end

end Sys2Proof.Machine
end

section
/-! SUPPORT. Registers: these operations keep the queue, the straps and the form of memory. -/

namespace Sys2Proof.Machine

section
variable {s₀ s : State}

theorem State.Goes.reg64LowRead {req off : Nat} (hk : s₀.Keeps s) : s₀.Goes (execReg64LowRead req off s) := .next (.ite (.update hk) hk)

theorem State.Keeps.write32 {req off : Nat} {w : Word} (hk : s₀.Keeps s) : s₀.Keeps (s.write32 req off w) := by
  unfold State.write32
  split
  · exact hk
  · extract_lets
    exact .ite (.setReg hk) (.ite (.auditForm hk) (.ite (.auditWrite (.setReg hk)) (.auditRefuse hk)))

theorem State.Keeps.write64 {req off : Nat} {w : Word} (hk : s₀.Keeps s) : s₀.Keeps (s.write64 req off w) := by
  unfold State.write64
  extract_lets _ _ _ s1 s2 s2'
  have h1 : s₀.Keeps s1 := .setReg (.setReg (.update hk))
  have h2 : s₀.Keeps s2 := .ite (.auditWrite h1) h1
  have h2' : s₀.Keeps s2' := .ite (.auditRefuse (.update hk)) (.update hk)
  split
  · exact hk
  · exact .ite (.auditWrite h2) (.auditRefuse h2')

theorem State.Goes.registerWrite {req off : Nat} {w : Word} (hk : s₀.Keeps s) : s₀.Goes (execRegisterWrite req off w s) :=
  .next (.ite hk (.settleLines (.settleReady (.ite (.write64 hk) (.write32 hk)))))

theorem State.Goes.reg64HighWrite {req off : Nat} {w : Word} (hk : s₀.Keeps s) : s₀.Goes (execReg64HighWrite req off w s) := by
  unfold execReg64HighWrite
  extract_lets s1
  have h1 : s₀.Keeps s1 := by
    unfold s1
    split
    · exact .auditRefuse hk
    · exact hk
  exact .next (.ite (.update h1) hk)

theorem State.Goes.controlBusReject {req : Nat} {addr : BitVec 16} {we : Bool} (hk : s₀.Keeps s) :
    s₀.Goes (execControlBusReject req addr we s) := .next (.auditForm (.send hk))

theorem State.Goes.chipSelWrite {req q : Nat} {w : Word} (hk : s₀.Keeps s) : s₀.Goes (execChipSelWrite req q w s) :=
  .next (.ite (.update hk) hk)

theorem State.Goes.rehomeCfgWrite {req : Nat} {w : Word} (hk : s₀.Keeps s) : s₀.Goes (execRehomeCfgWrite req w s) :=
  .next (.ite hk (.ite (.update (.write32 hk)) (.write32 hk)))

theorem State.Keeps.putLedger {e : Nat} {x : Ledger} (hk : s₀.Keeps s) : s₀.Keeps (s.putLedger e x) := .stackWrite hk

theorem State.Goes.ledgerEnable {req : Nat} {w : Word} (hk : s₀.Keeps s) : s₀.Goes (execLedgerEnable req w s) :=
  .next (.ite hk (.ite (.update (.write32 hk)) (.write32 hk)))

theorem State.Goes.auditRingConfigWrite {req off : Nat} {w : Word} (hk : s₀.Keeps s) : s₀.Goes (execAuditRingConfigWrite req off w s) := by
  unfold execAuditRingConfigWrite
  extract_lets _ _ _ s1 s2
  have h1 : s₀.Keeps s1 := .ite (.update hk) hk
  have h2 : s₀.Keeps s2 := .ite (.write64 h1) (.write32 h1)
  exact .next (.ite (.ite (.settleAudit h2) h2) hk)

theorem State.Goes.auditRingWrite {error : Bool} (hk : s₀.Keeps s) : s₀.Goes (execAuditRingWrite error s) :=
  .next (.ite hk (.ite (.update hk) (.settleAudit (.auditMove hk))))

theorem State.Goes.auditCountWrite {v : Word} (hk : s₀.Keeps s) : s₀.Goes (execAuditCountWrite v s) :=
  .next (.ite (.settleAudit (.update (.store hk))) hk)

theorem State.Goes.auditCountPoll {resp : Resp} (hk : s₀.Keeps s) : s₀.Goes (execAuditCountPoll resp s) := by
  unfold execAuditCountPoll
  extract_lets
  refine .next ?_
  split
  · exact hk
  · split
    · exact .settleAudit (.update (.update hk))
    · exact .update hk

theorem State.Goes.evtOwnWrite {req i : Nat} {w : Word} (hk : s₀.Keeps s) : s₀.Goes (execEvtOwnWrite req i w s) := by
  unfold execEvtOwnWrite
  extract_lets
  exact .next (.ite hk (.ite (.auditForm hk) (.ite (.auditRefuse hk) (.settleLines (.auditWrite (.setReg hk))))))

theorem State.Goes.evtRouteWrite {req src : Nat} {w : Word} (hk : s₀.Keeps s) : s₀.Goes (execEvtRouteWrite req src w s) := by
  unfold execEvtRouteWrite
  extract_lets
  exact .next (.ite hk (.ite (.auditForm hk) (.ite (.auditRefuse hk) (.settleLines (.auditWrite (.setReg hk))))))

theorem State.Goes.evtPendClear {req : Nat} {fast : Bool} {word : Nat} {w : Word} (hk : s₀.Keeps s) :
    s₀.Goes (execEvtPendClear req fast word w s) := by
  unfold execEvtPendClear
  extract_lets
  exact .next (.settleLines (.update hk))

theorem State.Goes.evtSwset {req : Nat} {w : Word} (hk : s₀.Keeps s) : s₀.Goes (execEvtSwset req w s) :=
  .next (.settleLines (.setPending hk))

theorem State.Goes.cpidleAssert {t : Nat} (hk : s₀.Keeps s) : s₀.Goes (execCpidleAssert t s) := .next (.settleLines (.update hk))

theorem State.Goes.moderationHoldExpiry {t : Nat} (hk : s₀.Keeps s) : s₀.Goes (execModerationHoldExpiry t s) := .next (.settleLines hk)

theorem State.Goes.cmpCfgWrite {req n : Nat} {w : Word} (hk : s₀.Keeps s) : s₀.Goes (execCmpCfgWrite req n w s) := by
  unfold execCmpCfgWrite
  extract_lets _ _ _ _ s1
  have h1 : s₀.Keeps s1 := .ite (.update hk) hk
  exact .next (.ite hk (.ite (.auditForm hk) (.ite (.auditRefuse hk) (.settleLines (.auditWrite (.setReg h1))))))

theorem State.Goes.comparatorFire {n : Nat} (hk : s₀.Keeps s) : s₀.Goes (execComparatorFire n s) := by
  unfold execComparatorFire
  extract_lets _ _ _ _ s1
  have h1 : s₀.Keeps s1 := .bump (.event hk)
  exact .next (.ite hk (.ite (.setReg h1) (.setReg (.setReg h1))))

end

end Sys2Proof.Machine
end

section
/-! SUPPORT. Messages, reports and contexts at the port: these operations keep the queue, the straps and the form of memory. -/

namespace Sys2Proof.Machine

section
variable {s₀ s : State}

theorem State.Keeps.countPath {dst p tries timeouts : Nat} (hk : s₀.Keeps s) : s₀.Keeps (s.countPath dst p tries timeouts) := .update hk

theorem State.Keeps.sample {dst r : Nat} (hk : s₀.Keeps s) : s₀.Keeps (s.sample dst r) := .update hk

theorem State.Keeps.modCtx {c : Nat} {f : SendCtx → SendCtx} (hk : s₀.Keeps s) : s₀.Keeps (s.modCtx c f) := .update hk

theorem State.Keeps.sendTry {n : Nat} {c : SendCtx} {m : Msg} (hk : s₀.Keeps s) : s₀.Keeps (s.sendTry n c m) := .update hk

theorem State.Keeps.tryMsg {n seq : Nat} (hk : s₀.Keeps s) : s₀.Keeps (s.tryMsg n seq) := by
  unfold State.tryMsg
  split
  · exact hk
  · split
    · exact hk
    · extract_lets _ _ _ _ s1 s2
      have h1 : s₀.Keeps s1 := .countPath (.modCtx hk)
      have h2 : s₀.Keeps s2 := .ite h1 (.bump h1)
      exact .sendTry h2

theorem State.Keeps.writeReport {k : Key} (hk : s₀.Keeps s) : s₀.Keeps (s.writeReport k) := by
  unfold State.writeReport
  extract_lets
  split
  · exact .ite hk (.store hk)
  · exact hk

theorem State.Keeps.closeKeys {p : Key → Bool} (hk : s₀.Keeps s) : s₀.Keeps (s.closeKeys p) := by
  unfold State.closeKeys
  extract_lets _ s1
  have h1 : s₀.Keeps s1 := by
    unfold s1
    refine .foldl hk fun _ _ g => ?_
    exact .ite (.writeReport g) g
  exact .update h1

theorem State.Keeps.takeReport {sheaf dstMember job epoch kind subject reporter : Nat} (hk : s₀.Keeps s) :
    s₀.Keeps (s.takeReport sheaf dstMember job epoch kind subject reporter) := by
  unfold State.takeReport
  extract_lets _ _ _ s1
  have h1 : s₀.Keeps s1 := by
    unfold s1
    split
    · exact hk
    · split
      · exact .closeKeys hk
      · exact hk
  split
  · exact .bump hk
  · split
    · exact .bump hk
    · split
      · exact .bump (.update hk)
      · exact .event (.writeReport (.update h1))

theorem State.Keeps.report {sheaf kind subject level : Nat} (hk : s₀.Keeps s) : s₀.Keeps (s.report sheaf kind subject level) := by
  unfold State.report
  split
  · extract_lets
    split
    · exact hk
    · split
      · exact .update hk
      · split
        · exact .update hk
        · exact .ite (.takeReport (.update hk)) (.send (.update hk))
  · exact hk

theorem State.Keeps.dropRowRef {region bank : Nat} (hk : s₀.Keeps s) : s₀.Keeps (s.dropRowRef region bank) := .update hk

theorem State.Keeps.freeSlot {k : Nat} (hk : s₀.Keeps s) : s₀.Keeps (s.freeSlot k) := by
  unfold State.freeSlot
  extract_lets
  split
  · exact hk
  · exact .ite (.dropRowRef (.update hk)) (.update hk)

theorem State.Keeps.slotDone {k : Nat} (hk : s₀.Keeps s) : s₀.Keeps (s.slotDone k) := by
  unfold State.slotDone
  extract_lets
  split
  · exact hk
  · exact .ite (.freeSlot hk) (.update hk)

theorem State.Keeps.endSend {n seq : Nat} {retired : Bool} {st : Option Nat} (hk : s₀.Keeps s) : s₀.Keeps (s.endSend n seq retired st) :=
  .update hk

theorem State.Keeps.countFenced {j h : Nat} (hk : s₀.Keeps s) : s₀.Keeps (s.countFenced j h) := .update hk

theorem State.Keeps.endMsg {n : Nat} {m : Msg} {retired : Bool} {st : Option Nat} (hk : s₀.Keeps s) :
    s₀.Keeps (s.endMsg n m retired st) := by
  unfold State.endMsg
  extract_lets _ _ s2 s3
  have h2 : s₀.Keeps s2 := by
    unfold s2
    split
    · split
      · exact .modRegion (.modCtx hk)
      · exact .modCtx hk
    · exact .modCtx hk
  have h3 : s₀.Keeps s3 := .ite (.countFenced h2) h2
  exact .slotDone (.endSend h3)

theorem State.Keeps.failMsg {n : Nat} {c : SendCtx} {m : Msg} {st : Nat} (hk : s₀.Keeps s) : s₀.Keeps (s.failMsg n c m st) := by
  unfold State.failMsg
  extract_lets
  exact .ite (.report (.event (.bump (.endMsg hk)))) (.ite (.endMsg hk) (.event (.bump (.endMsg hk))))

theorem State.Keeps.dropMsgs {n : Nat} {p : Msg → Bool} (hk : s₀.Keeps s) : s₀.Keeps (s.dropMsgs n p) := by
  unfold State.dropMsgs
  split
  · exact hk
  · exact .foldl hk fun _ _ g => .endMsg g

theorem State.Keeps.addSend {region sheaf row k : Nat} {x : Member} (hk : s₀.Keeps s) : s₀.Keeps (s.addSend region sheaf row k x) := by
  unfold State.addSend
  split
  · exact .update hk
  · exact hk

theorem State.Keeps.addRecv {region sheaf src : Nat} (hk : s₀.Keeps s) : s₀.Keeps (s.addRecv region sheaf src) := by
  unfold State.addRecv
  split
  · exact .update hk
  · exact hk

theorem State.Keeps.addCtxs {region id : Nat} {sh : Sheaf} {i : Nat} (hk : s₀.Keeps s) : s₀.Keeps (s.addCtxs region id sh i) :=
  .foldl hk fun _ _ g => .ite (.addSend g) (.addRecv g)

theorem State.Keeps.freeRecv {p : RecvCtx → Bool} (hk : s₀.Keeps s) : s₀.Keeps (s.freeRecv p) := .update hk

theorem State.Keeps.freeSend {p : SendCtx → Bool} (hk : s₀.Keeps s) : s₀.Keeps (s.freeSend p) :=
  .update (.foldl hk fun _ _ g => .dropMsgs g)

theorem State.Keeps.sendAck {b : AckBatch} (hk : s₀.Keeps s) : s₀.Keeps (s.sendAck b) := .send hk

theorem State.Keeps.flushAck {dst tag : Nat} (hk : s₀.Keeps s) : s₀.Keeps (s.flushAck dst tag) := by
  unfold State.flushAck
  extract_lets
  split
  · exact .sendAck (.update hk)
  · exact hk

theorem State.Keeps.addAck {dst tag sheaf stripe : Nat} {e : AckEntry} (hk : s₀.Keeps s) : s₀.Keeps (s.addAck dst tag sheaf stripe e) := by
  unfold State.addAck
  extract_lets _ _ s0 _ _ s1 _ s2
  have h0 : s₀.Keeps s0 := .ite (.flushAck hk) hk
  have h1 : s₀.Keeps s1 := by
    unfold s1
    split <;> exact .update h0
  have h2 : s₀.Keeps s2 := .ite (.flushAck h1) h1
  exact .ite hk (.ite (.bump h2) (.ite (.bump h2) h2))

theorem State.Keeps.putBucket {b : Bucket} (hk : s₀.Keeps s) : s₀.Keeps (s.putBucket b) := .update hk

theorem State.Keeps.charge {dst n : Nat} (hk : s₀.Keeps s) : s₀.Keeps (s.charge dst n) := .putBucket hk

theorem State.Keeps.sendRead {slot : Nat} {q : ReadReq} {job src epoch : Nat} (hk : s₀.Keeps s) :
    s₀.Keeps (s.sendRead slot q job src epoch) := .send hk

end

end Sys2Proof.Machine
end

section
/-! SUPPORT. Reads through guard and sheaf: these operations keep the queue, the straps and the form of memory. -/

namespace Sys2Proof.Machine

section
variable {s₀ s : State}

theorem State.Keeps.touchQuiet {j : Nat} (hk : s₀.Keeps s) : s₀.Keeps (s.touchQuiet j) := by
  unfold State.touchQuiet
  extract_lets _ _ _ _ _ _ s2
  have h2 : s₀.Keeps s2 := .modRegion (.update hk)
  split
  · exact hk
  · exact .ite (.modRegion hk) (.ite (.bump h2) h2)

theorem State.Keeps.readPlain {ext : Ext} {j : Nat} {r : Region} {t : Nat} (hk : s₀.Keeps s) : s₀.Keeps (s.readPlain ext j r t).2 :=
  .pair (.noteRead hk)

theorem State.Keeps.giveUp {j t : Nat} (hk : s₀.Keeps s) : s₀.Keeps (s.giveUp j t) := .event (.bump hk)

theorem State.Keeps.xorTiles {ext : Ext} {l : List (Nat × Region × Nat)} {l2 : List Byte} (hk : s₀.Keeps s) :
    s₀.Keeps (s.xorTiles ext l l2).2 := by
  induction l generalizing s l2 with
  | nil => exact hk
  | cons x l ih =>
    unfold State.xorTiles
    split
    · exact ih (.snd ‹_› (.readPlain hk))
    · exact .pair (.giveUp (.snd ‹_› (.readPlain hk)))

theorem State.Keeps.issueRead {slot op cls view sheaf stripe job src epoch i : Nat} {x : Member} (hk : s₀.Keeps s) :
    s₀.Keeps (s.issueRead slot op cls view sheaf stripe job src epoch i x) := .update (.sendRead (.countPath (.ite (.charge hk) hk)))

theorem State.Keeps.putGot {id i view stripe : Nat} {x : MemRd} (hk : s₀.Keeps s) : s₀.Keeps (s.putGot id i view stripe x) := by
  unfold State.putGot
  extract_lets
  split
  · exact .modOp hk
  · exact .modOp hk
  · exact .modOp hk
  · exact hk

theorem State.Keeps.askMember {id cls view sheaf stripe job src epoch i : Nat} {x : Member} (hk : s₀.Keeps s) :
    s₀.Keeps (s.askMember id cls view sheaf stripe job src epoch i x).2 := by
  unfold State.askMember
  extract_lets
  split
  · exact hk
  · split
    · exact hk
    · split
      · exact .pair (.putBucket hk)
      · split
        · exact .pair (.issueRead hk)
        · exact hk

theorem State.Keeps.sendOnce {cls view sheaf stripe job src epoch i : Nat} {x : Member} (hk : s₀.Keeps s) :
    s₀.Keeps (s.sendOnce cls view sheaf stripe job src epoch i x) := by
  unfold State.sendOnce
  split
  · exact .update (.issueRead hk)
  · exact hk

theorem State.Keeps.viewPlain {ext : Ext} {j : Nat} {r : Region} {view t : Nat} (hk : s₀.Keeps s) :
    s₀.Keeps (s.viewPlain ext j r view t).2 := by
  unfold State.viewPlain
  split
  · exact .pair (.giveUp (.snd ‹_› (.readPlain hk)))
  · exact .ite_snd (.pair (.snd ‹_› (.readPlain hk)))
      (.ite_snd (.xorTiles (.snd ‹_› (.readPlain hk))) (.xorTiles (.snd ‹_› (.readPlain hk))))

theorem State.Keeps.readOwnMember {ext : Ext} {view sheaf i t : Nat} (hk : s₀.Keeps s) :
    s₀.Keeps (s.readOwnMember ext view sheaf i t).2 := by
  unfold State.readOwnMember
  split
  · exact hk
  · extract_lets _ s1
    have h1 : s₀.Keeps s1 := .ite (.touchQuiet hk) hk
    split
    · exact hk
    · split
      · exact hk
      · split
        · exact h1
        · split
          · exact h1
          · split <;> exact .pair (.snd ‹_› (.viewPlain h1))

theorem State.Keeps.readMember {ext : Ext} {op : Option Nat} {cls view sheaf : Nat} {me : Region} {i t : Nat} {x : Member}
    (hk : s₀.Keeps s) : s₀.Keeps (s.readMember ext op cls view sheaf me i t x).2 := by
  unfold State.readMember
  split
  · exact .ite_snd (.readOwnMember hk) (.pair (.sendOnce hk))
  · extract_lets
    split
    · split
      · exact hk
      · exact .pair (.putGot (.readOwnMember hk))
    · exact .askMember hk

theorem State.Keeps.readMembers {ext : Ext} {op : Option Nat} {cls sheaf : Nat} {sh : Sheaf} {me : Region} {t : Nat} {l : List Nat}
    {x : Tab MemRd} (hk : s₀.Keeps s) : s₀.Keeps (s.readMembers ext op cls sheaf sh me t l x).2 := by
  induction l generalizing s x with
  | nil => exact hk
  | cons x l ih =>
    unfold State.readMembers
    split
    · exact ih hk
    · split
      · exact ih hk
      · exact ih (.readMember hk)

theorem State.Keeps.useSlot {op : Option Nat} {d : DecSlot} (hk : s₀.Keeps s) : s₀.Keeps (s.useSlot op d) := by
  unfold State.useSlot
  extract_lets
  split
  · exact .update hk
  · split
    · exact .update hk
    · exact .bump hk

theorem State.Keeps.solveStripe {op : Option Nat} {region : Nat} {me : Region} {sh : Sheaf} {t : Nat} {sel : List Nat} {c : Tab MemRd}
    (hk : s₀.Keeps s) : s₀.Keeps (s.solveStripe op region me sh t sel c).2 := by
  unfold State.solveStripe
  extract_lets
  split
  · exact hk
  · split
    · exact hk
    · exact .pair (.useSlot hk)

theorem State.Keeps.reselect {op : Option Nat} {t : Nat} {bad : List Nat} (hk : s₀.Keeps s) : s₀.Keeps (s.reselect op t bad) := by
  unfold State.reselect
  split
  · exact .bumpBy hk
  · exact .bumpBy (.modOp hk)

theorem State.Keeps.readStripe {ext : Ext} {op : Option Nat} {cls region sheaf : Nat} {me : Region} {sh : Sheaf} {t : Nat}
    {order : List Nat} {n : Nat} {l : List Nat} {x : Tab MemRd} (hk : s₀.Keeps s) :
    s₀.Keeps (s.readStripe ext op cls region sheaf me sh t order n l x).2 := by
  induction n generalizing s l x with
  | zero => exact hk
  | succ n ih =>
    unfold State.readStripe
    extract_lets
    split
    · exact hk
    · split
      · exact .pair (.readMembers hk)
      · split
        · exact .pair (.readMembers hk)
        · exact .ite_snd (ih (.reselect (.readMembers hk)))
            (.ite_snd (.pair (.readMembers (.readMembers hk)))
              (.ite_snd (ih (.reselect (.readMembers (.readMembers hk))))
                (.ite_snd (.pair (.readMembers (.readMembers hk))) (.solveStripe (.readMembers (.readMembers hk))))))

theorem State.Keeps.decodeStripe {ext : Ext} {op : Option Nat} {cls region : Nat} {r : Region} {sh : Sheaf} {t : Nat}
    {order excl : List Nat} (hk : s₀.Keeps s) : s₀.Keeps (s.decodeStripe ext op cls region r sh t order excl).2 := .readStripe hk

theorem State.Keeps.targetTile {ext : Ext} {op : Option Nat} {cls region : Nat} {r : Region} {sh : Sheaf} {target t : Nat}
    (hk : s₀.Keeps s) : s₀.Keeps (s.targetTile ext op cls region r sh target t).2 := by
  unfold State.targetTile
  split
  · exact hk
  · split
    · exact .ite_snd (.pair (.snd ‹_› (.decodeStripe hk))) (.pair (.snd ‹_› (.decodeStripe hk)))
    · exact .pair (.snd ‹_› (.decodeStripe hk))
    · exact .pair (.snd ‹_› (.decodeStripe hk))
    · exact .pair (.snd ‹_› (.decodeStripe hk))

theorem State.Keeps.buildValue {ext : Ext} {op : Option Nat} {cls j : Nat} {r : Region} {sh : Sheaf} {t : Nat} (hk : s₀.Keeps s) :
    s₀.Keeps (s.buildValue ext op cls j r sh t).2 := by
  unfold State.buildValue
  split
  · exact .targetTile hk
  · split
    · split <;> exact .pair (.snd ‹_› (.xorTiles (.snd ‹_› (.decodeStripe hk))))
    · exact .pair (.snd ‹_› (.decodeStripe hk))
    · exact .pair (.snd ‹_› (.decodeStripe hk))
    · exact .pair (.snd ‹_› (.decodeStripe hk))

theorem State.Keeps.acceptBuild {j t : Nat} {v : List Byte} (hk : s₀.Keeps s) : s₀.Keeps (s.acceptBuild j t v) := by
  unfold State.acceptBuild
  split
  · exact hk
  · exact .update (.modRegion (.putTile hk))

theorem State.Keeps.repairValue {ext : Ext} {j : Nat} {r : Region} {t : Nat} (hk : s₀.Keeps s) : s₀.Keeps (s.repairValue ext j r t).2 := by
  unfold State.repairValue
  split
  · exact hk
  · split
    · split <;> exact .pair (.snd ‹_› (.buildValue hk))
    · split
      · exact hk
      · split
        · exact .xorTiles (.snd ‹_› (.targetTile hk))
        · exact .pair (.snd ‹_› (.targetTile hk))

theorem State.Keeps.readTile {ext : Ext} {j : Nat} {r : Region} {t : Nat} (hk : s₀.Keeps s) : s₀.Keeps (s.readTile ext j r t).2 := by
  unfold State.readTile
  split
  · exact .pair (.snd ‹_› (.readPlain hk))
  · split
    · split
      · exact .pair (.giveUp (.snd ‹_› (.readPlain hk)))
      · split
        · exact .pair (.bumpBy (.acceptBuild (.snd ‹_› (.buildValue (.snd ‹_› (.readPlain hk))))))
        · exact .pair (.giveUp (.snd ‹_› (.buildValue (.snd ‹_› (.readPlain hk)))))
    · split
      · exact .pair (.bump (.repairTile (.snd ‹_› (.repairValue (.snd ‹_› (.readPlain hk))))))
      · exact .pair (.giveUp (.snd ‹_› (.repairValue (.snd ‹_› (.readPlain hk)))))

theorem State.Keeps.readApply {ext : Ext} {j : Nat} {r : Region} {t : Nat} (hk : s₀.Keeps s) : s₀.Keeps (s.readApply ext j r t).2 := by
  unfold State.readApply
  split
  · split <;> exact .pair (.snd ‹_› (.readPlain hk))
  · exact .readTile hk

theorem State.Keeps.readPart {ext : Ext} {tile off n : Nat} (hk : s₀.Keeps s) : s₀.Keeps (s.readPart ext tile off n).2 := by
  unfold State.readPart
  extract_lets
  split
  · exact hk
  · split
    · exact hk
    · split <;> exact .pair (.snd ‹_› (.readTile hk))

theorem State.Keeps.readStack {ext : Ext} {n n2 n3 : Nat} (hk : s₀.Keeps s) : s₀.Keeps (s.readStack ext n n2 n3).2 := by
  induction n generalizing s n2 n3 with
  | zero => exact hk
  | succ n ih =>
    unfold State.readStack
    extract_lets
    split
    · exact hk
    · split
      · exact .pair (.snd ‹_› (.readPart hk))
      · split <;> exact .pair (.snd ‹_› (ih (.snd ‹_› (.readPart hk))))

theorem State.Keeps.readAt {ext : Ext} {a n cls : Nat} (hk : s₀.Keeps s) : s₀.Keeps (s.readAt ext a n cls).2 := by
  unfold State.readAt
  split
  · split <;> exact .pair (.snd ‹_› (.readStack hk))
  · exact .pair (.send hk)

theorem State.Keeps.viewTile {ext : Ext} {j : Nat} {r : Region} {view t : Nat} (hk : s₀.Keeps s) :
    s₀.Keeps (s.viewTile ext j r view t).2 := by
  unfold State.viewTile
  split
  · exact .pair (.snd ‹_› (.readTile hk))
  · exact .ite_snd (.pair (.snd ‹_› (.readTile hk))) (.ite_snd (.xorTiles (.snd ‹_› (.readTile hk))) (.xorTiles (.snd ‹_› (.readTile hk))))

theorem State.Keeps.c0Touch {sh : Sheaf} (hk : s₀.Keeps s) : s₀.Keeps (s.c0Touch sh) := .foldl hk fun _ _ g => .ite g (.putBucket g)

end

end Sys2Proof.Machine
end

section
/-! SUPPORT. Held writes and their capture: these operations keep the queue, the straps and the form of memory. -/

namespace Sys2Proof.Machine

section
variable {s₀ s : State}

theorem State.Keeps.modDelta {k : Nat} {f : Delta → Delta} (hk : s₀.Keeps s) : s₀.Keeps (s.modDelta k f) := .update hk

theorem State.Keeps.modHeld {id : Nat} {f : Held → Held} (hk : s₀.Keeps s) : s₀.Keeps (s.modHeld id f) := .update hk

theorem State.Keeps.dropHeld {id : Nat} (hk : s₀.Keeps s) : s₀.Keeps (s.dropHeld id) := .update hk

theorem State.Keeps.release {j t : Nat} {r : Region} {whole : Bool} {v : List Byte} (hk : s₀.Keeps s) :
    s₀.Keeps (s.release j t r whole v) := by
  unfold State.release
  extract_lets _ s1
  have h1 : s₀.Keeps s1 := .ite (.putTile hk) (.putPart hk)
  exact .ite (.modRegion (.update h1)) (.update h1)

theorem State.Keeps.writeError {agent : Nat} {op : Option Nat} {tile : Nat} (hk : s₀.Keeps s) : s₀.Keeps (s.writeError agent op tile) := by
  unfold State.writeError
  split
  · split
    · exact .modOp hk
    · exact hk
  · exact .send hk

theorem State.Keeps.refuseWrite {h : Held} {tile : Nat} (hk : s₀.Keeps s) : s₀.Keeps (s.refuseWrite h tile) := .writeError (.dropHeld hk)

theorem State.Keeps.restoreTile {j t : Nat} {r : Region} {v : List Byte} (hk : s₀.Keeps s) : s₀.Keeps (s.restoreTile j t r v) :=
  .modRegion (.release hk)

theorem State.Keeps.putParity {j t : Nat} {r : Region} {v : List Byte} (hk : s₀.Keeps s) : s₀.Keeps (s.putParity j t r v) := .restoreTile hk

theorem State.Keeps.setDirty {r : Region} {g v : Nat} (hk : s₀.Keeps s) : s₀.Keeps (s.setDirty r g v) := by
  unfold State.setDirty
  split
  · exact .update hk
  · exact hk

theorem State.Keeps.track {j t : Nat} {first : Bool} (hk : s₀.Keeps s) : s₀.Keeps (s.track j t first) := by
  unfold State.track
  extract_lets
  split
  · exact .update hk
  · exact .ite (.update hk) hk

theorem State.Keeps.addNorm {j n : Nat} {x : Nat × Nat} (hk : s₀.Keeps s) : s₀.Keeps (s.addNorm j n x) := .ite hk (.update hk)

theorem State.Keeps.handOff {k : Nat} (hk : s₀.Keeps s) : s₀.Keeps (s.handOff k) := by
  unfold State.handOff
  extract_lets
  split
  · exact hk
  · split
    · exact .freeSlot hk
    · exact .ite (.bump (.freeSlot hk)) (.modDelta (.update hk))

theorem State.Keeps.slotClosed {k : Nat} (hk : s₀.Keeps s) : s₀.Keeps (s.slotClosed k) := by
  unfold State.slotClosed
  split
  · exact hk
  · split
    · exact .freeSlot hk
    · extract_lets _ _ _ s2
      have h2 : s₀.Keeps s2 := by
        unfold s2
        split
        · exact .ite (.addNorm (.modRegion hk)) (.modRegion hk)
        · exact .modRegion hk
      exact .ite (.freeSlot h2) (.handOff h2)

theorem State.Keeps.closeSlot {k : Nat} (hk : s₀.Keeps s) : s₀.Keeps (s.closeSlot k) := by
  unfold State.closeSlot
  split
  · exact hk
  · exact .ite hk (.ite (.slotClosed (.modDelta hk)) (.bump (.modDelta hk)))

theorem State.Keeps.logWrite {r : Region} {d : Delta} {m : BitVec 64} (hk : s₀.Keeps s) : s₀.Keeps (s.logWrite r d m) := by
  unfold State.logWrite
  split
  · exact hk
  · split
    · exact hk
    · exact .putTile hk

theorem State.Keeps.takeDelta {h : Held} {k : Nat} {r : Region} (hk : s₀.Keeps s) : s₀.Keeps (s.takeDelta h k r) := by
  unfold State.takeDelta
  extract_lets _ _ _ _ s2
  have h2 : s₀.Keeps s2 := by
    unfold s2
    split
    · extract_lets _ a
      have ha : s₀.Keeps a := .track (.setDirty (.ite (.logWrite (.modDelta hk)) (.modDelta hk)))
      exact .ite (.ite (.addNorm ha) ha) (.modDelta hk)
    · exact .modDelta hk
  split
  · exact .ite (.closeSlot (.modHeld h2)) (.modHeld h2)
  · exact .modHeld h2

theorem State.Keeps.quietRefuse {h : Held} {r : Region} (hk : s₀.Keeps s) : s₀.Keeps (s.quietRefuse h r) := .event (.bump (.refuseWrite hk))

theorem State.KeepsAll.askOnce {j t : Nat} (hk : s₀.Keeps s) : s₀.KeepsAll (s.askOnce j t) := by
  unfold State.askOnce
  split
  · exact .none
  · exact .some (.cbwEngine hk)

theorem State.KeepsAll.meetSlot {h : Held} {r : Region} (hk : s₀.Keeps s) : s₀.KeepsAll (s.meetSlot h r) := by
  unfold State.meetSlot
  extract_lets
  split
  · exact .some (.quietRefuse hk)
  · split
    · exact .askOnce hk
    · split
      · split
        · exact .some (.takeDelta hk)
        · split
          · exact .none
          · exact .some (.closeSlot hk)
      · split
        · exact .none
        · split
          · exact .none
          · split
            · exact .some (.bump (.modHeld (.update hk)))
            · exact .some (.takeDelta (.update hk))

theorem State.Keeps.beginCapture {h : Held} {r : Region} (hk : s₀.Keeps s) : s₀.Keeps (s.beginCapture h r) :=
  .ite (.quietRefuse hk) (.modHeld (.bumpBy (.update hk)))

theorem State.Keeps.plainRelease {h : Held} {r : Region} (hk : s₀.Keeps s) : s₀.Keeps (s.plainRelease h r) :=
  .dropHeld (.release (.ite (.bumpBy hk) hk))

theorem State.KeepsAll.moveCapture {h : Held} {r : Region} (hk : s₀.Keeps s) : s₀.KeepsAll (s.moveCapture h r) := by
  unfold State.moveCapture
  split
  · exact .none
  · split
    · exact .some (.beginCapture hk)
    · exact .meetSlot hk
    · exact .none
    · exact .none
    · exact .none
    · exact .none

theorem State.KeepsAll.moveHeld {h : Held} (hk : s₀.Keeps s) : s₀.KeepsAll (s.moveHeld h) := by
  unfold State.moveHeld
  split
  · exact .none
  · extract_lets
    split
    · exact .some (.bump (.refuseWrite hk))
    · split
      · split
        · split
          · exact .moveCapture hk
          · exact .some (.cbwAsk hk)
        · exact .some (.modHeld (.bump (.cbwAsk hk)))
      · split
        · exact .some (.modHeld (.bumpBy hk))
        · exact .moveCapture hk

theorem State.Keeps.releasePart {h : Held} (hk : s₀.Keeps s) : s₀.Keeps (s.releasePart h) := by
  unfold State.releasePart
  split
  · exact .dropHeld (.ite (.writeLoose hk) hk)
  · exact .ite (.plainRelease hk) (.dropHeld (.release hk))

theorem State.KeepsAll.releaseMove (hk : s₀.Keeps s) : s₀.KeepsAll (s.releaseMove) := by
  unfold State.releaseMove
  split
  · exact .some (.foldl hk fun _ _ g => .releasePart g)
  · exact .none

theorem State.Keeps.arrivePart {gid : Nat} {q : Queued} {j : Nat} {r : Region} {t off : Nat} {v : List (Option Byte)} (hk : s₀.Keeps s) :
    s₀.Keeps (s.arrivePart gid q j r t off v) := by
  unfold State.arrivePart
  extract_lets
  exact .ite (.event (.bump (.writeError hk))) (.ite (.bump (.writeError hk)) (.ite (.bump (.modRegion (.update hk))) (.update hk)))

theorem State.Keeps.arriveLoose {gid : Nat} {q : Queued} {tile off : Nat} {v : List (Option Byte)} (hk : s₀.Keeps s) :
    s₀.Keeps (s.arriveLoose gid q tile off v) := .update hk

theorem State.Keeps.arriveParts {gid : Nat} {q : Queued} {l : List (Nat × Nat × List (Option Byte))} (hk : s₀.Keeps s) :
    s₀.Keeps (s.arriveParts gid q l) := by
  induction l generalizing s with
  | nil => exact hk
  | cons x l ih =>
    unfold State.arriveParts
    split
    · exact ih (.arriveLoose hk)
    · exact ih (.arrivePart hk)

theorem State.Keeps.expirePair {tile : Nat} (hk : s₀.Keeps s) : s₀.Keeps (s.expirePair tile) := by
  unfold State.expirePair
  extract_lets
  split
  · exact .ite (.ite (.update hk) (.bump (.update hk))) hk
  · exact hk

theorem State.KeepsAll.admitMove (hk : s₀.Keeps s) : s₀.KeepsAll (s.admitMove) := by
  unfold State.admitMove
  split
  · exact .none
  · extract_lets _ s1
    have h1 : s₀.Keeps s1 := .foldl (.update hk) fun _ _ g => .expirePair g
    split
    · exact .none
    · exact .some (.arriveParts h1)

theorem State.KeepsAll.tapMove (hk : s₀.Keeps s) : s₀.KeepsAll s.tapMove := by
  unfold State.tapMove
  split
  · exact .some (.of_some ‹_› (.repairMove hk))
  · split
    next he =>
      obtain ⟨w, _, hw⟩ := List.exists_of_findSome?_eq_some he
      exact .some (.of_some hw (.moveHeld hk))
    next =>
      split
      · exact .some (.of_some ‹_› (.releaseMove hk))
      · exact .admitMove hk

theorem State.Keeps.settleTap {n : Nat} (hk : s₀.Keeps s) : s₀.Keeps (State.settleTap n s) := by
  induction n generalizing s with
  | zero => exact hk
  | succ n ih =>
    unfold State.settleTap
    split
    · exact ih (.of_some ‹_› (.tapMove hk))
    · exact hk

end

end Sys2Proof.Machine
end

section
/-! SUPPORT. What settles after an event: these operations keep the queue, the straps and the form of memory. -/

namespace Sys2Proof.Machine

section
variable {s₀ s : State}

theorem State.Keeps.formMsgs {k : Nat} {d : Delta} (hk : s₀.Keeps s) : s₀.Keeps (s.formMsgs k d) :=
  .ite (.freeSlot (.update hk)) (.bumpBy (.modDelta (.update hk)))

theorem State.Keeps.assign {n : Nat} (hk : s₀.Keeps s) : s₀.Keeps (State.assign n s) := by
  induction n generalizing s with
  | zero => exact hk
  | succ n ih =>
    unfold State.assign
    split
    · exact ih (.formMsgs hk)
    · exact hk

theorem State.Keeps.parkDelta {k : Nat} {d : Delta} (hk : s₀.Keeps s) : s₀.Keeps (s.parkDelta k d) := by
  unfold State.parkDelta
  extract_lets _ s1 _ s2
  have h1 : s₀.Keeps s1 := .stackWrite (.freeSlot hk)
  have h2 : s₀.Keeps s2 := .bump (.update h1)
  exact .foldl h2 fun _ _ g => .bump (.freeSlot g)

theorem State.Keeps.parkLoop {n : Nat} (hk : s₀.Keeps s) : s₀.Keeps (State.parkLoop n s) := by
  induction n generalizing s with
  | zero => exact hk
  | succ n ih =>
    unfold State.parkLoop
    extract_lets
    split
    · exact hk
    · split
      · exact hk
      · exact .ite (ih (.parkDelta hk)) (.bumpBy (.update hk))

theorem State.Keeps.sendData {src : Nat} {h : Hdr} {payloads : List (List Byte)} (hk : s₀.Keeps s) : s₀.Keeps (s.sendData src h payloads) :=
  .update hk

theorem State.Keeps.dataHdr {h : Hdr} {r : Option Region} (hk : s₀.Keeps s) : s₀.Keeps (s.dataHdr h r).2 := by
  unfold State.dataHdr
  extract_lets
  split
  · exact hk
  · exact .pair (.freshNat hk)

theorem State.Keeps.countAnswer {h : Hdr} {since : Nat} (hk : s₀.Keeps s) : s₀.Keeps (s.countAnswer h since) :=
  .ite hk (.ite (.bump (.bump hk)) (.bump hk))

theorem State.Keeps.refuseRead {src : Nat} {h : Hdr} {r : Option Region} {since st : Nat} (hk : s₀.Keeps s) :
    s₀.Keeps (s.refuseRead src h r since st) := .countAnswer (.sendData (.dataHdr hk))

theorem State.Keeps.answerRead {src : Nat} {h : Hdr} {r : Region} {since : Nat} {v : List Byte} (hk : s₀.Keeps s) :
    s₀.Keeps (s.answerRead src h r since v) := .countAnswer (.sendData (.dataHdr hk))

theorem State.KeepsAll.armMap {j : Nat} {r : Region} (hk : s₀.Keeps s) : s₀.KeepsAll (s.armMap j r) := by
  unfold State.armMap
  split
  · exact .some (.modRegion hk)
  · split
    · exact .none
    · exact .some (.modRegion hk)

theorem State.Keeps.holdRead {ext : Ext} {src : Nat} {v : List Byte} {since : Nat} (hk : s₀.Keeps s) :
    s₀.Keeps (s.holdRead ext src v since) := .update hk

theorem State.Keeps.readRegion {ext : Ext} {src : Nat} {v : List Byte} {h : Hdr} {since j : Nat} {r : Region} {view : Nat}
    (hk : s₀.Keeps s) : s₀.Keeps (s.readRegion ext src v h since j r view) := by
  unfold State.readRegion
  extract_lets
  split
  · split
    · exact .refuseRead hk
    · extract_lets s2
      have h2 : s₀.Keeps s2 := .ite (.modRegion (.of_some ‹_› (.armMap hk))) (.of_some ‹_› (.armMap hk))
      split
      · split
        · exact .answerRead (.of_some ‹_› (.armMap hk))
        · exact .of_some ‹_› (.armMap hk)
      · split
        · exact .answerRead (.snd ‹_› (.viewTile h2))
        · exact .refuseRead (.snd ‹_› (.viewTile h2))
  · split
    · exact .holdRead hk
    · split
      · exact .answerRead (.snd ‹_› (.viewTile hk))
      · exact .refuseRead (.snd ‹_› (.viewTile hk))

theorem State.Keeps.serveRead {ext : Ext} {src : Nat} {v : List Byte} {since : Nat} (hk : s₀.Keeps s) :
    s₀.Keeps (s.serveRead ext src v since) := by
  unfold State.serveRead
  extract_lets
  split
  · exact .refuseRead hk
  · extract_lets
    exact .ite (.refuseRead hk)
      (.ite (.refuseRead hk)
        (.ite (.refuseRead hk)
          (.ite (.bump hk)
            (.ite (.refuseRead hk)
              (.ite (.refuseRead hk)
                (.ite (.holdRead hk)
                  (.ite (.ite (.refuseRead (.touchQuiet hk)) (.ite (.holdRead (.touchQuiet hk)) (.readRegion (.touchQuiet hk))))
                    (.readRegion hk))))))))

theorem State.Keeps.settleReads (hk : s₀.Keeps s) : s₀.Keeps (s.settleReads) := .foldl (.update hk) fun _ _ g => .serveRead g

theorem State.Keeps.clearFails {m : Nat} (hk : s₀.Keeps s) : s₀.Keeps (s.clearFails m) := .foldl hk fun _ _ g => .modCtx g

theorem State.Keeps.remap {k code new : Nat} (hk : s₀.Keeps s) : s₀.Keeps (s.remap k code new) :=
  .foldl hk fun _ _ g => .foldl g fun _ _ g => .setDirty g

theorem State.Keeps.discardNorm {k x : Nat} (hk : s₀.Keeps s) : s₀.Keeps (s.discardNorm k x) := .update hk

theorem State.Keeps.retireMaps {n : Nat} (hk : s₀.Keeps s) : s₀.Keeps (State.retireMaps n s) := by
  induction n generalizing s with
  | zero => exact hk
  | succ n ih =>
    unfold State.retireMaps
    split
    · exact ih (.remap (.update hk))
    · exact ih (.remap (.update hk))
    · exact hk

theorem State.Keeps.addRetire {l : List Retire} (hk : s₀.Keeps s) : s₀.Keeps (s.addRetire l) := .retireMaps (.update hk)

theorem State.Keeps.confirmSet {n k : Nat} (hk : s₀.Keeps s) : s₀.Keeps (s.confirmSet n k) :=
  .addRetire (.discardNorm (.putSet (.update hk)))

theorem State.Keeps.fenceEnd {o : Op} (hk : s₀.Keeps s) : s₀.Keeps (s.fenceEnd o) := by
  unfold State.fenceEnd
  extract_lets _ _ _ s1
  have h1 : s₀.Keeps s1 := .foldl hk fun _ _ g => .confirmSet g
  exact .ite (.finish (.clearFails hk)) (.ite (.finish hk) (.finish h1))

theorem State.Keeps.settleFences (hk : s₀.Keeps s) : s₀.Keeps (s.settleFences) := by
  unfold State.settleFences
  refine .foldl hk fun _ _ g => ?_
  split
  · split
    · exact .ite (.fenceEnd g) g
    · exact g
  · exact g

theorem State.Keeps.closeSlots {p : Delta → Bool} (hk : s₀.Keeps s) : s₀.Keeps (s.closeSlots p) := .foldl hk fun _ _ g => .closeSlot g

theorem State.Keeps.closeStep {o : Op} {since : Nat} (hk : s₀.Keeps s) : s₀.Keeps (s.closeStep o since) := by
  unfold State.closeStep
  extract_lets _ _ _ s2
  have h2 : s₀.Keeps s2 := .foldl (.closeSlots hk) fun _ _ g => .putSet g
  exact .ite hk (.ite (.closeSlots hk) (.finish h2))

theorem State.Keeps.settleCloses (hk : s₀.Keeps s) : s₀.Keeps (s.settleCloses) := by
  unfold State.settleCloses
  refine .foldl hk fun _ _ g => ?_
  split
  · exact .ite (.closeStep g) g
  · exact g

theorem State.Keeps.rollRetire {o : Op} (hk : s₀.Keeps s) : s₀.Keeps (s.rollRetire o) :=
  .foldl hk fun _ _ g => .addRetire (.foldl g fun _ _ g => .discardNorm g)

theorem State.Keeps.settleDrains (hk : s₀.Keeps s) : s₀.Keeps (s.settleDrains) := .foldl hk fun _ _ g => .ite (.finish (.rollRetire g)) g

theorem State.Keeps.tapRound (hk : s₀.Keeps s) : s₀.Keeps (s.tapRound) := .parkLoop (.assign (.endWaits (.settleTap hk)))

theorem State.Keeps.settle (hk : s₀.Keeps s) : s₀.Keeps (s.settle) :=
  .settleReads (.settleDrains (.settleFences (.tapRound (.settleCloses (.tapRound (.tapRound hk))))))

end

end Sys2Proof.Machine
end

section
/-! SUPPORT. The tap: these operations keep the queue, the straps and the form of memory. -/

namespace Sys2Proof.Machine

section
variable {s₀ s : State}

theorem State.Keeps.captureFail {h : Held} (hk : s₀.Keeps s) : s₀.Keeps (s.captureFail h) := .event (.bump (.refuseWrite hk))

theorem State.Goes.writeArrival {agent addr : Nat} {data : List (Option Byte)} {ext : Ext} (hk : s₀.Keeps s)
    (ha : ¬ stackBytes < addr + data.length) : s₀.Goes (execWriteArrival agent addr data ext s) := by
  unfold execWriteArrival
  rw [if_neg ha]
  exact .next (.settle (.putWrite (.seen hk)))

theorem State.Goes.pairingReadResponse {rid : Nat} {mask : BitVec 64} {error : Bool} (hk : s₀.Keeps s) :
    s₀.Goes (execPairingReadResponse rid mask error s) := by
  unfold execPairingReadResponse
  extract_lets
  refine .next ?_
  split
  · exact hk
  · extract_lets s1
    have h1 : s₀.Keeps s1 := .expirePair (.update hk)
    split
    · exact .bump h1
    · split
      · exact h1
      · split
        · exact h1
        · extract_lets
          split
          · exact h1
          · split
            · exact .update h1
            · exact .ite (.update h1) (.bump h1)

theorem State.Goes.readRequestSnoop {agent tile rid : Nat} (hk : s₀.Keeps s) (ht : ¬ stackTiles ≤ tile) :
    s₀.Goes (execReadRequestSnoop agent tile rid s) := by
  unfold execReadRequestSnoop
  rw [if_neg ht]
  extract_lets _ _ s1
  have h1 : s₀.Keeps s1 := .ite (.update (.seen hk)) (.seen hk)
  refine .next ?_
  split
  · exact .ite (.event (.bump h1)) h1
  · exact h1

theorem State.Goes.ownReadReturn {w : Nat} {ext : Ext} (hk : s₀.Keeps s) : s₀.Goes (execOwnReadReturn w ext s) := by
  unfold execOwnReadReturn
  refine .next ?_
  split
  · exact hk
  · split
    · exact hk
    · extract_lets _ done
      have hdone : ∀ t, s₀.Keeps t → s₀.Keeps (done t) := fun _ g => .settle (.bumpBy (.modHeld g))
      split
      · exact hdone _ hk
      · split
        · exact hdone _ (.snd ‹_› (.readTile hk))
        · exact .settle (.captureFail (.snd ‹_› (.readTile hk)))

theorem State.Goes.completionReadReturn {slot : Nat} {ext : Ext} (hk : s₀.Keeps s) : s₀.Goes (execCompletionReadReturn slot ext s) := by
  unfold execCompletionReadReturn
  refine .next ?_
  split
  · exact hk
  · split
    · exact hk
    · split
      · exact hk
      · extract_lets
        split
        · exact .settle (.slotClosed hk)
        · split
          · exact .settle (.slotClosed (.snd ‹_› (.readTile hk)))
          · exact .settle (.event (.bump (.freeSlot (.snd ‹_› (.readTile hk)))))

theorem State.Goes.logReadbackReturn {slot : Nat} {ext : Ext} (hk : s₀.Keeps s) : s₀.Goes (execLogReadbackReturn slot ext s) := by
  unfold execLogReadbackReturn
  refine .next ?_
  split
  · split
    · exact hk
    · split
      · exact hk
      · split
        · exact .settle (.takeDelta (.modDelta (.snd ‹_› (.readPlain hk))))
        · exact .settle (.captureFail (.freeSlot (.giveUp (.snd ‹_› (.readPlain hk)))))
  · exact hk

theorem State.Goes.pairExpiry {tile : Nat} (hk : s₀.Keeps s) : s₀.Goes (execPairExpiry tile s) := .next (.expirePair hk)

theorem State.Goes.tileDeltaAsmTimeout {slot : Nat} (hk : s₀.Keeps s) : s₀.Goes (execTileDeltaAsmTimeout slot s) := by
  unfold execTileDeltaAsmTimeout
  refine .next ?_
  split
  · exact .ite (.settle (.closeSlot hk)) hk
  · exact hk

theorem State.Goes.parkedDeltaReread {ext : Ext} (hk : s₀.Keeps s) : s₀.Goes (execParkedDeltaReread ext s) := by
  unfold execParkedDeltaReread
  refine .next ?_
  split
  · exact hk
  · extract_lets
    split
    · exact hk
    · split
      · exact .update hk
      · split
        · exact .update hk
        · split
          · exact .settle (.update (.snd ‹_› (.readPlain (.update hk))))
          · exact .settle (.giveUp (.update (.snd ‹_› (.readPlain (.update hk)))))

theorem State.Goes.quietExpiry {region : Nat} (hk : s₀.Keeps s) : s₀.Goes (execQuietExpiry region s) := by
  unfold execQuietExpiry
  refine .next ?_
  split
  · exact .ite (.settle (.modRegion hk)) hk
  · exact hk

theorem State.Goes.migrationMapDisarm {region : Nat} (hk : s₀.Keeps s) : s₀.Goes (execMigrationMapDisarm region s) := by
  unfold execMigrationMapDisarm
  refine .next ?_
  split
  · exact .ite (.modRegion hk) hk
  · exact hk

theorem State.Keeps.buildFail {j t : Nat} (hk : s₀.Keeps s) : s₀.Keeps (s.buildFail j t) :=
  .foldl (.modRegion hk) fun _ _ g => .captureFail g

theorem State.Goes.tileBuildDone {region tile : Nat} {ext : Ext} (hk : s₀.Keeps s) : s₀.Goes (execTileBuildDone region tile ext s) := by
  unfold execTileBuildDone
  refine .next ?_
  split
  · exact hk
  · split
    · split
      · exact hk
      · split
        · exact .c0Touch hk
        · split
          · exact .settle (.bumpBy (.acceptBuild (.snd ‹_› (.buildValue hk))))
          · exact .ite (.settle (.buildFail (.snd ‹_› (.buildValue hk)))) (.bump (.modRegion (.snd ‹_› (.buildValue hk))))
          · exact .snd ‹_› (.buildValue hk)
          · exact .settle (.buildFail (.snd ‹_› (.buildValue hk)))
    · exact hk

theorem State.Goes.controllerErrorResponse {agent tile : Nat} {mask : BitVec 64} {ext : Ext} (hk : s₀.Keeps s) (ht : ¬ stackTiles ≤ tile) :
    s₀.Goes (execControllerErrorResponse agent tile mask ext s) := by
  unfold execControllerErrorResponse
  rw [if_neg ht]
  refine .next ?_
  split
  · exact hk
  · extract_lets
    split
    · exact .seen hk
    · split <;> exact .settle (.send (.snd ‹_› (.readTile (.seen hk))))

end

end Sys2Proof.Machine
end

section
/-! SUPPORT. Writes that wait: these operations keep the queue, the straps and the form of memory. -/

namespace Sys2Proof.Machine

section
variable {s₀ s : State}

theorem State.Keeps.trigger {k : Nat} (hk : s₀.Keeps s) : s₀.Keeps (s.trigger k) := .update hk

theorem State.Keeps.dropXfer {id : Nat} (hk : s₀.Keeps s) : s₀.Keeps (s.dropXfer id) := .update hk

theorem State.Keeps.fireTrigs {op : Nat} (hk : s₀.Keeps s) : s₀.Keeps (s.fireTrigs op) := by
  unfold State.fireTrigs
  refine .foldl hk fun _ _ g => ?_
  split
  · exact .ite (.trigger (.dropXfer g)) g
  · exact g

theorem State.Keeps.parkWord {id : Nat} (hk : s₀.Keeps s) : s₀.Keeps (s.parkWord id) := .park hk

theorem State.Keeps.wakeWords (hk : s₀.Keeps s) : s₀.Keeps (s.wakeWords) := by
  unfold State.wakeWords
  refine .foldl hk fun _ _ g => ?_
  split
  · exact .ite (.unpark g) g
  · exact g

end

end Sys2Proof.Machine
end

section
/-! SUPPORT. Packets of the fabric: these operations keep the queue, the straps and the form of memory. -/

namespace Sys2Proof.Machine

section
variable {s₀ s : State}

theorem State.Keeps.quarantine {l : Nat} (hk : s₀.Keeps s) : s₀.Keeps (s.quarantine l) := by
  unfold State.quarantine
  extract_lets _ _ s1
  have h1 : s₀.Keeps s1 := .event (.auditForm (.bump (.update hk)))
  exact .ite (.event h1) h1

theorem State.Keeps.laneRun {f : LaneFault} {j : LaneJob} {n : Nat} (hk : s₀.Keeps s) : s₀.Keeps (State.laneRun f j n s).2 := by
  induction n generalizing s with
  | zero => exact hk
  | succ n ih =>
    unfold State.laneRun
    split
    · exact hk
    · extract_lets _ _ _ _ _ _ _ done
      have hdone : s₀.Keeps done := .update (.update hk)
      exact .ite_snd hdone (.ite_snd (.pair (.bump hdone)) (ih (.quarantine (.update hk))))

theorem State.Keeps.laneWork {f : LaneFault} {j : LaneJob} (hk : s₀.Keeps s) : s₀.Keeps (s.laneWork f j).2 := .laneRun hk

theorem State.Goes.messageSend {ctx : Nat} (hk : s₀.Keeps s) : s₀.Goes (execMessageSend ctx s) := by
  unfold execMessageSend
  refine .next ?_
  split
  · exact hk
  · split
    · exact hk
    · exact .ite hk (.ite (.bump hk) (.tryMsg hk))

theorem State.Goes.accumRetryTimeout {ctx seq : Nat} (hk : s₀.Keeps s) : s₀.Goes (execAccumRetryTimeout ctx seq s) := by
  unfold execAccumRetryTimeout
  refine .next ?_
  split
  · exact hk
  · split
    · exact hk
    · extract_lets _ s1
      have h1 : s₀.Keeps s1 := .modCtx (.countPath hk)
      exact .ite (.settle (.failMsg (.countPath hk))) (.ite hk (.ite hk (.tryMsg h1)))

theorem State.Keeps.toSpill {p : Nat} {x : Rx} {v : List Byte} (hk : s₀.Keeps s) : s₀.Keeps (s.toSpill p x v) := .stackWrite hk

theorem State.Keeps.spillDrop {cls : Nat} (hk : s₀.Keeps s) : s₀.Keeps (s.spillDrop cls) := .ite (.event (.update (.bump hk))) (.bump hk)

theorem State.Goes.spillOverflowTimer (hk : s₀.Keeps s) : s₀.Goes (execSpillOverflowTimer s) := by
  unfold execSpillOverflowTimer
  extract_lets
  refine .next ?_
  split
  · exact hk
  · exact .ite (.update hk) (.ite (.event (.update hk)) hk)

theorem State.Keeps.modRecv {n : Nat} {f : RecvCtx → RecvCtx} (hk : s₀.Keeps s) : s₀.Keeps (s.modRecv n f) := .update hk

theorem State.Keeps.floor {n f : Nat} (hk : s₀.Keeps s) : s₀.Keeps (s.floor n f) := by
  unfold State.floor
  split
  · exact hk
  · exact .bumpBy (.modRecv hk)

theorem State.Keeps.spillOut {n seq p : Nat} {x : Rx} (hk : s₀.Keeps s) : s₀.Keeps (s.spillOut n seq p x) := .modRecv (.toSpill hk)

theorem State.Keeps.spillLoop {n : Nat} (hk : s₀.Keeps s) : s₀.Keeps (State.spillLoop n s) := by
  induction n generalizing s with
  | zero => exact hk
  | succ n ih =>
    unfold State.spillLoop
    split
    · exact hk
    · split
      · exact ih (.spillOut hk)
      · exact hk

theorem State.Keeps.ackTo {src : Nat} {h : Hdr} {kind status epoch : Nat} (hk : s₀.Keeps s) : s₀.Keeps (s.ackTo src h kind status epoch) :=
  .addAck hk

theorem State.Keeps.takePacket {n seq : Nat} {x : Rx} {pkt : Nat} {v : List Byte} (hk : s₀.Keeps s) :
    s₀.Keeps (s.takePacket n seq x pkt v) := by
  unfold State.takePacket
  extract_lets
  split
  · exact .update (.modRecv hk)
  · split
    · exact .modRecv (.toSpill hk)
    · exact .modRecv hk

theorem State.Keeps.window {src n epoch : Nat} {h : Hdr} {v : List Byte} (hk : s₀.Keeps s) : s₀.Keeps (s.window src n epoch h v) := by
  unfold State.window
  extract_lets _ land
  have hland : ∀ x t, s₀.Keeps t → s₀.Keeps (land x t) := fun _ _ g => .spillLoop (.takePacket g)
  split
  · exact .floor hk
  · extract_lets
    split
    · exact .ackTo (.floor hk)
    · split
      · exact .bump (.floor hk)
      · split
        · exact hland _ _ (.ite (.bump (.floor hk)) (.floor hk))
        · split
          · exact .ite (.floor hk) (hland _ _ (.ite (.bump (.floor hk)) (.floor hk)))
          · exact .floor hk
          · exact .ackTo (.floor hk)

theorem State.Keeps.accum {src : Nat} {v : List Byte} (hk : s₀.Keeps s) : s₀.Keeps (s.accum src v) := by
  unfold State.accum
  extract_lets
  split
  · extract_lets n
    split
    · exact .ite (.ackTo hk) hk
    · split
      · exact .ite (.ackTo hk) hk
      · split
        · exact .ite (.ackTo hk) hk
        · split
          · exact .bump hk
          · clear_value n
            split
            · exact .ite (.ackTo hk) hk
            · extract_lets
              exact .ite (.ite (.ackTo hk) hk) (.ite (.bump hk) (.ite (.bump hk) (.window hk)))
  · exact .ite (.ackTo hk) hk

theorem State.Goes.accumPacketReceive {src : Nat} {bytes : List Byte} (hk : s₀.Keeps s) : s₀.Goes (execAccumPacketReceive src bytes s) := by
  unfold execAccumPacketReceive
  extract_lets _ _ t
  have ht : s₀.Keeps t := .accum (.packetIn hk)
  exact .next
    (.ite (.packetIn hk)
      (.ite (.bump (.packetIn hk)) (.ite hk (.ite (.bump (.packetIn hk)) (.ite (.spillDrop (.packetIn hk)) (.update ht))))))

theorem State.Goes.assemblyTimeout {ctx seq : Nat} (hk : s₀.Keeps s) : s₀.Goes (execAssemblyTimeout ctx seq s) := by
  unfold execAssemblyTimeout
  refine .next ?_
  split
  · split
    · exact hk
    · split
      · exact .spillDrop (.modRecv hk)
      · exact .bump (.spillOut hk)
  · exact hk

theorem State.Goes.parkExpiry {ctx seq : Nat} (hk : s₀.Keeps s) : s₀.Goes (execParkExpiry ctx seq s) := by
  unfold execParkExpiry
  refine .next ?_
  split
  · exact .ite (.bump (.modRecv hk)) hk
  · exact hk

theorem State.Keeps.applied {a : Apply} {done : Bool} (hk : s₀.Keeps s) : s₀.Keeps (s.applied a done) := by
  unfold State.applied
  extract_lets _ _ s2
  have h2 : s₀.Keeps s2 := .modRecv (.update hk)
  split
  · exact .floor h2
  · exact h2

theorem State.Goes.accumApply {q : Nat} {ext : Ext} {f : LaneFault} (hk : s₀.Keeps s) : s₀.Goes (execAccumApply q ext f s) := by
  unfold execAccumApply
  refine .next ?_
  split
  · exact hk
  · split
    · exact hk
    · split
      · exact hk
      · split
        · extract_lets _ src ack _ write s1
          have hack : ∀ kind t, s₀.Keeps t → s₀.Keeps (ack kind t) := by
            intro _ _ g
            unfold ack
            clear_value src
            split
            · exact .ackTo g
            · exact g
          have h1 : s₀.Keeps s1 := .bump (hack _ _ (.applied hk))
          split
          · split
            · exact .bump (.applied hk)
            · unfold write
              split
              · exact .cbwEngine hk
              · split
                · exact .applied hk
                · split
                  · exact hk
                  · split
                    · exact .settle (.applied (.snd ‹_› (.readApply hk)))
                    · split
                      · exact .settle (.applied (.snd ‹_› (.laneWork (.snd ‹_› (.readApply hk)))))
                      · extract_lets _ s2
                        have h2 : s₀.Keeps s2 := .putParity (.snd ‹_› (.laneWork (.snd ‹_› (.readApply hk))))
                        exact .settle (hack _ _ (.applied h2))
          · split
            · exact .bump (.applied hk)
            · exact .ite (.event (.bump h1)) h1
            · unfold write
              split
              · exact .cbwEngine hk
              · split
                · exact .applied hk
                · split
                  · exact hk
                  · split
                    · exact .settle (.applied (.snd ‹_› (.readApply hk)))
                    · split
                      · exact .settle (.applied (.snd ‹_› (.laneWork (.snd ‹_› (.readApply hk)))))
                      · extract_lets _ s2 s2'
                        have h2 : s₀.Keeps s2 := .putTile (.snd ‹_› (.laneWork (.snd ‹_› (.readApply hk))))
                        have h2' : s₀.Keeps s2' := .ite h2 (.update h2)
                        exact .settle (hack _ _ (.applied h2'))
            · exact hk
        · exact hk

theorem State.Goes.ackFlush {dst : Nat} (hk : s₀.Keeps s) : s₀.Goes (execAckFlush dst s) :=
  .next (.ite hk (.foldl hk fun _ _ g => .flushAck g))

theorem State.Keeps.ackEntry {src : Nat} {v : List Byte} (hk : s₀.Keeps s) : s₀.Keeps (s.ackEntry src v) := by
  unfold State.ackEntry
  extract_lets
  split
  · exact .bump hk
  · split
    · exact .bump hk
    · extract_lets s1
      have h1 : s₀.Keeps s1 := .ite (.sample hk) hk
      exact .ite (.bump hk) (.ite (.endMsg h1) (.ite (.ite (.modCtx (.event hk)) (.failMsg (.event hk))) (.ite (.failMsg hk) (.bump hk))))

theorem State.Goes.ackPacketReceive {src : Nat} {bytes : List Byte} (hk : s₀.Keeps s) : s₀.Goes (execAckPacketReceive src bytes s) := by
  unfold execAckPacketReceive
  extract_lets
  exact .next (.ite (.packetIn hk) (.ite (.bump (.packetIn hk)) (.ite hk (.settle (.foldl (.packetIn hk) fun _ _ g => .ackEntry g)))))

theorem State.Keeps.c0Arrive (hk : s₀.Keeps s) : s₀.Keeps (s.c0Arrive) := .ite (.bump (.update hk)) (.update hk)

theorem State.Goes.readPacketReceive {src : Nat} {bytes : List Byte} {ext : Ext} (hk : s₀.Keeps s) :
    s₀.Goes (execReadPacketReceive src bytes ext s) := by
  unfold execReadPacketReceive
  extract_lets
  exact .next
    (.ite (.packetIn hk)
      (.ite (.bump (.packetIn hk))
        (.ite hk (.ite (.bump (.packetIn hk)) (.settle (.serveRead (.ite (.c0Arrive (.packetIn hk)) (.packetIn hk))))))))

theorem State.Keeps.endRead {slot : Nat} {q : ReadReq} {st : Nat} {v : List Byte} (hk : s₀.Keeps s) : s₀.Keeps (s.endRead slot q st v) := by
  unfold State.endRead
  extract_lets
  exact .ite (.modOp (.update hk)) (.wakeWords (.fireTrigs (.modOp (.update hk))))

theorem State.Goes.readDataReceive {src : Nat} {bytes : List Byte} (hk : s₀.Keeps s) : s₀.Goes (execReadDataReceive src bytes s) := by
  unfold execReadDataReceive
  extract_lets
  refine .next ?_
  split
  · exact .packetIn hk
  · split
    · exact .bump (.packetIn hk)
    · split
      · exact hk
      · split
        · exact .spillDrop (.packetIn hk)
        · split
          · exact .bump (.packetIn hk)
          · extract_lets
            exact .ite (.bump (.packetIn hk))
              (.ite (.endRead (.packetIn hk)) (.ite (.packetIn hk) (.ite (.endRead (.packetIn hk)) (.update (.packetIn hk)))))

theorem State.Goes.readRetryTimeout {slot : Nat} (hk : s₀.Keeps s) : s₀.Goes (execReadRetryTimeout slot s) := by
  unfold execReadRetryTimeout
  refine .next ?_
  split
  · exact hk
  · extract_lets _ _ _ _ _ _ s2
    have h2 : s₀.Keeps s2 := .countPath (.ite (.charge (.countPath hk)) (.countPath hk))
    exact .ite (.endRead (.countPath hk)) (.ite hk (.ite (.putBucket hk) (.sendRead (.update h2))))

theorem State.Keeps.auditPath {dst p action : Nat} (hk : s₀.Keeps s) : s₀.Keeps (s.auditPath dst p action) := .auditForm hk

theorem State.Keeps.setPath {key : Nat} {c : PathCnt} (hk : s₀.Keeps s) : s₀.Keeps (s.setPath key c) := .update hk

theorem State.Keeps.judgePath {key : Nat} {c : PathCnt} (hk : s₀.Keeps s) : s₀.Keeps (s.judgePath key c) := by
  unfold State.judgePath
  extract_lets
  exact .ite (.setPath hk)
    (.ite (.ite hk (.auditPath (.event (.setPath hk)))) (.ite (.setPath hk) (.ite hk (.auditPath (.bump (.setPath hk))))))

theorem State.Goes.rehomeWindowEnd (hk : s₀.Keeps s) : s₀.Goes (execRehomeWindowEnd s) :=
  .next (.ite (.update (.foldl hk fun _ _ g => .judgePath g)) hk)

theorem State.Goes.pathUnflag {dst path : Nat} (hk : s₀.Keeps s) : s₀.Goes (execPathUnflag dst path s) := by
  unfold execPathUnflag
  extract_lets
  refine .next ?_
  split
  · exact .ite (.auditPath (.update hk)) hk
  · exact hk

theorem State.Goes.hebribryReadReceive {src off : Nat} {ext : Ext} (hk : s₀.Keeps s) : s₀.Goes (execHebribryReadReceive src off ext s) := by
  unfold execHebribryReadReceive
  extract_lets
  refine .next ?_
  split
  · exact .packetIn hk
  · split
    · exact .send (.packetIn hk)
    · split
      · exact .ite (.send (.packetIn hk)) (.send (.packetIn hk))
      · split <;> exact .settle (.send (.snd ‹_› (.readTile (.packetIn hk))))

theorem State.Goes.reservedTypePacket {src : Nat} {bytes : List Byte} (hk : s₀.Keeps s) : s₀.Goes (execReservedTypePacket src bytes s) := by
  unfold execReservedTypePacket
  extract_lets
  exact .next (.ite (.packetIn hk) (.ite (.bump (.packetIn hk)) (.ite (.bump (.packetIn hk)) hk)))

end

end Sys2Proof.Machine
end

section
/-! SUPPORT. Steps, fences and rollbacks: these operations keep the queue, the straps and the form of memory. -/

namespace Sys2Proof.Machine

section
variable {s₀ s : State}

theorem State.Keeps.topoRecord {sheaf i : Nat} {x : Member} {node agent cause : Nat} (hk : s₀.Keeps s) :
    s₀.Keeps (s.topoRecord sheaf i x node agent cause) := .event (.bump (.setReg (.setReg hk)))

theorem State.Keeps.forceMerges {o : Op} (hk : s₀.Keeps s) : s₀.Keeps (s.forceMerges o) := .foldl hk fun _ _ g => .ite (.bump (.update g)) g

theorem State.Keeps.countOpenWait {o : Op} (hk : s₀.Keeps s) : s₀.Keeps (s.countOpenWait o) := .ite (.modOp (.bump hk)) hk

theorem State.Keeps.openWait {o : Op} (hk : s₀.Keeps s) : s₀.Keeps (s.openWait o) := by
  unfold State.openWait
  extract_lets
  exact .ite (.countOpenWait (.modOp (.forceMerges hk))) (.ite (.modOp hk) (.ite (.modOp hk) (.countOpenWait (.modOp hk))))

theorem State.Goes.stepOpen {op : Nat} (hk : s₀.Keeps s) : s₀.Goes (execStepOpen op s) := by
  unfold execStepOpen
  refine .next ?_
  split
  · exact hk
  · extract_lets
    split
    · exact hk
    · split
      · exact .fail hk
      · split
        · exact .fail (.topoRecord hk)
        · exact .settle (.ite (.openWait (.leaveSeq hk)) (.park hk))

theorem State.Keeps.openSet {n k : Nat} (hk : s₀.Keeps s) : s₀.Keeps (s.openSet n k) := .update (.putSet hk)

theorem State.Goes.stepOpenEffect {op : Nat} (hk : s₀.Keeps s) : s₀.Goes (execStepOpenEffect op s) := by
  unfold execStepOpenEffect
  refine .next ?_
  split
  · exact hk
  · extract_lets
    exact .ite hk (.ite (.settle (.finish (.foldl hk fun _ _ g => .openSet g))) (.settle (.openWait hk)))

theorem State.Goes.topologyWaitTimeout {op : Nat} (hk : s₀.Keeps s) : s₀.Goes (execTopologyWaitTimeout op s) := by
  unfold execTopologyWaitTimeout
  refine .next ?_
  split
  · exact hk
  · split
    · extract_lets
      split
      · exact .settle (.fail (.topoRecord hk))
      · split
        · exact .ite (.settle (.fail (.bump (.topoRecord hk)))) hk
        · exact hk
    · exact hk

theorem State.Goes.stepClose {op : Nat} (hk : s₀.Keeps s) : s₀.Goes (execStepClose op s) := by
  unfold execStepClose
  refine .next ?_
  split
  · exact hk
  · extract_lets s1
    have h1 : s₀.Keeps s1 := .foldl hk fun _ _ g => .putSet g
    exact .ite hk (.ite (.fail hk) (.settle (.closeSlots (.park h1))))

theorem State.Keeps.startFence {o : Op} (hk : s₀.Keeps s) : s₀.Keeps (s.startFence o) := .settle (.park hk)

theorem State.Goes.fence {op : Nat} (hk : s₀.Keeps s) : s₀.Goes (execFence op s) := by
  unfold execFence
  refine .next ?_
  split
  · exact hk
  · exact .ite hk (.ite (.fail hk) (.startFence hk))

theorem State.Keeps.waitFor {o : Op} {l : List Nat} (hk : s₀.Keeps s) : s₀.Keeps (s.waitFor o l) := .park hk

theorem State.Goes.stepConfirm {op : Nat} (hk : s₀.Keeps s) : s₀.Goes (execStepConfirm op s) := by
  unfold execStepConfirm
  refine .next ?_
  split
  · exact hk
  · extract_lets
    exact .ite (.ite (.startFence hk) hk) (.ite hk (.ite (.fail hk) (.ite (.startFence hk) (.waitFor hk))))

theorem State.Keeps.rollSet {o : Op} {k : Nat} (hk : s₀.Keeps s) : s₀.Keeps (s.rollSet o k) := .modOp (.putSet hk)

theorem State.Keeps.rollTraffic {o : Op} (hk : s₀.Keeps s) : s₀.Keeps (s.rollTraffic o) := by
  unfold State.rollTraffic
  extract_lets _ _ _ s1 _ _ _ s3
  have h1 : s₀.Keeps s1 := .foldl hk fun _ _ g => .freeSlot g
  have h3 : s₀.Keeps s3 := .foldl (.update h1) fun _ _ g => .dropMsgs g
  exact .update h3

theorem State.Keeps.rollSlots {o : Op} (hk : s₀.Keeps s) : s₀.Keeps (s.rollSlots o) := .closeSlots (.update hk)

theorem State.KeepsAll.rollTile {ext : Ext} {o : Op} {j t : Nat} (hk : s₀.Keeps s) : s₀.KeepsAll (s.rollTile ext o j t) := by
  unfold State.rollTile
  split
  · exact .none
  · split
    · exact .none
    · split
      · exact .some (.modOp (.bump (.restoreTile (.snd ‹_› (.xorTiles (.snd ‹_› (.readTile hk)))))))
      · exact .none

theorem State.Keeps.rollFail {o : Op} (hk : s₀.Keeps s) : s₀.Keeps (s.rollFail o) := by
  unfold State.rollFail
  extract_lets
  split
  · exact .fail (.rollRetire hk)
  · exact .rollRetire hk

theorem State.Keeps.rollWalk {ext : Ext} {o : Op} {l : List (Nat × Nat)} (hk : s₀.Keeps s) : s₀.Keeps (State.rollWalk ext o l s) := by
  induction l generalizing s with
  | nil => exact hk
  | cons x l ih =>
    unfold State.rollWalk
    split
    · exact .cbwEngine hk
    · split
      · exact ih (.of_some ‹_› (.rollTile hk))
      · exact .rollFail hk

theorem State.Goes.stepRollback {op units : Nat} {ext : Ext} (hk : s₀.Keeps s) : s₀.Goes (execStepRollback op units ext s) := by
  unfold execStepRollback
  refine .next ?_
  split
  · exact hk
  · extract_lets begin
    have hbegin : ∀ t, s₀.Keeps t → s₀.Keeps (begin t) := fun _ g => .ite (.fail g)
      (.settle (.rollSlots (.rollTraffic (.modOp (.foldl g fun _ _ g => .rollSet g)))))
    split
    · exact .ite hk (.ite (hbegin _ hk) (.waitFor hk))
    · exact .ite (hbegin _ (.unpark hk)) hk
    · split
      · exact hk
      · split
        · exact .settle (.rollSlots hk)
        · split
          · exact .ite (.settle (.park (.rollWalk hk))) (.rollWalk hk)
          · exact .rollWalk hk
    · exact hk

theorem State.Keeps.zeroTiles {j : Nat} {q : Region} {l : List Nat} (hk : s₀.Keeps s) : s₀.Keeps (s.zeroTiles j q l).1 := by
  induction l generalizing s with
  | nil => exact hk
  | cons x l ih => exact .ite_fst (.pair_fst (.cbwEngine hk)) (ih (.putTile hk))

theorem State.Keeps.retireOne {x : Retire} (hk : s₀.Keeps s) : s₀.Keeps (s.retireOne x).1 := by
  unfold State.retireOne
  split
  · split
    · exact hk
    · split
      · exact .zeroTiles hk
      · exact hk
  · exact hk
  · exact hk
  · split
    · exact .pair_fst (.update hk)
    · exact .ite_fst (.pair_fst (.update (.zeroTiles hk))) (.zeroTiles hk)

theorem State.KeepsAll.mergeStripe {ext : Ext} {j : Nat} {r : Region} {key : Nat} (hk : s₀.Keeps s) :
    s₀.KeepsAll (s.mergeStripe ext j r key) := by
  unfold State.mergeStripe
  split
  next =>
    extract_lets _ _ next
    have hnext : ∀ t, s₀.Keeps t → s₀.Keeps (next t) := fun _ g => .ite (.update g) (.update g)
    split
    next => exact .none
    next =>
      split
      next => exact .none
      next e1 =>
        have h1 := State.Keeps.snd e1 (.readApply hk)
        split
        next => exact .some (hnext _ (.putTile h1))
        next =>
          split
          next => exact .none
          next e2 => exact .some (hnext _ (.putTile (.putParity (.snd e2 (.readApply h1)))))
  next => exact .none

theorem State.Keeps.retireLoop {n : Nat} (hk : s₀.Keeps s) : s₀.Keeps (State.retireLoop n s) := by
  induction n generalizing s with
  | zero => exact hk
  | succ n ih =>
    unfold State.retireLoop
    extract_lets
    split
    · extract_lets _ __src
      have h__src : s₀.Keeps __src := .retireOne (.retireMaps hk)
      exact .ite (ih (.retireMaps (.update h__src))) (.retireOne (.retireMaps hk))
    · split
      · split
        · exact ih (.of_some ‹_› (.mergeStripe (.retireMaps hk)))
        · split
          · exact .cbwEngine (.cbwEngine (.retireMaps hk))
          · exact .retireMaps hk
      · exact .retireMaps hk

theorem State.Goes.retireWork {units : Nat} (hk : s₀.Keeps s) : s₀.Goes (execRetireWork units s) := .next (.settle (.retireLoop hk))

theorem State.Keeps.mergeLoop {ext : Ext} {op j : Nat} {r : Region} {key n : Nat} (hk : s₀.Keeps s) :
    s₀.Keeps (State.mergeLoop ext op j r key n s) := by
  induction n generalizing s with
  | zero => exact hk
  | succ n ih =>
    unfold State.mergeLoop
    split
    · exact hk
    · split
      · exact ih (.modOp (.of_some ‹_› (.mergeStripe hk)))
      · split
        · exact .cbwEngine (.cbwEngine hk)
        · exact hk

theorem State.Goes.mergeBank {op units : Nat} {ext : Ext} (hk : s₀.Keeps s) : s₀.Goes (execMergeBank op units ext s) := by
  unfold execMergeBank
  refine .next ?_
  split
  · exact hk
  · extract_lets
    split
    · exact .fail hk
    · extract_lets
      split
      · split
        · exact hk
        · split
          · exact .fail hk
          · split
            · exact .ite (.finish hk) (.fail hk)
            · exact .ite (.fail hk) (.ite (.modOp (.update hk)) (.ite (.park hk) (.fail hk)))
      · exact .ite hk (.finish hk)
      · split
        · exact hk
        · split
          · exact .ite (.settle (.finish (.mergeLoop hk))) (.settle (.mergeLoop hk))
          · exact .mergeLoop hk
      · exact hk

theorem State.Keeps.reduceCell {op a : Nat} {max : Bool} {v cls : Nat} (hk : s₀.Keeps s) : s₀.Keeps (s.reduceCell op a max v cls) :=
  .ite (.engineWrite hk) (.update (.send hk))

theorem State.Keeps.arrive {op : Nat} (hk : s₀.Keeps s) : s₀.Keeps (s.arrive op) := by
  unfold State.arrive
  split
  · exact hk
  · exact .ite hk (.modOp (.reduceCell hk))

theorem State.Goes.normReduce {op : Nat} (hk : s₀.Keeps s) : s₀.Goes (execNormReduce op s) := by
  unfold execNormReduce
  refine .next ?_
  split
  · exact hk
  · extract_lets _ s1
    have h1 : s₀.Keeps s1 := .foldl hk fun _ _ g => .reduceCell g
    exact .ite hk (.ite (.fail hk) (.settle (.arrive (.settle (.park h1)))))

theorem State.Goes.normCellPoll {op : Nat} {ext : Ext} (hk : s₀.Keeps s) : s₀.Goes (execNormCellPoll op ext s) := by
  unfold execNormCellPoll
  refine .next ?_
  split
  · exact hk
  · split
    · exact hk
    · split
      · exact .settle (.fail hk)
      · split
        · exact .settle (.arrive hk)
        · split
          · exact hk
          · split
            · extract_lets
              exact .ite (.settle (.fail (.snd ‹_› (.readAt hk))))
                (.ite (.settle (.finish (.snd ‹_› (.readAt hk)))) (.modOp (.snd ‹_› (.readAt hk))))
            · exact .settle (.fail (.snd ‹_› (.readAt hk)))
            · exact .settle (.fail (.snd ‹_› (.readAt hk)))

end

end Sys2Proof.Machine
end

section
/-! SUPPORT. Regions and sheaves: these operations keep the queue, the straps and the form of memory. -/

namespace Sys2Proof.Machine

section
variable {s₀ s : State}

theorem State.Keeps.dropPairs {base n : Nat} (hk : s₀.Keeps s) : s₀.Keeps (s.dropPairs base n) := .update hk

theorem State.Keeps.enterSetup {op : Nat} {r : Region} (hk : s₀.Keeps s) : s₀.Keeps (s.enterSetup op r) := by
  unfold State.enterSetup
  extract_lets _ e _ _ s1 s2 _ s3
  have h1 : s₀.Keeps s1 := .foldl hk fun _ _ g => .stackWrite g
  have h2 : s₀.Keeps s2 := by
    unfold s2
    clear_value e
    split
    · exact .putLedger h1
    · exact h1
  have h3 : s₀.Keeps s3 := .update (.dropPairs h2)
  exact .modOp h3

theorem State.KeepsAll.setupTile {ext : Ext} {j : Nat} {r : Region} {t : Nat} (hk : s₀.Keeps s) : s₀.KeepsAll (s.setupTile ext j r t) := by
  unfold State.setupTile
  extract_lets
  split
  · exact .some (.putTile hk)
  · split
    · exact .none
    · exact .some (.ite (.modRegion (.putLine hk)) (.putLine hk))

theorem State.Keeps.setupLoop {ext : Ext} {op j : Nat} {r : Region} {n : Nat} (hk : s₀.Keeps s) :
    s₀.Keeps (State.setupLoop ext op j r n s).1 := by
  induction n generalizing s with
  | zero => exact hk
  | succ n ih =>
    unfold State.setupLoop
    extract_lets
    split
    · exact hk
    · split
      · exact ih (.modOp (.of_some ‹_› (.setupTile hk)))
      · exact hk

theorem State.Keeps.readSlots (hk : s₀.Keeps s) : s₀.Keeps (s.readSlots) := by
  unfold State.readSlots
  extract_lets _ _ turn
  have hturn : ∀ t x, s₀.Keeps t → s₀.Keeps (turn t x) := fun _ _ g => .ite (.setSlotState g) g
  exact hturn _ _ (hturn _ _ (.update hk))

theorem State.Keeps.undoSetup {j : Nat} (hk : s₀.Keeps s) : s₀.Keeps (s.undoSetup j) := by
  unfold State.undoSetup
  split
  · exact hk
  · exact .update hk

theorem State.Goes.regionSetup {op units : Nat} {ext : Ext} (hk : s₀.Keeps s) : s₀.Goes (execRegionSetup op units ext s) := by
  unfold execRegionSetup
  refine .next ?_
  split
  · exact hk
  · extract_lets
    split
    · split
      · exact .fail (.snd ‹_› (.readAt hk))
      · exact .fail (.snd ‹_› (.readAt hk))
      · extract_lets r
        split
        · exact .fail (.snd ‹_› (.readAt hk))
        · clear_value r
          split
          · exact .enterSetup (.snd ‹_› (.readAt hk))
          · exact .snd ‹_› (.readAt hk)
    · split
      · exact hk
      · extract_lets _ s1 s2
        have h1 : s₀.Keeps s1 := .modRegion (.ite_fst (.setupLoop hk) hk)
        have h2 : s₀.Keeps s2 := .ite (.readSlots h1) h1
        split
        · exact .ite (.settle (.fail (.undoSetup (.ite_fst (.setupLoop hk) hk))))
            (.ite (.yieldPoint (.ite_fst (.setupLoop hk) hk)) (.settle (.finish h2)))
        · exact .ite_fst (.setupLoop hk) hk
    · exact hk

theorem State.Keeps.leaveSheaf {j : Nat} (hk : s₀.Keeps s) : s₀.Keeps (s.leaveSheaf j) := by
  unfold State.leaveSheaf
  split
  · exact hk
  · extract_lets s1 _ _ s3 _ _ _ _ _ _ s5
    have h1 : s₀.Keeps s1 := .freeRecv (.freeSend hk)
    have h3 : s₀.Keeps s3 := .foldl (.update h1) fun _ _ g => .freeSlot g
    have h5 : s₀.Keeps s5 := .modRegion (.update h3)
    exact .ite (.update h5) h5

theorem State.Goes.sheafLeave {op : Nat} (hk : s₀.Keeps s) : s₀.Goes (execSheafLeave op s) := by
  unfold execSheafLeave
  refine .next ?_
  split
  · exact hk
  · exact .ite (.fail hk) (.settle (.finish (.leaveSheaf hk)))

theorem State.Keeps.readTable {ext : Ext} {a : Nat} (hk : s₀.Keeps s) : s₀.Keeps (s.readTable ext a).2 := by
  unfold State.readTable
  split <;> exact .readAt hk

theorem State.Keeps.installRows {j : Nat} {v : List Byte} (hk : s₀.Keeps s) : s₀.Keeps (s.installRows j v) := .update hk

theorem State.Keeps.zeroBlock {r : Region} {b dMax : Nat} (hk : s₀.Keeps s) : s₀.Keeps (s.zeroBlock r b dMax) := by
  unfold State.zeroBlock
  split
  · exact .foldl hk fun _ _ g => .repairTile g
  · exact hk

theorem State.Keeps.enterSheaf {j i : Nat} {t : SheafTab} {ovr : Bool} (hk : s₀.Keeps s) : s₀.Keeps (s.enterSheaf j i t ovr) := by
  unfold State.enterSheaf
  split
  · extract_lets _ block _ s2 s3
    have h2 : s₀.Keeps s2 := .modRegion (.update hk)
    have h3 : s₀.Keeps s3 := .ite (.installRows h2) h2
    clear_value block
    split
    · exact .ite (.zeroBlock (.addCtxs h3)) (.addCtxs h3)
    · exact .addCtxs h3
  · exact hk

theorem State.Keeps.larkNow {id : Nat} (hk : s₀.Keeps s) : s₀.Keeps (s.larkNow id) := .modSheaf hk

theorem State.Goes.sheafJoin {op : Nat} {ext : Ext} {s0 : State} (hk : s₀.Keeps s0) : s₀.Goes (execSheafJoin op ext s0) := by
  unfold execSheafJoin
  refine .next ?_
  split
  · exact hk
  · split
    · exact .fail (.snd ‹_› (.readTable hk))
    · exact .fail (.snd ‹_› (.readTable hk))
    · extract_lets t
      split
      · exact .fail (.snd ‹_› (.readTable hk))
      · clear_value t
        split
        · exact .snd ‹_› (.readTable hk)
        · extract_lets _ _ _ s1
          have h1 : s₀.Keeps s1 := .enterSheaf (.snd ‹_› (.readTable hk))
          exact .settle (.finish (.ite h1 (.larkNow h1)))

theorem State.Keeps.beginRelease {j : Nat} (hk : s₀.Keeps s) : s₀.Keeps (s.beginRelease j) := by
  unfold State.beginRelease
  split
  · exact hk
  · extract_lets s1 s2
    have h1 : s₀.Keeps s1 := .modRegion (.leaveSheaf hk)
    have h2 : s₀.Keeps s2 := .foldl (.dropPairs h1) fun _ _ g => .freeSlot g
    exact .foldl h2 fun _ _ g => .event (.bump (.refuseWrite g))

theorem State.Keeps.releaseTile {o : Op} {t : Nat} (hk : s₀.Keeps s) : s₀.Keeps (s.releaseTile o t) := by
  unfold State.releaseTile
  extract_lets
  split
  · exact .putTile hk
  · exact .ite (.stackZero hk) hk

theorem State.Keeps.releaseLoop {op : Nat} {o : Op} {total n : Nat} (hk : s₀.Keeps s) : s₀.Keeps (State.releaseLoop op o total n s) := by
  induction n generalizing s with
  | zero => exact hk
  | succ n ih => exact .ite hk (ih (.modOp (.releaseTile hk)))

theorem State.Keeps.freeLines {tag : Nat} (hk : s₀.Keeps s) : s₀.Keeps (s.freeLines tag) :=
  .ite hk (.foldl hk fun _ _ g => .ite (.setReg g) g)

theorem State.Keeps.freeRegion {j : Nat} (hk : s₀.Keeps s) : s₀.Keeps (s.freeRegion j) := by
  unfold State.freeRegion
  split
  · exact hk
  · extract_lets _ _ s1 _ _ _ _ s2 _ s3 s4
    have h1 : s₀.Keeps s1 := .update (.dropPairs hk)
    have h2 : s₀.Keeps s2 := .foldl (.update h1) fun _ _ g => .setReg g
    have h3 : s₀.Keeps s3 := .ite (.update h2) h2
    have h4 : s₀.Keeps s4 := .ite (.modSet h3) h3
    exact .settleLines (.freeLines h4)

theorem State.Keeps.endRelease {o : Op} (hk : s₀.Keeps s) : s₀.Keeps (s.endRelease o) := by
  unfold State.endRelease
  extract_lets _ _ _ e _ s1 _ s3
  have h1 : s₀.Keeps s1 := by
    unfold s1
    clear_value e
    split
    · exact .ite (.putLedger hk) hk
    · exact hk
  have h3 : s₀.Keeps s3 := .auditForm (.update h1)
  exact .settle (.finish (.ite h3 (.freeRegion h3)))

theorem State.Goes.regionRelease {op units : Nat} (hk : s₀.Keeps s) : s₀.Goes (execRegionRelease op units s) := by
  unfold execRegionRelease
  refine .next ?_
  split
  · exact hk
  · extract_lets _ s1 _ s1'
    have h1 : s₀.Keeps s1 := .ite hk (.beginRelease hk)
    have h1' : s₀.Keeps s1' := .releaseLoop hk
    split
    · exact .ite (.fail hk) (.settle (.modOp h1))
    · split
      · exact .ite (.endRelease h1') (.yieldPoint h1')
      · exact h1'
    · exact hk

end

end Sys2Proof.Machine
end

section
/-! SUPPORT. Walks: these operations keep the queue, the straps and the form of memory. -/

namespace Sys2Proof.Machine

section
variable {s₀ s : State}

theorem State.KeepsWalk.walkBy {op last : Nat} {size : Nat → Nat} {f : Nat → State → Walk} {n : Nat} (hk : s₀.Keeps s)
    (hf : ∀ a1 t, s₀.Keeps t → s₀.KeepsWalk (f a1 t)) : s₀.KeepsWalk (State.walkBy op last size f n s) := by
  induction n generalizing s with
  | zero => exact .go hk
  | succ n ih =>
    unfold State.walkBy
    extract_lets
    split
    · exact .go hk
    · split
      · exact ih (.modOp (.of_go ‹_› (hf _ _ hk)))
      · exact hf _ _ hk

theorem State.KeepsWalk.walk {op last : Nat} {f : Nat → State → Walk} {n : Nat} (hk : s₀.Keeps s)
    (hf : ∀ a1 t, s₀.Keeps t → s₀.KeepsWalk (f a1 t)) : s₀.KeepsWalk (s.walk op last f n) := .walkBy hk (fun _ _ g => hf _ _ g)

theorem State.Keeps.endWalk {op last : Nat} {done : State → Op → State} {w : Walk} (hw : s₀.KeepsWalk w)
    (hd : ∀ t o, s₀.Keeps t → s₀.Keeps (done t o)) : s₀.Keeps (State.endWalk op last done w) := by
  cases hw with
  | go hk =>
    simp only [State.endWalk]
    split
    · exact .ite (.settle (hd _ _ hk)) (.settle (.yieldPoint hk))
    · exact hk
  | stop hk =>
    simp only [State.endWalk]
    split
    · exact .settle (.fail hk)
    · exact hk
  | wait hk => exact hk

theorem State.KeepsWalk.unitWrites {op c : Nat} {f : State → Walk} (hk : s₀.Keeps s) (hf : ∀ t, s₀.Keeps t → s₀.KeepsWalk (f t)) :
    s₀.KeepsWalk (s.unitWrites op c f) := by
  unfold State.unitWrites
  extract_lets done
  have hdone : ∀ t, s₀.Keeps t → s₀.KeepsWalk (done t) := by
    intro _ g
    unfold done
    split
    · exact .wait g
    · split
      · exact .stop g
      · exact .go g
  split
  · exact .wait hk
  · split
    · exact hdone _ hk
    · split
      · exact hdone _ (.settle (.modOp (.of_go ‹_› (hf _ (.modOp hk)))))
      · exact hf _ (.modOp hk)

theorem State.KeepsWalk.unitWrites2 {op c : Nat} {f g : State → Walk} (hk : s₀.Keeps s) (hf : ∀ t, s₀.Keeps t → s₀.KeepsWalk (f t))
    (hg : ∀ t, s₀.Keeps t → s₀.KeepsWalk (g t)) : s₀.KeepsWalk (s.unitWrites2 op c f g) := by
  unfold State.unitWrites2
  split
  · exact .unitWrites hk (fun _ g => hg _ g)
  · split
    · exact .unitWrites (.of_go ‹_› (.unitWrites hk (fun _ g => hf _ g))) (fun _ g => hg _ g)
    · exact .unitWrites hk (fun _ g => hf _ g)

theorem State.KeepsWalk.tryAgain {op : Nat} (hk : s₀.Keeps s) : s₀.KeepsWalk (s.tryAgain op) := by
  unfold State.tryAgain
  split
  · exact .wait hk
  · split
    · exact .stop hk
    · exact .wait (.bump (.modOp hk))

theorem State.Keeps.freshTries {op : Nat} (hk : s₀.Keeps s) : s₀.Keeps (s.freshTries op) := .modOp hk

theorem State.Keeps.freshEpoch {op epoch : Nat} (hk : s₀.Keeps s) : s₀.Keeps (s.freshEpoch op epoch) := by
  unfold State.freshEpoch
  extract_lets
  split
  · exact hk
  · exact .ite hk (.update (.modOp hk))

theorem State.KeepsWalk.decodeFail {st region t : Nat} (hk : s₀.Keeps s) : s₀.KeepsWalk (s.decodeFail st region t) :=
  .stop (.ite (.event hk) hk)

end

end Sys2Proof.Machine
end

section
/-! SUPPORT. Tables and microcode: these operations keep the queue, the straps and the form of memory. -/

namespace Sys2Proof.Machine

section
variable {s₀ s : State}

theorem State.Goes.tableLoad {op : Nat} {ext : Ext} (hk : s₀.Keeps s) : s₀.Goes (execTableLoad op ext s) := by
  unfold execTableLoad
  refine .next ?_
  split
  · exact hk
  · split
    · exact hk
    · split
      · exact .fail hk
      · split
        · exact .fail hk
        · split
          · extract_lets
            exact .ite (.fail (.snd ‹_› (.readAt hk))) (.ite (.modOp (.snd ‹_› (.readAt hk))) (.park (.interim (.snd ‹_› (.readAt hk)))))
          · exact .fail (.snd ‹_› (.readAt hk))

theorem State.Keeps.reflag {s : State} (hk : s₀.Keeps t) : s₀.Keeps (s.reflag t) := .update hk

theorem State.Keeps.install {kind slot : Nat} {v : List Byte} (hk : s₀.Keeps s) : s₀.Keeps (s.install kind slot v) :=
  .ite (.installRows hk) (.ite (.update hk) (.reflag (.update hk)))

theorem State.Goes.tableInstall {op : Nat} (hk : s₀.Keeps s) : s₀.Goes (execTableInstall op s) := by
  unfold execTableInstall
  refine .next ?_
  split
  · exact hk
  · split
    · exact .ite hk (.settle (.finish (.install hk)))
    · exact hk

theorem State.Keeps.beginStage {o : Op} (hk : s₀.Keeps s) : s₀.Keeps (s.beginStage o) := .modOp (.update hk)

theorem State.KeepsWalk.stageChunk {ext : Ext} {o : Op} {c : Nat} (hk : s₀.Keeps s) : s₀.KeepsWalk (s.stageChunk ext o c) := by
  unfold State.stageChunk
  extract_lets _ hand
  have hhand : ∀ t, s₀.Keeps t → s₀.Keeps (hand t) := fun _ g => .ite (.send g) g
  split
  · exact .wait (.bump hk)
  · split
    · exact .go (hhand _ hk)
    · split
      · exact .go (hhand _ (.bump (.update (.snd ‹_› (.readAt hk)))))
      · exact .stop (.snd ‹_› (.readAt hk))
      · exact .stop (.snd ‹_› (.readAt hk))

theorem State.KeepsWalk.stageLoop {ext : Ext} {op total n : Nat} (hk : s₀.Keeps s) : s₀.KeepsWalk (State.stageLoop ext op total n s) := by
  induction n generalizing s with
  | zero => exact .go hk
  | succ n ih =>
    unfold State.stageLoop
    split
    · exact .go hk
    · extract_lets
      split
      · exact .go hk
      · split
        · exact ih (.modOp (.of_go ‹_› (.stageChunk hk)))
        · exact .stageChunk hk

theorem State.Goes.ucodeStage {op units : Nat} {ext : Ext} (hk : s₀.Keeps s) : s₀.Goes (execUcodeStage op units ext s) := by
  unfold execUcodeStage
  refine .next ?_
  split
  · exact hk
  · extract_lets
    split
    · exact .ite (.fail hk) (.beginStage hk)
    · split
      · split
        · exact .ite (.settle (.finish (.of_go ‹_› (.stageLoop hk)))) (.settle (.yieldPoint (.of_go ‹_› (.stageLoop hk))))
        · exact .of_go ‹_› (.stageLoop hk)
      · split
        · exact .settle (.finish (.of_stop ‹_› (.stageLoop hk)))
        · exact .of_stop ‹_› (.stageLoop hk)
      · exact .of_wait ‹_› (.stageLoop hk)
    · exact hk

theorem State.Keeps.dropChunk (hk : s₀.Keeps s) : s₀.Keeps (s.dropChunk) := .bump hk

theorem State.Keeps.landChunk {c : Nat} {v : List Byte} (hk : s₀.Keeps s) : s₀.Keeps (s.landChunk c v) :=
  .ite (.dropChunk hk) (.ite (.bump hk) (.bump (.update hk)))

theorem State.Goes.chunkStoreReceive {src addr : Nat} {bytes : List Byte} (hk : s₀.Keeps s) :
    s₀.Goes (execChunkStoreReceive src addr bytes s) := by
  unfold execChunkStoreReceive
  extract_lets _ _ _ _ _ _ _ _ _ s1
  have h1 : s₀.Keeps s1 := .update (.packetIn hk)
  exact .next
    (.ite hk (.ite (.dropChunk (.packetIn hk))
      (.ite (.dropChunk (.packetIn hk))
        (.ite (.dropChunk (.packetIn hk))
          (.ite (.dropChunk (.packetIn hk)) (.ite (.landChunk (.auditForm h1)) (.landChunk (.packetIn hk))))))))

theorem State.Keeps.lastFail {b : Bool} (hk : s₀.Keeps s) : s₀.Keeps (s.lastFail b) := .update hk

theorem State.Goes.ucodeActivate {op : Nat} (hk : s₀.Keeps s) : s₀.Goes (execUcodeActivate op s) := by
  unfold execUcodeActivate
  refine .next ?_
  split
  · exact hk
  · exact .ite hk (.ite (.fail (.lastFail hk)) (.park (.update hk)))

theorem State.Keeps.switchBank {digest : List Byte} (hk : s₀.Keeps s) : s₀.Keeps (s.switchBank digest) := .update hk

theorem State.Goes.authVerdict {digest : List Byte} {pass : Bool} (hk : s₀.Keeps s) : s₀.Goes (execAuthVerdict digest pass s) := by
  unfold execAuthVerdict
  extract_lets
  refine .next ?_
  split
  · exact hk
  · split
    · exact hk
    · exact .ite hk (.ite (.settle (.settleReady (.finish (.switchBank hk)))) (.settle (.fail (.lastFail (.update hk)))))

end

end Sys2Proof.Machine
end

section
/-! SUPPORT. Rings, descriptors and records: these operations keep the queue, the straps and the form of memory. -/

namespace Sys2Proof.Machine

section
variable {s₀ s : State}

theorem State.Keeps.modRing {n : Nat} {f : Ring → Ring} (hk : s₀.Keeps s) : s₀.Keeps (s.modRing n f) := .update hk

theorem State.Goes.ringEnable {req n : Nat} {w : Word} {ext : Ext} (hk : s₀.Keeps s) : s₀.Goes (execRingEnable req n w ext s) := by
  unfold execRingEnable
  extract_lets _ _ _ s1
  have h1 : s₀.Keeps s1 := .auditWrite (.setReg hk)
  refine .next ?_
  split
  · exact hk
  · split
    · exact .auditForm hk
    · split
      · exact .auditRefuse hk
      · split
        · exact .auditRefuse (.update hk)
        · split
          · exact .settleLines (.update (.snd ‹_› (.readAt h1)))
          · exact .settleLines (.stopRing (.update (.snd ‹_› (.readAt h1))))

theorem State.Goes.ringDisable {req n : Nat} {w : Word} (hk : s₀.Keeps s) : s₀.Goes (execRingDisable req n w s) := by
  unfold execRingDisable
  extract_lets
  exact .next (.ite hk (.ite (.auditForm hk) (.ite (.auditRefuse hk) (.settleLines (.auditWrite (.setReg (.update hk)))))))

theorem State.Goes.ringPollWrite {req n : Nat} {w : Word} (hk : s₀.Keeps s) : s₀.Goes (execRingPollWrite req n w s) := by
  unfold execRingPollWrite
  extract_lets
  exact .next (.ite hk (.ite (.auditForm hk) (.ite (.auditRefuse hk) (.auditWrite (.modRing (.setReg hk))))))

theorem State.Keeps.seeDoorbell {n : Nat} {tail head : Word} (hk : s₀.Keeps s) : s₀.Keeps (s.seeDoorbell n tail head) := by
  unfold State.seeDoorbell
  split
  · exact hk
  · exact .ite (.update hk) (.stopRing (.update hk))

theorem State.Goes.doorbellWrite {n : Nat} {tail head : Word} (hk : s₀.Keeps s) : s₀.Goes (execDoorbellWrite n tail head s) :=
  .next (.ite (.settle (.seeDoorbell (.putWrite (.seen hk)))) hk)

theorem State.Goes.doorbellPoll {n : Nat} (hk : s₀.Keeps s) : s₀.Goes (execDoorbellPoll n s) := by
  unfold execDoorbellPoll
  refine .next ?_
  split
  · exact .ite (.send (.modRing hk)) hk
  · exact hk

theorem State.Goes.doorbellPollReturn {n : Nat} {resp : Resp} (hk : s₀.Keeps s) : s₀.Goes (execDoorbellPollReturn n resp s) := by
  unfold execDoorbellPollReturn
  extract_lets
  refine .next ?_
  split
  · split
    · split
      · exact .seeDoorbell (.modRing hk)
      · exact .stopRing (.modRing hk)
    · exact hk
  · exact hk

theorem State.Keeps.startOp {o : Op} (hk : s₀.Keeps s) : s₀.Keeps (s.startOp o) :=
  .ite (.update (.modOp hk)) (.makeReady (.update (.modOp hk)))

theorem State.Goes.descriptorFetch {ext : Ext} (hk : s₀.Keeps s) : s₀.Goes (execDescriptorFetch ext s) := by
  unfold execDescriptorFetch
  refine .next ?_
  split
  · exact hk
  · split
    · exact hk
    · split
      · extract_lets _ s1 _ _ s2
        have h1 : s₀.Keeps s1 := .update (.snd ‹_› (.readAt (.update hk)))
        have h2 : s₀.Keeps s2 := .ite (.settleAudit (.update h1)) (.update h1)
        exact .ite (.update h1) (.ite (.startOp h2) h2)
      · exact .stopRing (.snd ‹_› (.readAt (.update hk)))

theorem State.Goes.operationStart {op : Nat} (hk : s₀.Keeps s) : s₀.Goes (execOperationStart op s) := by
  unfold execOperationStart
  refine .next ?_
  split
  · exact .ite (.startOp hk) hk
  · exact hk

theorem State.Goes.sequencerDispatch (hk : s₀.Keeps s) : s₀.Goes (execSequencerDispatch s) := by
  unfold execSequencerDispatch
  extract_lets
  refine .next ?_
  split
  · exact hk
  · split
    · exact .modOp (.update hk)
    · exact hk

theorem State.Goes.completionRecordWrite {n : Nat} {error : Bool} (hk : s₀.Keeps s) : s₀.Goes (execCompletionRecordWrite n error s) := by
  unfold execCompletionRecordWrite
  refine .next ?_
  split
  · extract_lets _ s2 _ _ s2'
    have h2 : s₀.Keeps s2 := .stopRing (.update hk)
    have h2' : s₀.Keeps s2' := .store (.update hk)
    exact .ite hk (.ite (.ite (.bump (.update hk)) (.update hk)) (.ite (.ite (.bump h2) h2) (.settle (.occur (.modRing h2')))))
  · exact hk

end

end Sys2Proof.Machine
end

section
/-! SUPPORT. Membership: these operations keep the queue, the straps and the form of memory. -/

namespace Sys2Proof.Machine

section
variable {s₀ s : State}

theorem State.Keeps.dropPeers {id : Nat} {p : Nat → Bool} (hk : s₀.Keeps s) : s₀.Keeps (s.dropPeers id p) := .freeRecv (.freeSend hk)

theorem State.Keeps.addPeers {id : Nat} {sh : Sheaf} {l : List Nat} (hk : s₀.Keeps s) : s₀.Keeps (s.addPeers id sh l) :=
  .foldl hk fun _ _ g => .foldl g fun _ _ g => .ite (.ite (.addSend g) (.addRecv g)) g

theorem State.Keeps.resend {id epoch : Nat} (hk : s₀.Keeps s) : s₀.Keeps (s.resend id epoch) := by
  unfold State.resend
  extract_lets
  exact .foldl (.update hk) fun _ _ g => .foldl g fun _ _ g => .ite (.tryMsg g) g

theorem State.Keeps.endEpoch {id epoch : Nat} (hk : s₀.Keeps s) : s₀.Keeps (s.endEpoch id epoch) := .closeKeys (.update hk)

theorem State.Keeps.installSheaf {id : Nat} {sh : Sheaf} {changed added : List Nat} (hk : s₀.Keeps s) :
    s₀.Keeps (s.installSheaf id sh changed added) := .resend (.endEpoch (.addPeers (.update (.dropPeers hk))))

theorem State.Goes.membershipUpdate {op : Nat} {ext : Ext} {si : State} (hk : s₀.Keeps si) : s₀.Goes (execMembershipUpdate op ext si) := by
  unfold execMembershipUpdate
  refine .next ?_
  split
  · exact hk
  · split
    · exact .fail hk
    · split
      · exact .fail (.snd ‹_› (.readTable hk))
      · exact .fail (.snd ‹_› (.readTable hk))
      · extract_lets
        split
        · exact .fail (.snd ‹_› (.readTable hk))
        · split
          · extract_lets _ _ _ _ _ s0 s1 _ s2
            have h0 : s₀.Keeps s0 := .update (.snd ‹_› (.readTable hk))
            have h1 : s₀.Keeps s1 := .installSheaf h0
            have h2 : s₀.Keeps s2 := .foldl h1 fun _ _ g => .leaveSheaf g
            exact .settle (.finish h2)
          · exact .snd ‹_› (.readTable hk)

theorem State.Keeps.sendLark {p : Nat × Nat} (hk : s₀.Keeps s) : s₀.Keeps (s.sendLark p) := .bumpBy (.update hk)

theorem State.Keeps.modMember {id i : Nat} {f : Member → Member} (hk : s₀.Keeps s) : s₀.Keeps (s.modMember id i f) := .modSheaf hk

theorem State.Keeps.markSilent {ticks id i : Nat} {x : Member} (hk : s₀.Keeps s) : s₀.Keeps (s.markSilent ticks id i x) :=
  .ite (.report (.bump (.modMember hk))) hk

theorem State.Goes.larkIntervalTick (hk : s₀.Keeps s) : s₀.Goes (execLarkIntervalTick s) := by
  unfold execLarkIntervalTick
  extract_lets _ _ _ s2
  have h2 : s₀.Keeps s2 := .foldl (.update hk) fun _ _ g => .sendLark g
  exact .next (.ite hk (.foldl h2 fun _ _ g => .foldl g fun _ _ g => .markSilent g))

theorem State.Keeps.larkValid {id i level : Nat} {x : Member} (hk : s₀.Keeps s) : s₀.Keeps (s.larkValid id i level x) := by
  unfold State.larkValid
  extract_lets _ _ s2
  have h2 : s₀.Keeps s2 := .ite (.bump (.modMember hk)) (.modMember hk)
  exact .ite h2 (.report (.event h2))

theorem State.Keeps.larkEntry {src job level : Nat} {e : List Byte} (hk : s₀.Keeps s) : s₀.Keeps (s.larkEntry src job level e) := by
  unfold State.larkEntry
  extract_lets
  split
  · exact .bump hk
  · split
    · exact .bump hk
    · split
      · exact .bump hk
      · split
        · exact .bump hk
        · exact .ite (.bump hk) (.ite (.bump (.modMember hk)) (.larkValid hk))

theorem State.Goes.larkReceive {src : Nat} {bytes : List Byte} (hk : s₀.Keeps s) : s₀.Goes (execLarkReceive src bytes s) := by
  unfold execLarkReceive
  extract_lets
  exact .next (.ite (.packetIn hk) (.ite (.bump (.packetIn hk)) (.ite hk (.settle (.foldl (.packetIn hk) fun _ _ g => .larkEntry g)))))

theorem State.Goes.reportReceive {src : Nat} {bytes : List Byte} (hk : s₀.Keeps s) : s₀.Goes (execReportReceive src bytes s) := by
  unfold execReportReceive
  extract_lets
  exact .next (.ite (.packetIn hk) (.ite (.bump (.packetIn hk)) (.ite hk (.takeReport (.packetIn hk)))))

theorem State.Goes.reportRepeatTimer (hk : s₀.Keeps s) : s₀.Goes (execReportRepeatTimer s) := by
  unfold execReportRepeatTimer
  refine .next ?_
  refine .foldl hk fun _ _ g => ?_
  refine .foldl g fun _ _ g => ?_
  extract_lets a
  have ha : s₀.Keeps a := .ite (.report g) g
  split
  · exact .ite ha (.report ha)
  · exact ha

theorem State.Goes.reportRecordRewrite {key : Nat} (hk : s₀.Keeps s) : s₀.Goes (execReportRecordRewrite key s) := by
  unfold execReportRecordRewrite
  refine .next ?_
  split
  · exact .ite (.update (.writeReport hk)) hk
  · exact hk

end

end Sys2Proof.Machine
end

section
/-! SUPPORT. Rebuild, migration and regrouping: these operations keep the queue, the straps and the form of memory. -/

namespace Sys2Proof.Machine

section
variable {s₀ s : State}

theorem State.KeepsWalk.degradedDecode {ext : Ext} {op j : Nat} {r : Region} {sh : Sheaf} {target t : Nat} {put : List Byte → State → Walk}
    (hk : s₀.Keeps s) (hput : ∀ a1 t, s₀.Keeps t → s₀.KeepsWalk (put a1 t)) :
    s₀.KeepsWalk (s.degradedDecode ext op j r sh target t put) := by
  unfold State.degradedDecode
  split
  · exact .wait hk
  · split
    · exact hput _ _ (.modOp (.bumpBy (.snd ‹_› (.targetTile hk))))
    · exact .decodeFail (.snd ‹_› (.targetTile hk))
    · exact .tryAgain (.snd ‹_› (.targetTile hk))
    · exact .wait (.snd ‹_› (.targetTile hk))

theorem State.KeepsWalk.degradedTile {ext : Ext} {op : Nat} {o : Op} {t : Nat} (hk : s₀.Keeps s) :
    s₀.KeepsWalk (s.degradedTile ext op o t) := by
  unfold State.degradedTile
  extract_lets _ _ _ _ _ _ put
  have hput : ∀ v t, s₀.Keeps t → s₀.KeepsWalk (put v t) := by
    intro _ _ g
    unfold put
    split
    · exact .stop g
    · split
      · exact .go (.freshTries (.engineWrite g))
      · split
        · exact .wait (.putBucket g)
        · exact .go (.freshTries (.engineWrite (.charge g)))
  split
  · exact .stop hk
  · split
    · exact .stop hk
    · split
      · exact .stop hk
      · extract_lets decode
        have hdecode : ∀ t, s₀.Keeps t → s₀.KeepsWalk (decode t) := fun _ g => .degradedDecode g (fun _ _ g => hput _ _ g)
        split
        · exact .stop hk
        · refine .unitWrites (.freshEpoch hk) (fun _ g => ?_)
          split
          · exact hput _ _ g
          · split
            · exact hdecode _ g
            · split
              · exact hput _ _ (.snd ‹_› (.readMember g))
              · exact .wait (.snd ‹_› (.readMember g))
              · split
                · exact .stop (.snd ‹_› (.readMember g))
                · exact hdecode _ (.reselect (.snd ‹_› (.readMember g)))
              · split
                · exact hdecode _ (.snd ‹_› (.readMember g))
                · split
                  · exact .stop (.snd ‹_› (.readMember g))
                  · exact hdecode _ (.reselect (.snd ‹_› (.readMember g)))

theorem State.Goes.degradedRead {op units : Nat} {ext : Ext} (hk : s₀.Keeps s) : s₀.Goes (execDegradedRead op units ext s) := by
  unfold execDegradedRead
  refine .next ?_
  split
  · exact hk
  · extract_lets
    split
    · split
      · exact .fail hk
      · split
        · exact .modOp hk
        · exact hk
    · refine .ite (.endWalk (.walk hk (fun _ _ g => ?_)) (fun _ _ g => .finish g)) hk
      split
      · exact .degradedTile g
      · exact .wait g

theorem State.Keeps.takeImage {j i id : Nat} {r img : Region} {sh : Sheaf} {st : RegState} {d : Word64} (hk : s₀.Keeps s) :
    s₀.Keeps (s.takeImage j i id r img sh st d) := .ite (.installRows (.update hk)) (.update hk)

theorem State.Goes.foster {op : Nat} {ext : Ext} {s0 : State} (hk : s₀.Keeps s0) : s₀.Goes (execFoster op ext s0) := by
  unfold execFoster
  refine .next ?_
  split
  · exact hk
  · extract_lets _ _ s
    have hs : s₀.Keeps s := .readTable (.readAt hk)
    split
    · exact .fail hk
    · split
      · extract_lets
        split
        · exact .fail hs
        · split
          · extract_lets _ _ s2 s3
            have h2 : s₀.Keeps s2 := .addCtxs (.takeImage (.update hs))
            have h3 : s₀.Keeps s3 := by
              unfold s3
              split
              · exact .auditForm h2
              · exact h2
            exact .settle (.finish h3)
          · exact hs
      · exact .fail hs
      · exact .fail hs
      · exact .fail hs

theorem State.KeepsWalk.rebuildTile {ext : Ext} {op : Nat} {o : Op} {t : Nat} (hk : s₀.Keeps s) :
    s₀.KeepsWalk (s.rebuildTile ext op o t) := by
  unfold State.rebuildTile
  extract_lets
  split
  · exact .stop hk
  · split
    · exact .stop hk
    · split
      · exact .stop hk
      · split
        · exact .go (.freshTries hk)
        · split
          · exact .wait (.cbwEngine hk)
          · split
            · exact .wait hk
            · split
              · exact .go (.freshTries (.bumpBy (.acceptBuild (.snd ‹_› (.buildValue (.freshEpoch hk))))))
              · exact .decodeFail (.snd ‹_› (.buildValue (.freshEpoch hk)))
              · exact .tryAgain (.snd ‹_› (.buildValue (.freshEpoch hk)))
              · exact .wait (.snd ‹_› (.buildValue (.freshEpoch hk)))

theorem State.Keeps.rebuildEnd {o : Op} (hk : s₀.Keeps s) : s₀.Keeps (s.rebuildEnd o) := by
  unfold State.rebuildEnd
  extract_lets
  split
  · exact .fail hk
  · extract_lets
    exact .ite (.finish hk) (.ite (.finish (.event hk)) (.modRegion (.finish hk)))

theorem State.Goes.rebuild {op units : Nat} {ext : Ext} (hk : s₀.Keeps s) : s₀.Goes (execRebuild op units ext s) := by
  unfold execRebuild
  refine .next ?_
  split
  · exact hk
  · extract_lets
    split
    · split
      · exact .fail hk
      · split
        · exact .modOp hk
        · exact hk
    · refine .ite (.endWalk (.walk hk (fun _ _ g => ?_)) (fun _ _ g => .rebuildEnd g)) hk
      split
      · exact .rebuildTile g
      · exact .wait g

theorem State.Keeps.migRead {ext : Ext} {op job sheaf member source view t : Nat} (hk : s₀.Keeps s) :
    s₀.Keeps (s.migRead ext op job sheaf member source view t).2 := by
  unfold State.migRead
  extract_lets
  split
  · split
    · exact hk
    · split
      · exact hk
      · split
        · split
          · exact hk
          · split
            · exact hk
            · split
              · exact hk
              · split <;> exact .pair (.of_some ‹_› (.armMap hk))
        · split
          · exact hk
          · split
            · exact hk
            · split
              · exact hk
              · extract_lets s2
                have h2 : s₀.Keeps s2 := .ite (.modRegion (.of_some ‹_› (.armMap hk))) (.of_some ‹_› (.armMap hk))
                split <;> exact .pair (.snd ‹_› (.viewTile h2))
  · exact .askMember hk

theorem State.Keeps.readMap {ext : Ext} {op job : Nat} {m : Migrated} {g : Nat} {l : List Nat} (hk : s₀.Keeps s) :
    s₀.Keeps (s.readMap ext op job m g l).2 := by
  induction l generalizing s with
  | nil => exact hk
  | cons x l ih =>
    unfold State.readMap
    split
    · extract_lets
      split
      · exact .pair (.snd ‹_› (ih (.snd ‹_› (.migRead hk))))
      · exact ih (.snd ‹_› (.migRead hk))
    · exact .pair (.snd ‹_› (.migRead hk))
    · exact .pair (.snd ‹_› (.migRead hk))
    · exact .pair (ih (.snd ‹_› (.migRead hk)))

theorem State.KeepsWalk.copyTile {ext : Ext} {op job j t : Nat} {first : Bool} (hk : s₀.Keeps s) :
    s₀.KeepsWalk (s.copyTile ext op job j t first) := by
  unfold State.copyTile
  split
  · exact .stop hk
  · split
    · exact .stop hk
    · split
      · exact .stop hk
      · split
        · exact .stop (.snd ‹_› (.migRead hk))
        · exact .stop (.snd ‹_› (.migRead hk))
        · exact .wait (.snd ‹_› (.migRead hk))
        · extract_lets
          exact .go (.freshTries (.modRegion (.putTile (.snd ‹_› (.migRead hk)))))

theorem State.KeepsWalk.nextPass {ext : Ext} {op : Nat} {o : Op} {m : Migrated} {img : Region} (hk : s₀.Keeps s) :
    s₀.KeepsWalk (s.nextPass ext op o m img) := by
  unfold State.nextPass
  split
  · exact .stop (.snd ‹_› (.readMap hk))
  · exact .wait (.snd ‹_› (.readMap hk))
  · extract_lets
    exact .go (.modOp (.freshTries (.snd ‹_› (.readMap hk))))

theorem State.KeepsWalk.migrateUnit {ext : Ext} {op : Nat} (hk : s₀.Keeps s) : s₀.KeepsWalk (s.migrateUnit ext op) := by
  unfold State.migrateUnit
  split
  · exact .wait hk
  · extract_lets _ _ fin
    have hfin : ∀ t, s₀.Keeps t → s₀.KeepsWalk (fin t) := by
      intro _ g
      unfold fin
      extract_lets
      exact .go (.finish (.modRegion g))
    split
    · exact .stop hk
    · split
      · exact .stop hk
      · split
        · split
          · split
            · exact .go (.modOp (.of_go ‹_› (.copyTile hk)))
            · exact .copyTile hk
          · split
            · exact hfin _ hk
            · exact .nextPass hk
        · split
          · split
            · exact .go (.modOp (.bump (.of_go ‹_› (.copyTile hk))))
            · exact .copyTile hk
          · split
            · exact hfin _ hk
            · exact .nextPass hk

theorem State.KeepsWalk.migrateLoop {ext : Ext} {op n : Nat} (hk : s₀.Keeps s) : s₀.KeepsWalk (State.migrateLoop ext op n s) := by
  induction n generalizing s with
  | zero => exact .go hk
  | succ n ih =>
    unfold State.migrateLoop
    split
    · exact .go hk
    · split
      · exact ih (.of_go ‹_› (.migrateUnit hk))
      · exact .migrateUnit hk

theorem State.Goes.migrate {op units : Nat} {ext : Ext} (hk : s₀.Keeps s) : s₀.Goes (execMigrate op units ext s) := by
  unfold execMigrate
  refine .next ?_
  split
  · exact hk
  · split
    · split
      · exact .fail (.snd ‹_› (.readAt hk))
      · exact .fail (.snd ‹_› (.readAt hk))
      · extract_lets
        exact .ite (.fail (.snd ‹_› (.readAt hk))) (.modOp (.modRegion (.snd ‹_› (.readAt hk))))
    · split
      · split
        · exact .settle (.yieldPoint (.of_go ‹_› (.migrateLoop hk)))
        · exact .endWalk (.migrateLoop hk) (fun _ _ g => g)
      · exact hk

theorem State.Keeps.readTables {ext : Ext} {n n2 : Nat} (hk : s₀.Keeps s) : s₀.Keeps (s.readTables ext n n2).2 := by
  induction n generalizing s n2 with
  | zero => exact hk
  | succ n ih =>
    unfold State.readTables
    split
    · exact .pair (.snd ‹_› (.readTable hk))
    · exact .pair (.snd ‹_› (.readTable hk))
    · split
      · exact .pair (.snd ‹_› (ih (.snd ‹_› (.readTable hk))))
      · exact ih (.snd ‹_› (.readTable hk))

theorem State.Keeps.freezeMaps {l : List Nat} (hk : s₀.Keeps s) : s₀.Keeps (s.freezeMaps l) := .foldl hk fun _ _ g => .modRegion g

theorem State.KeepsWalk.copyTiles {ext : Ext} {op job j n : Nat} (hk : s₀.Keeps s) : s₀.KeepsWalk (State.copyTiles ext op job j n s) := by
  induction n generalizing s with
  | zero => exact .go hk
  | succ n ih =>
    unfold State.copyTiles
    split
    · exact .wait hk
    · split
      · exact .go hk
      · split
        · exact ih (.modOp (.bump (.of_go ‹_› (.copyTile hk))))
        · exact .copyTile hk

theorem State.KeepsWalk.lastTiles {ext : Ext} {op job j : Nat} (hk : s₀.Keeps s) : s₀.KeepsWalk (s.lastTiles ext op job j) := by
  unfold State.lastTiles
  split
  · extract_lets
    split
    · exact .go (.modOp (.of_go ‹_› (.copyTiles hk)))
    · exact .stop (.of_go ‹_› (.copyTiles hk))
  · exact .copyTiles hk

theorem State.KeepsWalk.lastCopy {ext : Ext} {op job j : Nat} (hk : s₀.Keeps s) : s₀.KeepsWalk (s.lastCopy ext op job j) := by
  unfold State.lastCopy
  split
  · split
    · exact .go hk
    · split
      · exact .go hk
      · split
        · exact .lastTiles hk
        · split
          · exact .stop (.snd ‹_› (.readMap hk))
          · exact .wait (.snd ‹_› (.readMap hk))
          · extract_lets
            split
            · exact .wait (.freshTries (.snd ‹_› (.readMap hk)))
            · exact .lastTiles (.modOp (.freshTries (.snd ‹_› (.readMap hk))))
  · exact .go hk

theorem State.KeepsWalk.regroupUnit {ext : Ext} {o : Op} {c : Nat} (hk : s₀.Keeps s) : s₀.KeepsWalk (s.regroupUnit ext o c) := by
  unfold State.regroupUnit
  split
  · exact .go hk
  · refine List.foldlRecOn _ _ (.go (.freezeMaps hk)) fun w hw p _ => ?_
    cases hw with
    | go hu => exact .lastCopy hu
    | stop hu => exact .stop hu
    | wait hu => exact .wait hu

theorem State.Keeps.regroupFail {op st : Nat} (hk : s₀.Keeps s) : s₀.Keeps (s.regroupFail op st) := by
  unfold State.regroupFail
  split
  · exact .settle (.fail (.cancelClean hk))
  · exact hk

theorem State.Goes.regroup {op units : Nat} {ext : Ext} (hk : s₀.Keeps s) : s₀.Goes (execRegroup op units ext s) := by
  unfold execRegroup
  refine .next ?_
  split
  · exact hk
  · split
    · split
      · exact .fail hk
      · split
        · exact .fail (.snd ‹_› (.readTables hk))
        · extract_lets
          exact .ite (.fail (.snd ‹_› (.readTables hk))) (.modOp (.freezeMaps (.snd ‹_› (.readTables hk))))
    · split
      · split
        · exact .ite (.settle (.yieldPoint (.of_go ‹_› (.walk hk (fun _ _ g => .regroupUnit g)))))
            (.settle (.modOp (.of_go ‹_› (.walk hk (fun _ _ g => .regroupUnit g)))))
        · exact .of_wait ‹_› (.walk hk (fun _ _ g => .regroupUnit g))
        · exact .regroupFail (.of_stop ‹_› (.walk hk (fun _ _ g => .regroupUnit g)))
      · exact hk

theorem State.Keeps.regroupSheaf {t : SheafTab} (hk : s₀.Keeps s) : s₀.Keeps (s.regroupSheaf t) := by
  unfold State.regroupSheaf
  extract_lets _ _ _ _ _ _ s1 _ s3 _ s4 s5
  have h1 : s₀.Keeps s1 := .foldl hk fun _ _ g => .modRegion (.leaveSheaf g)
  have h3 : s₀.Keeps s3 := by
    unfold s3
    refine .foldl (.update h1) fun _ _ g => ?_
    split
    · split
      · exact .takeImage g
      · exact g
    · exact g
  have h4 : s₀.Keeps s4 := .ite h3 (.installSheaf (.update h3))
  have h5 : s₀.Keeps s5 := .foldl h4 fun _ _ g => .addCtxs (.modRegion g)
  exact .ite h1 (.modSheaf h5)

theorem State.Goes.regroupCommit {op : Nat} {ext : Ext} (hk : s₀.Keeps s) : s₀.Goes (execRegroupCommit op ext s) := by
  unfold execRegroupCommit
  refine .next ?_
  split
  · exact hk
  · exact .ite hk (.settle (.finish (.foldl hk fun _ _ g => .regroupSheaf g)))

end

end Sys2Proof.Machine
end

section
/-! SUPPORT. Page guard: these operations keep the queue, the straps and the form of memory. -/

namespace Sys2Proof.Machine

section
variable {s₀ s : State}

theorem State.KeepsWalk.scrubTile {ext : Ext} {op j : Nat} {o : Op} {t : Nat} (hk : s₀.Keeps s) :
    s₀.KeepsWalk (s.scrubTile ext op j o t) := by
  unfold State.scrubTile
  split
  · exact .stop hk
  · extract_lets _ s1 lost
    have h1 : s₀.Keeps s1 := .modOp (.noteRead hk)
    have hlost : ∀ t, s₀.Keeps t → s₀.KeepsWalk (lost t) := fun _ g => .go (.modOp (.giveUp g))
    split
    · exact .go hk
    · split
      · exact .wait (.cbwEngine hk)
      · split
        · exact .go (.modOp h1)
        · split
          · exact hlost _ h1
          · split
            · exact .go (.modOp (.bump (.putTile (.snd ‹_› (.repairValue h1)))))
            · exact hlost _ (.snd ‹_› (.repairValue h1))

theorem State.KeepsWalk.putSummary {ext : Ext} {j : Nat} {o : Op} (hk : s₀.Keeps s) : s₀.KeepsWalk (s.putSummary ext j o) := by
  unfold State.putSummary
  extract_lets
  split
  · exact .go hk
  · split
    · exact .stop hk
    · exact .go (.engineWrite hk)

theorem State.Keeps.scrubEnd {ext : Ext} {j : Nat} {o : Op} (hk : s₀.Keeps s) : s₀.Keeps (s.scrubEnd ext j o) := by
  unfold State.scrubEnd
  split
  · exact .of_wait ‹_› (.unitWrites hk (fun _ g => .putSummary g))
  · exact .fail (.of_stop ‹_› (.unitWrites hk (fun _ g => .putSummary g)))
  · exact .ite (.yieldPoint (.modOp (.of_go ‹_› (.unitWrites hk (fun _ g => .putSummary g)))))
      (.finish (.of_go ‹_› (.unitWrites hk (fun _ g => .putSummary g))))

theorem State.Goes.scrub {op units : Nat} {ext : Ext} (hk : s₀.Keeps s) : s₀.Goes (execScrub op units ext s) := by
  unfold execScrub
  refine .next ?_
  split
  · exact hk
  · extract_lets
    split
    · split
      · exact .fail hk
      · split
        · exact .fail hk
        · exact .ite (.fail hk) (.modOp hk)
    · exact .ite (.endWalk (.walk hk (fun _ _ g => .scrubTile g)) (fun _ _ g => .scrubEnd g)) hk

theorem State.Keeps.reguardTile {ext : Ext} {j t g : Nat} (hk : s₀.Keeps s) : s₀.Keeps (s.reguardTile ext j t g) := by
  unfold State.reguardTile
  split
  · exact hk
  · extract_lets
    split
    · exact hk
    · split
      · exact .putLine (.snd ‹_› (.ite_snd (.readPlain hk) (.readTile hk)))
      · exact .snd ‹_› (.ite_snd (.readPlain hk) (.readTile hk))

theorem State.KeepsWalk.reguardUnit {ext : Ext} {j t : Nat} (hk : s₀.Keeps s) : s₀.KeepsWalk (s.reguardUnit ext j t) := by
  unfold State.reguardUnit
  extract_lets
  split
  · exact .wait hk
  · exact .go (.modRegion (.reguardTile hk))

theorem State.Keeps.reguardEnd {j : Nat} (hk : s₀.Keeps s) : s₀.Keeps (s.reguardEnd j) := .modRegion hk

theorem State.Goes.guardSet {op units : Nat} {ext : Ext} (hk : s₀.Keeps s) : s₀.Goes (execGuardSet op units ext s) := by
  unfold execGuardSet
  refine .next ?_
  split
  · exact hk
  · extract_lets _ g
    split
    · exact .fail hk
    · exact .ite (.ite (.fail hk) (.modOp (.modRegion hk)))
        (.ite (.endWalk (.walk hk (fun _ _ g => .reguardUnit g)) (fun _ _ g => .finish (.reguardEnd g))) hk)

theorem State.Keeps.raiseGuard {j : Nat} {r : Region} (hk : s₀.Keeps s) : s₀.Keeps (s.raiseGuard j r) := by
  unfold State.raiseGuard
  extract_lets g _ s1
  have h1 : s₀.Keeps s1 := .foldl (.modRegion hk) fun _ _ g => .modRegion (.reguardTile g)
  exact .event (.bump (.auditForm (.reguardEnd h1)))

theorem State.Goes.guardWindowEnd {region : Nat} (hk : s₀.Keeps s) : s₀.Goes (execGuardWindowEnd region s) := by
  unfold execGuardWindowEnd
  refine .next ?_
  split
  · exact hk
  · extract_lets
    exact .ite hk
      (.ite (.modRegion hk) (.ite (.ite (.modRegion hk) (.settle (.raiseGuard (.modRegion hk)))) (.settle (.event (.modRegion hk)))))

end

end Sys2Proof.Machine
end

section
/-! SUPPORT. Snapshots: these operations keep the queue, the straps and the form of memory. -/

namespace Sys2Proof.Machine

section
variable {s₀ s : State}

theorem State.Keeps.beginCut {o : Op} {x : Nat} (hk : s₀.Keeps s) : s₀.Keeps (s.beginCut o x) := .park (.update (.zeroMap hk))

theorem State.Keeps.background {n : Nat} (hk : s₀.Keeps s) : s₀.Keeps (State.background n s) := by
  induction n generalizing s with
  | zero => exact hk
  | succ n ih =>
    unfold State.background
    split
    · exact hk
    · split
      · exact hk
      · split
        · exact ih (.issueCopy hk)
        · exact hk

theorem State.Goes.snapCut {op units : Nat} (hk : s₀.Keeps s) : s₀.Goes (execSnapCut op units s) := by
  unfold execSnapCut
  refine .next ?_
  split
  · split
    · exact hk
    · split
      · exact .fail hk
      · split
        · exact .finish hk
        · split
          · exact .fail hk
          · split
            · exact .settle (.beginCut hk)
            · exact .fail hk
  · split
    · exact .ite (.background hk) hk
    · exact hk

theorem State.Keeps.freeze {o : Op} {c : Cut} (hk : s₀.Keeps s) : s₀.Keeps (s.freeze o c) := by
  unfold State.freeze
  extract_lets _ _ _ _ s0 _ _ _ _ s2 _ _ s4
  have h0 : s₀.Keeps s0 := .ite (.stackWrite (.update hk)) hk
  have h2 : s₀.Keeps s2 := .stackWrite (.stackWrite h0)
  have h4 : s₀.Keeps s4 := .update (.putSlot h2)
  exact .ite (.auditForm (.modOp h4)) (.modOp h4)

theorem State.Keeps.endEarly {o : Op} (hk : s₀.Keeps s) : s₀.Keeps (s.endEarly o) := .settle (.fail (.update hk))

theorem State.Goes.snapFreeze {op : Nat} (hk : s₀.Keeps s) : s₀.Goes (execSnapFreeze op s) := by
  unfold execSnapFreeze
  refine .next ?_
  split
  · exact .ite (.ite (.settle (.freeze hk)) (.endEarly hk)) hk
  · exact hk

theorem State.Goes.snapStillnessTimeout {op : Nat} (hk : s₀.Keeps s) : s₀.Goes (execSnapStillnessTimeout op s) := by
  unfold execSnapStillnessTimeout
  refine .next ?_
  split
  · split
    · exact .ite (.endEarly hk) hk
    · exact hk
  · exact hk

theorem State.Keeps.moveTile {c : Cut} {i : Nat} (hk : s₀.Keeps s) : s₀.Keeps (s.moveTile c i) := by
  unfold State.moveTile
  split
  · extract_lets
    split
    · exact .ite (.stackWrite hk) (.stackWrite (.stackWrite hk))
    · exact .stackWrite hk
  · exact hk

theorem State.Keeps.endCut {o : Op} {c : Cut} (hk : s₀.Keeps s) : s₀.Keeps (s.endCut o c) :=
  .finish (.update (.bump (.zeroMap (.setSlotState hk))))

theorem State.Goes.copyCompletion {tag status : Nat} (hk : s₀.Keeps s) : s₀.Goes (execCopyCompletion tag status s) := by
  unfold execCopyCompletion
  extract_lets
  refine .next ?_
  split
  · exact hk
  · split
    · extract_lets s1 _ s2
      have h1 : s₀.Keeps s1 := .foldl (.update hk) fun _ _ g => .moveTile g
      have h2 : s₀.Keeps s2 := .modOp (.setCodes h1)
      exact .ite (.update hk)
        (.ite (.settle (.event (.bump (.fail (.dropCut (.update hk)))))) (.settle (.ite (.cancelOp h2) (.ite (.endCut h2) h2))))
    · exact .update hk

theorem State.Keeps.readSlot {ext : Ext} {e : SnapEntry} {t : Nat} (hk : s₀.Keeps s) : s₀.Keeps (s.readSlot ext e t).2 := by
  unfold State.readSlot
  split
  · exact hk
  · exact .ite_snd (.pair (.noteRead hk)) (.pair (.giveUp (.noteRead hk)))

theorem State.Keeps.beginDrain {o : Op} {codes pair : List Byte} (hk : s₀.Keeps s) : s₀.Keeps (s.beginDrain o codes pair) :=
  .modOp (.setSlotState hk)

theorem State.Keeps.drainBack {x : Nat} (hk : s₀.Keeps s) : s₀.Keeps (s.drainBack x) := .ite (.bump (.setSlotState hk)) hk

theorem State.Keeps.readSlotTiles {ext : Ext} {e : SnapEntry} {n n2 : Nat} (hk : s₀.Keeps s) : s₀.Keeps (s.readSlotTiles ext e n n2).2 := by
  induction n generalizing s n2 with
  | zero => exact hk
  | succ n ih =>
    unfold State.readSlotTiles
    split
    · exact .pair (.snd ‹_› (.readSlot hk))
    · split <;> exact .pair (.snd ‹_› (ih (.snd ‹_› (.readSlot hk))))

theorem State.KeepsWalk.drainChunk {ext : Ext} {op : Nat} {o : Op} {es : List SnapEntry} {c : Nat} (hk : s₀.Keeps s) :
    s₀.KeepsWalk (s.drainChunk ext op o es c) := by
  unfold State.drainChunk
  split
  · exact .stop hk
  · extract_lets
    split
    · exact .wait hk
    · split
      · extract_lets _ _ s2
        have h2 : s₀.Keeps s2 := .engineWrite (.snd ‹_› (.readSlotTiles hk))
        split
        · exact .go (.snd ‹_› (.readSlotTiles hk))
        · split
          · exact .stop h2
          · exact .go (.modOp h2)
      · exact .stop (.snd ‹_› (.readSlotTiles hk))

theorem State.KeepsWalk.orBack {x : Nat} {w : Walk} (hw : s₀.KeepsWalk w) : s₀.KeepsWalk (w.orBack x) := by
  cases hw with
  | go hk => exact .go hk
  | stop hk => exact .stop (.drainBack hk)
  | wait hk => exact .wait hk

theorem State.KeepsWalk.putOne {ext : Ext} {op a : Nat} {v : List Byte} (hk : s₀.Keeps s) : s₀.KeepsWalk (s.putOne ext op a v) := by
  unfold State.putOne
  extract_lets s1
  have h1 : s₀.Keeps s1 := .engineWrite hk
  split
  · exact .stop h1
  · exact .go h1

theorem State.Keeps.commitDrain {ext : Ext} {o : Op} (hk : s₀.Keeps s) : s₀.Keeps (s.commitDrain ext o) := by
  unfold State.commitDrain
  extract_lets
  split
  · exact .of_wait ‹_› (.unitWrites2 hk (fun _ g => .putOne g) (fun _ g => .putOne g))
  · exact .fail (.drainBack (.of_stop ‹_› (.unitWrites2 hk (fun _ g => .putOne g) (fun _ g => .putOne g))))
  · extract_lets s2
    have h2 : s₀.Keeps s2 := .bump (.setSlotState (.of_go ‹_› (.unitWrites2 hk (fun _ g => .putOne g) (fun _ g => .putOne g))))
    exact .finish (.update h2)

theorem State.Goes.snapDrain {op units : Nat} {ext : Ext} (hk : s₀.Keeps s) : s₀.Goes (execSnapDrain op units ext s) := by
  unfold execSnapDrain
  refine .next ?_
  split
  · exact hk
  · extract_lets _ _ f
    have hf : ∀ c t, s₀.Keeps t → s₀.KeepsWalk (f c t) := fun _ _ g => .orBack (.unitWrites g (fun _ g => .drainChunk g))
    split
    · split
      · exact .fail (.snd ‹_› (.ite_snd hk (.readAt hk)))
      · exact .fail (.snd ‹_› (.ite_snd hk (.readAt hk)))
      · split
        · extract_lets
          exact .ite (.fail (.snd ‹_› (.readAt (.snd ‹_› (.ite_snd hk (.readAt hk))))))
            (.beginDrain (.snd ‹_› (.readAt (.snd ‹_› (.ite_snd hk (.readAt hk))))))
        · exact .fail (.snd ‹_› (.readAt (.snd ‹_› (.ite_snd hk (.readAt hk)))))
        · exact .fail (.snd ‹_› (.readAt (.snd ‹_› (.ite_snd hk (.readAt hk)))))
    · exact .ite (.endWalk (.walkBy hk (fun _ _ g => hf _ _ g)) (fun _ _ g => .commitDrain g)) hk

theorem State.Keeps.readContext {ext : Ext} {p : Snapshot} (hk : s₀.Keeps s) : s₀.Keeps (s.readContext ext p).2 := by
  unfold State.readContext
  split
  · exact hk
  · exact .readAt hk

theorem State.Keeps.beginRestore {o : Op} {bytes : List Byte} {p : Snapshot} {v : Option Saved} (hk : s₀.Keeps s) :
    s₀.Keeps (s.beginRestore o bytes p v) := .modOp hk

theorem State.Keeps.readStoredTiles {ext : Ext} {p : Snapshot} {e : SnapEntry} {n k : Nat} (hk : s₀.Keeps s) :
    s₀.Keeps (s.readStoredTiles ext p e n k).2 := by
  unfold State.readStoredTiles
  split
  · exact hk
  · split
    · split <;> exact .pair (.snd ‹_› (.readSlotTiles hk))
    · split <;> exact .pair (.snd ‹_› (.readAt hk))

theorem State.Keeps.restoreWrite {j t : Nat} {r : Region} {v : List Byte} (hk : s₀.Keeps s) : s₀.Keeps (s.restoreWrite j t r v) :=
  .ite (.restoreTile hk) (.release hk)

theorem State.Keeps.restoreWrites {j : Nat} {r : Region} {e : SnapEntry} {k : Nat} {v : List Byte} {l : List Nat} (hk : s₀.Keeps s) :
    s₀.Keeps (s.restoreWrites j r e k v l) := by
  induction l generalizing s with
  | nil => exact hk
  | cons x l ih => exact ih (.restoreWrite hk)

theorem State.KeepsWalk.restoreChunk {ext : Ext} {op : Nat} {o : Op} {p : Snapshot} {c : Nat} (hk : s₀.Keeps s) :
    s₀.KeepsWalk (s.restoreChunk ext op o p c) := by
  unfold State.restoreChunk
  split
  · exact .stop hk
  · extract_lets
    split
    · exact .stop hk
    · split
      · exact .wait (.foldl hk fun _ _ g => .cbwEngine g)
      · split
        · exact .stop (.snd ‹_› (.readStoredTiles hk))
        · extract_lets s2
          have h2 : s₀.Keeps s2 := .restoreWrites (.snd ‹_› (.readStoredTiles hk))
          split
          · exact .go h2
          · split
            · exact .stop (.modOp (.modRegion h2))
            · exact .go (.modRegion h2)

theorem State.Keeps.installSaved {v : Saved} {targets : List Nat} (hk : s₀.Keeps s) : s₀.Keeps (s.installSaved v targets) := .update hk

theorem State.Keeps.endRestore {p : Snapshot} {o : Op} (hk : s₀.Keeps s) : s₀.Keeps (s.endRestore p o) := by
  unfold State.endRestore
  extract_lets _ s1
  have h1 : s₀.Keeps s1 := by
    unfold s1
    split
    · exact .installSaved hk
    · exact hk
  exact .finish h1

theorem State.Keeps.startRestore {ext : Ext} {o : Op} (hk : s₀.Keeps s) : s₀.Keeps (s.startRestore ext o) := by
  unfold State.startRestore
  extract_lets _ src
  have hsrc : s₀.Keeps src.2 := by
    unfold src
    split
    · exact hk
    · split
      · split <;> exact .pair (.snd ‹_› (.readAt hk))
      · exact .pair (.snd ‹_› (.readAt hk))
      · exact .pair (.snd ‹_› (.readAt hk))
  split
  · exact .fail hk
  · clear_value src
    split
    · exact .fail hsrc
    · extract_lets _ area
      have harea : s₀.Keeps area.2 := .ite_snd (.readContext hsrc) hsrc
      exact .ite (.fail harea) (.beginRestore harea)

theorem State.Goes.snapRestore {op units : Nat} {ext : Ext} (hk : s₀.Keeps s) : s₀.Goes (execSnapRestore op units ext s) := by
  unfold execSnapRestore
  refine .next ?_
  split
  · exact hk
  · extract_lets
    exact .ite (.startRestore hk) (.ite (.endWalk (.walkBy hk (fun _ _ g => .restoreChunk g)) (fun _ _ g => .endRestore g)) hk)

theorem State.Goes.snapDiscard {op : Nat} (hk : s₀.Keeps s) : s₀.Goes (execSnapDiscard op s) := by
  unfold execSnapDiscard
  refine .next ?_
  split
  · exact hk
  · exact .ite (.finish hk) (.ite (.fail hk) (.finish (.setSlotState hk)))

theorem State.Goes.intervalRecompute (hk : s₀.Keeps s) : s₀.Goes (execIntervalRecompute s) := .next (.update hk)

end

end Sys2Proof.Machine
end

section
/-! SUPPORT. Controls: these operations keep the queue, the straps and the form of memory. -/

namespace Sys2Proof.Machine

section
variable {s₀ s : State}

theorem State.Keeps.waitTarget {c t : Op} (hk : s₀.Keeps s) : s₀.Keeps (s.waitTarget c t) := .modOp hk

theorem State.Keeps.steer {t : Op} {st : OpState} (hk : s₀.Keeps s) : s₀.Keeps (s.steer t st) := .modOp hk

theorem State.Keeps.cancelTarget {c t : Op} (hk : s₀.Keeps s) : s₀.Keeps (s.cancelTarget c t) := by
  unfold State.cancelTarget
  extract_lets
  exact .ite (.finish hk) (.ite (.cancelOp (.waitTarget hk)) (.steer (.waitTarget hk)))

theorem State.Keeps.suspendTarget {c t : Op} (hk : s₀.Keeps s) : s₀.Keeps (s.suspendTarget c t) := by
  unfold State.suspendTarget
  extract_lets s1 s1'
  have h1 : s₀.Keeps s1 := .modOp (.interim hk)
  have h1' : s₀.Keeps s1' := .steer (.waitTarget hk)
  split
  · exact .finish hk
  · exact .finish hk
  · exact .waitTarget hk
  · exact .finish h1
  · exact .ite (.yieldPoint h1') h1'

theorem State.Keeps.resumeTarget {c t : Op} (hk : s₀.Keeps s) : s₀.Keeps (s.resumeTarget c t) := by
  unfold State.resumeTarget
  extract_lets
  split
  · exact .finish hk
  · exact .finish hk
  · exact .waitTarget hk
  · exact .finish (.foldl (.modOp hk) fun _ _ g => .finishOne g)
  · exact .finish (.ite (.makeReady (.modOp hk)) (.modOp hk))

theorem State.Keeps.controlStart {op code : Nat} {ok : Op → Bool} {act : Op → Op → State} (hk : s₀.Keeps s)
    (hact : ∀ a1 a2, s₀.Keeps (act a1 a2)) : s₀.Keeps (s.controlStart op code ok act) := by
  unfold State.controlStart
  split
  · exact hk
  · split
    · exact hk
    · split
      · exact .finish hk
      · exact .ite (.finish hk) (.ite (.settle (hact _ _)) (.finish hk))

theorem State.Goes.cancel {op : Nat} (hk : s₀.Keeps s) : s₀.Goes (execCancel op s) := .next (.controlStart hk (fun _ _ => .cancelTarget hk))

theorem State.Goes.suspend {op : Nat} (hk : s₀.Keeps s) : s₀.Goes (execSuspend op s) :=
  .next (.controlStart hk (fun _ _ => .suspendTarget hk))

theorem State.Goes.resume {op : Nat} (hk : s₀.Keeps s) : s₀.Goes (execResume op s) := .next (.controlStart hk (fun _ _ => .resumeTarget hk))

end

end Sys2Proof.Machine
end

section
/-! SUPPORT. Parity exchange: these operations keep the queue, the straps and the form of memory. -/

namespace Sys2Proof.Machine

section
variable {s₀ s : State}

theorem State.Keeps.readRemote {ext : Ext} {a : Nat} (hk : s₀.Keeps s) : s₀.Keeps (s.readRemote ext a).2 := by
  unfold State.readRemote
  split <;> exact .pair (.snd ‹_› (.readAt hk))

theorem State.Keeps.readStored {ext : Ext} {sheaf i t : Nat} {x : Member} (hk : s₀.Keeps s) :
    s₀.Keeps (s.readStored ext sheaf i t x).2 := by
  unfold State.readStored
  split
  · split
    · exact hk
    · split <;> exact .pair (.snd ‹_› (.readTile hk))
  · exact .readRemote hk

theorem State.Keeps.storedData {ext : Ext} {sheaf t : Nat} {sh : Sheaf} {l : List Nat} (hk : s₀.Keeps s) :
    s₀.Keeps (s.storedData ext sheaf t sh l).2 := by
  induction l generalizing s with
  | nil => exact hk
  | cons x l ih =>
    unfold State.storedData
    split
    · exact hk
    · split
      · exact .pair (.snd ‹_› (.ite_snd hk (.readStored hk)))
      · split <;> exact .pair (.snd ‹_› (ih (.snd ‹_› (.ite_snd hk (.readStored hk)))))

theorem State.KeepsWalk.encodeStripe {ext : Ext} {j : Nat} {r : Region} {sh : Sheaf} {t : Nat} (hk : s₀.Keeps s) :
    s₀.KeepsWalk (s.encodeStripe ext j r sh t) := by
  unfold State.encodeStripe
  split
  · exact .wait (.cbwEngine hk)
  · split
    · exact .wait hk
    · split
      · exact .stop (.snd ‹_› (.storedData hk))
      · exact .go (.putParity (.snd ‹_› (.storedData hk)))

theorem State.Goes.encodeFull {op units : Nat} {ext : Ext} (hk : s₀.Keeps s) : s₀.Goes (execEncodeFull op units ext s) := by
  unfold execEncodeFull
  refine .next ?_
  split
  · exact hk
  · extract_lets
    split
    · exact .fail hk
    · split
      · exact .fail hk
      · exact .ite (.ite (.fail hk) (.ite (.fail hk) (.modOp hk)))
          (.ite (.endWalk (.walk hk (fun _ _ g => .encodeStripe g)) (fun _ _ g => .finish g)) hk)

/-- Unfolding the recursion makes the kernel evaluate the read of a whole tile, whose bounds it counts in unary; so the read stands for an
opaque function while the list is taken apart. -/
theorem State.Keeps.remoteBanks {ext : Ext} {t : Nat} {sh : Sheaf} {x : Member} {l : List Nat} {v : List Byte} (hk : s₀.Keeps s) :
    s₀.Keeps (s.remoteBanks ext t sh x l v).2 := by
  have hread : ∀ t a, s₀.Keeps t → s₀.Keeps (t.readRemote ext a).2 := fun _ _ g => .readRemote g
  delta State.remoteBanks State.remoteBanks._f
  obtain ⟨read, hr⟩ : ∃ f, f = State.readRemote := ⟨_, rfl⟩
  rw [← hr] at hread ⊢
  induction l generalizing s v with
  | nil => exact hk
  | cons n l ih =>
    dsimp only
    split
    next e => exact ih (.snd e (hread _ _ hk))
    next e => exact .pair (.snd e (hread _ _ hk))

theorem State.Keeps.rowValue {ext : Ext} {k sheaf t j : Nat} {sh : Sheaf} (hk : s₀.Keeps s) :
    s₀.Keeps (s.rowValue ext k sheaf t j sh).2 := by
  unfold State.rowValue
  split
  · exact hk
  · split
    · exact .pair (.snd ‹_› (.readStored hk))
    · split
      · exact .remoteBanks (.snd ‹_› (.readStored hk))
      · split
        · exact .pair (.snd ‹_› (.readStored hk))
        · split <;> exact .pair (.snd ‹_› (.xorTiles (.snd ‹_› (.readStored hk))))

theorem State.Keeps.rowsAgree {ext : Ext} {k region sheaf t : Nat} {sh : Sheaf} {d : List (List Byte)} {l : List Nat} (hk : s₀.Keeps s) :
    s₀.Keeps (s.rowsAgree ext k region sheaf t sh d l).2 := by
  induction l generalizing s with
  | nil => exact hk
  | cons x l ih =>
    unfold State.rowsAgree
    split
    · exact .pair (.snd ‹_› (.rowValue hk))
    · split <;> exact .pair (.snd ‹_› (ih (.snd ‹_› (.rowValue hk))))

theorem State.KeepsWalk.verifyStripe {ext : Ext} {op j : Nat} {r : Region} {sh : Sheaf} {t : Nat} (hk : s₀.Keeps s) :
    s₀.KeepsWalk (s.verifyStripe ext op j r sh t) := by
  unfold State.verifyStripe
  refine .unitWrites hk (fun _ g => ?_)
  split
  · exact .wait g
  · split
    · exact .stop (.snd ‹_› (.storedData g))
    · split
      · exact .stop (.snd ‹_› (.rowsAgree (.snd ‹_› (.storedData g))))
      · exact .go (.snd ‹_› (.rowsAgree (.snd ‹_› (.storedData g))))
      · split
        · exact .go (.snd ‹_› (.rowsAgree (.snd ‹_› (.storedData g))))
        · extract_lets _ _ s3 s4
          have h3 : s₀.Keeps s3 := .ite (.event (.snd ‹_› (.rowsAgree (.snd ‹_› (.storedData g)))))
            (.snd ‹_› (.rowsAgree (.snd ‹_› (.storedData g))))
          have h4 : s₀.Keeps s4 := .ite (.engineWrite h3) h3
          split
          · exact .stop h3
          · exact .go (.modOp h4)

theorem State.Goes.verifyStripes {op units : Nat} {ext : Ext} (hk : s₀.Keeps s) : s₀.Goes (execVerifyStripes op units ext s) := by
  unfold execVerifyStripes
  refine .next ?_
  split
  · exact hk
  · extract_lets
    split
    · exact .fail hk
    · split
      · exact .fail hk
      · exact .ite (.ite (.fail hk) (.ite (.fail hk) (.modOp hk)))
          (.ite (.endWalk (.walk hk (fun _ _ g => .verifyStripe g)) (fun _ _ g => .finish g)) hk)

end

end Sys2Proof.Machine
end

section
/-! SUPPORT. The tedder: these operations keep the queue, the straps and the form of memory. -/

namespace Sys2Proof.Machine

section
variable {s₀ s : State}

theorem State.Keeps.readOf {ext : Ext} {j t : Nat} (hk : s₀.Keeps s) : s₀.Keeps (s.readOf ext j t).2 := by
  unfold State.readOf
  split
  · exact .readTile hk
  · exact hk

theorem State.Keeps.readMany {ext : Ext} {l : List (Nat × Nat)} (hk : s₀.Keeps s) : s₀.Keeps (State.readMany ext l s).2 := by
  induction l generalizing s with
  | nil => exact hk
  | cons x l ih =>
    unfold State.readMany
    split
    · exact .pair (.snd ‹_› (.readOf hk))
    · split <;> exact .pair (.snd ‹_› (ih (.snd ‹_› (.readOf hk))))

theorem State.Keeps.readBlock {ext : Ext} {o : Op} {b : Nat} (hk : s₀.Keeps s) : s₀.Keeps (s.readBlock ext o b).2 := by
  unfold State.readBlock
  split
  · exact hk
  · extract_lets
    split <;> exact .pair (.snd ‹_› (.readMany hk))

theorem State.KeepsWalk.writeAll {ext : Ext} {op : Nat} {l : List (Nat × List Byte)} (hk : s₀.Keeps s) :
    s₀.KeepsWalk (State.writeAll ext op l s) := by
  induction l generalizing s with
  | nil => exact .go hk
  | cons x l ih =>
    unfold State.writeAll
    extract_lets s1
    have h1 : s₀.Keeps s1 := .engineWrite hk
    split
    · exact .stop h1
    · exact ih h1

theorem State.KeepsWalk.quietWait {op b n : Nat} {js : List Nat} {f : State → Walk} (hk : s₀.Keeps s)
    (hf : ∀ t, s₀.Keeps t → s₀.KeepsWalk (f t)) : s₀.KeepsWalk (s.quietWait op b n js f) := by
  unfold State.quietWait
  split
  · refine .wait ?_
    split
    · exact .ite hk (.bumpBy (.modOp hk))
    · exact hk
  · exact hf _ hk

theorem State.KeepsWalk.blockUnit {op n : Nat} {js : List Nat} {f g : Nat → State → Walk} {b : Nat} (hk : s₀.Keeps s)
    (hf : ∀ a1 t, s₀.Keeps t → s₀.KeepsWalk (f a1 t)) (hg : ∀ a1 t, s₀.Keeps t → s₀.KeepsWalk (g a1 t)) :
    s₀.KeepsWalk (s.blockUnit op n js f g b) := by
  unfold State.blockUnit
  extract_lets run
  have hrun : ∀ t, s₀.Keeps t → s₀.KeepsWalk (run t) := fun _ g => .unitWrites2 g (fun _ g => hf _ _ g) (fun _ g => hg _ _ g)
  split
  · exact hrun _ hk
  · exact .quietWait hk (fun _ g => hrun _ g)

theorem State.KeepsWalk.passOne {ext : Ext} {op : Nat} (hk : s₀.Keeps s) : s₀.KeepsWalk (s.passOne ext op) := by
  unfold State.passOne
  split
  · exact .wait hk
  · split
    · exact .wait hk
    · split
      · exact .stop (.snd ‹_› (.readBlock hk))
      · extract_lets
        exact .go (.modOp (.snd ‹_› (.readBlock hk)))

theorem State.Keeps.contribute {o : Op} (hk : s₀.Keeps s) : s₀.Keeps (s.contribute o) :=
  .park (.ite hk (.arrive (.reduceCell (.reduceCell hk))))

theorem State.Keeps.passOneLoop {ext : Ext} {op n : Nat} (hk : s₀.Keeps s) : s₀.Keeps (State.passOneLoop ext op n s) := by
  induction n generalizing s with
  | zero => exact .settle (.yieldPoint hk)
  | succ n ih =>
    unfold State.passOneLoop
    split
    · exact hk
    · split
      · exact .settle (.contribute hk)
      · split
        · exact ih (.of_go ‹_› (.passOne hk))
        · split
          · exact .settle (.fail (.of_stop ‹_› (.passOne hk)))
          · exact .of_stop ‹_› (.passOne hk)
        · exact .of_wait ‹_› (.passOne hk)

theorem State.Goes.scaleCellPoll {op : Nat} {ext : Ext} (hk : s₀.Keeps s) : s₀.Goes (execScaleCellPoll op ext s) := by
  unfold execScaleCellPoll
  refine .next ?_
  split
  · exact hk
  · split
    · exact hk
    · split
      · exact .settle (.fail hk)
      · split
        · exact .settle (.arrive hk)
        · split
          · exact hk
          · split
            · extract_lets
              exact .ite (.settle (.fail (.snd ‹_› (.readAt hk)))) (.ite (.modOp (.snd ‹_› (.readAt hk))) (.unpark (.snd ‹_› (.readAt hk))))
            · exact .settle (.fail (.snd ‹_› (.readAt hk)))
            · exact .settle (.fail (.snd ‹_› (.readAt hk)))

theorem State.Keeps.packBlocks {ext : Ext} {o : Op} {k : TedFmt} {rr : Region} {n n2 : Nat} {x : Packed} (hk : s₀.Keeps s) :
    s₀.Keeps (State.packBlocks ext o k rr n n2 x s).2 := by
  induction n generalizing n2 x s with
  | zero => exact hk
  | succ n ih =>
    unfold State.packBlocks
    split
    · exact .pair (.snd ‹_› (.readBlock hk))
    · exact ih (.snd ‹_› (.readBlock hk))

theorem State.KeepsWalk.packSlots {ext : Ext} {op b : Nat} (hk : s₀.Keeps s) : s₀.KeepsWalk (s.packSlots ext op b) := by
  unfold State.packSlots
  split
  · exact .wait hk
  · split
    · split
      · exact .wait hk
      · split
        · exact .stop (.snd ‹_› (.packBlocks hk))
        · extract_lets s2
          have h2 : s₀.Keeps s2 := .modOp (.snd ‹_› (.packBlocks hk))
          exact .writeAll h2
    · exact .stop hk

theorem State.KeepsWalk.packLens {ext : Ext} {op b : Nat} (hk : s₀.Keeps s) : s₀.KeepsWalk (s.packLens ext op b) := by
  unfold State.packLens
  split
  · exact .wait hk
  · exact .writeAll hk

theorem State.Keeps.triggerBy {k n : Nat} (hk : s₀.Keeps s) : s₀.Keeps (s.triggerBy k n) := .foldl hk fun _ _ g => .trigger g

theorem State.Keeps.packDone {op b : Nat} (hk : s₀.Keeps s) : s₀.Keeps (s.packDone op b) := by
  unfold State.packDone
  split
  · exact hk
  · extract_lets _ _ _ _ s1
    have h1 : s₀.Keeps s1 := .bumpBy (.bumpBy (.bumpBy hk))
    exact .ite (.modOp h1) (.triggerBy (.modOp h1))

theorem State.KeepsWalk.packUnit {ext : Ext} {op b : Nat} (hk : s₀.Keeps s) : s₀.KeepsWalk (s.packUnit ext op b) := by
  unfold State.packUnit
  extract_lets
  split
  · exact .go (.packDone (.of_go ‹_› (.blockUnit hk (fun _ _ g => .packSlots g) (fun _ _ g => .packLens g))))
  · exact .blockUnit hk (fun _ _ g => .packSlots g) (fun _ _ g => .packLens g)

theorem State.Keeps.packEnd {o : Op} (hk : s₀.Keeps s) : s₀.Keeps (s.packEnd o) := .finish (.ite (.trigger hk) hk)

theorem State.Goes.tedPack {op units : Nat} {ext : Ext} (hk : s₀.Keeps s) : s₀.Goes (execTedPack op units ext s) := by
  unfold execTedPack
  refine .next ?_
  split
  · exact hk
  · extract_lets _ _ s1
    have h1 : s₀.Keeps s1 := .ite (.update hk) hk
    exact .ite (.ite (.fail hk) (.modOp h1))
      (.ite (.ite (.endWalk (.walkBy hk (fun _ _ g => .packUnit g)) (fun _ _ g => .packEnd g)) (.passOneLoop hk)) hk)

theorem State.Keeps.readArea {ext : Ext} {k : TedFmt} {na base b : Nat} (hk : s₀.Keeps s) : s₀.Keeps (s.readArea ext k na base b).2 := by
  unfold State.readArea
  split
  · extract_lets
    split
    · exact .pair (.snd ‹_› (.readAt hk))
    · split <;> exact .pair (.snd ‹_› (.readAt (.snd ‹_› (.readAt hk))))
  · exact .pair (.snd ‹_› (.readAt hk))

theorem State.Keeps.gather {ext : Ext} {o : Op} {k : TedFmt} {na ltile b : Nat} {l : List (Nat × Nat)} {x : Gather} (hk : s₀.Keeps s) :
    s₀.Keeps (State.gather ext o k na ltile b l x s).2 := by
  induction l generalizing x s with
  | nil => exact hk
  | cons x l ih =>
    unfold State.gather
    extract_lets
    split
    · exact .pair (.snd ‹_› (.readArea hk))
    · exact ih (.snd ‹_› (.readArea hk))

theorem State.KeepsWalk.countSlots {ext : Ext} {op : Nat} {g : Gather} (hk : s₀.Keeps s) : s₀.KeepsWalk (s.countSlots ext op g) := by
  unfold State.countSlots
  extract_lets s1
  have h1 : s₀.Keeps s1 := .bumpBy (.bumpBy (.bumpBy (.bumpBy hk)))
  exact .writeAll (.modOp h1)

theorem State.KeepsWalk.applyBlock {ext : Ext} {op b : Nat} (hk : s₀.Keeps s) : s₀.KeepsWalk (s.applyBlock ext op b) := by
  unfold State.applyBlock
  split
  · exact .wait hk
  · split
    · extract_lets
      split
      · exact .wait hk
      · split
        · exact .stop (.snd ‹_› (.readArea hk))
        · split
          · exact .stop (.snd ‹_› (.readArea hk))
          · extract_lets
            split
            · split
              · exact .stop (.of_go ‹_› (.countSlots (.gather (.snd ‹_› (.readArea hk)))))
              · split
                · exact .stop (.snd ‹_› (.readTile (.of_go ‹_› (.countSlots (.gather (.snd ‹_› (.readArea hk)))))))
                · extract_lets
                  exact .writeAll (.snd ‹_› (.readTile (.of_go ‹_› (.countSlots (.gather (.snd ‹_› (.readArea hk)))))))
            · exact .countSlots (.gather (.snd ‹_› (.readArea hk)))
          · exact .stop (.modOp (.snd ‹_› (.readArea hk)))
    · exact .stop hk

theorem State.Keeps.lossEvent {o : Op} {st : Nat} (hk : s₀.Keeps s) : s₀.Keeps (s.lossEvent o st) := .ite (.event hk) hk

theorem State.KeepsWalk.orLoss {op : Nat} {w : Walk} (hw : s₀.KeepsWalk w) : s₀.KeepsWalk (w.orLoss op) := by
  cases hw with
  | go hk => exact .go hk
  | stop hk =>
    unfold Walk.orLoss
    refine .stop ?_
    split
    · exact .lossEvent hk
    · exact hk
  | wait hk => exact .wait hk

theorem State.KeepsWalk.noMore {i : Nat} (hk : s₀.Keeps s) : s₀.KeepsWalk (noMore i s) := .go hk

theorem State.Goes.tedApply {op units : Nat} {ext : Ext} (hk : s₀.Keeps s) : s₀.Goes (execTedApply op units ext s) := by
  unfold execTedApply
  refine .next ?_
  split
  · exact hk
  · extract_lets f
    have hf : ∀ b t, s₀.Keeps t → s₀.KeepsWalk (f b t) := fun _ _ g => .orLoss
      (.blockUnit g (fun _ _ g => .applyBlock g) (fun _ _ g => .noMore g))
    split
    · split
      · exact .fail hk
      · split
        · exact .ite (.fail (.snd ‹_› (.readAt hk))) (.modOp (.snd ‹_› (.readAt hk)))
        · exact .fail (.snd ‹_› (.readAt hk))
    · exact .ite (.endWalk (.walk hk (fun _ _ g => hf _ _ g)) (fun _ _ g => .finish (.lossEvent g))) hk

theorem State.KeepsWalk.loadChunk {ext : Ext} {op b : Nat} (hk : s₀.Keeps s) : s₀.KeepsWalk (s.loadChunk ext op b) := by
  unfold State.loadChunk
  split
  · exact .wait hk
  · split
    · exact .writeAll (.snd ‹_› (.readAt hk))
    · exact .stop (.snd ‹_› (.readAt hk))

theorem State.Keeps.loadEnd {o : Op} (hk : s₀.Keeps s) : s₀.Keeps (s.loadEnd o) := by
  unfold State.loadEnd
  split
  · exact .fail hk
  · exact .ite (.fail hk) (.finish (.ite (.modRegion hk) hk))

theorem State.Goes.tedAnchorLoad {op units : Nat} {ext : Ext} (hk : s₀.Keeps s) : s₀.Goes (execTedAnchorLoad op units ext s) := by
  unfold execTedAnchorLoad
  refine .next ?_
  split
  · exact hk
  · extract_lets s1 f
    have h1 : s₀.Keeps s1 := .ite (.modRegion hk) hk
    have hf : ∀ b t, s₀.Keeps t → s₀.KeepsWalk (f b t) := fun _ _ g => .blockUnit g (fun _ _ g => .loadChunk g) (fun _ _ g => .noMore g)
    exact .ite (.ite (.fail hk) (.modOp h1)) (.ite (.endWalk (.walkBy hk (fun _ _ g => hf _ _ g)) (fun _ _ g => .loadEnd g)) hk)

end

end Sys2Proof.Machine
end

section
/-! SUPPORT. Power: these operations keep the queue, the straps and the form of memory. -/

namespace Sys2Proof.Machine

section
variable {s₀ s : State}

theorem State.Keeps.setPoint {f : Nat} (hk : s₀.Keeps s) : s₀.Keeps (s.setPoint f) := .ite hk (.update hk)

theorem State.Keeps.applyCap (hk : s₀.Keeps s) : s₀.Keeps (s.applyCap) := .setPoint hk

theorem State.Keeps.relockTo {f : Nat} (hk : s₀.Keeps s) : s₀.Keeps (s.relockTo f) := .bump (.update hk)

theorem State.Keeps.holdVoltage (hk : s₀.Keeps s) : s₀.Keeps (s.holdVoltage) := .ite (.update hk) hk

theorem State.Keeps.steerPoint (hk : s₀.Keeps s) : s₀.Keeps (s.steerPoint) :=
  .ite hk (.ite (.holdVoltage hk) (.ite (.update hk) (.relockTo hk)))

theorem State.Keeps.startPll (hk : s₀.Keeps s) : s₀.Keeps (s.startPll) := .ite hk (.update (.setPoint hk))

theorem State.Goes.vlaneAck (hk : s₀.Keeps s) : s₀.Goes (execVlaneAck s) :=
  .next (.ite hk (.ite (.steerPoint (.update hk)) (.update (.update hk))))

theorem State.Goes.lclkLock (hk : s₀.Keeps s) : s₀.Goes (execLclkLock s) :=
  .next (.ite hk (.wakeWords (.steerPoint (.holdVoltage (.applyCap (.update hk))))))

theorem State.Keeps.coldReturn (hk : s₀.Keeps s) : s₀.Keeps (s.coldReturn) := .ite (.startPll hk) hk

theorem State.Goes.fallowWarmEntry (hk : s₀.Keeps s) : s₀.Goes (execFallowWarmEntry s) := .next (.ite (.bump (.update hk)) hk)

theorem State.Goes.fallowColdEntry (hk : s₀.Keeps s) : s₀.Goes (execFallowColdEntry s) := .next (.ite (.bump (.update hk)) hk)

theorem State.Goes.mclkUnitGate (hk : s₀.Keeps s) : s₀.Goes (execMclkUnitGate s) := .next (.ite (.update hk) hk)

theorem State.Goes.wakeTrigger (hk : s₀.Keeps s) : s₀.Goes (execWakeTrigger s) := by
  unfold execWakeTrigger
  extract_lets
  refine .next ?_
  split
  · exact hk
  · split
    · exact .bump (.update hk)
    · exact .startPll (.bump (.update hk))
    · exact hk

theorem State.Goes.wakeWave (hk : s₀.Keeps s) : s₀.Goes (execWakeWave s) := by
  unfold execWakeWave
  extract_lets
  exact .next (.ite hk (.ite (.wakeWords (.steerPoint (.update (.update hk)))) (.wakeWords (.update hk))))

theorem State.Goes.forecastWrite {w : Word} (hk : s₀.Keeps s) : s₀.Goes (execForecastWrite w s) := by
  unfold execForecastWrite
  extract_lets _ s1
  have h1 : s₀.Keeps s1 := .settle (.putWrite (.seen hk))
  exact .next (.ite hk (.ite h1 (.coldReturn (.update h1))))

theorem State.Goes.governorEvaluation (hk : s₀.Keeps s) : s₀.Goes (execGovernorEvaluation s) := by
  unfold execGovernorEvaluation
  extract_lets _ _ _ s1 s2
  have h1 : s₀.Keeps s1 := .ite (.bump hk) hk
  have h2 : s₀.Keeps s2 := .ite (.bump h1) h1
  exact .next (.ite hk (.steerPoint (.applyCap (.ite (.setPoint (.update h2)) (.update h2)))))

theorem State.Keeps.newOffsets (hk : s₀.Keeps s) : s₀.Keeps (s.newOffsets) := .ite hk (.ite (.update hk) (.update hk))

theorem State.Goes.thermLevelChange {level : Nat} (hk : s₀.Keeps s) : s₀.Goes (execThermLevelChange level s) := by
  unfold execThermLevelChange
  extract_lets _ _ _ _ s2
  have h2 : s₀.Keeps s2 := .ite (.event (.auditForm (.update hk))) (.event (.update hk))
  exact .next (.ite hk (.wakeWords (.steerPoint (.applyCap (.newOffsets h2)))))

theorem State.Goes.throtReqChange {b : Bool} (hk : s₀.Keeps s) : s₀.Goes (execThrotReqChange b s) :=
  .next (.steerPoint (.applyCap (.newOffsets (.update hk))))

theorem State.Keeps.tick (hk : s₀.Keeps s) : s₀.Keeps (s.tick) := by
  unfold State.tick
  extract_lets _ _ _ s2 _ s4
  have h2 : s₀.Keeps s2 := .ite (.update (.update hk)) (.update hk)
  have h4 : s₀.Keeps s4 := .settle (.coldReturn h2)
  exact .ite (.coldReturn h2) (.ite h4 (.bump h4))

end

end Sys2Proof.Machine
end

section
/-! SUPPORT. Sequencers and primitives: these operations keep the queue, the straps and the form of memory. -/

namespace Sys2Proof.Machine

section
variable {s₀ s : State}

theorem State.Keeps.progEnd {o : Op} {st : Nat} (hk : s₀.Keeps s) : s₀.Keeps (s.progEnd o st) := .settle (.finish hk)

theorem State.Keeps.progFault {o : Op} (hk : s₀.Keeps s) : s₀.Keeps (s.progFault o) := .progEnd (.event (.bump hk))

theorem State.Keeps.afterWord {s0 : State} {id w : Nat} (hk : s₀.Keeps s) : s₀.Keeps (s.afterWord s0 id w) := by
  unfold State.afterWord
  extract_lets
  split
  · exact .ite (.progFault (.modOp hk)) (.modOp hk)
  · exact .modOp hk

theorem State.Keeps.runWord {o : Op} {w : Nat} {f : Prim} (hk : s₀.Keeps s) (hf : ∀ a1 a2 t, s₀.Keeps t → s₀.Keeps (f a1 a2 t)) :
    s₀.Keeps (s.runWord o w f) := by
  unfold State.runWord
  split
  · exact .progFault hk
  · split
    · exact .parkWord hk
    · split
      · exact .progEnd hk
      · exact .afterWord (hf _ _ _ hk)

theorem State.Keeps.prim {q opc : Nat} {f : Prim} (hk : s₀.Keeps s) (hf : ∀ a1 a2 t, s₀.Keeps t → s₀.Keeps (f a1 a2 t)) :
    s₀.Keeps (s.prim q opc f) := by
  unfold State.prim
  split
  · exact hk
  · split
    · exact hk
    · exact .ite (.runWord hk (fun _ _ _ g => hf _ _ _ g)) (.ite (.progFault hk) hk)

theorem State.Keeps.advance {id : Nat} (hk : s₀.Keeps s) : s₀.Keeps (s.advance id) := .modOp hk

theorem State.Keeps.setS {id c v : Nat} (hk : s₀.Keeps s) : s₀.Keeps (s.setS id c v) := .modOp hk

theorem State.Keeps.setSlot {id k : Nat} {v : List Byte} (hk : s₀.Keeps s) : s₀.Keeps (s.setSlot id k v) := .modOp hk

theorem State.Keeps.slotData {o : Op} {k : Nat} (hk : s₀.Keeps s) : s₀.Keeps (s.slotData o k).2 := by
  unfold State.slotData
  split
  · exact .ite_snd hk (.freeBytes hk)
  · exact .freeBytes hk

theorem State.Keeps.primMovi {o : Op} {w : Nat} (hk : s₀.Keeps s) : s₀.Keeps (primMovi o w s) := .setS hk

theorem State.Keeps.primAdd {o : Op} {w : Nat} (hk : s₀.Keeps s) : s₀.Keeps (primAdd o w s) := .setS hk

theorem State.Keeps.primAddi {o : Op} {w : Nat} (hk : s₀.Keeps s) : s₀.Keeps (primAddi o w s) := .setS hk

theorem State.Keeps.primSub {o : Op} {w : Nat} (hk : s₀.Keeps s) : s₀.Keeps (primSub o w s) := .setS hk

theorem State.Keeps.primAnd {o : Op} {w : Nat} (hk : s₀.Keeps s) : s₀.Keeps (primAnd o w s) := .setS hk

theorem State.Keeps.primOr {o : Op} {w : Nat} (hk : s₀.Keeps s) : s₀.Keeps (primOr o w s) := .setS hk

theorem State.Keeps.primXor {o : Op} {w : Nat} (hk : s₀.Keeps s) : s₀.Keeps (primXor o w s) := .setS hk

theorem State.Keeps.primShl {o : Op} {w : Nat} (hk : s₀.Keeps s) : s₀.Keeps (primShl o w s) := .setS hk

theorem State.Keeps.primShr {o : Op} {w : Nat} (hk : s₀.Keeps s) : s₀.Keeps (primShr o w s) := .setS hk

theorem State.Keeps.primMul {o : Op} {w : Nat} (hk : s₀.Keeps s) : s₀.Keeps (primMul o w s) := .setS hk

theorem State.Keeps.primField {o : Op} {w : Nat} (hk : s₀.Keeps s) : s₀.Keeps (primField o w s) := .setS hk

theorem State.Keeps.primBr {o : Op} {w : Nat} (hk : s₀.Keeps s) : s₀.Keeps (primBr o w s) := .ite (.modOp hk) (.advance hk)

theorem State.Keeps.primYield {o : Op} {w : Nat} (hk : s₀.Keeps s) : s₀.Keeps (primYield o w s) :=
  .ite (.settle (.yieldPoint (.modOp hk))) (.yieldPoint (.modOp hk))

theorem State.Keeps.primEnd {o : Op} {w : Nat} (hk : s₀.Keeps s) : s₀.Keeps (primEnd o w s) := .progEnd hk

theorem State.Keeps.endXfer {x : Xfer} {st : Nat} {v : List Byte} (hk : s₀.Keeps s) : s₀.Keeps (s.endXfer x st v) := .modOp (.dropXfer hk)

theorem State.Keeps.addXfer {x : Xfer} (hk : s₀.Keeps s) : s₀.Keeps (s.addXfer x) := .ite (.update hk) (.countPath (.update hk))

theorem State.Keeps.issueXfer {o : Op} {kind : XferKind} {a n cls : Nat} {go : Xfer → State → State} (hk : s₀.Keeps s)
    (hgo : ∀ a1 t, s₀.Keeps t → s₀.Keeps (go a1 t)) : s₀.Keeps (s.issueXfer o kind a n cls go) :=
  .ite (.advance (.endXfer hk)) (.ite (.bump hk) (hgo _ _ hk))

theorem State.Keeps.storeLocal {o : Op} {x : Xfer} {v : List Byte} (hk : s₀.Keeps s) : s₀.Keeps (s.storeLocal o x v) := by
  unfold State.storeLocal
  extract_lets
  exact .settle (.advance (.ite (.putWrite (.addXfer hk)) (.putWrite (.addXfer hk))))

theorem State.Keeps.storeXfer {o : Op} {x : Xfer} {v : List Byte} (hk : s₀.Keeps s) : s₀.Keeps (s.storeXfer o x v) := by
  unfold State.storeXfer
  extract_lets _ s1
  have h1 : s₀.Keeps s1 := .ite (.charge hk) hk
  exact .ite (.storeLocal hk) (.ite (.putBucket hk) (.advance (.send (.addXfer h1))))

theorem State.Keeps.primLdt {o : Op} {w : Nat} (hk : s₀.Keeps s) : s₀.Keeps (primLdt o w s) := by
  unfold Machine.primLdt
  extract_lets
  exact .issueXfer hk (fun _ _ g => .ite (.modOp (.addXfer g)) (.send (.modOp (.addXfer g))))

theorem State.Keeps.primStt {o : Op} {w : Nat} (hk : s₀.Keeps s) : s₀.Keeps (primStt o w s) :=
  .issueXfer (.slotData hk) (fun _ _ g => .storeXfer g)

theorem State.Keeps.primLd64 {o : Op} {w : Nat} (hk : s₀.Keeps s) : s₀.Keeps (primLd64 o w s) :=
  .issueXfer hk (fun _ _ g => .ite (.advance (.addXfer g)) (.send (.advance (.addXfer g))))

theorem State.Keeps.primSt64 {o : Op} {w : Nat} (hk : s₀.Keeps s) : s₀.Keeps (primSt64 o w s) := .issueXfer hk (fun _ _ g => .storeXfer g)

theorem State.Keeps.primRed {o : Op} {w : Nat} (hk : s₀.Keeps s) : s₀.Keeps (primRed o w s) := by
  unfold Machine.primRed
  extract_lets
  exact .issueXfer hk (fun _ _ g => .ite (.storeXfer g) (.advance (.send (.addXfer g))))

theorem State.Keeps.primWaitt {o : Op} {w : Nat} (hk : s₀.Keeps s) : s₀.Keeps (primWaitt o w s) := .setS hk

theorem State.Keeps.primWaitall {o : Op} {w : Nat} (hk : s₀.Keeps s) : s₀.Keeps (primWaitall o w s) := .setS (.modOp hk)

theorem State.Keeps.primZero {o : Op} {w : Nat} (hk : s₀.Keeps s) : s₀.Keeps (primZero o w s) := .advance (.setSlot hk)

theorem State.Keeps.primRtile {o : Op} {w : Nat} (hk : s₀.Keeps s) : s₀.Keeps (primRtile o w s) := .setS hk

theorem State.Keeps.primShinfo {o : Op} {w : Nat} (hk : s₀.Keeps s) : s₀.Keeps (primShinfo o w s) := .setS hk

theorem State.Keeps.primDigest {o : Op} {w : Nat} (hk : s₀.Keeps s) : s₀.Keeps (primDigest o w s) := .setS hk

theorem State.Keeps.primTime {o : Op} {w : Nat} (hk : s₀.Keeps s) : s₀.Keeps (primTime o w s) := .setS hk

theorem State.Keeps.primTrig {o : Op} {w : Nat} (hk : s₀.Keeps s) : s₀.Keeps (primTrig o w s) := by
  unfold Machine.primTrig
  extract_lets
  exact .ite (.progEnd hk) (.ite (.advance (.addXfer (.update hk))) (.advance (.trigger (.update hk))))

theorem State.Keeps.onLane {o : Op} {f : LaneFault} {j : LaneJob} {g : List (List Byte) → State → State} (hk : s₀.Keeps s)
    (hg : ∀ a1 t, s₀.Keeps t → s₀.Keeps (g a1 t)) : s₀.Keeps (s.onLane o f j g) := by
  unfold State.onLane
  split
  · exact hg _ _ (.update (.snd ‹_› (.laneWork hk)))
  · exact .progEnd (.snd ‹_› (.laneWork hk))

theorem State.Keeps.laneIn {o : Op} {k : Nat} (hk : s₀.Keeps s) : s₀.Keeps (s.laneIn o k).2 := by
  unfold State.laneIn
  extract_lets
  split
  · exact .ite_snd hk (.pair (.freeBytes hk))
  · exact .pair (.freeBytes hk)

theorem State.Keeps.laneIns {o : Op} {l : List Nat} (hk : s₀.Keeps s) : s₀.Keeps (s.laneIns o l).2 := by
  induction l generalizing s with
  | nil => exact hk
  | cons x l ih => exact .pair (ih (.laneIn hk))

theorem State.Keeps.upset {o : Op} {f : LaneFault} {k : Nat} (hk : s₀.Keeps s) : s₀.Keeps (s.upset o f k).2 := .pair (.modOp hk)

theorem State.Keeps.useRows {o : Op} {region : Nat} (hk : s₀.Keeps s) : s₀.Keeps (s.useRows o region).2 := by
  unfold State.useRows
  extract_lets
  split
  · exact hk
  · exact .pair (.modOp hk)

theorem State.Keeps.gfCoefs {o : Op} {w : Nat} (hk : s₀.Keeps s) : s₀.Keeps (s.gfCoefs o w).2 := by
  unfold State.gfCoefs
  extract_lets
  exact .ite_snd hk (.ite_snd (.pair (.useRows (.freshNat hk))) (.pair (.freshNat hk)))

theorem State.Keeps.primGfmul {f : LaneFault} {o : Op} {w : Nat} (hk : s₀.Keeps s) : s₀.Keeps (primGfmul f o w s) := by
  unfold Machine.primGfmul
  extract_lets
  exact .onLane (.ite_snd (.laneIns (.laneIn (.gfCoefs (.upset hk)))) (.pair (.laneIn (.gfCoefs (.upset hk)))))
    (fun _ _ g => .advance (.foldl g fun _ _ g => .setSlot g))

theorem State.Keeps.primXort {f : LaneFault} {o : Op} {w : Nat} (hk : s₀.Keeps s) : s₀.Keeps (primXort f o w s) :=
  .onLane (.laneIns (.upset hk)) (fun _ _ g => .advance (.setSlot g))

theorem State.Keeps.primCrc {f : LaneFault} {o : Op} {w : Nat} (hk : s₀.Keeps s) : s₀.Keeps (primCrc f o w s) :=
  .onLane (.laneIn (.upset hk)) (fun _ _ g => .setS g)

theorem State.Keeps.primCmpt {f : LaneFault} {o : Op} {w : Nat} (hk : s₀.Keeps s) : s₀.Keeps (primCmpt f o w s) :=
  .onLane (.laneIn (.laneIn (.upset hk))) (fun _ _ g => .setS g)

theorem State.Keeps.primMtile {o : Op} {w : Nat} (hk : s₀.Keeps s) : s₀.Keeps (primMtile o w s) := by
  unfold Machine.primMtile
  extract_lets
  split
  · exact .setS (.freshNat hk)
  · split
    · exact .setS hk
    · split
      · split
        · exact .setS hk
        · exact .setS (.freshNat hk)
      · exact .setS (.freshNat hk)

theorem State.Keeps.primApply {ext : Ext} {o : Op} {w : Nat} (hk : s₀.Keeps s) : s₀.Keeps (primApply ext o w s) := by
  unfold Machine.primApply
  extract_lets
  split
  · exact .advance hk
  · extract_lets _ t
    split
    · exact hk
    · split
      · exact .advance hk
      · extract_lets put
        have hput : ∀ t v, s₀.Keeps t → s₀.Keeps (put t v) := fun _ _ g => .settle
          (.advance (.ite (.ite (.putParity g) (.putTile g)) (.update (.ite (.putParity g) (.putTile g)))))
        split
        · exact .advance hk
        · split
          · exact .cbwEngine hk
          · split
            · exact hput _ _ (.slotData hk)
            · split
              · exact hput _ _ (.snd ‹_› (.readTile (.slotData hk)))
              · exact .progEnd (.snd ‹_› (.readTile (.slotData hk)))

theorem State.Keeps.primQread {o : Op} {w : Nat} (hk : s₀.Keeps s) : s₀.Keeps (primQread o w s) := by
  unfold Machine.primQread
  extract_lets _ t _ _ _ _ bad
  have hbad : ∀ t st, s₀.Keeps t → s₀.Keeps (bad t st) := fun _ _ g => .advance (.modOp g)
  split
  · exact .advance (.setSlot (.freeBytes hk))
  · extract_lets
    split
    · split
      · exact .advance (.setSlot (.snd ‹_› (.readOwnMember hk)))
      · exact hbad _ _ (.snd ‹_› (.readOwnMember hk))
      · exact hbad _ _ (.snd ‹_› (.readOwnMember hk))
      · exact .snd ‹_› (.readOwnMember hk)
    · split
      · exact hk
      · extract_lets _ _ s1
        have h1 : s₀.Keeps s1 := .sendRead (.countPath (.ite (.charge hk) hk))
        exact .ite (.bump hk) (.ite (.putBucket hk) (.advance (.modOp (.update h1))))

theorem State.Keeps.primQsend {o : Op} {w : Nat} (hk : s₀.Keeps s) : s₀.Keeps (primQsend o w s) := by
  unfold Machine.primQsend
  extract_lets _ _ _ _ _ _ __src
  have h__src : s₀.Keeps __src := .freshNat (.slotData hk)
  split
  · exact .advance (.endXfer hk)
  · extract_lets _ _ _ _ _ _ s2
    have h2 : s₀.Keeps s2 := .bump (.modCtx (.update h__src))
    exact .ite (.bump hk) (.advance (.update h2))

theorem State.Keeps.primDecode {o : Op} {w : Nat} (hk : s₀.Keeps s) : s₀.Keeps (primDecode o w s) := by
  unfold Machine.primDecode
  extract_lets
  split
  · exact .setS (.freshNat hk)
  · extract_lets
    split
    · exact .setS (.freshNat hk)
    · extract_lets
      split
      · exact .setS (.useSlot hk)
      · exact .setS (.freshNat (.useSlot hk))

theorem State.Keeps.primTedq {lf : LaneFault} {o : Op} {w : Nat} (hk : s₀.Keeps s) : s₀.Keeps (primTedq lf o w s) := by
  unfold Machine.primTedq
  extract_lets
  refine .onLane (.laneIn (.upset hk)) (fun _ _ g => ?_)
  extract_lets
  split
  · exact .advance (.setSlot g)
  · exact .advance (.setSlot (.freeBytes g))

theorem State.Keeps.primTeda {lf : LaneFault} {o : Op} {w : Nat} (hk : s₀.Keeps s) : s₀.Keeps (primTeda lf o w s) := by
  unfold Machine.primTeda
  extract_lets
  refine .onLane (.laneIns (.upset hk)) (fun _ _ g => ?_)
  split
  · extract_lets _ _ s1
    have h1 : s₀.Keeps s1 := .foldl (.freeBytes g) fun _ _ g => .engineWrite g
    exact .settle (.advance h1)
  · exact .advance g

theorem State.Goes.uMovi {q : Nat} (hk : s₀.Keeps s) : s₀.Goes (execUMovi q s) := .next (.prim hk (fun _ _ _ g => .primMovi g))

theorem State.Goes.uAdd {q : Nat} (hk : s₀.Keeps s) : s₀.Goes (execUAdd q s) := .next (.prim hk (fun _ _ _ g => .primAdd g))

theorem State.Goes.uAddi {q : Nat} (hk : s₀.Keeps s) : s₀.Goes (execUAddi q s) := .next (.prim hk (fun _ _ _ g => .primAddi g))

theorem State.Goes.uSub {q : Nat} (hk : s₀.Keeps s) : s₀.Goes (execUSub q s) := .next (.prim hk (fun _ _ _ g => .primSub g))

theorem State.Goes.uAnd {q : Nat} (hk : s₀.Keeps s) : s₀.Goes (execUAnd q s) := .next (.prim hk (fun _ _ _ g => .primAnd g))

theorem State.Goes.uOr {q : Nat} (hk : s₀.Keeps s) : s₀.Goes (execUOr q s) := .next (.prim hk (fun _ _ _ g => .primOr g))

theorem State.Goes.uXor {q : Nat} (hk : s₀.Keeps s) : s₀.Goes (execUXor q s) := .next (.prim hk (fun _ _ _ g => .primXor g))

theorem State.Goes.uShl {q : Nat} (hk : s₀.Keeps s) : s₀.Goes (execUShl q s) := .next (.prim hk (fun _ _ _ g => .primShl g))

theorem State.Goes.uShr {q : Nat} (hk : s₀.Keeps s) : s₀.Goes (execUShr q s) := .next (.prim hk (fun _ _ _ g => .primShr g))

theorem State.Goes.uMul {q : Nat} (hk : s₀.Keeps s) : s₀.Goes (execUMul q s) := .next (.prim hk (fun _ _ _ g => .primMul g))

theorem State.Goes.uField {q : Nat} (hk : s₀.Keeps s) : s₀.Goes (execUField q s) := .next (.prim hk (fun _ _ _ g => .primField g))

theorem State.Goes.uBr {q : Nat} (hk : s₀.Keeps s) : s₀.Goes (execUBr q s) := .next (.prim hk (fun _ _ _ g => .primBr g))

theorem State.Goes.uYield {q : Nat} (hk : s₀.Keeps s) : s₀.Goes (execUYield q s) := .next (.prim hk (fun _ _ _ g => .primYield g))

theorem State.Goes.uEnd {q : Nat} (hk : s₀.Keeps s) : s₀.Goes (execUEnd q s) := .next (.prim hk (fun _ _ _ g => .primEnd g))

theorem State.Goes.uLdt {q : Nat} (hk : s₀.Keeps s) : s₀.Goes (execULdt q s) := .next (.prim hk (fun _ _ _ g => .primLdt g))

theorem State.Goes.uStt {q : Nat} (hk : s₀.Keeps s) : s₀.Goes (execUStt q s) := .next (.prim hk (fun _ _ _ g => .primStt g))

theorem State.Goes.uLd64 {q : Nat} (hk : s₀.Keeps s) : s₀.Goes (execULd64 q s) := .next (.prim hk (fun _ _ _ g => .primLd64 g))

theorem State.Goes.uSt64 {q : Nat} (hk : s₀.Keeps s) : s₀.Goes (execUSt64 q s) := .next (.prim hk (fun _ _ _ g => .primSt64 g))

theorem State.Goes.uRed {q : Nat} (hk : s₀.Keeps s) : s₀.Goes (execURed q s) := .next (.prim hk (fun _ _ _ g => .primRed g))

theorem State.Goes.uWaitt {q : Nat} (hk : s₀.Keeps s) : s₀.Goes (execUWaitt q s) := .next (.prim hk (fun _ _ _ g => .primWaitt g))

theorem State.Goes.uWaitall {q : Nat} (hk : s₀.Keeps s) : s₀.Goes (execUWaitall q s) := .next (.prim hk (fun _ _ _ g => .primWaitall g))

theorem State.Goes.uZero {q : Nat} (hk : s₀.Keeps s) : s₀.Goes (execUZero q s) := .next (.prim hk (fun _ _ _ g => .primZero g))

theorem State.Goes.uRtile {q : Nat} (hk : s₀.Keeps s) : s₀.Goes (execURtile q s) := .next (.prim hk (fun _ _ _ g => .primRtile g))

theorem State.Goes.uShinfo {q : Nat} (hk : s₀.Keeps s) : s₀.Goes (execUShinfo q s) := .next (.prim hk (fun _ _ _ g => .primShinfo g))

theorem State.Goes.uDigest {q : Nat} (hk : s₀.Keeps s) : s₀.Goes (execUDigest q s) := .next (.prim hk (fun _ _ _ g => .primDigest g))

theorem State.Goes.uTime {q : Nat} (hk : s₀.Keeps s) : s₀.Goes (execUTime q s) := .next (.prim hk (fun _ _ _ g => .primTime g))

theorem State.Goes.uTrig {q : Nat} (hk : s₀.Keeps s) : s₀.Goes (execUTrig q s) := .next (.prim hk (fun _ _ _ g => .primTrig g))

theorem State.Goes.uGfmul {q : Nat} {f : LaneFault} (hk : s₀.Keeps s) : s₀.Goes (execUGfmul q f s) :=
  .next (.prim hk (fun _ _ _ g => .primGfmul g))

theorem State.Goes.uXort {q : Nat} {f : LaneFault} (hk : s₀.Keeps s) : s₀.Goes (execUXort q f s) :=
  .next (.prim hk (fun _ _ _ g => .primXort g))

theorem State.Goes.uCrc {q : Nat} {f : LaneFault} (hk : s₀.Keeps s) : s₀.Goes (execUCrc q s f) :=
  .next (.prim hk (fun _ _ _ g => .primCrc g))

theorem State.Goes.uCmpt {q : Nat} {f : LaneFault} (hk : s₀.Keeps s) : s₀.Goes (execUCmpt q s f) :=
  .next (.prim hk (fun _ _ _ g => .primCmpt g))

theorem State.Goes.uMtile {q : Nat} (hk : s₀.Keeps s) : s₀.Goes (execUMtile q s) := .next (.prim hk (fun _ _ _ g => .primMtile g))

theorem State.Goes.uApply {q : Nat} {ext : Ext} (hk : s₀.Keeps s) : s₀.Goes (execUApply q ext s) :=
  .next (.prim hk (fun _ _ _ g => .primApply g))

theorem State.Goes.uQread {q : Nat} (hk : s₀.Keeps s) : s₀.Goes (execUQread q s) := .next (.prim hk (fun _ _ _ g => .primQread g))

theorem State.Goes.uQsend {q : Nat} (hk : s₀.Keeps s) : s₀.Goes (execUQsend q s) := .next (.prim hk (fun _ _ _ g => .primQsend g))

theorem State.Goes.uDecode {q : Nat} (hk : s₀.Keeps s) : s₀.Goes (execUDecode q s) := .next (.prim hk (fun _ _ _ g => .primDecode g))

theorem State.Goes.uTedq {q : Nat} {f : LaneFault} (hk : s₀.Keeps s) : s₀.Goes (execUTedq q s f) :=
  .next (.prim hk (fun _ _ _ g => .primTedq g))

theorem State.Goes.uTeda {q : Nat} {f : LaneFault} (hk : s₀.Keeps s) : s₀.Goes (execUTeda q s f) :=
  .next (.prim hk (fun _ _ _ g => .primTeda g))

theorem State.Keeps.of_prim {f g : Prim} {o : Op} {w : Nat} (e : some g = some f) (hk : s₀.Keeps (g o w s)) : s₀.Keeps (f o w s) := by
  obtain rfl := Option.some.inj e
  exact hk

/-- Every primitive that a user entry may run keeps them (Table 11-4). -/
theorem State.Keeps.userPrim {c w : Nat} {f : Prim} {o : Op} (e : userPrim c = some f) (hk : s₀.Keeps s) : s₀.Keeps (f o w s) := by
  unfold Machine.userPrim at e
  split at e
  · exact .of_prim e (.primMovi hk)
  · exact .of_prim e (.primAdd hk)
  · exact .of_prim e (.primAddi hk)
  · exact .of_prim e (.primSub hk)
  · exact .of_prim e (.primAnd hk)
  · exact .of_prim e (.primOr hk)
  · exact .of_prim e (.primXor hk)
  · exact .of_prim e (.primShl hk)
  · exact .of_prim e (.primShr hk)
  · exact .of_prim e (.primMul hk)
  · exact .of_prim e (.primField hk)
  · exact .of_prim e (.primBr hk)
  · exact .of_prim e (.primYield hk)
  · exact .of_prim e (.primEnd hk)
  · exact .of_prim e (.primLdt hk)
  · exact .of_prim e (.primStt hk)
  · exact .of_prim e (.primLd64 hk)
  · exact .of_prim e (.primSt64 hk)
  · exact .of_prim e (.primRed hk)
  · exact .of_prim e (.primWaitt hk)
  · exact .of_prim e (.primWaitall hk)
  · exact .of_prim e (.primZero hk)
  · exact .of_prim e (.primRtile hk)
  · exact .of_prim e (.primShinfo hk)
  · exact .of_prim e (.primDigest hk)
  · exact .of_prim e (.primTime hk)
  · exact .of_prim e (.primTrig hk)
  · exact .of_prim e (.primGfmul hk)
  · exact .of_prim e (.primXort hk)
  · exact .of_prim e (.primCrc hk)
  · exact .of_prim e (.primCmpt hk)
  · cases e

theorem State.Keeps.runUser {op n : Nat} (hk : s₀.Keeps s) : s₀.Keeps (State.runUser op n s) := by
  induction n generalizing s with
  | zero => exact hk
  | succ n ih =>
    unfold State.runUser
    split
    · exact hk
    · split
      · exact hk
      · split
        · exact hk
        · split
          · extract_lets s1
            have h1 : s₀.Keeps s1 := .runWord hk fun _ _ _ g => .userPrim ‹_› g
            exact .ite h1 (ih h1)
          · exact .progFault hk

theorem State.Goes.userEntry {op fuel : Nat} (hk : s₀.Keeps s) : s₀.Goes (execUserEntry op fuel s) := by
  unfold execUserEntry
  refine .next ?_
  split
  · exact .ite (.runUser hk) hk
  · exact hk

theorem State.Goes.userEntryWatchdog {op : Nat} (hk : s₀.Keeps s) : s₀.Goes (execUserEntryWatchdog op s) := by
  unfold execUserEntryWatchdog
  refine .next ?_
  split
  · exact .ite (.progEnd (.event (.bump hk))) hk
  · exact hk

theorem State.Keeps.closeXfer {x : Xfer} {st : Nat} {v : List Byte} (hk : s₀.Keeps s) : s₀.Keeps (s.closeXfer x st v) :=
  .settle (.wakeWords (.fireTrigs (.endXfer hk)))

theorem State.Keeps.readLocal {a : Nat} {bad : Bool} (hk : s₀.Keeps s) : s₀.Keeps (s.readLocal a bad).2 := by
  unfold State.readLocal
  extract_lets
  split
  · exact hk
  · exact .readTile hk

theorem State.Keeps.reduceFail {op st : Nat} (hk : s₀.Keeps s) : s₀.Keeps (s.reduceFail op st) := by
  unfold State.reduceFail
  split
  · exact .ite (.settle (.fail hk)) (.progEnd hk)
  · exact hk

theorem State.Goes.transferComplete {x : Nat} {resp : Resp} (hk : s₀.Keeps s) : s₀.Goes (execTransferComplete x resp s) := by
  unfold execTransferComplete
  refine .next ?_
  split
  · exact hk
  · extract_lets load store
    have hstore : s₀.Keeps store := by
      unfold store
      split
      · split
        · exact .closeXfer hk
        · exact .ite hk (.closeXfer hk)
      · exact .closeXfer hk
    split
    · unfold load
      split
      · split <;> exact .closeXfer (.snd ‹_› (.readLocal hk))
      · split <;> exact .closeXfer hk
    · unfold load
      split
      · split <;> exact .closeXfer (.snd ‹_› (.readLocal hk))
      · split <;> exact .closeXfer hk
    · exact hstore
    · exact hstore
    · exact .ite (.ite (.reduceFail (.dropXfer hk)) (.arrive (.dropXfer hk))) hstore
    · exact .closeXfer hk
    · exact hk
    · exact hk

theorem State.Goes.fabricRetryTimeout {x : Nat} (hk : s₀.Keeps s) : s₀.Goes (execFabricRetryTimeout x s) := by
  unfold execFabricRetryTimeout
  refine .next ?_
  split
  · exact hk
  · extract_lets
    split
    · exact .ite hk
        (.ite (.closeXfer (.countPath hk))
          (.ite hk (.ite (.putBucket hk) (.send (.update (.countPath (.ite (.charge (.countPath hk)) (.countPath hk))))))))
    · exact .ite hk
        (.ite (.closeXfer (.countPath hk))
          (.ite hk (.ite (.putBucket hk) (.send (.update (.countPath (.ite (.charge (.countPath hk)) (.countPath hk))))))))
    · exact .ite hk
        (.ite (.closeXfer (.countPath hk))
          (.ite hk (.ite (.putBucket hk) (.send (.update (.countPath (.ite (.charge (.countPath hk)) (.countPath hk))))))))
    · exact .ite hk
        (.ite (.closeXfer (.countPath hk))
          (.ite hk (.ite (.putBucket hk) (.send (.update (.countPath (.ite (.charge (.countPath hk)) (.countPath hk))))))))
    · exact hk

theorem State.Goes.reductionTimeout {x : Nat} (hk : s₀.Keeps s) : s₀.Goes (execReductionTimeout x s) := by
  unfold execReductionTimeout
  refine .next ?_
  split
  · exact hk
  · split
    · exact .ite hk (.reduceFail (.dropXfer hk))
    · exact hk

end

end Sys2Proof.Machine
end

section
/-! The statements of the invariant: O57, O58, O59. -/

namespace Sys2Proof.Machine

section
variable {s₀ s : State}

/-- The command carries an address beyond the stack (R44, log entry 123). -/
def BeyondStack : Instr → Prop
  | .writeArrival _ addr data _ => stackBytes < addr + data.length
  | .readRequestSnoop _ tile _ => stackTiles ≤ tile
  | .controllerErrorResponse _ tile _ _ => stackTiles ≤ tile
  | _ => False

theorem exec_of_beyondStack (c : Instr) (s : State) (h : BeyondStack c) : exec c s = .fault .outsideStack := by
  cases c with
  | writeArrival => exact if_pos h
  | readRequestSnoop => exact if_pos h
  | controllerErrorResponse => exact if_pos h
  | _ => exact h.elim

theorem exec_goes (c : Instr) (h : ¬ BeyondStack c) (hk : s₀.Keeps s) : s₀.Goes (exec c s) := by
  cases c with
  | coldReset => exact .coldReset hk
  | warmReset => exact .warmReset hk
  | resetRelease => exact .resetRelease hk
  | alignAck => exact .alignAck hk
  | fuseDone => exact .fuseDone hk
  | bistStart req => exact .bistStart (req := req) hk
  | bistDone => exact .bistDone hk
  | controlBusReject => exact .controlBusReject hk
  | registerWrite => exact .registerWrite hk
  | reg64HighWrite => exact .reg64HighWrite hk
  | reg64LowRead => exact .reg64LowRead hk
  | chipSelWrite => exact .chipSelWrite hk
  | ringEnable => exact .ringEnable hk
  | ringDisable => exact .ringDisable hk
  | ringPollWrite => exact .ringPollWrite hk
  | rehomeCfgWrite => exact .rehomeCfgWrite hk
  | ledgerEnable => exact .ledgerEnable hk
  | auditRingConfigWrite => exact .auditRingConfigWrite hk
  | cmpCfgWrite => exact .cmpCfgWrite hk
  | calRead req => exact .calRead (req := req) hk
  | calWrite => exact .calWrite hk
  | calWriteDone => exact .calWriteDone hk
  | evtOwnWrite => exact .evtOwnWrite hk
  | evtRouteWrite => exact .evtRouteWrite hk
  | evtPendClear req => exact .evtPendClear (req := req) hk
  | evtSwset req => exact .evtSwset (req := req) hk
  | cpidleAssert => exact .cpidleAssert hk
  | moderationHoldExpiry t => exact .moderationHoldExpiry (t := t) hk
  | comparatorFire => exact .comparatorFire hk
  | doorbellWrite => exact .doorbellWrite hk
  | doorbellPoll => exact .doorbellPoll hk
  | doorbellPollReturn => exact .doorbellPollReturn hk
  | descriptorFetch => exact .descriptorFetch hk
  | operationStart => exact .operationStart hk
  | sequencerDispatch => exact .sequencerDispatch hk
  | completionRecordWrite => exact .completionRecordWrite hk
  | regionSetup => exact .regionSetup hk
  | regionRelease => exact .regionRelease hk
  | sheafJoin => exact .sheafJoin hk
  | sheafLeave => exact .sheafLeave hk
  | membershipUpdate => exact .membershipUpdate hk
  | regroup => exact .regroup hk
  | regroupCommit op ext => exact .regroupCommit (ext := ext) hk
  | stepOpen => exact .stepOpen hk
  | stepOpenEffect => exact .stepOpenEffect hk
  | topologyWaitTimeout => exact .topologyWaitTimeout hk
  | stepClose => exact .stepClose hk
  | fence => exact .fence hk
  | stepConfirm => exact .stepConfirm hk
  | stepRollback => exact .stepRollback hk
  | retireWork => exact .retireWork hk
  | mergeBank => exact .mergeBank hk
  | normReduce => exact .normReduce hk
  | normCellPoll => exact .normCellPoll hk
  | encodeFull => exact .encodeFull hk
  | verifyStripes => exact .verifyStripes hk
  | degradedRead => exact .degradedRead hk
  | foster => exact .foster hk
  | rebuild => exact .rebuild hk
  | tileBuildDone => exact .tileBuildDone hk
  | migrate => exact .migrate hk
  | snapCut => exact .snapCut hk
  | snapFreeze => exact .snapFreeze hk
  | snapStillnessTimeout => exact .snapStillnessTimeout hk
  | copyCompletion => exact .copyCompletion hk
  | snapDrain => exact .snapDrain hk
  | snapRestore => exact .snapRestore hk
  | snapDiscard => exact .snapDiscard hk
  | intervalRecompute => exact .intervalRecompute hk
  | tedPack => exact .tedPack hk
  | scaleCellPoll => exact .scaleCellPoll hk
  | tedApply => exact .tedApply hk
  | tedAnchorLoad => exact .tedAnchorLoad hk
  | scrub => exact .scrub hk
  | guardSet => exact .guardSet hk
  | tableLoad => exact .tableLoad hk
  | tableInstall => exact .tableInstall hk
  | ucodeStage => exact .ucodeStage hk
  | ucodeActivate => exact .ucodeActivate hk
  | authVerdict => exact .authVerdict hk
  | cancel => exact .cancel hk
  | suspend => exact .suspend hk
  | resume => exact .resume hk
  | userEntry => exact .userEntry hk
  | userEntryWatchdog => exact .userEntryWatchdog hk
  | uMovi => exact .uMovi hk
  | uAdd => exact .uAdd hk
  | uAddi => exact .uAddi hk
  | uSub => exact .uSub hk
  | uAnd => exact .uAnd hk
  | uOr => exact .uOr hk
  | uXor => exact .uXor hk
  | uShl => exact .uShl hk
  | uShr => exact .uShr hk
  | uMul => exact .uMul hk
  | uField => exact .uField hk
  | uBr => exact .uBr hk
  | uYield => exact .uYield hk
  | uEnd => exact .uEnd hk
  | uLdt => exact .uLdt hk
  | uStt => exact .uStt hk
  | uLd64 => exact .uLd64 hk
  | uSt64 => exact .uSt64 hk
  | uRed => exact .uRed hk
  | uWaitt => exact .uWaitt hk
  | uWaitall => exact .uWaitall hk
  | uZero => exact .uZero hk
  | uRtile => exact .uRtile hk
  | uShinfo => exact .uShinfo hk
  | uDigest => exact .uDigest hk
  | uTime => exact .uTime hk
  | uTrig => exact .uTrig hk
  | uGfmul => exact .uGfmul hk
  | uXort => exact .uXort hk
  | uCrc => exact .uCrc hk
  | uCmpt => exact .uCmpt hk
  | uMtile => exact .uMtile hk
  | uApply => exact .uApply hk
  | uQread => exact .uQread hk
  | uQsend => exact .uQsend hk
  | uDecode => exact .uDecode hk
  | uTedq => exact .uTedq hk
  | uTeda => exact .uTeda hk
  | transferComplete => exact .transferComplete hk
  | fabricRetryTimeout => exact .fabricRetryTimeout hk
  | reductionTimeout => exact .reductionTimeout hk
  | writeArrival agent addr data ext => exact .writeArrival (ext := ext) hk h
  | pairingReadResponse => exact .pairingReadResponse hk
  | readRequestSnoop => exact .readRequestSnoop hk h
  | ownReadReturn => exact .ownReadReturn hk
  | completionReadReturn => exact .completionReadReturn hk
  | logReadbackReturn => exact .logReadbackReturn hk
  | pairExpiry => exact .pairExpiry hk
  | tileDeltaAsmTimeout => exact .tileDeltaAsmTimeout hk
  | parkedDeltaReread => exact .parkedDeltaReread hk
  | messageSend => exact .messageSend hk
  | accumRetryTimeout => exact .accumRetryTimeout hk
  | accumPacketReceive => exact .accumPacketReceive hk
  | spillOverflowTimer => exact .spillOverflowTimer hk
  | assemblyTimeout => exact .assemblyTimeout hk
  | parkExpiry => exact .parkExpiry hk
  | accumApply => exact .accumApply hk
  | ackFlush => exact .ackFlush hk
  | ackPacketReceive => exact .ackPacketReceive hk
  | readPacketReceive => exact .readPacketReceive hk
  | readDataReceive => exact .readDataReceive hk
  | readRetryTimeout => exact .readRetryTimeout hk
  | quietExpiry => exact .quietExpiry hk
  | migrationMapDisarm => exact .migrationMapDisarm hk
  | larkIntervalTick => exact .larkIntervalTick hk
  | larkReceive => exact .larkReceive hk
  | reportReceive src => exact .reportReceive (src := src) hk
  | reportRepeatTimer => exact .reportRepeatTimer hk
  | reportRecordRewrite => exact .reportRecordRewrite hk
  | rehomeWindowEnd => exact .rehomeWindowEnd hk
  | pathUnflag => exact .pathUnflag hk
  | guardWindowEnd => exact .guardWindowEnd hk
  | controllerErrorResponse => exact .controllerErrorResponse hk h
  | chunkStoreReceive => exact .chunkStoreReceive hk
  | forecastWrite => exact .forecastWrite hk
  | governorEvaluation => exact .governorEvaluation hk
  | fallowWarmEntry => exact .fallowWarmEntry hk
  | fallowColdEntry => exact .fallowColdEntry hk
  | mclkUnitGate => exact .mclkUnitGate hk
  | wakeTrigger => exact .wakeTrigger hk
  | wakeWave => exact .wakeWave hk
  | vlaneAck => exact .vlaneAck hk
  | lclkLock => exact .lclkLock hk
  | thermLevelChange => exact .thermLevelChange hk
  | throtReqChange => exact .throtReqChange hk
  | auditRingWrite => exact .auditRingWrite hk
  | auditCountWrite => exact .auditCountWrite hk
  | auditCountPoll => exact .auditCountPoll hk
  | hebribryReadReceive => exact .hebribryReadReceive hk
  | reservedTypePacket src => exact .reservedTypePacket (src := src) hk


theorem State.Goes.exists_next {x : Out} (hg : s₀.Goes x) : ∃ t, x = .next t ∧ s₀.Keeps t := by
  cases hg with
  | next hk => exact ⟨_, rfl, hk⟩

/-- Every next state of a command keeps the queue, the straps and the form of the memory. -/
theorem keeps_of_exec {c : Instr} {t : State} (ht : exec c s = .next t) : s.Keeps t := by
  by_cases h : BeyondStack c
  · rw [exec_of_beyondStack c s h] at ht
    cases ht
  · obtain ⟨u, hu, hk⟩ := (exec_goes c h (.refl s)).exists_next
    cases ht.symm.trans hu
    exact hk

end

/-- Settles O57: a command stops only for an address beyond the stack, and its next state keeps the queue and the straps. -/
theorem commandsAnswerAndLeaveTheQueue : Obligations.CommandsAnswerAndLeaveTheQueue := by
  refine ⟨fun c s => ?_, fun c s t ht => ?_⟩
  · by_cases h : BeyondStack c
    · have hf := exec_of_beyondStack c s h
      refine ⟨fun r => by rw [hf]; nofun, .inr ⟨hf, ?_⟩⟩
      cases c with
      | writeArrival => exact .inl ⟨_, _, _, _, rfl, h⟩
      | readRequestSnoop => exact .inr (.inl ⟨_, _, _, rfl, h⟩)
      | controllerErrorResponse => exact .inr (.inr ⟨_, _, _, _, rfl, h⟩)
      | _ => exact h.elim
    · obtain ⟨t, ht, -⟩ := (exec_goes c h (.refl s)).exists_next
      exact ⟨fun r => by rw [ht]; nofun, .inl ⟨t, ht⟩⟩
  · have hk := keeps_of_exec ht
    exact ⟨hk.1, hk.2.1⟩

/-- Settles O58: a tick and every command keep the canonical form of the memory, and what waits after a step waited before it. -/
theorem stepKeepsMemoryForm : Obligations.StepKeepsMemoryForm := by
  intro s t hm hq ht
  unfold step at ht
  split at ht
  next hp =>
    cases ht
    have hk : s.Keeps s.tick := .tick (.refl s)
    exact ⟨hk.2.2 hm, fun c hc => hq c (hk.1 ▸ hc)⟩
  next c l hp =>
    have hk := keeps_of_exec ht
    have hl : t.pending = l := hk.1
    exact ⟨hk.2.2 hm, fun x hx => hq x (hp ▸ List.mem_cons_of_mem c (hl ▸ hx))⟩

/-- Settles O59: nothing is in memory and no command waits. -/
theorem resetMeetsTheInvariant : Obligations.ResetMeetsTheInvariant :=
  ⟨reset_memWf, fun _ h => absurd h List.not_mem_nil, rfl⟩

end Sys2Proof.Machine
end

section
/-! SUPPORT. What the end of an operation leaves (R89 to R103): its final record stands, the operation has left the list, and beside what
an operation holds only signals change. -/

namespace Sys2Proof.Machine

theorem State.SignalsOnly.ops_eq {s t : State} (h : s.SignalsOnly t) : t.ops = s.ops := by rw [h]
theorem State.SignalsOnly.recs_eq {s t : State} (h : s.SignalsOnly t) : t.recs = s.recs := by rw [h]

/-- The audit record of a configuration change changes signals alone (R102). -/
theorem State.signalsOnly_auditFinal (s : State) (o : Op) (status aux : Nat) : s.SignalsOnly (s.auditFinal o status aux) := by
  unfold State.auditFinal
  split
  · rfl
  split
  · split
    · exact (State.signalsOnly_setAudit _ _).trans (State.signalsOnly_settleAudit _)
    · rfl
  dsimp only
  split <;> exact State.signalsOnly_auditForm _ _ _ _ _ _ _ _ _

/-- `t` is `s` but for signals and for what ends with an operation: its place in the list, its records, its sequencer and triggers, and its
references. -/
def State.EndsOnly (s t : State) : Prop :=
  t = { s with mem := t.mem, tap := { s.tap with queue := t.tap.queue }, port := { s.port with tx := t.port.tx }
               evt := t.evt, audit := t.audit, recs := t.recs, ops := t.ops, seqs := t.seqs, tables := t.tables }

theorem State.EndsOnly.trans {s t u : State} (h : s.EndsOnly t) (g : t.EndsOnly u) : s.EndsOnly u := by
  unfold State.EndsOnly at g ⊢
  rw [g, h]

theorem State.SignalsOnly.endsOnly {s t : State} (h : s.SignalsOnly t) : s.EndsOnly t := by
  unfold State.EndsOnly
  rw [h]

section
variable {s t : State} (h : s.EndsOnly t)
include h
theorem State.EndsOnly.regions_eq : t.regions = s.regions := by rw [h]
theorem State.EndsOnly.sheaves_eq : t.sheaves = s.sheaves := by rw [h]
theorem State.EndsOnly.sctx_eq : t.port.sctx = s.port.sctx := by rw [h]
theorem State.EndsOnly.rctx_eq : t.port.rctx = s.port.rctx := by rw [h]
end

section
variable (s : State) (o : Op) (st cursor result aux : Nat)

theorem State.endsOnly_finishOne : s.EndsOnly (s.finishOne o st cursor result aux) :=
  .trans (t := { s with
    recs := s.recs.filter (fun r : Rec => !(r.op == o.id && !r.final)) ++ [s.mkRec o (finalStatus st) cursor result aux true]
    ops := s.ops.filter (fun x => x.id != o.id)
    seqs := { s.seqs with q := s.seqs.q.filter (fun p => p.2 != o.id), ready := s.seqs.ready.filter (fun x => x != o.id),
                          trigOwn := s.seqs.trigOwn.filter (fun p => p.2 != o.id) }
    tables := s.tables.dropRefs o.id }) rfl (State.signalsOnly_auditFinal _ _ _ _).endsOnly

theorem State.finishOne_ops : (s.finishOne o st cursor result aux).ops = s.ops.filter (fun x => x.id != o.id) :=
  (State.signalsOnly_auditFinal _ _ _ _).ops_eq

theorem State.finishOne_recs : (s.finishOne o st cursor result aux).recs =
    s.recs.filter (fun r : Rec => !(r.op == o.id && !r.final)) ++ [s.mkRec o (finalStatus st) cursor result aux true] :=
  (State.signalsOnly_auditFinal _ _ _ _).recs_eq

/-- An operation that is final stays final, with its record, as another one ends. -/
theorem State.completed.finishOne {id status result' aux' : Nat} {s : State} (h : s.completed id status result' aux') :
    (s.finishOne o st cursor result aux).completed id status result' aux' := by
  obtain ⟨hop, r, hr, hid, hfinal, hrec⟩ := h
  refine ⟨?_, r, ?_, hid, hfinal, hrec⟩
  · rw [State.op?, List.find?_eq_none] at hop ⊢
    rw [State.finishOne_ops]
    exact fun x hx => hop x (List.mem_of_mem_filter hx)
  · rw [State.finishOne_recs]
    exact List.mem_append_left _ (List.mem_filter.mpr ⟨hr, by simp [hfinal]⟩)

/-- Its own end makes an operation final, with these fields in its record (Table 3-10). -/
theorem State.completed_finishOne : (s.finishOne o st cursor result aux).completed o.id (finalStatus st)
    (if o.showsResult (finalStatus st) then result % 2 ^ 64 else 0) aux := by
  refine ⟨?_, s.mkRec o (finalStatus st) cursor result aux true, ?_, rfl, rfl, rfl, rfl, rfl⟩
  · rw [State.op?, List.find?_eq_none, State.finishOne_ops]
    intro x hx
    simpa using (List.mem_filter.mp hx).2
  · rw [State.finishOne_recs]
    exact List.mem_append_right _ (List.mem_singleton.mpr rfl)

theorem State.endsOnly_finish : s.EndsOnly (s.finish o st cursor result aux) :=
  List.foldlRecOn (motive := s.EndsOnly) _ _ (s.endsOnly_finishOne o st cursor result aux)
    fun _ h _ _ => h.trans (State.endsOnly_finishOne _ _ _ _ _ _)

/-- The controls that wait for an operation end after it and leave its record. -/
theorem State.completed_finish : (s.finish o st cursor result aux).completed o.id (finalStatus st)
    (if o.showsResult (finalStatus st) then result % 2 ^ 64 else 0) aux :=
  List.foldlRecOn (motive := fun t : State => t.completed o.id (finalStatus st)
    (if o.showsResult (finalStatus st) then result % 2 ^ 64 else 0) aux) _ _ (s.completed_finishOne o st cursor result aux)
    fun _ h _ _ => h.finishOne _ _ _ _ _

theorem State.completed_finish_ok : (s.finish o stOk cursor result aux).completed o.id stOk (result % 2 ^ 64) aux :=
  s.completed_finish o stOk cursor result aux

theorem State.endsOnly_fail : s.EndsOnly (s.fail o st) := s.endsOnly_finish o st _ _ _

theorem State.completed_fail : (s.fail o st).completed o.id (finalStatus st) 0 0 := by
  simpa [State.fail] using s.completed_finish o st o.cursor 0 0

end

theorem State.op?_some_id {s : State} {id : Nat} {o : Op} (h : s.op? id = some o) : o.id = id := by
  simpa using List.find?_some h

/-- An operation at work is the one with its number. -/
theorem State.op?_of_work {s : State} {id code : Nat} {o : Op} (h : s.work id code = some o) : s.op? id = some o := by
  unfold State.work at h
  split at h
  next x hx =>
    split at h
    · cases h; exact hx
    · cases h
  next => cases h

theorem State.id_of_work {s : State} {id code : Nat} {o : Op} (h : s.work id code = some o) : o.id = id :=
  State.op?_some_id (State.op?_of_work h)

end Sys2Proof.Machine
end

section
/-! The statement of REGION_SETUP: O13. A region that enters SETUP takes a free slot and changes no other (R45), and its setup ends with its
digest (R46). -/

namespace Sys2Proof.Machine

/-- The statuses of a setup are ones that a final record carries (R94). -/
theorem State.finalStatus_setupStatus (s : State) (o : Op) (r : Option Region) : finalStatus (s.setupStatus o r) = s.setupStatus o r := by
  unfold State.setupStatus
  split
  · rfl
  · split_ifs <;> rfl

/-- A setup that passes finds a free slot (Table 2-6). -/
theorem State.free_of_setupStatus {s : State} {o : Op} {r : Region} (h : s.setupStatus o (some r) = 0) :
    ∃ i, s.regions.free 256 = some i := by
  have hc : s.setupConflict r = false := by
    by_contra hc
    simp only [State.setupStatus, Bool.not_eq_false] at h hc
    split_ifs at h <;> simp_all [stNotSupported, stNackTag, stConflict]
  refine Option.isSome_iff_exists.mp ?_
  simp only [State.setupConflict, Bool.or_eq_false_iff, Option.isNone_eq_false_iff] at hc
  tauto

theorem Tab.free_spec {α : Type} {t : Tab α} {n i : Nat} (h : t.free n = some i) : t.get i = none ∧ i < n := by
  refine ⟨?_, List.mem_range.mp (List.mem_of_find?_eq_some h)⟩
  simpa [Tab.has] using List.find?_some h

/-- What a new region keeps beside its image: its guard block, its dirty-map entries, its ledger entry and its window (R307, R125, R393). -/
def State.setupRegion (s : State) (r : Region) : Region :=
  { r with
    guardBlock := if r.guardTiles = 0 then none else s.fitGuard r, guardLine := r.lineBytes, guardLen := r.guardTiles
    dirtyBase := if r.role.captured then s.fitDirty r else none
    ledger := if s.ledgerOn then s.takeEntry r.tileBase r.tileCount r.jobTag else none, winStart := s.now }

/-- `t` is `s` but for the memory. -/
def State.MemoryOnly (s t : State) : Prop := t = { s with mem := t.mem }

theorem State.MemoryOnly.trans {s t u : State} (h : s.MemoryOnly t) (g : t.MemoryOnly u) : s.MemoryOnly u := by
  unfold State.MemoryOnly at g ⊢
  rw [g, h]

/-- A region that enters SETUP takes its slot; the ledger's entries are in the stack, and the pairing entries of its tiles go (R115). -/
theorem State.enterSetup_does (s : State) (op : Nat) (r : Region) : ∃ (m : Tab Byte) (f : Op → Op), s.enterSetup op r =
    ({ { s with mem := m }.dropPairs r.tileBase r.tileCount with
      regions := s.regions.set ((s.regions.free 256).getD 0) (s.setupRegion r) }).modOp op f := by
  unfold State.enterSetup
  extract_lets i e own r1 s1 s2
  have h1 : s.MemoryOnly s1 := List.foldlRecOn (motive := s.MemoryOnly) _ _ rfl fun _ h _ _ => h.trans rfl
  have h2 : s.MemoryOnly s2 := by
    unfold s2
    clear_value e
    cases e with
    | some k => exact h1.trans rfl
    | none => exact h1
  obtain ⟨m, hm⟩ : ∃ m, s2 = { s with mem := m } := ⟨_, h2⟩
  clear_value s2
  subst hm
  exact ⟨m, fun o => { o.keep nkRegion i with stage := .walking, aux := i }, rfl⟩

theorem State.pairs_dropPairs (s : State) {base n k : Nat} (h1 : base ≤ k) (h2 : k < base + n) :
    (s.dropPairs base n).tap.pairs.get k = none := by
  refine (Tab.get_filter s.tap.pairs (fun a => !decide (base ≤ a ∧ a < base + n)) k).trans ?_
  simp [h1, h2]

/-- What the image gives beside its own bytes (R46, Table 2-1). -/
theorem parseImage_fresh {v : List Byte} {r : Region} (h : parseImage v = some r) : r.state = .setup ∧ r.sheaf = 0 ∧ r.member = 0xFF := by
  unfold parseImage at h
  split at h
  · cases h
  split at h
  · dsimp only at h
    split at h
    · cases h
    · cases h
      exact ⟨rfl, rfl, rfl⟩
  · cases h

/-- Reading the slots of the RICK changes headers and slots alone (R238). -/
theorem State.regions_readSlots (s : State) : s.readSlots.regions = s.regions := by
  unfold State.readSlots
  extract_lets a b turn
  have hturn : ∀ t x, (turn t x).regions = t.regions := fun t x => by
    unfold turn
    split <;> rfl
  rw [hturn, hturn]

/-- A setup with no tile left does nothing more. -/
theorem State.setupLoop_of_done (ext : Ext) (op j units : Nat) {s : State} {o : Op} {r : Region} (ho : s.op? op = some o)
    (hr : r.tileCount ≤ o.cursor) : State.setupLoop ext op j r units s = (s, true) := by
  cases units with
  | zero => rfl
  | succ n => simp [State.setupLoop, ho, hr]

/-- A region whose setup has ended (Table 2-1). -/
def Region.madeLive (r : Region) : Region := { r with state := .live }

/-- After its last tile a region is LIVE, and its setup ends with its digest and its index. -/
theorem execRegionSetup_of_done {s : State} {op units : Nat} {ext : Ext} {o : Op} {r : Region} (hwork : s.work op 0x01 = some o)
    (hstage : o.stage = .walking) (hr : s.regions.get (o.n nkRegion) = some r) (hdone : r.tileCount ≤ o.cursor) :
    ∃ u : State, u.regions = s.regions.upd (o.n nkRegion) Region.madeLive ∧
      execRegionSetup op units ext s = .next (State.settle (u.finish o stOk o.cursor r.digest.toNat (o.n nkRegion))) := by
  have ho := State.op?_of_work hwork
  refine ⟨if r.role = .rick then (s.modRegion (o.n nkRegion) Region.madeLive).readSlots
    else s.modRegion (o.n nkRegion) Region.madeLive, ?_, ?_⟩
  · split
    · exact State.regions_readSlots _
    · rfl
  · simp [execRegionSetup, hwork, hstage, hr, State.setupLoop_of_done ext op (o.n nkRegion) units ho hdone, ho, not_lt.mpr hdone]
    rfl

/-- Settles O13: the checks give the slot, the region enters it beside its image, and after its last tile the record takes its digest. -/
theorem regionSetupRegisters : Obligations.RegionSetupRegisters := by
  refine ⟨?_, ?_, ?_⟩
  · intro si s op units ext o v r hwork hstage hread hv hst
    obtain ⟨i, hi⟩ := State.free_of_setupStatus hst
    obtain ⟨hnone, hlt⟩ := Tab.free_spec hi
    obtain ⟨hstate, hsheaf, hmember⟩ := parseImage_fresh hv
    obtain ⟨m, f, hdoes⟩ := s.enterSetup_does op r
    have hexec : exec (.regionSetup op units ext) si = .next (s.enterSetup op r) := by
      show execRegionSetup op units ext si = _
      simp [execRegionSetup, hwork, hstage, hread, hv, hst]
    rw [hi, Option.getD_some] at hdoes
    refine ⟨_, i, s.setupRegion r, hexec, hnone, hlt, ?_, rfl, rfl, rfl, rfl, rfl, hstate, hsheaf, hmember, ?_⟩ <;> rw [hdoes]
    · exact Tab.get_set_self _ _ _
    · exact ⟨fun j hj => Tab.get_set_ne _ _ _ _ hj, rfl, rfl, fun k h1 h2 => State.pairs_dropPairs { s with mem := m } h1 h2⟩
  · intro si s op units ext o v hwork hstage hread hst
    refine ⟨s.fail o (s.setupStatus o (parseImage v)), ?_, (s.endsOnly_fail o _).regions_eq, ?_⟩
    · show execRegionSetup op units ext si = _
      simp [execRegionSetup, hwork, hstage, hread, hst]
    · have h := s.completed_fail o (s.setupStatus o (parseImage v))
      rwa [s.finalStatus_setupStatus, State.id_of_work hwork] at h
  · intro s op units ext o r hwork hstage hr hdone
    obtain ⟨u, hu, hexec⟩ := execRegionSetup_of_done (units := units) (ext := ext) hwork hstage hr hdone
    refine ⟨u.finish o stOk o.cursor r.digest.toNat (o.n nkRegion), r.madeLive, hexec, ?_, rfl, rfl, rfl, rfl, ?_⟩
    · rw [(u.endsOnly_finish o _ _ _ _).regions_eq, hu]
      simp [Tab.get_upd, hr]
    · have h := u.completed_finish_ok o o.cursor r.digest.toNat (o.n nkRegion)
      rwa [Nat.mod_eq_of_lt r.digest.isLt, State.id_of_work hwork] at h

end Sys2Proof.Machine
end

section
/-! SUPPORT. What reports leave (R383 to R386): a report, a dedup key and its record change the liveness state, counters and signals, and
no region, no sheaf and no time. -/

namespace Sys2Proof.Machine

/-- `t` is `s` but for signals, counters, dedup keys, reports sent and lark rounds. -/
def State.ReportsOnly (s t : State) : Prop :=
  t = { s with mem := t.mem, regs := t.regs, tap := { s.tap with queue := t.tap.queue }, port := { s.port with tx := t.port.tx }
               evt := t.evt, audit := t.audit
               sward := { t.sward with tick := s.sward.tick, cfg := s.sward.cfg } }

theorem State.ReportsOnly.refl (s : State) : s.ReportsOnly s := rfl

theorem State.ReportsOnly.trans {s t u : State} (h : s.ReportsOnly t) (g : t.ReportsOnly u) : s.ReportsOnly u := by
  unfold State.ReportsOnly at g ⊢
  rw [g, h]

theorem State.SignalsOnly.reportsOnly {s t : State} (h : s.SignalsOnly t) : s.ReportsOnly t := by
  unfold State.ReportsOnly
  rw [h]

section
variable {s t : State} (h : s.ReportsOnly t)
include h
theorem State.ReportsOnly.regions_eq : t.regions = s.regions := by rw [h]
theorem State.ReportsOnly.sheaves_eq : t.sheaves = s.sheaves := by rw [h]
theorem State.ReportsOnly.power_eq : t.power = s.power := by rw [h]
theorem State.ReportsOnly.time_eq : t.time = s.time := by rw [h]
theorem State.ReportsOnly.tick_eq : t.sward.tick = s.sward.tick := by rw [h]
end

theorem State.signalsOnly_event (s : State) (src detail : Nat) : s.SignalsOnly (s.event src detail) := by
  obtain ⟨e, he⟩ := s.event_changes_evt src detail
  rw [he]
  rfl

theorem State.reportsOnly_bumpBy (s : State) (off n : Nat) : s.ReportsOnly (s.bumpBy off n) := by
  unfold State.bumpBy
  split <;> rfl

theorem State.reportsOnly_bump (s : State) (off : Nat) : s.ReportsOnly (s.bump off) := s.reportsOnly_bumpBy off 1

theorem State.reportsOnly_setSward (s : State) (w : Sward) (ht : w.tick = s.sward.tick) (hc : w.cfg = s.sward.cfg) :
    s.ReportsOnly { s with sward := w } := by
  unfold State.ReportsOnly
  rw [← ht, ← hc]

theorem State.signalsOnly_writeReport (s : State) (k : Key) : s.SignalsOnly (s.writeReport k) := by
  unfold State.writeReport
  dsimp only
  split
  · split
    · rfl
    · exact State.signalsOnly_store _ _ _ _
  · rfl

theorem State.reportsOnly_closeKeys (s : State) (p : Key → Bool) : s.ReportsOnly (s.closeKeys p) := by
  unfold State.closeKeys
  extract_lets gone s1
  have h1 : s.ReportsOnly s1 := by
    refine List.foldlRecOn (motive := s.ReportsOnly) _ _ (.refl s) fun t h k _ => ?_
    split
    · exact h.trans (t.signalsOnly_writeReport k).reportsOnly
    · exact h
  exact h1.trans (s1.reportsOnly_setSward _ rfl rfl)

theorem State.reportsOnly_takeReport (s : State) (sheaf dst job epoch kind subject reporter : Nat) :
    s.ReportsOnly (s.takeReport sheaf dst job epoch kind subject reporter) := by
  unfold State.takeReport
  split
  next => exact s.reportsOnly_bump _
  next =>
    split
    · exact s.reportsOnly_bump _
    extract_lets is b _ s1 ring k _ s2
    split
    next => exact (s.reportsOnly_setSward _ rfl rfl).trans (State.reportsOnly_bump _ _)
    next =>
      have h1 : s.ReportsOnly s1 := by
        unfold s1
        split
        · rfl
        · split
          · exact s.reportsOnly_closeKeys _
          · rfl
      have h2 : s1.ReportsOnly s2 := s1.reportsOnly_setSward _ rfl rfl
      exact (h1.trans h2).trans ((s2.signalsOnly_writeReport k).trans (State.signalsOnly_event _ _ _)).reportsOnly

theorem State.reportsOnly_report (s : State) (sheaf kind subject level : Nat) : s.ReportsOnly (s.report sheaf kind subject level) := by
  unfold State.report
  split
  next =>
    split
    · rfl
    extract_lets keep _ s1
    have h1 : s.ReportsOnly s1 := rfl
    split
    · exact h1
    split
    · exact h1
    split
    · exact h1.trans (s1.reportsOnly_takeReport _ _ _ _ _ _ _)
    · exact h1.trans rfl
  next => rfl

end Sys2Proof.Machine
end

section
/-! SUPPORT. What the ends of messages and contexts leave of the regions (R138, R142 to R144, R164): each region stays in its sheaf under
its epoch. -/

namespace Sys2Proof.Machine

/-- The sheaf and the epoch of every region. -/
def State.seats (s : State) : Tab (Nat × Nat) := s.regions.map (fun p => (p.1, p.2.sheaf, p.2.epoch))

theorem Tab.get_map {α β : Type} (t : Tab α) (f : α → β) (k : Nat) : Tab.get (t.map (fun p => (p.1, f p.2))) k = (t.get k).map f := by
  induction t with
  | nil => rfl
  | cons p t ih =>
    simp only [List.map_cons, Tab.get, ih]
    split <;> rfl

theorem State.get_seats (s : State) (j : Nat) : s.seats.get j = (s.regions.get j).map (fun r => (r.sheaf, r.epoch)) :=
  Tab.get_map s.regions (fun r => (r.sheaf, r.epoch)) j

theorem State.seats_of_regions {s t : State} (h : t.regions = s.regions) : t.seats = s.seats := by rw [State.seats, h, State.seats]

theorem State.seats_modRegion (s : State) (i : Nat) {f : Region → Region} (hf : ∀ r, (f r).sheaf = r.sheaf ∧ (f r).epoch = r.epoch) :
    (s.modRegion i f).seats = s.seats := by
  simp only [State.seats, State.modRegion_regions, Tab.upd, List.map_map]
  refine List.map_congr_left fun p _ => ?_
  simp only [Function.comp_apply]
  split
  · rw [(hf p.2).1, (hf p.2).2]
  · rfl

/-- `t` is `s` but for the tap and the table memories. -/
def State.SlotsOnly (s t : State) : Prop := t = { s with tap := t.tap, tables := t.tables }

theorem State.SlotsOnly.trans {s t u : State} (h : s.SlotsOnly t) (g : t.SlotsOnly u) : s.SlotsOnly u := by
  unfold State.SlotsOnly at g ⊢
  rw [g, h]

theorem State.SlotsOnly.regions_eq {s t : State} (h : s.SlotsOnly t) : t.regions = s.regions := by rw [h]
theorem State.SlotsOnly.port_eq {s t : State} (h : s.SlotsOnly t) : t.port = s.port := by rw [h]

theorem State.slotsOnly_freeSlot (s : State) (k : Nat) : s.SlotsOnly (s.freeSlot k) := by
  unfold State.freeSlot
  split
  · rfl
  · split <;> rfl

theorem State.slotsOnly_slotDone (s : State) (k : Nat) : s.SlotsOnly (s.slotDone k) := by
  unfold State.slotDone
  split
  · rfl
  · split
    · exact s.slotsOnly_freeSlot k
    · rfl

/-- The end of a message marks a settle wait that it fails, and nothing else of a region (R204). -/
theorem State.seats_endMsg (s : State) (n : Nat) (m : Msg) (retired : Bool) (st : Option Nat) :
    (s.endMsg n m retired st).seats = s.seats := by
  unfold State.endMsg
  extract_lets _ s1 s2 s3
  have h2 : s2.seats = s1.seats := by
    unfold s2
    split
    · split
      · exact State.seats_modRegion _ _ fun _ => ⟨rfl, rfl⟩
      · rfl
    · rfl
  have h3 : s3.seats = s2.seats := by
    unfold s3
    split <;> rfl
  exact (State.seats_of_regions (State.slotsOnly_slotDone _ _).regions_eq).trans (h3.trans h2)

theorem State.seats_dropMsgs (s : State) (n : Nat) (p : Msg → Bool) : (s.dropMsgs n p).seats = s.seats := by
  unfold State.dropMsgs
  split
  · rfl
  · exact List.foldlRecOn (motive := fun t : State => t.seats = s.seats) _ _ rfl fun t h m _ => (t.seats_endMsg n m false none).trans h

theorem State.seats_freeSend (s : State) (p : SendCtx → Bool) : (s.freeSend p).seats = s.seats := by
  unfold State.freeSend
  extract_lets gone s1
  have h1 : s1.seats = s.seats :=
    List.foldlRecOn (motive := fun t : State => t.seats = s.seats) _ _ rfl fun t h n _ => (t.seats_dropMsgs n _).trans h
  exact h1

theorem State.seats_freeRecv (s : State) (p : RecvCtx → Bool) : (s.freeRecv p).seats = s.seats := rfl

/-- A send context that is freed is gone. -/
theorem State.sctx_freeSend (s : State) (p : SendCtx → Bool) : ∀ c ∈ (s.freeSend p).port.sctx, p c.2 = false := by
  intro c hc
  simpa using (List.mem_filter.mp hc).2

theorem State.rctx_freeRecv (s : State) (p : RecvCtx → Bool) : ∀ c ∈ (s.freeRecv p).port.rctx, p c.2 = false := by
  intro c hc
  simpa using (List.mem_filter.mp hc).2

/-- A region as it stands outside every sheaf (R474). -/
def Region.outOfSheaf (r : Region) : Region :=
  { r with member := 0xFF, sheaf := 0, epoch := 0, board := 0, shelf := 0, row := 0, domainOvr := false, logBlock := none, mig := none
           quiet := none, settleFail := false }

/-- A leave takes the region out of its sheaf with its contexts, and every other region stays in its own (R474). -/
theorem State.leaveSheaf_does {s : State} {j : Nat} {r : Region} (hr : s.regions.get j = some r) :
    ∃ t : State, t.seats = s.seats ∧ (∀ c ∈ t.port.sctx, c.2.region ≠ j) ∧ (∀ c ∈ t.port.rctx, c.2.region ≠ j) ∧
      (s.leaveSheaf j).regions = t.regions.upd j Region.outOfSheaf ∧ (s.leaveSheaf j).port = t.port := by
  unfold State.leaveSheaf
  split
  next h => exact absurd (hr.symm.trans h) nofun
  extract_lets s1 _ s2 s3
  have h3 : s1.SlotsOnly s3 :=
    List.foldlRecOn (motive := s1.SlotsOnly) _ _ rfl fun t h q _ => h.trans (t.slotsOnly_freeSlot q.1)
  refine ⟨s3, ?_, ?_, ?_, ?_, ?_⟩
  · calc s3.seats = s1.seats := State.seats_of_regions h3.regions_eq
      _ = s.seats := (State.seats_freeRecv _ _).trans (State.seats_freeSend _ _)
  · rw [h3.port_eq]
    intro c hc
    simpa using s.sctx_freeSend (fun c => c.region == j) c hc
  · rw [h3.port_eq]
    intro c hc
    simpa using (s.freeSend (fun c => c.region == j)).rctx_freeRecv (fun c => c.region == j) c hc
  · split <;> rfl
  · split <;> rfl

end Sys2Proof.Machine
end

section
/-! SUPPORT. What a join and a new table leave of the regions (R59 to R61, R164, R389). -/

namespace Sys2Proof.Machine

/-- `t` has the regions and the sheaves of `s`. -/
def State.SameMembership (s t : State) : Prop := t.regions = s.regions ∧ t.sheaves = s.sheaves

theorem State.SameMembership.refl (s : State) : s.SameMembership s := ⟨rfl, rfl⟩

theorem State.SameMembership.trans {s t u : State} (h : s.SameMembership t) (g : t.SameMembership u) : s.SameMembership u :=
  ⟨g.1.trans h.1, g.2.trans h.2⟩

theorem State.sameMembership_cbwAsk (s : State) (j t : Nat) : s.SameMembership (s.cbwAsk j t) := by
  unfold State.cbwAsk
  split
  · dsimp only
    split
    · split <;> exact ⟨rfl, rfl⟩
    · exact .refl s
  · exact .refl s

theorem State.sameMembership_cbwEngine (s : State) (j t : Nat) : s.SameMembership (s.cbwEngine j t) := by
  unfold State.cbwEngine
  extract_lets s1
  have h1 : s.SameMembership s1 := s.sameMembership_cbwAsk j t
  split
  · exact h1
  · exact h1.trans ⟨State.bump_regions _ _, State.bump_sheaves _ _⟩

/-- A repair write, held or not, changes no region (R313, R248). -/
theorem State.sameMembership_repairTile (s : State) (j t : Nat) (r : Region) (v : List Byte) :
    s.SameMembership (s.repairTile j t r v) := by
  unfold State.repairTile
  split
  · refine .trans ?_ (State.sameMembership_cbwEngine _ _ _)
    split <;> exact ⟨rfl, rfl⟩
  · exact ⟨State.putTile_regions _ _ _ _, State.putTile_sheaves _ _ _ _⟩

theorem State.sameMembership_zeroBlock (s : State) (r : Region) (b dMax : Nat) : s.SameMembership (s.zeroBlock r b dMax) := by
  unfold State.zeroBlock
  split
  · exact List.foldlRecOn (motive := s.SameMembership) _ _ (.refl s) fun t h i _ => h.trans (t.sameMembership_repairTile _ _ _ _)
  · exact .refl s

theorem State.sameMembership_addSend (s : State) (region sheaf row k : Nat) (x : Member) :
    s.SameMembership (s.addSend region sheaf row k x) := by
  unfold State.addSend
  split <;> exact ⟨rfl, rfl⟩

theorem State.sameMembership_addRecv (s : State) (region sheaf src : Nat) : s.SameMembership (s.addRecv region sheaf src) := by
  unfold State.addRecv
  split <;> exact ⟨rfl, rfl⟩

theorem State.sameMembership_addCtxs (s : State) (region id : Nat) (sh : Sheaf) (i : Nat) :
    s.SameMembership (s.addCtxs region id sh i) := by
  refine List.foldlRecOn (motive := s.SameMembership) _ _ (.refl s) fun t h p _ => h.trans ?_
  split
  · exact t.sameMembership_addSend _ _ _ _ _
  · exact t.sameMembership_addRecv _ _ _

/-- A join puts the region at its place under the sheaf, and lists the sheaf (R59, R474). -/
theorem State.enterSheaf_does {s : State} {j i : Nat} {t : SheafTab} {r : Region} {x : Member} (hr : s.regions.get j = some r)
    (hx : t.sh.mem? i = some x) (ovr : Bool) :
    (∃ q, (s.enterSheaf j i t ovr).regions.get j = some q ∧ q.sheaf = t.id ∧ q.member = i ∧
      q.epoch = ((s.sheaves.get t.id).getD t.sh).epoch) ∧
    (s.enterSheaf j i t ovr).sheaves = s.sheaves.set t.id ((s.sheaves.get t.id).getD t.sh) := by
  unfold State.enterSheaf
  split
  next r0 x0 hr0 hx0 =>
    extract_lets sh block s1 s2 s3 s4
    have h3 : s2.SameMembership s3 := by
      unfold s3
      split <;> exact ⟨rfl, rfl⟩
    have h4 : s2.SameMembership s4 := h3.trans (s3.sameMembership_addCtxs _ _ _ _)
    have entered : ∀ u, s2.SameMembership u → (∃ q, u.regions.get j = some q ∧ q.sheaf = t.id ∧ q.member = i ∧ q.epoch = sh.epoch) ∧
        u.sheaves = s.sheaves.set t.id sh := by
      rintro u ⟨hregions, hsheaves⟩
      refine ⟨?_, hsheaves⟩
      have hget : s2.regions.get j = (s.regions.get j).map _ := (s1.get_modRegion j j _).trans (if_pos rfl)
      rw [hregions, hget, hr]
      exact ⟨_, rfl, rfl, rfl, rfl⟩
    refine entered _ ?_
    clear_value block s4
    cases block with
    | none => exact h4
    | some b =>
      dsimp only
      split
      · exact h4.trans (s4.sameMembership_zeroBlock _ _ _)
      · exact h4
  next h => exact absurd hx (h r x hr)

theorem mem?_of_placeIn {s : State} {sh : Sheaf} {j i : Nat} (h : s.placeIn sh j = some i) : ∃ x, sh.mem? i = some x := by
  unfold State.placeIn at h
  split at h
  next k hk =>
    cases h
    have hmem : i ∈ (sh.members.zipIdx.filter (fun p => s.isLocal p.1 && p.1.region == j)).map (·.2) := by
      rw [hk]
      exact List.mem_singleton.mpr rfl
    obtain ⟨p, hp, rfl⟩ := List.mem_map.mp hmem
    exact ⟨p.1, List.mem_zipIdx_iff_getElem?.mp (List.mem_of_mem_filter hp)⟩
  next => cases h

/-- A join that passes has a region and its one place in the table (Table 2-10). -/
theorem State.of_joinStatus {s : State} {o : Op} {t : SheafTab} (h : s.joinStatus o (some t) = 0) :
    (∃ r, s.regions.get (o.arg 16 1) = some r) ∧ ∃ i, s.placeIn t.sh (o.arg 16 1) = some i := by
  unfold State.joinStatus at h
  dsimp only at h
  split at h
  · simp_all
  · exact absurd h (by decide)
  next t' r ht hr =>
    cases ht
    refine ⟨⟨r, hr⟩, ?_⟩
    split at h
    · exact absurd h (by decide)
    next hc =>
      unfold State.joinConflict at hc
      split at hc
      · exact absurd rfl hc
      next i hi => exact ⟨i, hi⟩

/-- The statuses of a join are ones that a final record carries (R94). -/
theorem State.finalStatus_joinStatus (s : State) (o : Op) (t : Option SheafTab) : finalStatus (s.joinStatus o t) = s.joinStatus o t := by
  unfold State.joinStatus
  dsimp only
  split
  · rfl
  · rfl
  · split_ifs <;> rfl

theorem State.finalStatus_leaveStatus (s : State) (o : Op) : finalStatus (s.leaveStatus o) = s.leaveStatus o := by
  unfold State.leaveStatus
  dsimp only
  split
  · rfl
  split
  · rfl
  · split_ifs <;> rfl

theorem State.finalStatus_updateStatus (s : State) (o : Op) (t : Option SheafTab) :
    finalStatus (s.updateStatus o t) = s.updateStatus o t := by
  unfold State.updateStatus
  split
  · rfl
  dsimp only
  split
  · rfl
  split
  · rfl
  · split_ifs <;> rfl

end Sys2Proof.Machine
end

section
/-! SUPPORT. What a new table of a sheaf leaves (R164, R389): every region that stays in the sheaf stands under the new epoch. -/

namespace Sys2Proof.Machine

/-- Every region of sheaf `id` stands under epoch `e`. -/
def State.EpochIs (s : State) (id e : Nat) : Prop := ∀ p ∈ s.seats, p.2.1 = id → p.2.2 = e

theorem State.EpochIs.of_seats {s t : State} {id e : Nat} (h : s.EpochIs id e) (hseats : t.seats = s.seats) : t.EpochIs id e := by
  unfold State.EpochIs
  rw [hseats]
  exact h

theorem State.EpochIs.of_regions {s t : State} {id e : Nat} (h : s.EpochIs id e) (hregions : t.regions = s.regions) : t.EpochIs id e :=
  h.of_seats (State.seats_of_regions hregions)

theorem Tab.mem_of_get {α : Type} {t : Tab α} {k : Nat} {v : α} (h : t.get k = some v) : (k, v) ∈ t := by
  induction t with
  | nil => cases h
  | cons p t ih =>
    simp only [Tab.get] at h
    split at h
    next hk => cases h; subst hk; exact List.mem_cons_self
    next => exact List.mem_cons_of_mem p (ih h)

theorem State.EpochIs.get {s : State} {id e j : Nat} {q : Region} (h : s.EpochIs id e) (hq : s.regions.get j = some q)
    (hs : q.sheaf = id) : q.epoch = e :=
  h (j, q.sheaf, q.epoch) (List.mem_map.mpr ⟨(j, q), Tab.mem_of_get hq, rfl⟩) hs

theorem State.seats_upd_out (s t : State) (j : Nat) (h : t.regions = s.regions.upd j Region.outOfSheaf) :
    ∀ p ∈ t.seats, p.2 = (0, 0) ∨ p ∈ s.seats := by
  intro p hp
  simp only [State.seats, h, Tab.upd, List.map_map, List.mem_map, Function.comp_apply] at hp ⊢
  obtain ⟨x, hx, rfl⟩ := hp
  split
  · exact .inl rfl
  · exact .inr ⟨x, hx, rfl⟩

/-- A region that leaves the sheaf leaves the others there under their epoch (R474). -/
theorem State.EpochIs.leaveSheaf {s : State} {id e : Nat} (h : s.EpochIs id e) (hid : id ≠ 0) (j : Nat) :
    (s.leaveSheaf j).EpochIs id e := by
  cases hr : s.regions.get j with
  | none => exact h.of_regions (by simp [State.leaveSheaf, hr])
  | some r =>
    obtain ⟨t, hseats, -, -, hregions, -⟩ := State.leaveSheaf_does hr
    intro p hp hs
    rcases State.seats_upd_out t _ j hregions p hp with hzero | hp
    · rw [hzero] at hs
      exact absurd hs.symm hid
    · exact h p (hseats ▸ hp) hs

theorem State.sameMembership_addPeers (s : State) (id : Nat) (sh : Sheaf) (l : List Nat) : s.SameMembership (s.addPeers id sh l) := by
  refine List.foldlRecOn (motive := s.SameMembership) _ _ (.refl s) fun t ht p _ => ?_
  refine List.foldlRecOn (motive := s.SameMembership) _ _ ht fun u hu q _ => ?_
  split
  · split
    · exact hu.trans (u.sameMembership_addSend _ _ _ _ _)
    · exact hu.trans (u.sameMembership_addRecv _ _ _)
  · exact hu

theorem State.sameMembership_tryMsg (s : State) (n seq : Nat) : s.SameMembership (s.tryMsg n seq) := by
  unfold State.tryMsg
  split
  · exact .refl s
  split
  · exact .refl s
  next c _ _ m _ =>
    extract_lets h p t m' s1 s2
    have h1 : s.SameMembership s1 := ⟨rfl, rfl⟩
    have h2 : s.SameMembership s2 := by
      unfold s2
      split
      · exact h1
      · exact h1.trans ⟨State.bump_regions _ _, State.bump_sheaves _ _⟩
    exact h2.trans ⟨rfl, rfl⟩

theorem State.sameMembership_resend (s : State) (id epoch : Nat) : s.SameMembership (s.resend id epoch) := by
  unfold State.resend
  extract_lets wake sctx _ s1
  refine List.foldlRecOn (motive := s.SameMembership) _ _ (⟨rfl, rfl⟩ : s.SameMembership s1) fun t ht p _ => ?_
  refine List.foldlRecOn (motive := s.SameMembership) _ _ ht fun u hu m _ => ?_
  split
  · exact hu.trans (u.sameMembership_tryMsg _ _)
  · exact hu

theorem State.ReportsOnly.sameMembership {s t : State} (h : s.ReportsOnly t) : s.SameMembership t := ⟨h.regions_eq, h.sheaves_eq⟩

theorem State.sameMembership_endEpoch (s : State) (id epoch : Nat) : s.SameMembership (s.endEpoch id epoch) :=
  .trans ⟨rfl, rfl⟩ (State.reportsOnly_closeKeys _ _).sameMembership

/-- With its new table a sheaf's regions stand under the new epoch (R389). -/
theorem State.epochIs_installSheaf (s : State) (id : Nat) (sh : Sheaf) (changed added : List Nat) :
    (s.installSheaf id sh changed added).EpochIs id sh.epoch := by
  unfold State.installSheaf
  extract_lets s1 regs s2
  have h2 : s2.EpochIs id sh.epoch := by
    intro p hp hs
    simp only [State.seats, s2, regs, List.map_map, List.mem_map, Function.comp_apply] at hp
    obtain ⟨x, -, rfl⟩ := hp
    dsimp only at hs ⊢
    split at hs <;> simp_all
  exact h2.of_regions (((s2.sameMembership_addPeers _ _ _).trans (State.sameMembership_endEpoch _ _ _)).trans
    (State.sameMembership_resend _ _ _)).1

end Sys2Proof.Machine
end

section
/-! SUPPORT. What larks leave (R379 to R382): marks, levels and times of members change, and no region, no epoch and no member's triple or
state. -/

namespace Sys2Proof.Machine

/-- `t` has the regions, the power state, the time and the lark tick of `s`, and the epochs, triples and member states of its sheaves. -/
structure State.SamePlaces (s t : State) : Prop where
  regions : t.regions = s.regions
  power : t.power = s.power
  time : t.time = s.time
  tick : t.sward.tick = s.sward.tick
  places : ∀ id, t.places id = s.places id

theorem State.SamePlaces.refl (s : State) : s.SamePlaces s := ⟨rfl, rfl, rfl, rfl, fun _ => rfl⟩

theorem State.SamePlaces.trans {s t u : State} (h : s.SamePlaces t) (g : t.SamePlaces u) : s.SamePlaces u :=
  ⟨g.regions.trans h.regions, g.power.trans h.power, g.time.trans h.time, g.tick.trans h.tick,
    fun id => (g.places id).trans (h.places id)⟩

theorem State.ReportsOnly.samePlaces {s t : State} (h : s.ReportsOnly t) : s.SamePlaces t :=
  ⟨h.regions_eq, h.power_eq, h.time_eq, h.tick_eq, fun id => by rw [State.places, h.sheaves_eq, State.places]⟩

/-- Changes of a member that keep its triple and state keep every sheaf's places. -/
theorem State.samePlaces_modMember (s : State) (id i : Nat) {f : Member → Member}
    (hf : ∀ x, (f x).triple = x.triple ∧ (f x).st = x.st) : s.SamePlaces (s.modMember id i f) := by
  refine ⟨rfl, rfl, rfl, rfl, fun k => ?_⟩
  simp only [State.places, State.modMember, State.modSheaf_sheaves, Tab.get_upd]
  split
  · rw [Option.map_map]
    congr 1
    funext sh
    simp only [Function.comp_apply, Sheaf.modMember, Prod.mk.injEq, true_and]
    refine List.ext_getElem? fun n => ?_
    simp only [List.getElem?_map, List.getElem?_modify]
    cases sh.members[n]? with
    | none => simp
    | some x =>
      simp only [Option.map_some, Option.map_eq_map]
      split
      · rw [(hf x).1, (hf x).2]
      · rfl
  · rfl

theorem State.samePlaces_bump (s : State) (off : Nat) : s.SamePlaces (s.bump off) := (s.reportsOnly_bump off).samePlaces

theorem State.samePlaces_markSilent (s : State) (ticks id i : Nat) (x : Member) : s.SamePlaces (s.markSilent ticks id i x) := by
  unfold State.markSilent
  split
  · refine (s.samePlaces_modMember id i ?_).trans ((State.samePlaces_bump _ _).trans (State.reportsOnly_report _ _ _ _ _).samePlaces)
    exact fun _ => ⟨rfl, rfl⟩
  · exact .refl s

theorem State.samePlaces_sendLark (s : State) (p : Nat × Nat) : s.SamePlaces (s.sendLark p) := by
  unfold State.sendLark
  extract_lets es round route pk rounds
  refine .trans ?_ (State.reportsOnly_bumpBy _ _ _).samePlaces
  exact ⟨rfl, rfl, rfl, rfl, fun _ => rfl⟩

theorem State.samePlaces_larkValid (s : State) (id i level : Nat) (x : Member) : s.SamePlaces (s.larkValid id i level x) := by
  unfold State.larkValid
  extract_lets own s1 s2
  have h1 : s.SamePlaces s1 := s.samePlaces_modMember id i fun _ => ⟨rfl, rfl⟩
  have h2 : s.SamePlaces s2 := by
    unfold s2
    split
    · exact h1.trans (s1.samePlaces_bump _)
    · exact h1
  split
  · exact h2
  · exact h2.trans ((s2.signalsOnly_event _ _).reportsOnly.trans (State.reportsOnly_report _ _ _ _ _)).samePlaces

theorem State.samePlaces_larkEntry (s : State) (src job level : Nat) (e : List Byte) : s.SamePlaces (s.larkEntry src job level e) := by
  unfold State.larkEntry
  dsimp only
  split
  · exact s.samePlaces_bump _
  split
  · exact s.samePlaces_bump _
  split
  · exact s.samePlaces_bump _
  split
  · exact s.samePlaces_bump _
  split
  · exact s.samePlaces_bump _
  split
  · refine (s.samePlaces_modMember _ _ ?_).trans (State.samePlaces_bump _ _)
    exact fun _ => ⟨rfl, rfl⟩
  · exact s.samePlaces_larkValid _ _ _ _

end Sys2Proof.Machine
end

section
/-! The statement of sheaf membership: O15. What SHEAF_JOIN, SHEAF_LEAVE and MEMBERSHIP_UPDATE change, and that larks and reports change no
membership. -/

namespace Sys2Proof.Machine

/-- An operation that fails changes no region and no sheaf, and its record has its status alone. -/
theorem State.fail_does (s : State) {o : Op} {op st : Nat} (hid : o.id = op) (hst : finalStatus st = st) :
    (s.fail o st).regions = s.regions ∧ (s.fail o st).sheaves = s.sheaves ∧ (s.fail o st).completed op st 0 0 := by
  have h := s.endsOnly_fail o st
  refine ⟨h.regions_eq, h.sheaves_eq, ?_⟩
  rw [← hid]
  simpa only [hst] using s.completed_fail o st

/-! ## SHEAF_JOIN and SHEAF_LEAVE (R59 to R61, R474) -/

theorem State.get_larkNow_isSome (s : State) (id k : Nat) : ((s.larkNow id).sheaves.get k).isSome = (s.sheaves.get k).isSome := by
  simp only [State.larkNow, State.modSheaf_sheaves, Tab.get_upd]
  split
  · rw [Option.isSome_map]
  · rfl

/-- A join that passes ends with its region in the sheaf at its place, and the sheaf listed. -/
theorem execSheafJoin_of_passes {si s : State} {op : Nat} {ext : Ext} {o : Op} {v : List Byte} {t : SheafTab}
    (hwork : si.work op 0x03 = some o) (hread : si.readTable ext (o.arg 24 8) = (.data v, s)) (ht : parseSheaf v s.now = some t)
    (hst : s.joinStatus o (some t) = 0) :
    ∃ (i : Nat) (o1 : Op) (w : State), execSheafJoin op ext si = .next (State.settle (w.finish o1 stOk 0 0 i)) ∧
      s.placeIn t.sh (o.arg 16 1) = some i ∧ o1.id = op ∧ (w.sheaves.get t.id).isSome = true ∧
      ∃ q, w.regions.get (o.arg 16 1) = some q ∧ q.sheaf = t.id ∧ q.member = i ∧ q.epoch = ((s.sheaves.get t.id).getD t.sh).epoch := by
  obtain ⟨⟨r, hr⟩, i, hi⟩ := State.of_joinStatus hst
  obtain ⟨x, hx⟩ := mem?_of_placeIn hi
  obtain ⟨hq, hsheaves⟩ := State.enterSheaf_does hr hx (t.sh.labelConflict i).isSome
  unfold execSheafJoin
  simp only [hwork, hread, ht, hst, hi, Option.getD_some, ne_eq, not_true_eq_false, if_false]
  have hid : o.id = op := State.id_of_work hwork
  refine ⟨i, _, _, rfl, rfl, ?_, ?_, ?_⟩
  · split <;> exact hid
  · split
    · rw [hsheaves, Tab.get_set_self]; rfl
    · rw [State.get_larkNow_isSome, hsheaves, Tab.get_set_self]; rfl
  · split <;> exact hq

theorem execSheafJoin_of_fails {si s : State} {op : Nat} {ext : Ext} {o : Op} {v : List Byte} (hwork : si.work op 0x03 = some o)
    (hread : si.readTable ext (o.arg 24 8) = (.data v, s)) (hst : s.joinStatus o (parseSheaf v s.now) ≠ 0) :
    execSheafJoin op ext si = .next (s.fail o (s.joinStatus o (parseSheaf v s.now))) := by
  simp [execSheafJoin, hwork, hread, hst]

theorem State.of_leaveStatus {s : State} {o : Op} (h : s.leaveStatus o = 0) : ∃ r, s.regions.get (o.arg 16 1) = some r := by
  unfold State.leaveStatus at h
  dsimp only at h
  split at h
  · exact absurd h (by decide)
  split at h
  · exact absurd h (by decide)
  next r hr => exact ⟨r, hr⟩

/-- A join puts its region into the sheaf, or only completes. -/
theorem sheafJoin_membership :
    (∀ (si s : State) (op : Nat) (ext : Ext) (o : Op) (v : List Byte) (t : SheafTab), si.work op 0x03 = some o →
      si.readTable ext (o.arg 24 8) = (.data v, s) → parseSheaf v s.now = some t → s.joinStatus o (some t) = 0 →
      ∃ u i q, exec (.sheafJoin op ext) si = .next (State.settle u) ∧ s.placeIn t.sh (o.arg 16 1) = some i ∧
        u.regions.get (o.arg 16 1) = some q ∧ q.sheaf = t.id ∧ q.member = i ∧ q.epoch = ((s.sheaves.get t.id).getD t.sh).epoch ∧
        (u.sheaves.get t.id).isSome = true ∧ u.completed op stOk 0 i) ∧
    (∀ (si s : State) (op : Nat) (ext : Ext) (o : Op) (v : List Byte), si.work op 0x03 = some o →
      si.readTable ext (o.arg 24 8) = (.data v, s) → s.joinStatus o (parseSheaf v s.now) ≠ 0 →
      ∃ u, exec (.sheafJoin op ext) si = .next u ∧ u.regions = s.regions ∧ u.sheaves = s.sheaves ∧
        u.completed op (s.joinStatus o (parseSheaf v s.now)) 0 0) := by
  refine ⟨?_, ?_⟩
  · intro si s op ext o v t hwork hread ht hst
    obtain ⟨i, o1, w, hexec, hi, hid, hsheaf, q, hq, hfields⟩ := execSheafJoin_of_passes hwork hread ht hst
    have hends := w.endsOnly_finish o1 stOk 0 0 i
    obtain ⟨hqs, hqm, hqe⟩ := hfields
    exact ⟨_, i, q, hexec, hi, hends.regions_eq ▸ hq, hqs, hqm, hqe, hends.sheaves_eq ▸ hsheaf,
      hid ▸ w.completed_finish_ok o1 0 0 i⟩
  · intro si s op ext o v hwork hread hst
    exact ⟨_, execSheafJoin_of_fails hwork hread hst, s.fail_does (State.id_of_work hwork) (s.finalStatus_joinStatus o _)⟩

/-- A leave takes its region out of the sheaf, or only completes. -/
theorem sheafLeave_membership :
    (∀ (s : State) (op : Nat) (o : Op), s.work op 0x04 = some o → s.leaveStatus o = 0 →
      ∃ u q, exec (.sheafLeave op) s = .next (State.settle u) ∧ u.regions.get (o.arg 16 1) = some q ∧ q.sheaf = 0 ∧ q.member = 0xFF ∧
        q.epoch = 0 ∧ (∀ c ∈ u.port.sctx, c.2.region ≠ o.arg 16 1) ∧ (∀ c ∈ u.port.rctx, c.2.region ≠ o.arg 16 1) ∧
        u.completed op stOk 0 0) ∧
    (∀ (s : State) (op : Nat) (o : Op), s.work op 0x04 = some o → s.leaveStatus o ≠ 0 →
      ∃ u, exec (.sheafLeave op) s = .next u ∧ u.regions = s.regions ∧ u.completed op (s.leaveStatus o) 0 0) := by
  refine ⟨?_, ?_⟩
  · intro s op o hwork hst
    obtain ⟨r, hr⟩ := State.of_leaveStatus hst
    obtain ⟨t, hseats, hsctx, hrctx, hregions, hport⟩ := State.leaveSheaf_does hr
    have hseat : t.seats.get (o.arg 16 1) = some (r.sheaf, r.epoch) := by rw [hseats, s.get_seats, hr]; rfl
    rw [t.get_seats] at hseat
    obtain ⟨r1, hr1, -⟩ := Option.map_eq_some_iff.mp hseat
    have hends := (s.leaveSheaf (o.arg 16 1)).endsOnly_finish o stOk 0 0 0
    refine ⟨(s.leaveSheaf (o.arg 16 1)).finish o stOk 0 0 0, r1.outOfSheaf, ?_, ?_, rfl, rfl, rfl, ?_, ?_, ?_⟩
    · show execSheafLeave op s = _
      simp [execSheafLeave, hwork, hst]
    · rw [hends.regions_eq, hregions, Tab.get_upd, if_pos rfl, hr1]
      rfl
    · rwa [hends.sctx_eq, hport]
    · rwa [hends.rctx_eq, hport]
    · exact State.id_of_work hwork ▸ State.completed_finish_ok _ o 0 0 0
  · intro s op o hwork hst
    obtain ⟨hregions, -, hcompleted⟩ := s.fail_does (State.id_of_work hwork) (s.finalStatus_leaveStatus o)
    refine ⟨_, ?_, hregions, hcompleted⟩
    show execSheafLeave op s = _
    simp [execSheafLeave, hwork, hst]

/-! ## MEMBERSHIP_UPDATE (R387 to R389) -/

theorem statesReserved_of_statesOk {v n : Nat} (h : statesOk v n = true) : statesReserved v = false := by
  simp only [statesOk, statesReserved, List.all_eq_true, List.any_eq_false, Bool.and_eq_true, bne_iff_ne, beq_iff_eq] at h ⊢
  exact fun i hi => (h i hi).1

/-- An update that passes has no reserved code, and names the sheaf of its table, which is not 0, and its new epoch (Table 13-7). -/
theorem State.of_updateStatus {s : State} {o : Op} {v : List Byte} {t : SheafTab} (ht : parseSheaf v s.now = some t)
    (h : s.updateStatus o (some t) = 0) : statesReserved (o.arg 32 9) = false ∧ o.arg 16 3 ≠ 0 ∧ t.sh.epoch = o.epoch := by
  unfold State.updateStatus at h
  dsimp only at h
  split at h
  · exact absurd h (by decide)
  next hc =>
    simp only [Bool.or_eq_true, Bool.not_eq_true', Bool.not_eq_false, bne_iff_ne, not_or, not_not] at hc
    obtain ⟨⟨hcodes, hepoch⟩, hid⟩ := hc
    refine ⟨statesReserved_of_statesOk hcodes, ?_, hepoch⟩
    rw [← hid]
    unfold parseSheaf at ht
    dsimp only at ht
    split at ht
    · cases ht
    next hnot =>
      split at ht
      · cases ht
      · cases ht
        exact fun h0 => hnot (by tauto)

/-- An update that passes ends with every region of the sheaf under the new epoch, and counts the changed members. -/
theorem execMembershipUpdate_of_passes {si s : State} {op : Nat} {ext : Ext} {o : Op} {v : List Byte} {t : SheafTab} {a : Sheaf}
    (hwork : si.work op 0x05 = some o) (hread : si.readTable ext (o.arg 24 8) = (.data v, s)) (ht : parseSheaf v s.now = some t)
    (hst : s.updateStatus o (some t) = 0) (ha : s.sheaves.get (o.arg 16 3) = some a) :
    ∃ w : State, execMembershipUpdate op ext si = .next (State.settle (w.finish o stOk 0
      (a.changed (t.sh.withStates (o.arg 32 9))).length 0)) ∧ w.EpochIs (o.arg 16 3) o.epoch := by
  obtain ⟨hcodes, hid, hepoch⟩ := State.of_updateStatus ht hst
  unfold execMembershipUpdate
  simp only [hwork, hcodes, hread, ht, hst, ha, ne_eq, not_true_eq_false, if_false, Bool.false_eq_true]
  refine ⟨_, rfl, ?_⟩
  rw [← hepoch]
  exact List.foldlRecOn (motive := fun u : State => u.EpochIs (o.arg 16 3) t.sh.epoch) _ _ (State.epochIs_installSheaf _ _ _ _ _)
    fun u hu p _ => hu.leaveSheaf hid p.1

/-- An update puts the regions of its sheaf under the new epoch, or only completes. -/
theorem membershipUpdate_membership :
    (∀ (si s : State) (op : Nat) (ext : Ext) (o : Op) (v : List Byte) (t : SheafTab) (a : Sheaf), si.work op 0x05 = some o →
      si.readTable ext (o.arg 24 8) = (.data v, s) → parseSheaf v s.now = some t → s.updateStatus o (some t) = 0 →
      s.sheaves.get (o.arg 16 3) = some a →
      ∃ u : State, exec (.membershipUpdate op ext) si = .next u.settle ∧
        u.completed op stOk ((a.changed (t.sh.withStates (o.arg 32 9))).length % 2 ^ 64) 0 ∧
        (∀ j q, u.regions.get j = some q → q.sheaf = o.arg 16 3 → q.epoch = o.epoch)) ∧
    (∀ (si s : State) (op : Nat) (ext : Ext) (o : Op) (v : List Byte), si.work op 0x05 = some o → statesReserved (o.arg 32 9) = false →
      si.readTable ext (o.arg 24 8) = (.data v, s) → s.updateStatus o (parseSheaf v s.now) ≠ 0 →
      ∃ u, exec (.membershipUpdate op ext) si = .next u ∧ u.regions = s.regions ∧ u.sheaves = s.sheaves ∧
        u.completed op (s.updateStatus o (parseSheaf v s.now)) 0 0) ∧
    (∀ (s : State) (op : Nat) (ext : Ext) (o : Op), s.work op 0x05 = some o → statesReserved (o.arg 32 9) = true →
      ∃ u, exec (.membershipUpdate op ext) s = .next u ∧ u.regions = s.regions ∧ u.sheaves = s.sheaves ∧
        u.completed op stNotSupported 0 0) := by
  refine ⟨?_, ?_, ?_⟩
  · intro si s op ext o v t a hwork hread ht hst ha
    obtain ⟨w, hexec, hepoch⟩ := execMembershipUpdate_of_passes hwork hread ht hst ha
    refine ⟨_, hexec, State.id_of_work hwork ▸ w.completed_finish_ok o 0 _ 0, fun j q hq hs => ?_⟩
    exact (hepoch.of_regions (w.endsOnly_finish o stOk 0 _ 0).regions_eq).get hq hs
  · intro si s op ext o v hwork hcodes hread hst
    refine ⟨_, ?_, s.fail_does (State.id_of_work hwork) (s.finalStatus_updateStatus o _)⟩
    show execMembershipUpdate op ext si = _
    simp [execMembershipUpdate, hwork, hcodes, hread, hst]
  · intro s op ext o hwork hcodes
    refine ⟨_, ?_, s.fail_does (State.id_of_work hwork) rfl⟩
    show execMembershipUpdate op ext s = _
    simp [execMembershipUpdate, hwork, hcodes]

/-! ## Larks and reports (R379 to R385) -/

/-- The interval tick sends larks and marks silent members (R379, R381). -/
theorem execLarkIntervalTick_of_due {s : State} (hdue : s.past s.sward.tick (us (bits s.sward.cfg.toNat 0 10)) = true) :
    ∃ t, execLarkIntervalTick s = .next t ∧
      { s with sward := { s.sward with tick := s.now, cfg := s.reg 0x0180 } }.SamePlaces t := by
  unfold execLarkIntervalTick
  rw [hdue]
  refine ⟨_, rfl, ?_⟩
  simp only [Bool.not_true, Bool.false_eq_true, if_false]
  refine List.foldlRecOn (motive := State.SamePlaces _) _ _ ?_ fun t ht p _ => ?_
  · exact List.foldlRecOn (motive := State.SamePlaces _) _ _ (.refl _) fun t ht p _ => ht.trans (t.samePlaces_sendLark p)
  · exact List.foldlRecOn (motive := State.SamePlaces _) _ _ ht fun u hu q _ => hu.trans (u.samePlaces_markSilent _ _ _ _)

/-- A whole packet of larks has its entries taken one by one (R380). -/
theorem execLarkReceive_of_whole {s : State} {src : Nat} {bytes : List Byte} (haligned : s.aligned = true) (hwhole : trailerOk bytes = true)
    (htyp : (Hdr.parse bytes).typ = 5) :
    ∃ u : State, execLarkReceive src bytes s = .next u.settle ∧ s.packetIn.SamePlaces u := by
  unfold execLarkReceive
  simp only [haligned, hwhole, htyp, Bool.not_true, Bool.false_eq_true, if_false, ne_eq, not_true_eq_false]
  refine ⟨_, rfl, ?_⟩
  exact List.foldlRecOn (motive := s.packetIn.SamePlaces) _ _ (.refl _) fun t ht e _ => ht.trans (t.samePlaces_larkEntry _ _ _ _)

/-- A whole report is taken at its target (R385). -/
theorem execReportReceive_of_whole {s : State} {src : Nat} {bytes : List Byte} (haligned : s.aligned = true)
    (hwhole : trailerOk bytes = true) (htyp : (Hdr.parse bytes).typ = 6) :
    ∃ t, execReportReceive src bytes s = .next t ∧ s.packetIn.ReportsOnly t := by
  unfold execReportReceive
  simp only [haligned, hwhole, htyp, Bool.not_true, Bool.false_eq_true, if_false, ne_eq, not_true_eq_false]
  exact ⟨_, rfl, State.reportsOnly_takeReport _ _ _ _ _ _ _ _⟩

/-- The repeats of reports are reports (R384). -/
theorem execReportRepeatTimer_reports (s : State) : ∃ t, execReportRepeatTimer s = .next t ∧ s.ReportsOnly t := by
  refine ⟨_, rfl, List.foldlRecOn (motive := s.ReportsOnly) _ _ (.refl s) fun t ht p _ => ?_⟩
  refine List.foldlRecOn (motive := s.ReportsOnly) _ _ ht fun u hu q _ => ?_
  extract_lets a
  have ha : s.ReportsOnly a := by
    unfold a
    split
    · exact hu.trans (u.reportsOnly_report _ _ _ _)
    · exact hu
  split
  · split
    · exact ha
    · exact ha.trans (a.reportsOnly_report _ _ _ _)
  · exact ha

/-- The rewrite of a due key writes its record, and the key is due no more (R385). -/
theorem execReportRecordRewrite_of_due {s : State} {key : Nat} {k : Key} (hk : s.sward.keys[key]? = some k) (hdue : k.due = true)
    (hpast : s.past k.written 10000 = true) :
    ∃ t, execReportRecordRewrite key s = .next t ∧ t.regions = s.regions ∧ t.sheaves = s.sheaves ∧
      t.sward.keys[key]? = some { k with due := false, written := s.now } := by
  have hwrite := s.signalsOnly_writeReport k
  unfold execReportRecordRewrite
  simp only [hk, hdue, hpast, Bool.and_self, if_true]
  refine ⟨_, rfl, hwrite.reportsOnly.regions_eq, hwrite.reportsOnly.sheaves_eq, ?_⟩
  have hkeys : (s.writeReport k).sward = s.sward := by rw [hwrite]
  simp [hkeys, hk]

/-- Settles O15: a join, a leave and an update change membership as their tables say or only complete, and larks and reports change none. -/
theorem sheafMembershipChanges : Obligations.SheafMembershipChanges := by
  obtain ⟨hjoins, hjoinFails⟩ := sheafJoin_membership
  obtain ⟨hleaves, hleaveFails⟩ := sheafLeave_membership
  refine ⟨⟨hjoins, hjoinFails, hleaves, hleaveFails⟩, membershipUpdate_membership, ?_, ?_, ?_, ?_, ?_⟩
  · intro s hdue
    obtain ⟨t, hexec, hsame⟩ := execLarkIntervalTick_of_due hdue
    exact ⟨t, hexec, hsame.tick, hsame.regions, hsame.places⟩
  · intro s src bytes haligned hwhole htyp
    obtain ⟨u, hexec, hsame⟩ := execLarkReceive_of_whole (src := src) haligned hwhole htyp
    exact ⟨u, hexec, hsame.regions, by rw [hsame.power]; rfl, hsame.places⟩
  · intro s src bytes haligned hwhole htyp
    obtain ⟨t, hexec, hreports⟩ := execReportReceive_of_whole (src := src) haligned hwhole htyp
    exact ⟨t, hexec, hreports.regions_eq, hreports.sheaves_eq, by rw [hreports.power_eq]; rfl⟩
  · intro s
    obtain ⟨t, hexec, hreports⟩ := execReportRepeatTimer_reports s
    exact ⟨t, hexec, hreports.regions_eq, hreports.sheaves_eq⟩
  · intro s key k hk hdue hpast
    obtain ⟨t, hexec, hregions, hsheaves, hkey⟩ := execReportRecordRewrite_of_due hk hdue hpast
    exact ⟨t, hexec, hregions, hsheaves, by rw [hkey]; rfl⟩

end Sys2Proof.Machine
end

section
/-! SUPPORT. What signals keep beside their frame: a pending bit that is set stays set, an occurrence sets its own, and every audit record
advances SEQ by one (R446, R454). -/

namespace Sys2Proof.Machine

section
variable {s t : State} (h : s.SignalsOnly t)
include h
theorem State.SignalsOnly.regs_eq : t.regs = s.regs := by rw [h]
theorem State.SignalsOnly.rings_eq : t.rings = s.rings := by rw [h]
end

/-- Every pending bit of `s` is set in `t`. -/
def State.KeepsRaised (s t : State) : Prop := ∀ src, s.raised src = true → t.raised src = true

theorem State.KeepsRaised.trans {s t u : State} (h : s.KeepsRaised t) (g : t.KeepsRaised u) : s.KeepsRaised u :=
  fun src hs => g src (h src hs)

theorem State.KeepsRaised.of_evt {s t : State} (h : t.evt = s.evt) : s.KeepsRaised t := fun src hs => by rwa [State.raised, h]

/-- The lines follow the pending bits and change none (R450). -/
theorem State.settleLines_evt (s : State) : s.settleLines.evt.pendN = s.evt.pendN ∧ s.settleLines.evt.pendF = s.evt.pendF := ⟨rfl, rfl⟩

theorem State.settleLines_raised (s : State) (i : Nat) : s.settleLines.raised i = s.raised i := by
  obtain ⟨hn, hf⟩ := s.settleLines_evt
  rw [State.raised, hn, hf, State.raised]

theorem State.raised_setPending (s : State) (src : Nat) (fast : Bool) (i : Nat) (hi : i < 128) :
    (s.setPending src fast).raised i = (s.raised i || decide (i = src)) := by
  have hbit : (1#128 <<< src).getLsbD i = decide (i = src) := by
    simp only [BitVec.getLsbD_shiftLeft, hi, BitVec.getLsbD_one, decide_true, Bool.true_and]
    grind
  unfold State.setPending State.raised
  split
  · simp [hbit, Bool.or_assoc]
  · simp [hbit, Bool.or_right_comm]

/-- The pending bits after an occurrence: those before it and its own. -/
theorem State.raised_occur (s : State) (src detail : Nat) (fast : Bool) (i : Nat) (hi : i < 128) :
    (s.occur src detail fast).raised i = (s.raised i || decide (i = src)) := by
  unfold State.occur
  extract_lets w inFast info s1
  rw [State.settleLines_raised]
  exact s.raised_setPending src inFast i hi

theorem State.keepsRaised_occur (s : State) (src detail : Nat) (fast : Bool) : s.KeepsRaised (s.occur src detail fast) := by
  intro i h
  have hi : i < 128 := by
    by_contra hge
    simp [State.raised, BitVec.getLsbD_of_ge _ _ (not_lt.mp hge)] at h
  rw [s.raised_occur src detail fast i hi, h, Bool.true_or]

theorem State.occur_raises (s : State) {src : Nat} (detail : Nat) (fast : Bool) (h : src < 128) :
    (s.occur src detail fast).raised src = true := by
  rw [s.raised_occur src detail fast src h, decide_eq_true rfl, Bool.or_true]

/-- An occurrence changes the event block alone, FAST or not (R446). -/
theorem State.occur_changes_evt (s : State) (src detail : Nat) (fast : Bool) : ∃ e, s.occur src detail fast = { s with evt := e } := by
  unfold State.occur State.setPending
  dsimp only
  split <;> exact ⟨_, rfl⟩

theorem State.keepsRaised_settleAudit (s : State) : s.KeepsRaised s.settleAudit := by
  unfold State.settleAudit
  split
  · have hmark : s.KeepsRaised { s with audit := { s.audit with full := true } } := .of_evt rfl
    exact hmark.trans (State.keepsRaised_occur _ _ _ _)
  · exact .of_evt rfl

theorem State.settleAudit_seq (s : State) : s.settleAudit.audit.seq = s.audit.seq := by
  obtain ⟨e, he⟩ := s.settleAudit_sets_full
  rw [he]

theorem State.store_evt (s : State) (a : Nat) (v : List Byte) (cls : Nat) : (s.store a v cls).evt = s.evt := by
  unfold State.store State.storeFor
  split
  · exact State.putWrite_evt _ _ _ _ _
  · rfl

theorem State.store_audit (s : State) (a : Nat) (v : List Byte) (cls : Nat) : (s.store a v cls).audit = s.audit := by
  unfold State.store State.storeFor
  split
  · exact State.putWrite_audit _ _ _ _ _
  · rfl

theorem State.auditMove_keeps (s : State) : s.auditMove.evt = s.evt ∧ s.auditMove.audit.seq = s.audit.seq := by
  unfold State.auditMove
  split
  · exact ⟨rfl, rfl⟩
  · exact ⟨State.store_evt _ _ _ _, by simp only [State.store_audit]⟩

/-- A record is formed, kept or lost, before its log settles: the event block still stands and SEQ has advanced (R454, R457). -/
theorem State.auditForm_settles (s : State) (status origin index kind object detail epoch : Nat) (resv : Bool) :
    ∃ u : State, s.auditForm status origin index kind object detail epoch resv = u.settleAudit ∧ u.evt = s.evt ∧
      u.audit.seq = s.audit.seq + 1#32 := by
  unfold State.auditForm
  extract_lets _ _ s0 _ s1 _ s2
  have h1 : s1.evt = s.evt ∧ s1.audit.seq = s.audit.seq + 1#32 := by cases resv <;> exact ⟨rfl, rfl⟩
  split
  · exact ⟨_, rfl, h1⟩
  · have h2 : s2.evt = s1.evt ∧ s2.audit.seq = s1.audit.seq := by
      unfold s2
      split
      · exact s1.auditMove_keeps
      · exact ⟨rfl, rfl⟩
    exact ⟨_, rfl, h2.1.trans h1.1, h2.2.trans h1.2⟩

theorem State.auditForm_seq (s : State) (status origin index kind object detail epoch : Nat) (resv : Bool) :
    (s.auditForm status origin index kind object detail epoch resv).audit.seq = s.audit.seq + 1#32 := by
  obtain ⟨u, hu, -, hseq⟩ := s.auditForm_settles status origin index kind object detail epoch resv
  rw [hu, State.settleAudit_seq, hseq]

theorem State.keepsRaised_auditForm (s : State) (status origin index kind object detail epoch : Nat) (resv : Bool) :
    s.KeepsRaised (s.auditForm status origin index kind object detail epoch resv) := by
  obtain ⟨u, hu, hevt, -⟩ := s.auditForm_settles status origin index kind object detail epoch resv
  rw [hu]
  exact (State.KeepsRaised.of_evt hevt).trans u.keepsRaised_settleAudit

end Sys2Proof.Machine
end

section
/-! SUPPORT. What rings and their writes leave: a write of whole bytes at the controller (R14), the words of a ring block (Tables 3-1 to 3-4),
and a ring that stops (R82). -/

namespace Sys2Proof.Machine

/-! ## Whole writes (R14) -/

theorem masked_map_some (old v : List Byte) (h : old.length = v.length) : masked old (v.map some) = v := by
  induction v generalizing old with
  | nil => simp [masked]
  | cons b v ih =>
    obtain _ | ⟨a, old⟩ := old
    · cases h
    · have hv : masked old (v.map some) = v := ih old (Nat.succ.inj h)
      simp only [masked, List.map_cons, List.zipWith_cons_cons, Option.getD_some, List.cons.injEq, true_and]
      exact hv

/-- A write of whole bytes at the controller is performed, or stands at the tap's input (R14). -/
theorem State.putDone_putWrite (s : State) (agent : Nat) (op : Option Nat) (off : Nat) (v : List Byte) :
    s.putDone (s.putWrite agent op off (v.map some)) agent op off v := by
  obtain ⟨htap, hmem⟩ := s.putWrite_does agent op off (v.map some)
  have hmask : masked (s.stackRead off v.length) (v.map some) = v := masked_map_some _ _ (memRead_length _ _ _)
  rw [List.length_map] at htap hmem
  rw [hmask] at hmem
  refine ⟨fun h => ?_, fun h => ?_⟩
  · rw [hmem h]
    refine ⟨memRead_memWrite_self _ _ _, fun a ha => ?_⟩
    rw [byteAt_memWrite, if_neg (by omega)]
  · rw [htap h]
    exact ⟨rfl, rfl⟩

/-- So is a write of the engine's own in its stack. -/
theorem State.putDone_store (s : State) {a : Nat} {v : List Byte} (cls : Nat) (h : s.inStack a v.length = true) :
    s.putDone (s.store a v cls) engineAgent none (gOff a) v := by
  rw [State.store, (s.storeFor_does none a v cls).1 h]
  exact s.putDone_putWrite _ _ _ _

/-- What a write leaves is told by the memory and the tap alone. -/
theorem State.putDone.congr {s t u : State} {agent : Nat} {op : Option Nat} {off : Nat} {v : List Byte} (h : s.putDone t agent op off v)
    (hmem : u.mem = t.mem) (htap : u.tap = t.tap) : s.putDone u agent op off v := by
  unfold State.putDone
  rw [hmem, htap]
  exact h

/-! ## Ring blocks -/

theorem bitAt_toNat {n : Nat} (v : BitVec n) (i : Nat) : bitAt v.toNat i = v.getLsbD i := by
  rw [BitVec.getLsbD, Nat.testBit_eq_decide_div_mod_eq]
  rfl

/-- EN of a ring is bit 0 of its configuration word. -/
theorem State.ringEn_eq (s : State) (n : Nat) : s.ringEn n = (s.reg (ringReg n 0x18)).getLsbD 0 := bitAt_toNat _ _

/-- The word of a ring block at its register's offset (Table 17-3). -/
theorem State.readReg_ringReg (s : State) {n o : Nat} (hn : n < 64) (ho : o < 64) : s.readReg (ringReg n o) = s.ringWord n o := by
  have hdiv : (ringReg n o - 0x2000) / 64 = n := by unfold ringReg; omega
  have hmod : ringReg n o % 64 = o := by unfold ringReg; omega
  have hlow : 0x2000 ≤ ringReg n o := by unfold ringReg; omega
  have hhigh : ringReg n o < 0x3000 := by unfold ringReg; omega
  have hne : ∀ k, k < 0x2000 → ringReg n o ≠ k := fun k hk => by omega
  have hin : ∀ a b, b ≤ 0x2000 → ¬(a ≤ ringReg n o ∧ ringReg n o < b) := fun a b hb => by omega
  unfold State.readReg
  simp [hne, hin, hlow, hhigh, hdiv, hmod]

/-- The low seven bits of a word (Table 3-3). -/
theorem toNat_and_7F (w : Word) : (w &&& 0x7F#32).toNat = bits w.toNat 0 7 := by
  rw [BitVec.toNat_and]
  simpa [bits] using Nat.and_two_pow_sub_one_eq_mod w.toNat 7

/-! ## A ring that stops (R82) -/

/-- What stopping ring n, which stood at r, leaves in t: STOPPED and its cause with the completion tail where it was, the ring-error event, no
operation of the ring that has not started, one audit record, and the registers and records as they were. -/
structure State.StopsRing (s t : State) (n cause : Nat) (r : Ring) : Prop where
  ring : ∃ r', t.rings.get n = some r' ∧ r'.stopped = true ∧ r'.cause = cause ∧ r'.cqTail = r.cqTail
  raised : t.raised 85 = true
  ops : ∀ o ∈ t.ops, o.ring = n → o.started = true
  regs : t.regs = s.regs
  recs : t.recs = s.recs
  seq : t.audit.seq = s.audit.seq + 1#32

theorem State.stopRing_stops {s : State} {n : Nat} {r : Ring} (cause : Nat) (h : s.rings.get n = some r) (hr : r.stopped = false) :
    s.StopsRing (s.stopRing n cause) n cause r := by
  unfold State.stopRing
  split
  · next h0 => exact absurd (h0.symm.trans h) (by simp)
  next r0 h0 =>
  obtain rfl : r0 = r := Option.some.inj (h0.symm.trans h)
  rw [if_neg (by simp [hr])]
  extract_lets gone head _ s1
  have hevent := s1.signalsOnly_event 85 (n + 2 ^ 8 * cause)
  have hall := hevent.trans (State.signalsOnly_auditForm _ 0 3 n 0x42 n cause 0 false)
  constructor
  case ring => exact ⟨_, (congrArg (Tab.get · n) hall.rings_eq).trans (Tab.get_set_self _ _ _), rfl, rfl, rfl⟩
  case raised => exact State.keepsRaised_auditForm _ _ _ _ _ _ _ _ _ _ (State.occur_raises _ _ _ (by decide))
  case ops =>
    intro o ho hring
    rw [hall.ops_eq] at ho
    simpa [hring] using (List.mem_filter.mp ho).2
  case regs => exact hall.regs_eq
  case recs => exact hall.recs_eq
  case seq =>
    obtain ⟨e, he⟩ := s1.event_changes_evt 85 (n + 2 ^ 8 * cause)
    rw [State.auditForm_seq, he]

end Sys2Proof.Machine
end

section
/-! The statement of completion records: O11. The next record goes to its slot with its PHASE, or an error response stops the ring (R89 to
R92, R82). -/

namespace Sys2Proof.Machine

/-- A completion record has 32 bytes (Table 3-10). -/
theorem Rec.bytes_length (x : Rec) (phase : Nat) : (x.bytes phase).length = 32 := by simp [Rec.bytes, leBytes_length]

/-- The next record of a usable ring is stored at its slot, the tail moves by one and the ring's event occurs (R90, R92). -/
theorem execCompletionRecordWrite_of_usable {s : State} {n : Nat} {x : Rec} {r : Ring} (hx : s.nextRec n = some x)
    (hr : s.rings.get n = some r) (hen : s.ringEn n = true) (husable : s.cqUsable n = true) :
    execCompletionRecordWrite n false s = .next (State.settle
      (((({ s with recs := s.recs.erase x }).store (s.reg64 (ringReg n 8) + 32 * (r.cqTail.toNat % 2 ^ cfgCq (s.ringCfg n)))
        (x.bytes (phaseOf r.cqTail.toNat (cfgCq (s.ringCfg n)))) 1).modRing n (fun y => { y with cqTail := y.cqTail + 1#32 })).occur n
        (infoC x.opTag x.status) (x.final && x.fast))) := by
  simp [execCompletionRecordWrite, hx, hr, hen, husable]

/-- An error response stops the ring with cause 3, and a final record is counted as lost (R82). -/
theorem execCompletionRecordWrite_of_error {s : State} {n : Nat} {x : Rec} {r : Ring} (hx : s.nextRec n = some x)
    (hr : s.rings.get n = some r) (hen : s.ringEn n = true) (husable : s.cqUsable n = true) :
    execCompletionRecordWrite n true s = .next
      (if x.final then (({ s with recs := s.recs.erase x }).stopRing n 3).bump (ringLost n)
        else ({ s with recs := s.recs.erase x }).stopRing n 3) := by
  simp [execCompletionRecordWrite, hx, hr, hen, husable]

/-- Settles O11: the store of the record in the own stack is a whole write, and what follows it changes the ring and the event block alone;
the error response stops the ring, and the count of lost records touches one register. -/
theorem completionRecordsFillTheirSlots : Obligations.CompletionRecordsFillTheirSlots := by
  refine ⟨fun s n x r hn hx hr hen husable hstack => ?_, fun s n x r hn hx hr hen husable hstopped => ?_⟩
  · refine ⟨_, execCompletionRecordWrite_of_usable hx hr hen husable, ?_⟩
    generalize r.cqTail.toNat % 2 ^ cfgCq (s.ringCfg n) = slot at hstack ⊢
    have hlen := x.bytes_length (phaseOf r.cqTail.toNat (cfgCq (s.ringCfg n)))
    generalize x.bytes (phaseOf r.cqTail.toNat (cfgCq (s.ringCfg n))) = v at hlen ⊢
    have hsignals := State.signalsOnly_store { s with recs := s.recs.erase x } (s.reg64 (ringReg n 8) + 32 * slot) v 1
    have hput : s.putDone _ engineAgent none (gOff (s.reg64 (ringReg n 8) + 32 * slot)) v :=
      State.putDone_store { s with recs := s.recs.erase x } 1 (hlen.symm ▸ hstack)
    generalize State.store _ _ _ _ = w at hsignals hput ⊢
    have hraises := (w.modRing n fun y => { y with cqTail := y.cqTail + 1#32 }).occur_raises (infoC x.opTag x.status) (x.final && x.fast)
      (show n < 128 by omega)
    obtain ⟨e, he⟩ := (w.modRing n fun y => { y with cqTail := y.cqTail + 1#32 }).occur_changes_evt n (infoC x.opTag x.status)
      (x.final && x.fast)
    rw [he] at hraises ⊢
    refine ⟨hsignals.recs_eq, ?_, hraises, hput.congr rfl rfl, hsignals.ops_eq, hsignals.regs_eq, hsignals.endsOnly.regions_eq⟩
    simp [State.modRing, Tab.get_upd, hsignals.rings_eq, hr]
  · have hstops := State.stopRing_stops (s := { s with recs := s.recs.erase x }) 3 hr hstopped
    obtain ⟨r', hr', hst, hcause, htail⟩ := hstops.ring
    refine ⟨_, r', execCompletionRecordWrite_of_error hx hr hen husable, ?_⟩
    have hreg : ∀ off, (State.stopRing { s with recs := s.recs.erase x } n 3).reg off = s.reg off := fun off => by
      rw [State.reg, hstops.regs, State.reg]
    cases x.final with
    | false => exact ⟨hstops.recs, hr', hst, hcause, htail, hstops.raised, by simp [hreg]⟩
    | true =>
      refine ⟨?_, ?_, hst, hcause, htail, ?_, ?_⟩
      · exact (State.bump_recs _ _).trans hstops.recs
      · exact (congrArg (Tab.get · n) (State.bump_rings _ _)).trans hr'
      · exact State.KeepsRaised.of_evt (State.bump_evt _ _) 85 hstops.raised
      · exact (State.reg_bump_self _ _).trans (by rw [hreg]; rfl)

end Sys2Proof.Machine
end

section
/-! The statement of rings and doorbells: O9. What the writes of a ring's registers change (R74 to R77), and what the engine does with the
counts of a doorbell pair (R78 to R82). -/

namespace Sys2Proof.Machine

/-! ## RING_ENABLE, RING_DISABLE and RING_POLL_WRITE (R74 to R77) -/

/-- The writable bits of a configuration word keep EN (Table 3-2). -/
theorem getLsbD_ringCfg_mask (w : Word) : (w &&& 0xFFFF3FFF#32).getLsbD 0 = w.getLsbD 0 := by simp

theorem State.signalsOnly_auditWrite (s : State) (req off old new : Nat) : s.SignalsOnly (s.auditWrite req off old new) :=
  s.signalsOnly_auditForm _ _ _ _ _ _ _ _

theorem State.signalsOnly_auditRefuse (s : State) (req off w : Nat) : s.SignalsOnly (s.auditRefuse req off w) :=
  s.signalsOnly_auditForm _ _ _ _ _ _ _ _

/-- A refused write has its record with CONFIG_CONFLICT at the end of a buffer that has room (R453). -/
theorem State.auditRefuse_of_room {s : State} (req off w : Nat) (h : s.auditUsed < 256) :
    ∃ r, (s.auditRefuse req off w).audit.buf = s.audit.buf ++ [r] ∧ r.status = stConflict ∧ r.object = off := by
  obtain ⟨e, f, he⟩ := s.auditForm_of_room stConflict (reqOrigin req) (reqIndex req) 0x02 off w 0 h
  exact ⟨_, by rw [State.auditRefuse, he], rfl, rfl⟩

/-- A write of WY_RING_CFG that applies: the register takes the word, with its record (R453). -/
def State.ringConfigured (s : State) (req n : Nat) (w : Word) : State :=
  (s.setReg (ringReg n 0x18) (w &&& 0xFFFF3FFF#32)).auditWrite req (ringReg n 0x18) (s.regN (ringReg n 0x18)) (w &&& 0xFFFF3FFF#32).toNat

theorem State.ringEn_ringConfigured (s : State) (req n : Nat) (w : Word) : (s.ringConfigured req n w).ringEn n = w.getLsbD 0 := by
  rw [State.ringEn_eq, State.ringConfigured, (State.signalsOnly_auditWrite _ _ _ _ _).reg_eq, State.reg_setReg, if_pos rfl,
    getLsbD_ringCfg_mask]

theorem State.ringConfigured_rings (s : State) (req n : Nat) (w : Word) : (s.ringConfigured req n w).rings = s.rings :=
  (State.signalsOnly_auditWrite _ _ _ _ _).rings_eq

theorem State.ringConfigured_recs (s : State) (req n : Nat) (w : Word) : (s.ringConfigured req n w).recs = s.recs :=
  (State.signalsOnly_auditWrite _ _ _ _ _).recs_eq

theorem State.ringConfigured_seq (s : State) (req n : Nat) (w : Word) : (s.ringConfigured req n w).audit.seq = s.audit.seq + 1#32 :=
  State.auditForm_seq _ _ _ _ _ _ _ _ _

/-- A ring that is enabled takes the counts of its doorbell pair (R76). -/
def State.ringAtCounts (s : State) (n : Nat) (v : List Byte) : Ring :=
  { Ring.new 0 with
    watched := s.inStack (s.reg64 (ringReg n 16)) 8, due := s.now + s.pollTicks n
    tail := BitVec.ofNat 32 (field v 0 4), head := BitVec.ofNat 32 (field v 0 4)
    cqTail := BitVec.ofNat 32 (field v 4 4), cqHead := BitVec.ofNat 32 (field v 4 4) }

theorem execRingEnable_of_ok {s s2 : State} {req n : Nat} {w : Word} {ext : Ext} {v : List Byte} (hn : n < 64) (hw : w.getLsbD 0 = true)
    (hfull : s.auditFull = false) (hen : s.ringEn n = false) (hok : s.ringOk n (w &&& 0xFFFF3FFF#32).toNat = true)
    (hread : (s.ringConfigured req n w).readAt ext (s.reg64 (ringReg n 16)) 8 1 = (.data v, s2)) :
    execRingEnable req n w ext s =
      .next (State.settleLines { s2 with rings := s2.rings.set n (s.ringAtCounts n v) }) := by
  unfold State.ringConfigured at hread
  simp only [execRingEnable, not_le.mpr hn, hw, hfull, hen, hok, hread, Bool.not_true, Bool.false_eq_true, or_self, if_false]
  rfl

theorem execRingEnable_of_refused {s : State} {req n : Nat} {w : Word} {ext : Ext} (hn : n < 64) (hw : w.getLsbD 0 = true)
    (hfull : s.auditFull = false) (hen : s.ringEn n = false) (hok : s.ringOk n (w &&& 0xFFFF3FFF#32).toNat = false) :
    execRingEnable req n w ext s =
      .next (State.auditRefuse { s with rings := s.rings.set n (Ring.new 5) } req (ringReg n 0x18) w.toNat) := by
  simp only [execRingEnable, not_le.mpr hn, hw, hfull, hen, hok, Bool.not_true, Bool.not_false, Bool.false_eq_true, or_self, if_false,
    if_true]

theorem execRingDisable_of_idle {s : State} {req n : Nat} {w : Word} (hn : n < 64) (hw : w.getLsbD 0 = false) (hen : s.ringEn n = true)
    (hfull : s.auditFull = false) (hlive : s.live n = 0) (hsame : (w &&& 0xFFFF3FFF#32) ||| 1#32 = s.reg (ringReg n 0x18)) :
    execRingDisable req n w s = .next (State.settleLines (State.ringConfigured { s with rings := s.rings.del n } req n w)) := by
  simp only [execRingDisable, not_le.mpr hn, hw, hen, hfull, hlive, hsame, ne_eq, not_true_eq_false, Bool.not_true, Bool.false_eq_true,
    or_self, if_false]
  rfl

theorem execRingDisable_of_live {s : State} {req n : Nat} {w : Word} (hn : n < 64) (hw : w.getLsbD 0 = false) (hen : s.ringEn n = true)
    (hlive : s.live n ≠ 0) : execRingDisable req n w s = .next
      (if s.auditFull then s.auditForm stLogFull (reqOrigin req) (reqIndex req) 0x02 (ringReg n 0x18) w.toNat 0 false
        else s.auditRefuse req (ringReg n 0x18) w.toNat) := by
  simp only [execRingDisable, not_le.mpr hn, hw, hen, hlive, ne_eq, not_false_eq_true, Bool.not_true, Bool.false_eq_true, or_self,
    true_or, if_false, if_true]

/-- A ring without an entry that is not enabled reads as one that neither runs nor has stopped (Table 3-4). -/
theorem State.ringState_of_disabled {s : State} {n : Nat} (hn : n < 64) (hen : s.ringEn n = false) (hr : s.rings.get n = none) :
    bits (s.readReg (ringReg n 0x20)) 0 6 = 0 := by
  rw [s.readReg_ringReg hn (by omega)]
  simp [State.ringWord, hen, hr, bit, bits]
  omega

theorem execRingPollWrite_of_inRange {s : State} {req n : Nat} {w : Word} (hn : n < 64) (hfull : s.auditFull = false)
    (hlow : 1 ≤ bits w.toNat 0 7) (hhigh : bits w.toNat 0 7 ≤ 100) :
    ∃ t, execRingPollWrite req n w s = .next t ∧ t.regs = (s.setReg (ringReg n 0x1C) (w &&& 0x7F#32)).regs := by
  have hok : ¬(bits w.toNat 0 7 = 0 ∨ 100 < bits w.toNat 0 7) := by omega
  simp only [execRingPollWrite, toNat_and_7F, not_le.mpr hn, hfull, hok, Bool.false_eq_true, if_false]
  exact ⟨_, rfl, (State.signalsOnly_auditWrite _ _ _ _ _).regs_eq⟩

theorem execRingPollWrite_of_outOfRange {s : State} {req n : Nat} {w : Word} (hn : n < 64)
    (h : bits w.toNat 0 7 = 0 ∨ 100 < bits w.toNat 0 7) : ∃ t, execRingPollWrite req n w s = .next t ∧ s.SignalsOnly t := by
  simp only [execRingPollWrite, toNat_and_7F, not_le.mpr hn, h, if_false, if_true]
  split
  · exact ⟨_, rfl, s.signalsOnly_auditForm _ _ _ _ _ _ _ _⟩
  · exact ⟨_, rfl, s.signalsOnly_auditRefuse _ _ _⟩

/-! ## Doorbells (R78 to R82) -/

/-- A ring that has seen the counts of its doorbell pair (R80). -/
def Ring.seeing (r : Ring) (tail head : Word) : Ring := { r with tail := tail, cqHead := head }

/-- Counts in range are taken, and nothing else changes (R80). -/
theorem State.seeDoorbell_of_ok {s : State} {n : Nat} {tail head : Word} {r : Ring} (hr : s.rings.get n = some r)
    (hok : s.countsOk n (r.seeing tail head) = true) :
    s.seeDoorbell n tail head = { s with rings := s.rings.set n (r.seeing tail head) } := by
  unfold Ring.seeing at hok
  simp [State.seeDoorbell, hr, hok, Ring.seeing]

/-- Counts out of range stop the ring with cause 1 (R81). -/
theorem State.seeDoorbell_stops {s : State} {n : Nat} {tail head : Word} {r : Ring} (hr : s.rings.get n = some r)
    (hstopped : r.stopped = false) (hbad : s.countsOk n (r.seeing tail head) = false) :
    s.StopsRing (s.seeDoorbell n tail head) n 1 r := by
  have hstops := State.stopRing_stops (s := { s with rings := s.rings.set n (r.seeing tail head) }) 1 (Tab.get_set_self _ _ _) hstopped
  unfold Ring.seeing at hbad
  have hsee : s.seeDoorbell n tail head = State.stopRing { s with rings := s.rings.set n (r.seeing tail head) } n 1 := by
    simp [State.seeDoorbell, hr, hbad, Ring.seeing]
  rw [hsee]
  exact { hstops with }

/-- The state in which a doorbell write has reached the controller of the stack (R78). -/
def State.doorbellPut (s : State) (n : Nat) (tail head : Word) : State :=
  s.seen.putWrite 0 none (gOff (s.reg64 (ringReg n 16))) ((leBytes 4 tail.toNat ++ leBytes 4 head.toNat).map some)

theorem execDoorbellWrite_of_watched {s : State} {n : Nat} {tail head : Word} {r : Ring} (hen : s.ringEn n = true)
    (hr : s.rings.get n = some r) (hw : r.watched = true) :
    execDoorbellWrite n tail head s = .next ((s.doorbellPut n tail head).seeDoorbell n tail head).settle := by
  simp [execDoorbellWrite, hen, hr, hw, State.doorbellPut]

theorem State.doorbellPut_rings (s : State) (n : Nat) (tail head : Word) : (s.doorbellPut n tail head).rings = s.rings :=
  State.putWrite_rings _ _ _ _ _

theorem State.countsOk_doorbellPut (s : State) (n : Nat) (tail head : Word) (r : Ring) :
    (s.doorbellPut n tail head).countsOk n r = s.countsOk n r := by
  have hreg : ∀ off, (s.doorbellPut n tail head).reg off = s.reg off := fun off => by
    rw [State.reg, State.doorbellPut, State.putWrite_regs, State.seen_regs, State.reg]
  have hcfg : (s.doorbellPut n tail head).ringCfg n = s.ringCfg n := congrArg BitVec.toNat (hreg _)
  rw [State.countsOk, hcfg]
  rfl

/-- A ring whose pair is being read, with the time of its next poll, and one whose read has its answer (R80). -/
def Ring.asked (due : Nat) (r : Ring) : Ring := { r with polling := true, due := due }
def Ring.polled (r : Ring) : Ring := { r with polling := false }

theorem execDoorbellPoll_of_due {s : State} {n : Nat} {r : Ring} (hr : s.rings.get n = some r) (hen : s.ringEn n = true)
    (hw : r.watched = false) (hp : r.polling = false) (hdue : r.due ≤ s.now) :
    execDoorbellPoll n s = .next ((s.modRing n (Ring.asked (s.now + s.pollTicks n))).send
      (.read (s.reg64 (ringReg n 16)) 8 1 (s.routeTo (s.reg64 (ringReg n 16))))) := by
  simp only [execDoorbellPoll, hr, hen, hw, hp, hdue, decide_true, Bool.not_false, Bool.and_self, if_true]
  rfl

theorem execDoorbellPollReturn_of_data {s : State} {n : Nat} {r : Ring} (v : List Byte) (hr : s.rings.get n = some r)
    (hen : s.ringEn n = true) (hp : r.polling = true) : execDoorbellPollReturn n (.data v) s =
      .next ((s.modRing n Ring.polled).seeDoorbell n (BitVec.ofNat 32 (field v 0 4)) (BitVec.ofNat 32 (field v 4 4))) := by
  simp only [execDoorbellPollReturn, hr, hen, hp]
  rfl

theorem execDoorbellPollReturn_of_error {s : State} {n : Nat} {r : Ring} (hr : s.rings.get n = some r) (hen : s.ringEn n = true)
    (hp : r.polling = true) : execDoorbellPollReturn n .error s = .next ((s.modRing n Ring.polled).stopRing n 4) := by
  simp only [execDoorbellPollReturn, hr, hen, hp]
  rfl

theorem State.get_modRing {s : State} {n : Nat} {r : Ring} (f : Ring → Ring) (hr : s.rings.get n = some r) :
    (s.modRing n f).rings.get n = some (f r) := by
  rw [State.modRing, Tab.get_upd, if_pos rfl, hr]
  rfl

/-- Settles O9: a write of a ring's registers sets its own words and forms one record, and counts that the engine sees are taken or stop the
ring. -/
theorem ringWritesAndDoorbells : Obligations.RingWritesAndDoorbells := by
  refine ⟨⟨?enable, ?refuse, ?disable, ?live, ?poll, ?refusePoll⟩, ?counts, ?outOfRange, ?read, ?answer, ?error⟩
  case enable =>
    intro s req n w ext v hn hw hfull hen hok hread
    obtain ⟨hdata, hport⟩ := hread _ rfl
    refine ⟨_, s.ringAtCounts n v, execRingEnable_of_ok hn hw hfull hen hok (Prod.ext hdata hport), ?_, Tab.get_set_self _ _ _,
      rfl, rfl, rfl, rfl, rfl, rfl, rfl, fun m hm => ?_, s.ringConfigured_seq req n w⟩
    · exact (s.ringEn_ringConfigured req n w).trans hw
    · exact (Tab.get_set_ne _ _ _ _ hm).trans (congrArg (Tab.get · m) (s.ringConfigured_rings req n w))
  case refuse =>
    intro s req n w ext hn hw hfull hen hok
    have hs := State.signalsOnly_auditRefuse { s with rings := s.rings.set n (Ring.new 5) } req (ringReg n 0x18) w.toNat
    exact ⟨_, Ring.new 5, execRingEnable_of_refused hn hw hfull hen hok, hs.regs_eq,
      (congrArg (Tab.get · n) hs.rings_eq).trans (Tab.get_set_self _ _ _), rfl⟩
  case disable =>
    intro s req n w hn hw hen hfull hlive hsame
    refine ⟨_, execRingDisable_of_idle hn hw hen hfull hlive hsame, ?_⟩
    have hoff := (State.ringEn_ringConfigured { s with rings := s.rings.del n } req n w).trans hw
    have hrecs := State.ringConfigured_recs { s with rings := s.rings.del n } req n w
    have hrings := State.ringConfigured_rings { s with rings := s.rings.del n } req n w
    generalize State.ringConfigured _ req n w = u at hoff hrecs hrings ⊢
    have hget : ∀ m, u.settleLines.rings.get m = if m = n then none else s.rings.get m := fun m =>
      (congrArg (Tab.get · m) hrings).trans (Tab.get_del _ _ _)
    have hnone := (hget n).trans (if_pos rfl)
    exact ⟨hoff, hnone, hrecs, State.ringState_of_disabled hn hoff hnone, fun m hm => (hget m).trans (if_neg hm)⟩
  case live =>
    intro s req n w hn hw hen hlive
    refine ⟨_, execRingDisable_of_live hn hw hen hlive, ?_⟩
    cases hfull : s.auditFull with
    | true =>
      have hs := s.signalsOnly_auditForm stLogFull (reqOrigin req) (reqIndex req) 0x02 (ringReg n 0x18) w.toNat 0 false
      exact ⟨hs.regs_eq, hs.rings_eq, nofun⟩
    | false =>
      have hs := s.signalsOnly_auditRefuse req (ringReg n 0x18) w.toNat
      exact ⟨hs.regs_eq, hs.rings_eq, fun _ hroom => State.auditRefuse_of_room _ _ _ (Nat.lt_of_le_of_lt (Nat.le_add_right _ _) hroom)⟩
  case poll =>
    intro s req n w hn hfull hlow hhigh
    obtain ⟨t, hexec, hregs⟩ := execRingPollWrite_of_inRange (req := req) hn hfull hlow hhigh
    have hreg : ∀ k, t.reg k = if k = ringReg n 0x1C then w &&& 0x7F#32 else s.reg k := fun k => by
      rw [← State.reg_setReg, State.reg, hregs, State.reg]
    exact ⟨t, hexec, (hreg _).trans (if_pos rfl), fun o ho => (hreg o).trans (if_neg ho)⟩
  case refusePoll =>
    intro s req n w hn h
    obtain ⟨t, hexec, hs⟩ := execRingPollWrite_of_outOfRange (s := s) (req := req) hn h
    exact ⟨t, hexec, hs.regs_eq⟩
  case counts =>
    intro s n tail head r hen hr hw _ hok
    refine ⟨_, execDoorbellWrite_of_watched hen hr hw, ?_⟩
    rw [State.seeDoorbell_of_ok ((s.doorbellPut_rings n tail head).symm ▸ hr) ((s.countsOk_doorbellPut n tail head _).trans hok)]
    refine ⟨Tab.get_set_self _ _ _, ?_, State.putWrite_regs _ _ _ _ _, State.putWrite_ops _ _ _ _ _, State.putWrite_recs _ _ _ _ _⟩
    exact (State.putDone_putWrite s.seen 0 none _ _).congr rfl rfl
  case outOfRange =>
    intro s n tail head r _ hen hr hw hstopped hbad
    have hstops := State.seeDoorbell_stops ((s.doorbellPut_rings n tail head).symm ▸ hr) hstopped
      ((s.countsOk_doorbellPut n tail head _).trans hbad)
    obtain ⟨r', hr', hst, hcause, -⟩ := hstops.ring
    refine ⟨_, r', execDoorbellWrite_of_watched hen hr hw, hr', hst, hcause, hstops.raised, hstops.ops, ?_⟩
    rw [hstops.seq, State.doorbellPut, State.putWrite_audit, State.seen_audit]
  case read =>
    intro s n r hr hen hw hp hdue
    exact ⟨_, _, execDoorbellPoll_of_due hr hen hw hp hdue, State.get_modRing (Ring.asked _) hr, rfl, rfl, rfl, rfl⟩
  case answer =>
    intro s n v r hr hen hp hok
    refine ⟨_, execDoorbellPollReturn_of_data v hr hen hp, ?_⟩
    rw [State.seeDoorbell_of_ok (State.get_modRing Ring.polled hr) hok]
    exact ⟨Tab.get_set_self _ _ _, rfl⟩
  case error =>
    intro s n r hr hen hp hstopped _
    have hstops := State.stopRing_stops 4 (State.get_modRing Ring.polled hr) hstopped
    obtain ⟨r', hr', hst, hcause, -⟩ := hstops.ring
    exact ⟨_, r', execDoorbellPollReturn_of_error hr hen hp, hr', hst, hcause, hstops.raised⟩

end Sys2Proof.Machine
end

section
/-! SUPPORT. What CANCEL, SUSPEND and RESUME leave of the operations (R98 to R104): the target and the control by their numbers, and who is
final. -/

namespace Sys2Proof.Machine

theorem State.mem_ops_of_op? {s : State} {id : Nat} {o : Op} (h : s.op? id = some o) : o ∈ s.ops := List.mem_of_find?_eq_some h

/-- An operation of the list is found by its number. -/
theorem State.op?_of_mem {s : State} {o : Op} (h : o ∈ s.ops) : ∃ x, s.op? o.id = some x := by
  refine Option.isSome_iff_exists.mp (List.find?_isSome.mpr ⟨o, h, ?_⟩)
  simp

theorem State.op?_of_controlTarget {s : State} {c t : Op} (h : s.controlTarget c = some t) : ∃ x, s.op? t.id = some x :=
  State.op?_of_mem (List.mem_of_find?_eq_some h)

theorem State.op?_modOp_self {s : State} {id : Nat} {o : Op} {f : Op → Op} (h : s.op? id = some o) (hf : ∀ o, (f o).id = o.id) :
    (s.modOp id f).op? id = some (f o) := by
  rw [s.op?_modOp id id f hf, if_pos rfl, h, Option.map_some]

/-! ## The end of operations -/

/-- The operation with a number among those that have another number than one that ends. -/
theorem find?_filter_id (l : List Op) (k id : Nat) :
    (l.filter (fun x => x.id != k)).find? (fun o => o.id == id) = if id = k then none else l.find? (fun o => o.id == id) := by
  rw [List.find?_filter]
  split
  next h => simp [h]
  next h =>
    congr 1
    funext o
    by_cases ho : o.id = id <;> simp [ho, h]

theorem State.op?_finishOne (s : State) (o : Op) (st cursor result aux id : Nat) :
    (s.finishOne o st cursor result aux).op? id = if id = o.id then none else s.op? id := by
  rw [State.op?, State.finishOne_ops, find?_filter_id]
  rfl

/-- The end of an operation leaves each operation as it is or ends it. -/
theorem State.op?_finish_or (s : State) (o : Op) (st cursor result aux id : Nat) :
    (s.finish o st cursor result aux).op? id = s.op? id ∨ (s.finish o st cursor result aux).op? id = none := by
  have hone : ∀ (u : State) (x : Op) (a b c d : Nat), u.op? id = s.op? id ∨ u.op? id = none →
      (u.finishOne x a b c d).op? id = s.op? id ∨ (u.finishOne x a b c d).op? id = none := by
    intro u x a b c d h
    rw [State.op?_finishOne]
    split
    · exact .inr rfl
    · exact h
  exact List.foldlRecOn (motive := fun u : State => u.op? id = s.op? id ∨ u.op? id = none) _ _ (hone s o st cursor result aux (.inl rfl))
    fun u h x _ => hone u x _ _ _ _ h

/-- Where no control waits for an operation, its end is its own end alone. -/
theorem State.finish_of_no_control {s : State} {o : Op} (st cursor result aux : Nat)
    (h : ∀ x ∈ s.ops, x.note.get nkTarget ≠ some o.id) : s.finish o st cursor result aux = s.finishOne o st cursor result aux := by
  have hnone : (s.finishOne o st cursor result aux).ops.filter
      (fun c => c.stage == .waitTarget && c.note.get nkTarget == some o.id) = [] := by
    rw [List.filter_eq_nil_iff, State.finishOne_ops]
    intro x hx
    simp [h x (List.mem_of_mem_filter hx)]
  rw [State.finish, State.releaseControls, hnone, List.foldl_nil]

theorem State.finished_of_completed {s : State} {id status result aux : Nat} (h : s.completed id status result aux) :
    s.finished id status = true := by
  obtain ⟨hop, r, hr, hid, hfinal, hst, -⟩ := h
  simp only [State.finished, hop, Option.isNone_none, Bool.and_true, List.any_eq_true, Bool.and_eq_true, beq_iff_eq]
  exact ⟨r, hr, ⟨hid, hfinal⟩, hst⟩

/-- As an operation ends CANCELLED, a CANCEL that waits for it ends with OK and RESULT 1 (R103). -/
theorem State.completed_waiting_cancel {s : State} {o c : Op} (cursor result aux : Nat) (hc : c ∈ s.ops) (hid : c.id ≠ o.id)
    (hcode : c.opcode = 0x7D) (hstage : c.stage = .waitTarget) (hnote : c.note.get nkTarget = some o.id) :
    (s.finish o stCancelled cursor result aux).completed c.id stOk 1 0 := by
  have hmem : c ∈ (s.finishOne o stCancelled cursor result aux).ops.filter
      (fun c => c.stage == .waitTarget && c.note.get nkTarget == some o.id) := by
    simp [State.finishOne_ops, hc, hid, hstage, hnote]
  obtain ⟨before, after, hsplit⟩ := List.append_of_mem hmem
  rw [State.finish, State.releaseControls, hsplit, List.foldl_append, List.foldl_cons]
  refine List.foldlRecOn (motive := fun t : State => t.completed c.id stOk 1 0) _ _ ?_ fun _ h x _ => h.finishOne x _ _ _ _
  rw [hcode]
  exact State.completed_finishOne _ c stOk cursor 1 0

/-! ## What a cancelled operation leaves (Table 3-15) -/

theorem State.ops_event (s : State) (src detail : Nat) : (s.event src detail).ops = s.ops := (s.signalsOnly_event src detail).ops_eq

theorem State.ops_dropCut (s : State) (op : Nat) : (s.dropCut op).ops = s.ops := by
  unfold State.dropCut
  split
  · rfl
  · split <;> rfl

/-- What a cancelled operation leaves beside its record is no change of an operation. -/
theorem State.ops_cancelClean (s : State) (o : Op) : (s.cancelClean o).ops = s.ops := by
  unfold State.cancelClean
  split_ifs
  · rfl
  · split <;> rfl
  · rfl
  · rfl
  · exact s.ops_dropCut _
  · exact State.bump_ops _ _
  · exact s.ops_event _ _
  · rfl

end Sys2Proof.Machine
end

section
/-! The statement of the controls: O12. CANCEL, SUSPEND and RESUME on a target on which they are permitted, and what they answer where it is
not there or of another job (R99 to R103, Tables 3-12 to 3-15). -/

namespace Sys2Proof.Machine

/-! ## The common part -/

/-- A control that may act on its target, and is permitted there, acts (R99, Table 3-9). -/
theorem State.controlStart_acts {s : State} {op code : Nat} {ok : Op → Bool} {c t : Op} (act : Op → Op → State) (hc : s.op? op = some c)
    (hcode : c.opcode = code) (hstarted : c.started = true) (hfresh : c.stage = .fresh) (ht : s.controlTarget c = some t)
    (hmay : s.mayControl c t) (hok : ok t = true) : s.controlStart op code ok act = (act c t).settle := by
  have htag : (!cfgSys (s.ringCfg c.ring) && cfgTag (s.ringCfg t.ring) != cfgTag (s.ringCfg c.ring)) = false := by
    rcases hmay with h | h <;> simp [h]
  simp [State.controlStart, hc, hcode, hstarted, hfresh, ht, htag, hok]

/-- A control whose target does not exist ends with OK and RESULT 0 (R99). -/
theorem State.controlStart_of_no_target {s : State} {op code : Nat} {c : Op} (ok : Op → Bool) (act : Op → Op → State)
    (hc : s.op? op = some c) (hcode : c.opcode = code) (hstarted : c.started = true) (hfresh : c.stage = .fresh)
    (ht : s.controlTarget c = none) : s.controlStart op code ok act = s.finish c stOk 0 0 0 := by
  simp [State.controlStart, hc, hcode, hstarted, hfresh, ht]

/-- One whose target is of another job, not from a SYS ring, ends with NACK_TAG (R99). -/
theorem State.controlStart_of_other_job {s : State} {op code : Nat} {c t : Op} (ok : Op → Bool) (act : Op → Op → State)
    (hc : s.op? op = some c) (hcode : c.opcode = code) (hstarted : c.started = true) (hfresh : c.stage = .fresh)
    (ht : s.controlTarget c = some t) (hmay : ¬s.mayControl c t) : s.controlStart op code ok act = s.finish c stNackTag t.cursor 0 0 := by
  obtain ⟨hsys, htag⟩ := not_or.mp hmay
  simp [State.controlStart, hc, hcode, hstarted, hfresh, ht, hsys, htag]

/-- The command of a control runs the common part for its opcode. -/
theorem exec_control {s : State} {op : Nat} {c : Op} {code : Instr}
    (h : code = .cancel op ∧ c.opcode = 0x7D ∨ code = .suspend op ∧ c.opcode = 0x7E ∨ code = .resume op ∧ c.opcode = 0x7F) :
    ∃ ok act, exec code s = .next (s.controlStart op c.opcode ok act) := by
  rcases h with ⟨rfl, h⟩ | ⟨rfl, h⟩ | ⟨rfl, h⟩ <;> rw [h] <;> exact ⟨_, _, rfl⟩

/-! ## The target and the control that waits for it -/

/-- A control descriptor that waits for operation `id`. -/
def Op.waitingFor (id : Nat) (c : Op) : Op := { (c.keep nkTarget id).keep nkAfter id with stage := .waitTarget }

theorem Op.note_waitingFor (id : Nat) (c : Op) : (c.waitingFor id).note.get nkTarget = some id := by
  rw [Op.waitingFor, Op.keep, Op.keep, Tab.get_set_ne _ _ _ _ (by decide), Tab.get_set_self]

theorem State.mem_ops_waitTarget {s : State} {c : Op} (t : Op) (h : c ∈ s.ops) : c.waitingFor t.id ∈ (s.waitTarget c t).ops :=
  List.mem_map.mpr ⟨c, h, if_pos rfl⟩

/-- A target that a control steers takes the state that the control gives it. -/
theorem State.op?_steer_waitTarget {s : State} {c t : Op} (st : OpState) (ht : s.controlTarget c = some t) (hne : t.id ≠ c.id) :
    ∃ t', ((s.waitTarget c t).steer t st).op? t.id = some t' ∧ t'.st = st := by
  obtain ⟨x, hx⟩ := State.op?_of_controlTarget ht
  have hwait : (s.waitTarget c t).op? t.id = some x := ((s.op?_modOp c.id t.id (Op.waitingFor t.id) fun _ => rfl).trans (if_neg hne)).trans hx
  exact ⟨_, State.op?_modOp_self hwait (fun _ => rfl), rfl⟩

/-- CANCEL ends a target that does not run on: the target is final with CANCELLED, and the control with OK and RESULT 1. -/
theorem State.cancelTarget_ends {s : State} {c t : Op} (hc : c ∈ s.ops) (hcode : c.opcode = 0x7D) (hne : t.id ≠ c.id)
    (hst : t.st ≠ .cancelling) (hends : t.st = .queued ∨ t.st = .suspended ∨ s.cancelNow t = true) :
    (s.cancelTarget c t).completed t.id stCancelled 0 0 ∧ (s.cancelTarget c t).completed c.id stOk 1 0 := by
  have hcond : (t.st = .queued || t.st = .suspended || s.cancelNow t) = true := by simpa [or_assoc] using hends
  have hact : s.cancelTarget c t = (s.waitTarget c t).cancelOp t := by
    rw [State.cancelTarget, if_neg hst]
    exact if_pos hcond
  have hmem : c.waitingFor t.id ∈ ((s.waitTarget c t).cancelClean t).ops := by
    rw [State.ops_cancelClean]
    exact State.mem_ops_waitTarget t hc
  obtain ⟨-, -, hfinal⟩ := ((s.waitTarget c t).cancelClean t).fail_does (o := t) rfl (st := stCancelled) rfl
  rw [hact, State.cancelOp]
  exact ⟨hfinal,
    State.completed_waiting_cancel (c := c.waitingFor t.id) t.cursor 0 0 hmem hne.symm hcode rfl (Op.note_waitingFor _ _)⟩

/-- SUSPEND of a QUEUED target: it is SUSPENDED, and the control, for which none waits, ends with OK. -/
theorem State.suspendTarget_queued {s : State} {c t : Op} (ht : s.controlTarget c = some t) (hne : t.id ≠ c.id) (hst : t.st = .queued)
    (hnone : ∀ x ∈ s.ops, x.note.get nkTarget ≠ some c.id) :
    (∃ t', (s.suspendTarget c t).op? t.id = some t' ∧ t'.st = .suspended) ∧ (s.suspendTarget c t).completed c.id stOk 1 0 := by
  obtain ⟨x, hx⟩ := State.op?_of_controlTarget ht
  have hact : s.suspendTarget c t = ((s.interim t stSuspended 0).modOp t.id (fun t => { t with st := .suspended })).finish
      (c.keep nkAfter t.id) stOk 0 1 0 := by
    simp only [State.suspendTarget, hst]
  have hnone' : ∀ y ∈ ((s.interim t stSuspended 0).modOp t.id (fun t => { t with st := .suspended })).ops,
      y.note.get nkTarget ≠ some c.id := by
    intro y hy
    obtain ⟨z, hz, rfl⟩ := List.mem_map.mp hy
    split <;> exact hnone z hz
  rw [hact]
  refine ⟨⟨{ x with st := .suspended }, ?_, rfl⟩, ?_⟩
  · rw [State.finish_of_no_control (o := c.keep nkAfter t.id) _ _ _ _ hnone', State.op?_finishOne]
    exact (if_neg hne).trans (State.op?_modOp_self (s := s.interim t stSuspended 0) hx (fun _ => rfl))
  · exact State.completed_finish_ok _ (c.keep nkAfter t.id) 0 1 0

/-- Joining the ready queue changes no operation. -/
theorem State.ops_makeReady (s : State) (id : Nat) : (s.makeReady id).ops = s.ops := by
  unfold State.makeReady
  split <;> rfl

/-- RESUME of a SUSPENDED target: it runs, or is QUEUED when it had not started, and the control, for which none waits, ends with OK. -/
theorem State.resumeTarget_suspended {s : State} {c t : Op} (ht : s.op? t.id = some t) (hne : t.id ≠ c.id) (hst : t.st = .suspended)
    (hnone : ∀ x ∈ s.ops, x.note.get nkTarget ≠ some c.id) :
    (∃ t', (s.resumeTarget c t).op? t.id = some t' ∧ t'.st = (if t.started then .running else .queued)) ∧
      (s.resumeTarget c t).completed c.id stOk 1 0 := by
  obtain ⟨u, hact, hops⟩ : ∃ u : State, s.resumeTarget c t = u.finish c stOk t.cursor 1 0 ∧
      u.ops = (s.modOp t.id (fun t => { t with st := if t.started then .running else .queued, control := none })).ops := by
    simp only [State.resumeTarget, hst]
    refine ⟨_, rfl, ?_⟩
    split
    · exact State.ops_makeReady _ _
    · rfl
  have hnone' : ∀ y ∈ u.ops, y.note.get nkTarget ≠ some c.id := by
    intro y hy
    rw [hops] at hy
    obtain ⟨z, hz, rfl⟩ := List.mem_map.mp hy
    split <;> exact hnone z hz
  rw [hact]
  refine ⟨⟨{ t with st := if t.started then .running else .queued, control := none }, ?_, rfl⟩, u.completed_finish_ok c _ 1 0⟩
  rw [State.finish_of_no_control _ _ _ _ hnone', State.op?_finishOne, if_neg hne, State.op?, hops]
  exact State.op?_modOp_self ht (fun _ => rfl)

/-- Settles O12: a control waits for its target, steers it or ends it, by the target's state, and a control without a target, or with one of
another job, ends by itself. -/
theorem controlsActOnTheirTarget : Obligations.ControlsActOnTheirTarget := by
  refine ⟨?cancelEnds, ?cancelRuns, ?suspendRunning, ?suspendQueued, ?resume, ?noTarget, ?otherJob⟩
  case cancelEnds =>
    intro s op c t hc hcode hstarted hfresh ht hmay hne hok hst hends
    obtain rfl := State.op?_some_id hc
    obtain ⟨htarget, -, r, hr, hid, hfinal, hstatus, hresult, -⟩ :=
      State.cancelTarget_ends (State.mem_ops_of_op? hc) hcode hne hst hends
    exact ⟨s.cancelTarget c t, congrArg Host.Outcome.next (State.controlStart_acts _ hc hcode hstarted hfresh ht hmay hok),
      State.finished_of_completed htarget, r, hr, hid, hfinal, hstatus, hresult⟩
  case cancelRuns =>
    intro s op c t hc hcode hstarted hfresh ht hmay hne hok hst hnow
    obtain rfl := State.op?_some_id hc
    have hact : s.cancelTarget c t = (s.waitTarget c t).steer t .cancelling := by
      rcases hst with h | h <;> simp [State.cancelTarget, h, hnow]
    obtain ⟨t', ht', hst'⟩ := State.op?_steer_waitTarget .cancelling ht hne
    exact ⟨_, t', congrArg Host.Outcome.next ((State.controlStart_acts _ hc hcode hstarted hfresh ht hmay hok).trans (by rw [hact])),
      ht', hst', rfl⟩
  case suspendRunning =>
    intro s op c t hc hcode hstarted hfresh ht hmay hne hlong hst hstage
    obtain rfl := State.op?_some_id hc
    have hact : s.suspendTarget c t = (s.waitTarget c t).steer t .suspending := by simp [State.suspendTarget, hst, hstage]
    obtain ⟨t', ht', hst'⟩ := State.op?_steer_waitTarget .suspending ht hne
    exact ⟨_, t', congrArg Host.Outcome.next ((State.controlStart_acts _ hc hcode hstarted hfresh ht hmay hlong).trans (by rw [hact])),
      ht', hst', rfl⟩
  case suspendQueued =>
    intro s op c t hc hcode hstarted hfresh ht hmay hne hlong hst hnone
    obtain rfl := State.op?_some_id hc
    obtain ⟨⟨t', ht', hst'⟩, hdone⟩ := State.suspendTarget_queued ht hne hst hnone
    exact ⟨_, t', congrArg Host.Outcome.next (State.controlStart_acts _ hc hcode hstarted hfresh ht hmay hlong), ht', hst',
      State.finished_of_completed hdone⟩
  case resume =>
    intro s op c t hc hcode hstarted hfresh ht hmay hne hlong hst hnone hself
    obtain rfl := State.op?_some_id hc
    obtain ⟨⟨t', ht', hst'⟩, hdone⟩ := State.resumeTarget_suspended hself hne hst hnone
    exact ⟨_, t', congrArg Host.Outcome.next (State.controlStart_acts _ hc hcode hstarted hfresh ht hmay hlong), ht', hst',
      State.finished_of_completed hdone⟩
  case noTarget =>
    intro s op c code hc hstarted hfresh hcode ht
    obtain rfl := State.op?_some_id hc
    obtain ⟨ok, act, hexec⟩ := exec_control (s := s) hcode
    rw [State.controlStart_of_no_target ok act hc rfl hstarted hfresh ht] at hexec
    have hdone := s.completed_finish_ok c 0 0 0
    obtain ⟨-, r, hr, hid, hfinal, -, hresult, -⟩ := id hdone
    exact ⟨_, hexec, State.finished_of_completed hdone, r, hr, hid, hfinal, hresult⟩
  case otherJob =>
    intro s op c t code hc hstarted hfresh hcode ht hmay
    obtain rfl := State.op?_some_id hc
    obtain ⟨ok, act, hexec⟩ := exec_control (s := s) hcode
    rw [State.controlStart_of_other_job ok act hc rfl hstarted hfresh ht hmay] at hexec
    exact ⟨_, hexec, State.finished_of_completed (s.completed_finish c stNackTag t.cursor 0 0),
      fun id _ _ => s.op?_finish_or c stNackTag t.cursor 0 0 id⟩

end Sys2Proof.Machine
end

section
/-! SUPPORT. What a store of a whole region tile leaves (R113, R307, R309): the tile, its guard line, every other byte, and the digest. -/

namespace Sys2Proof.Machine

/-- A string of `n` bytes is its own fit. -/
theorem fit_of_length {n : Nat} {v : List Byte} (h : v.length = n) : fit n v = v := h ▸ fit_self v

theorem State.tileBytes_congr {s t : State} (hmem : t.mem = s.mem) (hstrap : t.strap = s.strap) (r : Region) (x : Nat) :
    t.tileBytes r x = s.tileBytes r x := by
  simp only [State.tileBytes, State.stackRead, State.stackAddr, hmem, hstrap]

/-- The guard line of a tile of strength above 0 is written at its place (R307). -/
theorem State.putLine_of_line (s : State) {r : Region} {t g off : Nat} (v : List Byte) (hoff : r.lineOff t = some off) (hg : g ≠ 0) :
    s.putLine r t g v = s.stackWrite off (guardLine g v) := by
  simp only [State.putLine, hoff, if_neg hg]

/-- A tile without a line, or of strength 0, stores none. -/
theorem State.putLine_of_no_line (s : State) {r : Region} {t g : Nat} (v : List Byte) (h : r.lineOff t = none ∨ g = 0) :
    s.putLine r t g v = s := by
  unfold State.putLine
  split
  next off hoff => simp [h.resolve_left (by simp [hoff])]
  next => rfl

/-- Either a tile stores no line, or its line is written at its place. -/
theorem State.putLine_cases (s : State) (r : Region) (t g : Nat) (v : List Byte) :
    s.putLine r t g v = s ∨ ∃ off, r.lineOff t = some off ∧ g ≠ 0 ∧ s.putLine r t g v = s.stackWrite off (guardLine g v) := by
  cases hoff : r.lineOff t with
  | none => exact .inl (s.putLine_of_no_line v (.inl hoff))
  | some off =>
    by_cases hg : g = 0
    · exact .inl (s.putLine_of_no_line v (.inr hg))
    · exact .inr ⟨off, rfl, hg, s.putLine_of_line v hoff hg⟩

/-- The memory after a store of a whole tile: the tile, then its line. -/
theorem State.putTile_mem (s : State) (r : Region) (t : Nat) (v : List Byte) : (s.putTile r t v).mem =
    ((s.stackWrite ((r.tileBase + t) * 4096) (fit 4096 v)).putLine r t (r.strengthAt t) v).mem := rfl

/-- A tile that does not hold its own line reads as what was stored (R309). -/
theorem State.tileBytes_putTile (s : State) {r : Region} {t : Nat} (v : List Byte) (h : r.lineApart t) :
    (s.putTile r t v).tileBytes r t = fit 4096 v := by
  have hlen : (fit 4096 v).length = 4096 := fit_length _ _
  have hself := s.stackRead_stackWrite_self ((r.tileBase + t) * 4096) (fit 4096 v)
  rw [hlen] at hself
  rw [State.tileBytes_congr (s.putTile_mem r t v) rfl, State.tileBytes]
  rcases (s.stackWrite ((r.tileBase + t) * 4096) (fit 4096 v)).putLine_cases r t (r.strengthAt t) v with hl | ⟨off, hoff, -, hl⟩
  · rw [hl, hself]
  · rw [hl, State.stackRead_stackWrite_apart _ _ _ _ _ (h off hoff v).symm, hself]

/-- The line of a tile of strength above 0 reads as the line of what was stored (R307, R309). -/
theorem State.stackRead_line_putTile (s : State) {r : Region} {t off : Nat} (v : List Byte) (hoff : r.lineOff t = some off)
    (hg : r.strengthAt t ≠ 0) :
    (s.putTile r t v).stackRead off (guardLine (r.strengthAt t) v).length = guardLine (r.strengthAt t) v := by
  have hself := (s.stackWrite ((r.tileBase + t) * 4096) (fit 4096 v)).stackRead_stackWrite_self off (guardLine (r.strengthAt t) v)
  rwa [← State.putLine_of_line _ v hoff hg] at hself

/-- Every byte outside a stored tile and its line is as before. -/
theorem State.byteAt_putTile (s : State) {r : Region} {t a : Nat} (v : List Byte)
    (htile : a < s.tileAddr (r.tileBase + t) ∨ s.tileAddr (r.tileBase + t) + 4096 ≤ a)
    (hline : ∀ off, r.lineOff t = some off → r.strengthAt t ≠ 0 →
      a < s.stackAddr off ∨ s.stackAddr off + (guardLine (r.strengthAt t) v).length ≤ a) :
    byteAt (s.putTile r t v).mem a = byteAt s.mem a := by
  have hbase : byteAt (s.stackWrite ((r.tileBase + t) * 4096) (fit 4096 v)).mem a = byteAt s.mem a := by
    rw [State.byteAt_stackWrite, fit_length]
    exact if_neg (by unfold State.tileAddr at htile; omega)
  rw [State.putTile_mem]
  rcases (s.stackWrite ((r.tileBase + t) * 4096) (fit 4096 v)).putLine_cases r t (r.strengthAt t) v with hl | ⟨off, hoff, hg, hl⟩
  · rw [hl, hbase]
  · have hout := hline off hoff hg
    rw [hl, State.byteAt_stackWrite, hbase]
    exact if_neg (by rw [not_and_or, not_le, not_lt]; exact hout)

end Sys2Proof.Machine
end

section
/-! SUPPORT. What an event leaves: it sets its pending bit, and no field outside the event block (R446). -/

namespace Sys2Proof.Machine

section
variable (s : State) (src detail : Nat)
@[simp] theorem State.event_mem : (s.event src detail).mem = s.mem := by
  obtain ⟨e, he⟩ := s.event_changes_evt src detail
  rw [he]
@[simp] theorem State.event_regions : (s.event src detail).regions = s.regions := by
  obtain ⟨e, he⟩ := s.event_changes_evt src detail
  rw [he]
@[simp] theorem State.event_tap : (s.event src detail).tap = s.tap := by
  obtain ⟨e, he⟩ := s.event_changes_evt src detail
  rw [he]
@[simp] theorem State.event_port : (s.event src detail).port = s.port := by
  obtain ⟨e, he⟩ := s.event_changes_evt src detail
  rw [he]
@[simp] theorem State.event_reg (off : Nat) : (s.event src detail).reg off = s.reg off := (s.signalsOnly_event src detail).reg_eq off
/-- An event sets the pending bit of its source (R446). -/
theorem State.event_raises (h : src < 128) : (s.event src detail).raised src = true := s.occur_raises detail false h
end

end Sys2Proof.Machine
end

section
/-! SUPPORT. What a closed delta, a plain read and a failed capture leave (R107, R118, R127, R131, R313). -/

namespace Sys2Proof.Machine

/-! ## Tile deltas -/

/-- `t` is `s` but for what the moves of tile deltas touch: counters, table references, the power counts, and the tap beside its held writes. -/
def State.DeltasOnly (s t : State) : Prop :=
  t = { s with regs := t.regs, tables := t.tables, power := t.power, tap := { t.tap with held := s.tap.held } }

theorem State.DeltasOnly.refl (s : State) : s.DeltasOnly s := rfl

theorem State.DeltasOnly.trans {s t u : State} (h : s.DeltasOnly t) (g : t.DeltasOnly u) : s.DeltasOnly u := by
  unfold State.DeltasOnly at h g ⊢
  rw [g, h]

section
variable {s t : State} (h : s.DeltasOnly t)
include h
theorem State.DeltasOnly.mem_eq : t.mem = s.mem := by rw [h]
theorem State.DeltasOnly.strap_eq : t.strap = s.strap := by rw [h]
theorem State.DeltasOnly.regions_eq : t.regions = s.regions := by rw [h]
theorem State.DeltasOnly.held_eq : t.tap.held = s.tap.held := by rw [h]
end

section
variable (s : State)

theorem State.deltasOnly_bump (off : Nat) : s.DeltasOnly (s.bump off) := rfl

theorem State.deltasOnly_freeSlot (k : Nat) : s.DeltasOnly (s.freeSlot k) := by
  unfold State.freeSlot
  split
  · rfl
  · dsimp only
    split <;> rfl

theorem State.deltasOnly_addNorm (j n : Nat) (x : Nat × Nat) : s.DeltasOnly (s.addNorm j n x) := by
  unfold State.addNorm
  split <;> rfl

theorem State.deltasOnly_setDirty (r : Region) (g v : Nat) : s.DeltasOnly (s.setDirty r g v) := by
  unfold State.setDirty
  split <;> rfl

theorem State.deltasOnly_track (j t : Nat) (first : Bool) : s.DeltasOnly (s.track j t first) := by
  unfold State.track
  dsimp only
  split
  · rfl
  · split <;> rfl

theorem State.deltasOnly_handOff (k : Nat) : s.DeltasOnly (s.handOff k) := by
  unfold State.handOff
  split
  · rfl
  split
  · exact s.deltasOnly_freeSlot k
  extract_lets marked absorbed
  split
  · exact (s.deltasOnly_freeSlot k).trans (State.deltasOnly_bump _ _)
  · rfl

/-- A region whose digest has moved from tile d.tile as it was before delta d to the tile `new` (R127). -/
def Region.takeDelta (d : Delta) (new : List Byte) (q : Region) : Region :=
  { q with digest := digestStep q.digest (q.weight d.tile) (xorBytes new d.delta) new }

/-- A slot that closes with its tile known moves the digest of its region to the tile as captured, and changes no other region, no
memory and no held write. -/
theorem State.slotClosed_does {k : Nat} {d : Delta} {r : Region} (hd : s.tap.slots.get k = some d) (hr : s.regions.get d.region = some r) :
    (s.modRegion d.region (Region.takeDelta d (s.tileCaptured d.region d.tile r))).DeltasOnly (s.slotClosed k) := by
  have hend (u : State) (c : Bool) : u.DeltasOnly (if c then u.freeSlot k else u.handOff k) := by
    split
    · exact u.deltasOnly_freeSlot k
    · exact u.deltasOnly_handOff k
  simp only [State.slotClosed, hd, hr]
  refine .trans ?norm (hend _ _)
  split
  · split
    · exact State.deltasOnly_addNorm _ _ _ _
    · exact .refl _
  · exact .refl _

/-- A slot that closes changes, beside the tile deltas, at most regions. -/
theorem State.slotClosed_keeps (k : Nat) : ∃ g, ({ s with regions := g } : State).DeltasOnly (s.slotClosed k) := by
  cases hd : s.tap.slots.get k with
  | none => exact ⟨s.regions, by simp only [State.slotClosed, hd]; exact .refl _⟩
  | some d =>
    cases hr : s.regions.get d.region with
    | none => exact ⟨s.regions, by simp only [State.slotClosed, hd, hr]; exact s.deltasOnly_freeSlot k⟩
    | some r => exact ⟨_, s.slotClosed_does hd hr⟩

theorem State.closeSlot_keeps (k : Nat) : ∃ g, ({ s with regions := g } : State).DeltasOnly (s.closeSlot k) := by
  unfold State.closeSlot
  split
  · exact ⟨s.regions, .refl _⟩
  next d hd =>
    extract_lets s1
    split
    · exact ⟨s.regions, .refl _⟩
    split
    · obtain ⟨g, hg⟩ := s1.slotClosed_keeps k
      exact ⟨g, .trans (t := { s1 with regions := g }) rfl hg⟩
    · exact ⟨s.regions, rfl⟩

/-- A freed slot stands no more. -/
theorem State.get_freeSlot (k : Nat) : (s.freeSlot k).tap.slots.get k = none := by
  unfold State.freeSlot
  split
  next h => exact h
  next => dsimp only; split <;> exact (Tab.get_del _ _ _).trans (if_pos rfl)

end

/-! ## Plain reads -/

section
variable (s : State)

theorem State.cbwAsk_tap (j t : Nat) : (s.cbwAsk j t).tap = s.tap := by
  unfold State.cbwAsk
  split
  · dsimp only
    split
    · split <;> rfl
    · rfl
  · rfl

theorem State.cbwEngine_tap (j t : Nat) : (s.cbwEngine j t).tap = s.tap := by
  unfold State.cbwEngine
  dsimp only
  split
  · exact s.cbwAsk_tap j t
  · exact s.cbwAsk_tap j t

/-- A store of a tile touches the tap in its pairing entry alone (R113). -/
theorem State.putTile_park (r : Region) (t : Nat) (v : List Byte) : (s.putTile r t v).tap.park = s.tap.park := by
  simp [State.putTile, State.refreshPair]

theorem State.repairTile_park (j t : Nat) (r : Region) (v : List Byte) : (s.repairTile j t r v).tap.park = s.tap.park := by
  unfold State.repairTile
  split
  · rw [State.cbwEngine_tap]
    split <;> rfl
  · exact s.putTile_park r t v

theorem State.noteRead_park (j t : Nat) (r : Region) (x : TileRd) : (s.noteRead j t r x).tap.park = s.tap.park := by
  unfold State.noteRead
  extract_lets g s1 s2
  have h2 : s2.tap = s.tap := by
    unfold s2 s1
    split <;> rfl
  split
  · rw [h2]
  split
  · rw [State.putLine_tap, State.bump_tap, h2]
  split
  · rw [h2]
  · rw [State.repairTile_park, State.bump_tap, State.bumpBy_tap, h2]

/-- A read through page guard leaves the park references as they are. -/
theorem State.readPlain_park {ext : Ext} {j t : Nat} {r : Region} {x : Option (List Byte)} {s1 : State}
    (h : s.readPlain ext j r t = (x, s1)) : s1.tap.park = s.tap.park := by
  obtain rfl : (s.readPlain ext j r t).2 = s1 := by rw [h]
  exact s.noteRead_park _ _ _ _
end

/-! ## Failed captures (Table 4-5) -/

theorem State.writeError_keeps (s : State) (agent : Nat) (op : Option Nat) (tile : Nat) : (s.writeError agent op tile).mem = s.mem ∧
    (s.writeError agent op tile).tap = s.tap ∧ (s.writeError agent op tile).regs = s.regs := by
  unfold State.writeError
  split
  · split <;> exact ⟨rfl, rfl, rfl⟩
  · exact ⟨rfl, rfl, rfl⟩

/-- A failed capture takes its held write out, with the failed-capture event and count, and stores nothing. -/
theorem State.captureFail_does (s : State) (h : Held) : (∀ x ∈ (s.captureFail h).tap.held, x.id ≠ h.id) ∧
    (s.captureFail h).raised 66 = true ∧ (s.captureFail h).reg (tapCnt 7) = s.reg (tapCnt 7) + 1#32 ∧ (s.captureFail h).mem = s.mem := by
  unfold State.captureFail State.refuseWrite
  extract_lets tile
  obtain ⟨hmem, htap, hregs⟩ := (s.dropHeld h.id).writeError_keeps h.agent h.op tile
  refine ⟨fun x hx => ?_, State.event_raises _ _ _ (by decide), ?_, ?_⟩
  · rw [State.event_tap, State.bump_tap, htap] at hx
    exact bne_iff_ne.mp (List.mem_filter.mp hx).2
  · rw [State.event_reg, State.reg_bump_self, State.reg, hregs]
    rfl
  · rw [State.event_mem, State.bump_mem, hmem]
    rfl

end Sys2Proof.Machine
end

section
/-! The statement of engine writes of region tiles: O60. -/

namespace Sys2Proof.Machine

/-- A region whose migration map has taken a write of tile t: the bit of its granule is no longer clear (R224). -/
def Region.takeGranule (t : Nat) (r : Region) : Region :=
  { r with mig := r.mig.map (fun m => { m with clear := m.clear.del (t / 16) }) }

/-- A release of a whole tile stores it; beside the tile, its line and the tap only the migration map changes (R113, R224). -/
theorem State.release_whole (s : State) (j t : Nat) (r : Region) (v : List Byte) :
    ∃ (tap : Tap) (f : Region → Region), (f = id ∨ f = Region.takeGranule t) ∧
      s.release j t r true v = ({ s.putTile r t v with tap := tap } : State).modRegion j f := by
  have hid : ∀ u : State, u.modRegion j id = u := fun u => by simp [State.modRegion, Tab.upd]
  unfold State.release
  dsimp only
  split
  · exact ⟨_, _, .inr rfl, rfl⟩
  · exact ⟨_, _, .inl rfl, (hid _).symm⟩

/-- A restore write stores its tile, and of the regions only that of the tile changes: its digest moves from the tile as it stood (R107). -/
theorem State.restoreTile_does (s : State) (j t : Nat) (r : Region) (v : List Byte) :
    (s.restoreTile j t r v).mem = (s.putTile r t v).mem ∧ (s.restoreTile j t r v).strap = (s.putTile r t v).strap ∧
    (∀ q, s.regions.get j = some q → ((s.restoreTile j t r v).regions.get j).map (fun x => x.digest) =
      some (digestStep q.digest (q.weight t) (s.tileBytes r t) v)) ∧
    ∀ k, k ≠ j → (s.restoreTile j t r v).regions.get k = s.regions.get k := by
  obtain ⟨tap, f, hf, hrelease⟩ := s.release_whole j t r v
  unfold State.restoreTile
  rw [hrelease]
  refine ⟨rfl, rfl, fun q hq => ?_, fun k hk => ?_⟩
  · rcases hf with rfl | rfl <;> simp [Tab.get_upd, hq, Region.takeGranule, Region.weight]
  · simp [Tab.get_upd, hk]

/-- Settles O60: a restore write is a store of the whole tile, whose bytes the store's own rules give, and a move of the digest. -/
theorem tileWritesMoveTheDigest : Obligations.TileWritesMoveTheDigest := by
  intro s j t r v hr hlen hapart
  obtain ⟨hmem, hstrap, hdigest, hother⟩ := s.restoreTile_does j t r v
  refine ⟨?tile, hdigest r hr, fun off hoff hg => ?line, fun a htile hline => ?frame, hother⟩
  case tile => rw [State.tileBytes_congr hmem hstrap, State.tileBytes_putTile _ _ hapart, fit_of_length hlen]
  case line =>
    have hline := s.stackRead_line_putTile v hoff hg
    simpa only [State.stackRead, State.stackAddr, hmem, hstrap] using hline
  case frame => rw [hmem, State.byteAt_putTile _ _ htile hline]

end Sys2Proof.Machine
end

section
/-! The statement of pairing and of the assembly window: O45. -/

namespace Sys2Proof.Machine

/-! ## Optimizer reads (R112 to R115, R218) -/

/-- A snooped read after its note: an optimizer agent's is noted until its response (R114). -/
def State.noteSnoop (s : State) (agent tile rid : Nat) : State :=
  if bitAt (s.regN 0x0110) agent then
    { s.seen with tap := { s.seen.tap with inflight := s.seen.tap.inflight ++ [⟨rid, agent, tile, false⟩] } }
  else s.seen

section
variable (s : State) (agent tile rid : Nat)
@[simp] theorem State.noteSnoop_mem : (s.noteSnoop agent tile rid).mem = s.mem := by unfold State.noteSnoop; split <;> rfl
@[simp] theorem State.noteSnoop_regions : (s.noteSnoop agent tile rid).regions = s.regions := by unfold State.noteSnoop; split <;> rfl
@[simp] theorem State.noteSnoop_reg (off : Nat) : (s.noteSnoop agent tile rid).reg off = s.reg off := by
  unfold State.noteSnoop; split <;> rfl

@[simp] theorem State.noteSnoop_inflight : (s.noteSnoop agent tile rid).tap.inflight =
    s.tap.inflight ++ (if bitAt (s.regN 0x0110) agent = true then [⟨rid, agent, tile, false⟩] else []) := by
  unfold State.noteSnoop
  split
  · rfl
  · exact (List.append_nil _).symm
end

/-- A read of an unbuilt tile of a FOSTERING region is counted and raised (R218). -/
theorem execReadRequestSnoop_of_unbuilt {s : State} {agent tile rid j : Nat} {r : Region} (hin : tile < stackTiles)
    (hat : s.regionAt tile = some (j, r)) (hr : (r.state = .fostering && !r.built.has (tile - r.tileBase)) = true) :
    execReadRequestSnoop agent tile rid s =
      .next (((s.noteSnoop agent tile rid).bump (rbldCnt 6)).event 73 (infoA j (tile - r.tileBase))) := by
  simp only [execReadRequestSnoop, if_neg (Nat.not_le.mpr hin), hat, if_pos hr]
  rfl

/-- Any other read is only noted. -/
theorem execReadRequestSnoop_of_other {s : State} {agent tile rid : Nat} (hin : tile < stackTiles)
    (hr : ∀ j r, s.regionAt tile = some (j, r) → (r.state = .fostering && !r.built.has (tile - r.tileBase)) = false) :
    execReadRequestSnoop agent tile rid s = .next (s.noteSnoop agent tile rid) := by
  simp only [execReadRequestSnoop, if_neg (Nat.not_le.mpr hin)]
  split
  next j r hat =>
    simp only [hr j r hat]
    rfl
  next => rfl

/-- The clause of READ_REQUEST_SNOOP. -/
theorem readRequestSnoop_inside (s : State) {agent tile rid : Nat} (hin : tile < stackTiles) :
    ∃ t, exec (.readRequestSnoop agent tile rid) s = .next t ∧ t.mem = s.mem ∧ t.regions = s.regions ∧
      t.tap.inflight = s.tap.inflight ++ (if bitAt (s.regN 0x0110) agent = true then [⟨rid, agent, tile, false⟩] else []) ∧
      (∀ j r, s.regionAt tile = some (j, r) → r.state = .fostering → r.built.has (tile - r.tileBase) = false →
        t.raised 73 = true ∧ t.reg (rbldCnt 6) = s.reg (rbldCnt 6) + 1#32) := by
  by_cases hunbuilt : ∃ j r, s.regionAt tile = some (j, r) ∧ (r.state = .fostering && !r.built.has (tile - r.tileBase)) = true
  · obtain ⟨j, r, hat, hr⟩ := hunbuilt
    refine ⟨_, execReadRequestSnoop_of_unbuilt hin hat hr, by simp, by simp, by simp, fun _ _ _ _ _ => ?_⟩
    exact ⟨State.event_raises _ _ _ (by decide), by simp [State.reg_bump_self]⟩
  · refine ⟨_, execReadRequestSnoop_of_other hin fun j r hat => ?_, by simp, by simp, by simp, fun j r hat hst hb => ?_⟩
    · exact Bool.eq_false_iff.mpr fun hr => hunbuilt ⟨j, r, hat, hr⟩
    · exact absurd ⟨j, r, hat, by simp [hst, hb]⟩ hunbuilt

/-! ## Pairing entries (R111 to R115) -/

/-- Where no entry of a tile stands none expires. -/
theorem State.expirePair_of_none {s : State} {tile : Nat} (h : s.tap.pairs.get tile = none) : s.expirePair tile = s := by
  simp only [State.expirePair, h]

/-- Before its expiry edge an entry stays. -/
theorem State.expirePair_of_young {s : State} {tile : Nat} {e : PairEntry} (h : s.tap.pairs.get tile = some e)
    (hedge : s.boot.mclk.toNat < e.edge + 1600 * s.rf 0x010C 0 10) : s.expirePair tile = s := by
  simp only [State.expirePair, h, if_neg (Nat.not_le.mpr hedge)]

/-- At its expiry edge an entry leaves, counted where a valid sector was never paired. -/
theorem State.expirePair_of_old {s : State} {tile : Nat} {e : PairEntry} (h : s.tap.pairs.get tile = some e)
    (hedge : e.edge + 1600 * s.rf 0x010C 0 10 ≤ s.boot.mclk.toNat) :
    s.expirePair tile = ({ s with tap := { s.tap with pairs := s.tap.pairs.del tile } } : State).bumpBy (tapCnt 3)
      (if e.valid &&& ~~~e.paired = 0#64 then 0 else 1) := by
  simp only [State.expirePair, h, if_pos hedge]
  split <;> rfl

/-- The state after the response to a noted read has arrived. -/
def State.answerSnoop (s : State) (rid : Nat) : State :=
  { s with tap := { s.tap with inflight := s.tap.inflight.filter (fun x => x.rid != rid) } }

/-- An entry stands for a tile with the sectors of a mask as the tile holds them, none of them paired (R111). -/
def State.putPair (s : State) (tile : Nat) (r : Region) (mask : BitVec 64) : State :=
  let e : PairEntry := ⟨bySector mask (s.tileBytes r (tile - r.tileBase)) (zeros 4096), mask, 0#64, s.boot.mclk.toNat⟩
  { s with tap := { s.tap with pairs := s.tap.pairs.set tile e } }

/-- Is a region one whose optimizer reads enter pairing (R112)? -/
def Region.entersPairing (r : Region) : Bool := r.role.captured || r.role == .watch

section
variable {s : State} {rid : Nat} {q : Inflight} (mask : BitVec 64) (error : Bool)
  (hq : s.tap.inflight.find? (fun x => x.rid == rid) = some q) (hp : s.tap.pairs.get q.tile = none)
include hp

theorem State.expirePair_answered : ({ s with tap := { s.tap with inflight := s.tap.inflight.filter (fun x => x.rid != rid) } } :
    State).expirePair q.tile = s.answerSnoop rid := State.expirePair_of_none hp

include hq

/-- A stale response is counted (R114). -/
theorem execPairingReadResponse_of_stale (hstale : q.stale = true) :
    execPairingReadResponse rid mask error s = .next ((s.answerSnoop rid).bump (tapCnt 4)) := by
  simp only [execPairingReadResponse, hq, State.expirePair_answered hp, if_pos hstale]

/-- A response with an error forms no entry (R112). -/
theorem execPairingReadResponse_of_error (hstale : q.stale = false) (herror : error = true) :
    execPairingReadResponse rid mask error s = .next (s.answerSnoop rid) := by
  simp [execPairingReadResponse, hq, State.expirePair_answered hp, hstale, herror]

/-- Neither does one for a tile whose writes are not captured and not watched (R112). -/
theorem execPairingReadResponse_of_unpaired (hstale : q.stale = false) (herror : error = false)
    (hr : ∀ j r, s.regionAt q.tile = some (j, r) → r.entersPairing = false) :
    execPairingReadResponse rid mask error s = .next (s.answerSnoop rid) := by
  have hat : (s.answerSnoop rid).regionAt q.tile = s.regionAt q.tile := rfl
  simp only [execPairingReadResponse, hq, State.expirePair_answered hp, hat, hstale, herror, Bool.false_eq_true, if_false]
  cases hreg : s.regionAt q.tile with
  | none => rfl
  | some p =>
    have hno : (!(p.2.role.captured || p.2.role == .watch)) = true := by rw [Bool.not_eq_true']; exact hr p.1 p.2 hreg
    simp [hno]

/-- A response of a region that pairs makes the entry of its tile, or is counted where the partition has no room (R111, R112). -/
theorem execPairingReadResponse_of_paired {j : Nat} {r : Region} (hstale : q.stale = false) (herror : error = false)
    (hreg : s.regionAt q.tile = some (j, r)) (hr : r.entersPairing = true) :
    execPairingReadResponse rid mask error s = .next (if s.tap.pairs.length < 32 * s.partPair
      then (s.answerSnoop rid).putPair q.tile r mask else (s.answerSnoop rid).bump (tapCnt 2)) := by
  have hat : (s.answerSnoop rid).regionAt q.tile = some (j, r) := hreg
  have hpairs : (s.answerSnoop rid).tap.pairs.get q.tile = none := hp
  have hno : (!(r.role.captured || r.role == .watch)) = false := by rw [Bool.not_eq_false']; exact hr
  simp only [execPairingReadResponse, hq, State.expirePair_answered hp, hat, hstale, herror, hno, hpairs, Bool.false_eq_true, if_false]
  rfl
end

/-- The clause of PAIRING_READ_RESPONSE. -/
theorem pairingReadResponse_new {s : State} {rid : Nat} {q : Inflight} (mask : BitVec 64) (error : Bool)
    (hq : s.tap.inflight.find? (fun x => x.rid == rid) = some q) (hp : s.tap.pairs.get q.tile = none) :
    ∃ t, exec (.pairingReadResponse rid mask error) s = .next t ∧ t.tap.inflight = s.tap.inflight.filter (fun x => x.rid != rid) ∧
      t.mem = s.mem ∧ (error = true → t.tap.pairs = s.tap.pairs) ∧
      (q.stale = true → t.tap.pairs = s.tap.pairs ∧ t.reg (tapCnt 4) = s.reg (tapCnt 4) + 1#32) ∧
      (∀ j r, error = false → q.stale = false → s.regionAt q.tile = some (j, r) → r.role.captured = true →
        (s.tap.pairs.length < 32 * s.partPair → t.tap.pairs.get q.tile =
          some ⟨bySector mask (s.tileBytes r (q.tile - r.tileBase)) (zeros 4096), mask, 0#64, s.boot.mclk.toNat⟩) ∧
        (32 * s.partPair ≤ s.tap.pairs.length → t.tap.pairs = s.tap.pairs ∧ t.reg (tapCnt 2) = s.reg (tapCnt 2) + 1#32)) := by
  have hcount (off : Nat) : ((s.answerSnoop rid).bump off).reg off = s.reg off + 1#32 := State.reg_bump_self _ _
  have hpairs (off : Nat) : ((s.answerSnoop rid).bump off).tap.pairs = s.tap.pairs := by simp [State.answerSnoop]
  have hinflight (off : Nat) : ((s.answerSnoop rid).bump off).tap.inflight = s.tap.inflight.filter (fun x => x.rid != rid) := by
    simp [State.answerSnoop]
  have hmem (off : Nat) : ((s.answerSnoop rid).bump off).mem = s.mem := by simp [State.answerSnoop]
  cases hstale : q.stale with
  | true =>
    exact ⟨_, execPairingReadResponse_of_stale mask error hq hp hstale, hinflight _, hmem _, fun _ => hpairs _,
      fun _ => ⟨hpairs _, hcount _⟩, fun _ _ _ h => (nomatch h)⟩
  | false =>
    cases herror : error with
    | true =>
      exact ⟨_, execPairingReadResponse_of_error mask _ hq hp hstale rfl, rfl, rfl, fun _ => rfl, fun h => (nomatch h), fun _ _ h => (nomatch h)⟩
    | false =>
      by_cases hreg : ∃ j r, s.regionAt q.tile = some (j, r) ∧ r.entersPairing = true
      · obtain ⟨j, r, hat, hr⟩ := hreg
        have hexec := execPairingReadResponse_of_paired mask _ hq hp hstale rfl hat hr
        by_cases hroom : s.tap.pairs.length < 32 * s.partPair
        · rw [if_pos hroom] at hexec
          refine ⟨_, hexec, rfl, rfl, fun h => (nomatch h), fun h => (nomatch h), fun j' r' _ _ hat' _ => ⟨fun _ => ?_, fun h => ?_⟩⟩
          · cases hat.symm.trans hat'
            exact Tab.get_set_self _ _ _
          · exact absurd hroom (Nat.not_lt.mpr h)
        · rw [if_neg hroom] at hexec
          exact ⟨_, hexec, hinflight _, hmem _, fun h => (nomatch h), fun h => (nomatch h),
            fun _ _ _ _ _ _ => ⟨fun h => absurd h hroom, fun _ => ⟨hpairs _, hcount _⟩⟩⟩
      · refine ⟨_, execPairingReadResponse_of_unpaired mask _ hq hp hstale rfl fun j r hat => ?_, rfl, rfl, fun h => (nomatch h),
          fun h => (nomatch h), fun j r _ _ hat hr => ?_⟩
        · exact Bool.eq_false_iff.mpr fun hr => hreg ⟨j, r, hat, hr⟩
        · exact absurd ⟨j, r, hat, by rw [Region.entersPairing, hr, Bool.true_or]⟩ hreg

/-! ## The assembly window (R118) -/

/-- Closing a slot that is not fully written, and that no held write fills, marks it closed and counts its completion read (R118). -/
theorem State.closeSlot_of_partial {s : State} {k : Nat} {d : Delta} (hd : s.tap.slots.get k = some d) (hopen : d.closed = false)
    (hheld : s.tap.held.any (fun h => h.slot == some k) = false) (hpart : d.written ≠ allSectors) :
    s.closeSlot k = (s.modDelta k (fun d => { d with closed := true })).bump (tapCnt 6) := by
  simp only [State.closeSlot, hd, hopen, hheld, if_neg hpart]
  rfl

/-- Settles O45: each command runs one case of its meaning, and the clauses read off the fields that the case sets. -/
theorem pairingAndAssemblyTimers : Obligations.PairingAndAssemblyTimers := by
  refine ⟨fun s agent tile rid => ⟨fun h => if_pos h, readRequestSnoop_inside s⟩,
    fun s rid mask error q hq hp => pairingReadResponse_new mask error hq hp,
    fun s tile e he => ⟨fun hedge => ?expiry, fun hedge => ?young⟩,
    fun s slot d hd hopen hheld hpart => ⟨fun hpast => ?closes, fun hpast => ?waits⟩⟩
  case expiry =>
    refine ⟨_, congrArg Host.Outcome.next (State.expirePair_of_old he hedge), ?_, fun k hk => ?_, by simp, fun hleft => ?_⟩
    · simp [Tab.get_del]
    · simp [Tab.get_del, hk]
    · rw [if_neg hleft]
      exact State.reg_bump_self _ _
  case young => exact congrArg Host.Outcome.next (State.expirePair_of_young he hedge)
  case closes =>
    have hexec : exec (.tileDeltaAsmTimeout slot) s = .next (s.closeSlot slot).settle := by
      simp [exec, execTileDeltaAsmTimeout, hd, hopen, hpast]
    rw [State.closeSlot_of_partial hd hopen hheld hpart] at hexec
    refine ⟨_, hexec, ?_, State.reg_bump_self _ _, by simp [State.modDelta]⟩
    simp [State.modDelta, Tab.get_upd, hd]
  case waits => simp [exec, execTileDeltaAsmTimeout, hd, hpast]

end Sys2Proof.Machine
end

section
/-! The statement of the tap's own reads: O46. -/

namespace Sys2Proof.Machine

theorem State.SlotsOnly.reg_eq {s t : State} (h : s.SlotsOnly t) (off : Nat) : t.reg off = s.reg off := by
  rw [h]
  rfl

/-! ## OWN_READ_RETURN (R117) -/

section
variable {s s1 : State} {w : Nat} {ext : Ext} {h : Held} {r : Region}
  (hh : s.tap.held.find? (fun x => x.id == w && x.cap == .ownRead) = some h) (hr : s.regions.get h.region = some r)
include hh hr

/-- With its needed sectors returned, a held write of an unguarded tile looks for a slot, and the sectors are counted. -/
theorem execOwnReadReturn_of_clean (hg : r.strengthAt h.tile = 0)
    (hclean : (s.tileRaw ext (r.tileBase + h.tile)).2.any (fun i => h.need.getLsbD i) = false) :
    execOwnReadReturn w ext s =
      .next ((s.modHeld h.id (fun h => { h with cap := .waitSlot })).bumpBy (tapCnt 1) (popcount h.need)).settle := by
  simp [execOwnReadReturn, hh, hr, hg, hclean]

/-- A read that stays uncorrected fails the capture of its write (Table 4-5). -/
theorem execOwnReadReturn_of_lost (hhit : (s.tileRaw ext (r.tileBase + h.tile)).2.any (fun i => h.need.getLsbD i) = true)
    (hread : s.readTile ext h.region r h.tile = (none, s1)) : execOwnReadReturn w ext s = .next (s1.captureFail h).settle := by
  simp [execOwnReadReturn, hh, hr, hhit, hread]
end

/-! ## COMPLETION_READ_RETURN (R118, R127) -/

section
variable {s s1 : State} {slot : Nat} {ext : Ext} {d : Delta} {r : Region} {clean : Bool} (hd : s.tap.slots.get slot = some d)
  (hclosed : d.closed = true) (hwaiting : d.waiting = false) (hmsgs : d.msgs = 0) (hr : s.regions.get d.region = some r)
  (hclean : clean = (r.strengthAt d.tile == 0 && (s.tileRaw ext (r.tileBase + d.tile)).2.all (fun i => d.written.getLsbD i)))
include hd hclosed hwaiting hmsgs hr hclean

/-- With its tile known, by a read that needs no repair or by one that is corrected, a slot is closed (R118). -/
theorem execCompletionReadReturn_of_known {v : List Byte}
    (hread : clean = true ∧ s1 = s ∨ clean = false ∧ s.readTile ext d.region r d.tile = (some v, s1)) :
    execCompletionReadReturn slot ext s = .next (s1.slotClosed slot).settle := by
  rcases hread with ⟨rfl, rfl⟩ | ⟨rfl, hread⟩
  · simp only [execCompletionReadReturn, hd, hclosed, hwaiting, hmsgs, hr, ← beq_eq_decide, ← hclean]
    rfl
  · simp only [execCompletionReadReturn, hd, hclosed, hwaiting, hmsgs, hr, ← beq_eq_decide, ← hclean, hread]
    rfl

/-- With its tile uncorrected a slot is freed and not handed off (log entry 67). -/
theorem execCompletionReadReturn_of_lost (hdirty : clean = false) (hread : s.readTile ext d.region r d.tile = (none, s1)) :
    execCompletionReadReturn slot ext s =
      .next (((s1.freeSlot slot).bump (tapCnt 7)).event 66 (infoA d.region d.tile)).settle := by
  subst hdirty
  simp only [execCompletionReadReturn, hd, hclosed, hwaiting, hmsgs, hr, ← beq_eq_decide, ← hclean, hread]
  rfl
end

/-! ## LOG_READBACK_RETURN (R123) -/

/-- A delta that has taken the change of a write in the sectors of a mask (R109). -/
def Delta.join (m : BitVec 64) (x : List Byte) (d : Delta) : Delta := { d with delta := xorBytes d.delta x, written := d.written ||| m }

/-- A delta whose log base a read-back has given (R123). -/
def Delta.rebase (v : List Byte) (d : Delta) : Delta := { d with base := some v, readback := false }

/-- A held write whose capture hold is lifted (R109). -/
def Held.lifted (h : Held) : Held := { h with cap := .captured, slot := none }

/-- A log write over a known base stores base XOR delta in the written sectors of the log tile (R123). -/
theorem State.logWrite_of_base {s : State} {r q : Region} {d : Delta} {n j lt : Nat} {b : List Byte} (m : BitVec 64) (hstep : d.step = some n)
    (hlog : s.logTile r (s.bankOf r n) d.tile = some (j, q, lt)) (hbase : d.base = some b) :
    s.logWrite r d m = s.putTile q lt (bySector m (xorBytes d.delta b) (s.tileBytes q lt)) := by
  simp only [State.logWrite, hstep, hlog, hbase]

theorem State.DeltasOnly.modHeld {s t : State} (h : s.DeltasOnly t) (id : Nat) (f : Held → Held) :
    (s.modHeld id f).DeltasOnly (t.modHeld id f) := by
  unfold State.DeltasOnly at h ⊢
  rw [h]
  rfl

theorem State.DeltasOnly.withRegions {s t : State} (h : s.DeltasOnly t) (g : Tab Region) :
    ({ s with regions := g } : State).DeltasOnly { t with regions := g } := by
  unfold State.DeltasOnly at h ⊢
  rw [h]

/-- The sectors that a held write touches. -/
def Held.sectors (h : Held) : BitVec 64 := sectorMask h.off h.data.length

/-- The change that a held write makes to its tile. -/
def State.heldChange (s : State) (r : Region) (h : Held) : List Byte :=
  xorBytes (s.tileBytes r h.tile) (maskInto (s.tileBytes r h.tile) h.off h.data)

/-- The state after the log write of a held write that has joined delta d in slot k, with its capture hold lifted (R109, R123). -/
def State.logCapture (s : State) (h : Held) (k : Nat) (r : Region) (d : Delta) : State :=
  ((s.modDelta k (Delta.join h.sectors (s.heldChange r h))).logWrite r (d.join h.sectors (s.heldChange r h)) h.sectors).modHeld h.id
    Held.lifted

/-- Beside that, the capture of an in-step write of a logged region changes tile deltas and regions alone (R118, R122, R125, R129). -/
theorem State.takeDelta_logged {s : State} {h : Held} {k n : Nat} {r : Region} {d : Delta} (hd : s.tap.slots.get k = some d)
    (hstep : h.inStep = some n) (hrole : r.role.captured = true) (hlog : r.log = true) :
    ∃ g, ({ s.logCapture h k r d with regions := g } : State).DeltasOnly (s.takeDelta h k r) := by
  have hget : (s.modDelta k (Delta.join h.sectors (s.heldChange r h))).tap.slots.get k = some (d.join h.sectors (s.heldChange r h)) := by
    rw [State.modDelta, Tab.get_upd, if_pos rfl, hd]
    rfl
  unfold State.takeDelta
  extract_lets _ old new m s1 s2 s3
  have hlogged : (s1.logWrite r (d.join h.sectors (s.heldChange r h)) h.sectors).DeltasOnly s2 := by
    have hget1 : s1.tap.slots.get k = some (d.join h.sectors (s.heldChange r h)) := hget
    unfold s2
    simp only [hstep, hget1, hrole, hlog, if_true]
    split
    · exact ((State.deltasOnly_setDirty _ _ _ _).trans (State.deltasOnly_track _ _ _ _)).trans (State.deltasOnly_addNorm _ _ _ _)
    · exact (State.deltasOnly_setDirty _ _ _ _).trans (State.deltasOnly_track _ _ _ _)
  have hlifted : (s.logCapture h k r d).DeltasOnly s3 := hlogged.modHeld h.id Held.lifted
  split
  · split
    · obtain ⟨g, hg⟩ := s3.closeSlot_keeps k
      exact ⟨g, (hlifted.withRegions g).trans hg⟩
    · exact ⟨_, hlifted⟩
  · exact ⟨_, hlifted⟩

/-- A log read-back that is answered captures its held write over the base that it read (R123). -/
theorem execLogReadbackReturn_of_read {s s1 : State} {slot j lt n : Nat} {ext : Ext} {h : Held} {d : Delta} {r q : Region} {v : List Byte}
    (hh : s.tap.held.find? (fun x => x.cap == .logRead && x.slot == some slot) = some h) (hd : s.tap.slots.get slot = some d)
    (hr : s.regions.get d.region = some r) (hstep : d.step = some n) (hlog : s.logTile r (s.bankOf r n) d.tile = some (j, q, lt))
    (hread : s.readPlain ext j q lt = (some v, s1)) :
    execLogReadbackReturn slot ext s = .next ((s1.modDelta slot (Delta.rebase v)).takeDelta h slot r).settle := by
  simp only [execLogReadbackReturn, hh, hd, hr, hstep, Option.bind_some, hlog, hread]
  rfl

/-- Where the delta has a log base, the log tile takes base XOR delta in the sectors of the write (R123). -/
theorem State.logCapture_tileBytes {s : State} {h : Held} {k n j lt : Nat} {r q : Region} {d : Delta} {b : List Byte}
    (hstep : d.step = some n) (hbase : d.base = some b) (hlog : s.logTile r (s.bankOf r n) d.tile = some (j, q, lt))
    (hapart : q.lineApart lt) :
    (s.logCapture h k r d).tileBytes q lt =
      fit 4096 (bySector h.sectors (xorBytes (xorBytes d.delta (s.heldChange r h)) b) (s.tileBytes q lt)) := by
  have hwrite := State.logWrite_of_base (s := s.modDelta k (Delta.join h.sectors (s.heldChange r h)))
    (d := d.join h.sectors (s.heldChange r h)) h.sectors hstep hlog hbase
  rw [State.logCapture, hwrite]
  exact State.tileBytes_putTile _ _ hapart

/-- Lifting the capture hold of one write leaves it lifted. -/
theorem State.cap_of_lifted (s : State) (id : Nat) : ∀ x ∈ (s.modHeld id Held.lifted).tap.held, x.id = id → x.cap = .captured := by
  intro x hx hid
  obtain ⟨y, -, rfl⟩ := List.mem_map.mp hx
  split
  · rfl
  next hne => exact absurd (by simpa only [if_neg hne] using hid) hne

/-- A capture over the base v that a read-back gave lifts its capture hold, and the log tile takes base XOR delta in its sectors (R123). -/
theorem State.takeDelta_rebased {s : State} {h : Held} {k n j lt : Nat} {r q : Region} {d : Delta} {v : List Byte}
    (hd : s.tap.slots.get k = some d) (hdstep : d.step = some n) (hstep : h.inStep = some n)
    (hrole : r.role.captured = true) (hlogged : r.log = true) (hlog : s.logTile r (s.bankOf r n) d.tile = some (j, q, lt))
    (hapart : q.lineApart lt) :
    (∀ x ∈ ((s.modDelta k (Delta.rebase v)).takeDelta h k r).tap.held, x.id = h.id → x.cap = .captured) ∧
    ((s.modDelta k (Delta.rebase v)).takeDelta h k r).tileBytes q lt =
      fit 4096 (bySector h.sectors (xorBytes (xorBytes d.delta (s.heldChange r h)) v) (s.tileBytes q lt)) := by
  have hget : (s.modDelta k (Delta.rebase v)).tap.slots.get k = some (d.rebase v) := by
    rw [State.modDelta, Tab.get_upd, if_pos rfl, hd]
    rfl
  obtain ⟨g, hg⟩ := State.takeDelta_logged hget hstep hrole hlogged
  refine ⟨fun x hx => ?_, ?_⟩
  · rw [hg.held_eq] at hx
    exact State.cap_of_lifted _ h.id x hx
  · rw [State.tileBytes_congr hg.mem_eq hg.strap_eq]
    exact State.logCapture_tileBytes (s := s.modDelta k (Delta.rebase v)) (d := d.rebase v) hdstep rfl hlog hapart

/-! ## PARKED_DELTA_REREAD (R370, R371) -/

/-- A delta lost before it had a SEQ: every context of its region keeps CHECK_FAIL for its step (R371). -/
def SendCtx.loseLate (p : ParkRef) (c : SendCtx) : SendCtx :=
  if c.region = p.region then { c with late := c.late.set (p.step % 3) stCheckFail } else c

theorem SendCtx.late_loseLate {p : ParkRef} {c : SendCtx} (h : (c.loseLate p).region = p.region) :
    (c.loseLate p).late.get (p.step % 3) = some stCheckFail := by
  unfold SendCtx.loseLate at h ⊢
  split
  · exact Tab.get_set_self _ _ _
  next hne => exact absurd (by simpa only [if_neg hne] using h) hne

/-- The state after a park reference is taken. -/
def State.unparkRef (s : State) (p : ParkRef) : State := { s with tap := { s.tap with park := s.tap.park.filter (fun x => x != p) } }

section
variable {s s1 : State} {ext : Ext} {p : ParkRef} {r q : Region} {j lt : Nat} (hp : s.nextParked = some p) (hfree : s.codeFree ≠ 0)
  (hr : s.regions.get p.region = some r) (hlog : s.logTile r p.bank p.tile = some (j, q, lt))
include hp hfree hr hlog

/-- A log tile that is read is the delta of its reference again, in the lowest free slot (R370). -/
theorem execParkedDeltaReread_of_read {v : List Byte} (hread : (s.unparkRef p).readPlain ext j q lt = (some v, s1)) :
    ∃ (d : Delta) (slots : Tab Delta) (rows : Tab TabSlot),
      execParkedDeltaReread ext s = .next (State.settle { s1 with
        tap := { s1.tap with slots := slots.set s1.slotFree d }, tables := { s1.tables with rows := rows } }) ∧
      (d.region, d.tile, d.delta, d.waiting, d.order) = (p.region, p.tile, v, true, p.order) := by
  unfold State.unparkRef at hread
  simp only [execParkedDeltaReread, hp, if_neg hfree, hr, hlog, hread]
  exact ⟨_, _, _, rfl, rfl⟩

/-- A log tile that is not corrected loses its delta in every context of its region (R371). -/
theorem execParkedDeltaReread_of_lost (hread : (s.unparkRef p).readPlain ext j q lt = (none, s1)) :
    execParkedDeltaReread ext s = .next (State.settle (State.giveUp
      { s1 with port := { s1.port with sctx := s1.port.sctx.map (fun x => (x.1, x.2.loseLate p)) } } j lt)) := by
  unfold State.unparkRef at hread
  simp only [execParkedDeltaReread, hp, if_neg hfree, hr, hlog, hread]
  rfl
end

/-- Settles O46: each command runs one case of its meaning, and the clauses read off what a failed capture, a closed slot, a capture over a
read base and a taken reference leave. -/
theorem tapReadsReturn : Obligations.TapReadsReturn := by
  refine ⟨fun s w ext h r hh hr hg => ⟨fun hclean => ?ownRead, fun s1 hhit hread => ?ownLost⟩,
    fun s s1 slot ext d r r1 clean hd hclosed hwaiting hmsgs hr hclean =>
      ⟨fun v hread hr1 hd1 => ?completes, fun hdirty hread => ?completionLost⟩,
    fun s s1 slot j lt j1 lt1 n ext h d r q q1 v old hh hd hr hregion htile hdstep hlog hread hstep hrole hlogged hd1 hlog1 hapart hold =>
      ?logRead,
    fun s ext p r q j lt hp hfree hr hlog => ⟨fun v s1 hread => ?parked, fun s1 hread => ?parkedLost⟩⟩
  case ownRead =>
    refine ⟨_, execOwnReadReturn_of_clean hh hr hg hclean, by simp [State.modHeld], by simp [State.modHeld], ?_⟩
    rw [State.reg_bumpBy, if_pos rfl]
    rfl
  case ownLost => exact ⟨_, execOwnReadReturn_of_lost hh hr hhit hread, s1.captureFail_does h⟩
  case completes =>
    have hdoes := s1.slotClosed_does hd1 hr1
    refine ⟨_, execCompletionReadReturn_of_known hd hclosed hwaiting hmsgs hr hclean hread, hdoes.mem_eq, ?_⟩
    rw [hdoes.regions_eq, State.get_modRegion, if_pos rfl, hr1]
    rfl
  case completionLost =>
    refine ⟨_, execCompletionReadReturn_of_lost hd hclosed hwaiting hmsgs hr hclean hdirty hread, ?_,
      State.event_raises _ _ _ (by decide), ?_, ?_⟩
    · rw [State.event_tap, State.bump_tap, State.get_freeSlot]
    · rw [State.event_reg, State.reg_bump_self, (s1.slotsOnly_freeSlot slot).reg_eq]
    · rw [State.event_mem, State.bump_mem, (s1.deltasOnly_freeSlot slot).mem_eq]
  case logRead =>
    obtain ⟨hheld, hbytes⟩ := State.takeDelta_rebased (v := v) hd1 hdstep hstep hrole hlogged hlog1 hapart
    rw [Held.sectors, State.heldChange, htile] at hbytes
    exact ⟨_, execLogReadbackReturn_of_read hh hd hr hdstep hlog hread, hheld, by rw [hold]; exact hbytes⟩
  case parked =>
    obtain ⟨d, slots, rows, hexec, hfields⟩ := execParkedDeltaReread_of_read hp hfree hr hlog hread
    refine ⟨_, hexec, State.readPlain_park _ hread, rfl, ?_⟩
    rw [Tab.get_set_self, Option.map_some, hfields]
  case parkedLost =>
    refine ⟨_, execParkedDeltaReread_of_lost hp hfree hr hlog hread, ?_, State.event_raises _ _ _ (by decide), fun n c hc hregion => ?_⟩
    · rw [State.giveUp, State.event_tap, State.bump_tap]
      exact State.readPlain_park _ hread
    · rw [State.giveUp, State.event_port, State.bump_port, Tab.get_map] at hc
      obtain ⟨x, -, rfl⟩ := Option.map_eq_some_iff.mp hc
      exact SendCtx.late_loseLate hregion

end Sys2Proof.Machine
end

section
/-! SUPPORT. What tries and ends of messages leave (R142 to R145, R162): the context and its messages, the packets sent, the counters, and
the pending bits that reports keep. -/

namespace Sys2Proof.Machine

/-! ## Tries (R137, R143 to R147) -/

/-- The message with a SEQ after a change of it that keeps SEQs. -/
theorem SendCtx.find_modMsg {c : SendCtx} {seq : Nat} {m : Msg} {f : Msg → Msg} (hm : c.msgs.find? (fun x => x.seq == seq) = some m)
    (hf : ∀ x : Msg, x.seq = seq → (f x).seq = seq) : (c.modMsg seq f).msgs.find? (fun x => x.seq == seq) = some (f m) := by
  have hp : (fun x : Msg => x.seq == seq) ∘ (fun x => if x.seq = seq then f x else x) = fun x => x.seq == seq := by
    funext x
    simp only [Function.comp_apply]
    split
    next h => rw [hf x h, h]
    next => rfl
  have hs : m.seq = seq := by simpa using List.find?_some hm
  rw [SendCtx.modMsg, List.find?_map, hp, hm, Option.map_some, if_pos hs]

/-- Message m of context c after its next try, on the path and with the timer of that try (R143, R145 to R147). -/
def State.tried (s : State) (c : SendCtx) (m : Msg) : Msg :=
  let h := stripeHash c.sheaf m.stripe
  let p := if m.tries = 0 then s.firstPath c.key h else s.nextPath c.key h m.path m.onPath
  let t := if m.tries = 0 then s.rto c.key else s.backoff m.timeout
  { m with st := .sent, tries := m.tries + 1, path := p, onPath := if m.tries = 0 ∨ p ≠ m.path then 0 else m.onPath
           timeout := t, first := if m.tries = 0 then s.now else m.first, due := s.now + t }

/-- The state in which the packets of a try of message `seq` of context n leave: the message is SENT, and its path has counted the try (R165). -/
def State.beginTry (s : State) (n seq : Nat) (c : SendCtx) (m : Msg) : State :=
  (s.modCtx n (fun x => x.modMsg seq (fun _ => s.tried c m))).countPath c.key (s.tried c m).path 1 0

section
variable {s : State} {n seq : Nat} {c : SendCtx} {m : Msg} (hc : s.port.sctx.get n = some c)
  (hm : c.msgs.find? (fun x => x.seq == seq) = some m)
include hc hm

/-- A try begins, is counted when it is not the first one, and sends the message's packets. -/
theorem State.tryMsg_eq : s.tryMsg n seq =
    (if m.tries = 0 then s.beginTry n seq c m else (s.beginTry n seq c m).bump (qtrCnt 1)).sendTry n
      (c.modMsg seq (fun _ => s.tried c m)) (s.tried c m) := by
  simp only [State.tryMsg, hc, hm]
  rfl

theorem State.tryMsg_keeps : (s.tryMsg n seq).mem = s.mem ∧ (s.tryMsg n seq).regions = s.regions := by
  rw [State.tryMsg_eq hc hm]
  split <;> exact ⟨rfl, rfl⟩

/-- Every later try is counted (Table 17-3). -/
theorem State.tryMsg_reg (h : 0 < m.tries) : (s.tryMsg n seq).reg (qtrCnt 1) = s.reg (qtrCnt 1) + 1#32 := by
  rw [State.tryMsg_eq hc hm, if_neg h.ne']
  exact State.reg_bump_self (s.beginTry n seq c m) (qtrCnt 1)

/-- The packets of a try are the last ones issued: eight, to the far member (R137). -/
theorem State.tryMsg_tx : ∃ l : List Tx, (s.tryMsg n seq).port.tx = s.port.tx ++ l ∧ l.length = 8 ∧
    ∀ x ∈ l, ∃ route v, x = .packet (gaddr c.node c.agent 0) route v := by
  rw [State.tryMsg_eq hc hm]
  refine ⟨_, by split <;> rfl, by simp, ?_⟩
  simp [SendCtx.modMsg]

theorem State.tryMsg_msg :
    ((s.tryMsg n seq).port.sctx.get n).bind (fun c => c.msgs.find? (fun x => x.seq == seq)) = some (s.tried c m) := by
  have hs : m.seq = seq := by simpa using List.find?_some hm
  have hctx : (s.tryMsg n seq).port.sctx = s.port.sctx.upd n (fun x => x.modMsg seq (fun _ => s.tried c m)) := by
    rw [State.tryMsg_eq hc hm]
    split <;> rfl
  rw [hctx, Tab.get_upd, if_pos rfl, hc]
  exact SendCtx.find_modMsg hm fun _ _ => hs
end

/-! ## Reports (R384, R385) -/

theorem State.ReportsOnly.sctx_eq {s t : State} (h : s.ReportsOnly t) : t.port.sctx = s.port.sctx := by rw [h]

/-- Every pending bit of `s` stays set in `t`, and no register changes but the counts of reports. -/
def State.CountsReports (s t : State) : Prop :=
  s.KeepsRaised t ∧ ∀ off, off ≠ membCnt 5 → off ≠ membCnt 6 → t.reg off = s.reg off

theorem State.CountsReports.trans {s t u : State} (h : s.CountsReports t) (g : t.CountsReports u) : s.CountsReports u :=
  ⟨h.1.trans g.1, fun off h5 h6 => (g.2 off h5 h6).trans (h.2 off h5 h6)⟩

theorem State.CountsReports.of_eq {s t : State} (hevt : t.evt = s.evt) (hregs : t.regs = s.regs) : s.CountsReports t :=
  ⟨.of_evt hevt, fun _ _ _ => by rw [State.reg, hregs, State.reg]⟩

theorem State.countsReports_bump (s : State) {off : Nat} (h : off = membCnt 5 ∨ off = membCnt 6) : s.CountsReports (s.bump off) :=
  ⟨.of_evt (State.bump_evt _ _), fun _ h5 h6 => State.reg_bump_ne _ _ _ fun hk => h.elim (h5 <| hk.trans ·) (h6 <| hk.trans ·)⟩

theorem State.countsReports_event (s : State) (src detail : Nat) : s.CountsReports (s.event src detail) :=
  ⟨s.keepsRaised_occur src detail false, fun off _ _ => s.event_reg src detail off⟩

theorem State.writeReport_evt (s : State) (k : Key) : (s.writeReport k).evt = s.evt := by
  unfold State.writeReport
  dsimp only
  split
  · split
    · rfl
    · exact State.store_evt _ _ _ _
  · rfl

theorem State.countsReports_writeReport (s : State) (k : Key) : s.CountsReports (s.writeReport k) :=
  .of_eq (s.writeReport_evt k) (s.signalsOnly_writeReport k).regs_eq

theorem State.countsReports_closeKeys (s : State) (p : Key → Bool) : s.CountsReports (s.closeKeys p) := by
  unfold State.closeKeys
  extract_lets gone s1
  have h1 : s.CountsReports s1 := by
    refine List.foldlRecOn (motive := s.CountsReports) _ _ (.of_eq rfl rfl) fun t h k _ => ?_
    split
    · exact h.trans (t.countsReports_writeReport k)
    · exact h
  exact h1.trans (.of_eq rfl rfl)

theorem State.countsReports_takeReport (s : State) (sheaf dst job epoch kind subject reporter : Nat) :
    s.CountsReports (s.takeReport sheaf dst job epoch kind subject reporter) := by
  unfold State.takeReport
  split
  next => exact s.countsReports_bump (.inr rfl)
  next =>
    split
    · exact s.countsReports_bump (.inr rfl)
    extract_lets is b _ s1 ring k _ s2
    split
    next => exact .trans (.of_eq rfl rfl) (State.countsReports_bump _ (.inl rfl))
    next =>
      have h1 : s.CountsReports s1 := by
        unfold s1
        split
        · exact .of_eq rfl rfl
        · split
          · exact s.countsReports_closeKeys _
          · exact .of_eq rfl rfl
      have h2 : s1.CountsReports s2 := .of_eq rfl rfl
      exact (h1.trans h2).trans ((s2.countsReports_writeReport k).trans (State.countsReports_event _ _ _))

/-- A report sets pending bits and counts of its own alone (R384, R385). -/
theorem State.countsReports_report (s : State) (sheaf kind subject level : Nat) : s.CountsReports (s.report sheaf kind subject level) := by
  unfold State.report
  split
  next =>
    split
    · exact .of_eq rfl rfl
    extract_lets keep _ s1
    have h1 : s.CountsReports s1 := .of_eq rfl rfl
    split
    · exact h1
    split
    · exact h1
    split
    · exact h1.trans (s1.countsReports_takeReport _ _ _ _ _ _ _)
    · exact h1.trans (.of_eq rfl rfl)
  next => exact .of_eq rfl rfl

/-! ## The ends of messages (R142 to R144, R162) -/

/-- A context that message m has left: one of a step that retired is counted, and a failed one leaves its status (R162). -/
def SendCtx.ended (m : Msg) (retired : Bool) (st : Option Nat) (c : SendCtx) : SendCtx :=
  let slot := m.step % 3
  let c1 := { c with msgs := c.msgs.filter (fun x => x.seq != m.seq) }
  let c2 := if retired && m.bank != 3 then { c1 with retired := c1.retired.set slot ((c1.retired.get slot).getD 0 + 1) } else c1
  match st with
  | none => c2
  | some x =>
    if m.bank = 3 then { c2 with cfail := some (lowerFail c2.cfail m.seq x) }
    else { c2 with fails := c2.fails.set slot (lowerFail (c2.fails.get slot) m.seq x) }

theorem SendCtx.ended_msgs (m : Msg) (retired : Bool) (st : Option Nat) (c : SendCtx) :
    (c.ended m retired st).msgs = c.msgs.filter (fun x => x.seq != m.seq) := by
  unfold SendCtx.ended
  extract_lets slot c1 c2
  have h2 : c2.msgs = c1.msgs := by unfold c2; split <;> rfl
  split
  · exact h2
  · split <;> exact h2

/-- A context counts a message of step slot `m.step % 3` that retired, and no other. -/
theorem SendCtx.ended_retired (m : Msg) (c : SendCtx) : (c.ended m true none).retired =
    if m.bank = 3 then c.retired else c.retired.set (m.step % 3) ((c.retired.get (m.step % 3)).getD 0 + 1) := by
  by_cases h : m.bank = 3 <;> simp [SendCtx.ended, h]

/-- The end of a message changes its context; no register and no memory changes. -/
theorem State.endMsg_does (s : State) (n : Nat) (m : Msg) (retired : Bool) (st : Option Nat) :
    (s.endMsg n m retired st).port.sctx = s.port.sctx.upd n (SendCtx.ended m retired st) ∧
      (s.endMsg n m retired st).mem = s.mem ∧ (s.endMsg n m retired st).regs = s.regs := by
  unfold State.endMsg
  extract_lets _ s1 s2 s3
  have h2 : s2.port = s1.port ∧ s2.mem = s1.mem ∧ s2.regs = s1.regs := by
    unfold s2
    split
    · split <;> exact ⟨rfl, rfl, rfl⟩
    · exact ⟨rfl, rfl, rfl⟩
  have h3 : s3.port = s2.port ∧ s3.mem = s2.mem ∧ s3.regs = s2.regs := by
    unfold s3
    split <;> exact ⟨rfl, rfl, rfl⟩
  obtain ⟨hport, hmem, hregs⟩ := h3
  rw [h2.1] at hport
  rw [h2.2.1] at hmem
  rw [h2.2.2] at hregs
  rw [(s3.endSend n m.seq retired st).slotsOnly_slotDone m.slot]
  refine ⟨?_, hmem, hregs⟩
  rw [State.endSend, hport]
  rfl

/-- The context of a message that has ended. -/
theorem State.get_endMsg {s : State} {n : Nat} {c : SendCtx} (m : Msg) (retired : Bool) (st : Option Nat)
    (hc : s.port.sctx.get n = some c) : (s.endMsg n m retired st).port.sctx.get n = some (c.ended m retired st) := by
  rw [(s.endMsg_does n m retired st).1, Tab.get_upd, if_pos rfl, hc, Option.map_some]

section
variable {s : State} {n : Nat} {c : SendCtx} (m : Msg) (hc : s.port.sctx.get n = some c)
include hc

/-- A message that fails for its path leaves its context, with the path-failed event and count (R144). -/
theorem State.failMsg_path :
    ((s.failMsg n c m stPathFailed).port.sctx.get n).map (fun x => x.msgs) = some (c.msgs.filter (fun x => x.seq != m.seq)) ∧
    (s.failMsg n c m stPathFailed).raised 67 = true ∧
    (s.failMsg n c m stPathFailed).reg (qtrCnt 14) = s.reg (qtrCnt 14) + 1#32 := by
  obtain ⟨-, -, hregs⟩ := s.endMsg_does n m false (some stPathFailed)
  have hfail : s.failMsg n c m stPathFailed = ((((s.endMsg n m false (some stPathFailed)).bump (qtrCnt 14)).event 67
      (infoB c.sheaf c.dst 0)).report c.sheaf 2 c.dst 0) := by
    unfold State.failMsg
    exact if_pos rfl
  rw [hfail]
  obtain ⟨hraised, hreg⟩ := State.countsReports_report (((s.endMsg n m false (some stPathFailed)).bump (qtrCnt 14)).event 67
    (infoB c.sheaf c.dst 0)) c.sheaf 2 c.dst 0
  refine ⟨?_, hraised _ (State.event_raises _ _ _ (by decide)), ?_⟩
  · rw [(State.reportsOnly_report _ _ _ _ _).sctx_eq, State.event_port, State.bump_port, State.get_endMsg m _ _ hc, Option.map_some,
      SendCtx.ended_msgs]
  · rw [hreg _ (by decide) (by decide), State.event_reg, State.reg_bump_self, State.reg, hregs, State.reg]

/-- A message that the far member refuses leaves its context, with the event and count of refused messages, and no memory changes (R161). -/
theorem State.failMsg_refused {st : Nat} (hst : st = stNackTag ∨ st = stCheckFail) :
    ((s.failMsg n c m st).port.sctx.get n).map (fun x => x.msgs) = some (c.msgs.filter (fun x => x.seq != m.seq)) ∧
    (s.failMsg n c m st).raised 68 = true ∧ (s.failMsg n c m st).reg (faultCnt 6) = s.reg (faultCnt 6) + 1#32 ∧
    (s.failMsg n c m st).mem = s.mem := by
  obtain ⟨-, hmem, hregs⟩ := s.endMsg_does n m false (some st)
  have hfail : s.failMsg n c m st = ((s.endMsg n m false (some st)).bump (faultCnt 6)).event 68 (infoB c.sheaf c.dst (st % 256)) := by
    rcases hst with rfl | rfl <;> rfl
  rw [hfail]
  refine ⟨?_, State.event_raises _ _ _ (by decide), ?_, ?_⟩
  · rw [State.event_port, State.bump_port, State.get_endMsg m _ _ hc, Option.map_some, SendCtx.ended_msgs]
  · rw [State.event_reg, State.reg_bump_self, State.reg, hregs, State.reg]
  · rw [State.event_mem, State.bump_mem, hmem]
end

end Sys2Proof.Machine
end

section
/-! The statement of messages at their sender: O47. A try that may be made, one that lacks a credit, a timer that runs out, and the limit
(R140, R143 to R146). -/

namespace Sys2Proof.Machine

section
variable {s : State} {n seq : Nat} {c : SendCtx} {m : Msg} (hc : s.port.sctx.get n = some c)
include hc

theorem execMessageSend_of_credit (hqueued : c.msgs.find? (fun x => x.st == .queued) = some m) (hmay : s.mayTry c m = true)
    (hcredit : s.creditOk (s.level (gaddr c.node c.agent 0)) 1 1 = true) : execMessageSend n s = .next (s.tryMsg n m.seq) := by
  simp [execMessageSend, hc, hqueued, hmay, hcredit]

theorem execMessageSend_of_no_credit (hqueued : c.msgs.find? (fun x => x.st == .queued) = some m) (hmay : s.mayTry c m = true)
    (hcredit : s.creditOk (s.level (gaddr c.node c.agent 0)) 1 1 = false) : execMessageSend n s = .next (s.bump (clsCnt 4)) := by
  simp [execMessageSend, hc, hqueued, hmay, hcredit]

/-- The state in which a message whose timer has run out is tried again: its path has counted the timeout (R147, R165). -/
def State.noteTimeout (s : State) (n seq : Nat) (c : SendCtx) (m : Msg) : State :=
  (s.countPath c.key m.path 0 1).modCtx n (fun c => c.modMsg seq (fun m => { m with onPath := m.onPath + 1 }))

variable (hsent : c.msgs.find? (fun x => x.seq == seq && x.st == .sent) = some m)
include hsent

theorem execAccumRetryTimeout_of_due (hdue : m.due ≤ s.now) (htries : m.tries < 64) (hlimit : s.now < m.first + 1000000)
    (hmay : s.mayTry c m = true) : execAccumRetryTimeout n seq s = .next ((s.noteTimeout n seq c m).tryMsg n seq) := by
  simp [execAccumRetryTimeout, hc, hsent, hdue, hmay, not_le.mpr htries, not_le.mpr hlimit, State.noteTimeout]

theorem execAccumRetryTimeout_of_early (hdue : s.now < m.due) (hlimit : s.now < m.first + 1000000) :
    execAccumRetryTimeout n seq s = .next s := by
  simp [execAccumRetryTimeout, hc, hsent, not_le.mpr hdue, not_le.mpr hlimit]

theorem execAccumRetryTimeout_of_limit (h : (m.due ≤ s.now ∧ 64 ≤ m.tries) ∨ m.first + 1000000 ≤ s.now) :
    ∃ b, execAccumRetryTimeout n seq s = .next ((s.countPath c.key m.path 0 b).failMsg n c m stPathFailed).settle := by
  have hlimit : m.first + 1000000 ≤ s.now ∨ decide (m.due ≤ s.now) = true ∧ 64 ≤ m.tries := by simpa using h.symm
  exact ⟨_, by simp only [execAccumRetryTimeout, hc, hsent, if_pos hlimit]; rfl⟩
end

/-- Settles O47: a try that may be made is one try of the message, and a message at its limit fails for its path. -/
theorem messagesAreTriedAndFail : Obligations.MessagesAreTriedAndFail := by
  refine ⟨fun s n c m hc hqueued hm hmay => ⟨fun hcredit => ?sends, fun hcredit => execMessageSend_of_no_credit hc hqueued hmay hcredit⟩,
    fun s n seq c m hc hsent hm htries => ⟨fun hdue hfew hlimit hmay => ?again,
      fun hdue hlimit => execAccumRetryTimeout_of_early hc hsent hdue hlimit, fun hlimit => ?fails⟩⟩
  case sends =>
    obtain ⟨hmem, hregions⟩ := State.tryMsg_keeps hc hm
    obtain ⟨l, htx, hlen, hl⟩ := State.tryMsg_tx hc hm
    refine ⟨_, execMessageSend_of_credit hc hqueued hmay hcredit, hmem, hregions, ?_, ?_, ?_, ?_⟩
    · rw [htx, List.take_left]
    · rw [htx, List.length_append, hlen]
    · rw [htx, List.drop_left]
      exact hl
    · rw [State.tryMsg_msg hc hm]
      rfl
  case again =>
    have hc1 : (s.noteTimeout n seq c m).port.sctx.get n = some (c.modMsg seq (fun m => { m with onPath := m.onPath + 1 })) := by
      simp [State.noteTimeout, State.modCtx, State.countPath, Tab.get_upd, hc]
    have hm1 := SendCtx.find_modMsg (f := fun m => { m with onPath := m.onPath + 1 }) hm fun _ h => h
    obtain ⟨hmem, -⟩ := State.tryMsg_keeps hc1 hm1
    obtain ⟨l, htx, hlen, -⟩ := State.tryMsg_tx hc1 hm1
    refine ⟨_, execAccumRetryTimeout_of_due hc hsent hdue hfew hlimit hmay, hmem, ?_, State.tryMsg_reg hc1 hm1 htries, ?_⟩
    · rw [htx, List.length_append, hlen]
      rfl
    · rw [State.tryMsg_msg hc1 hm1]
      simp only [Option.map_some, State.tried, if_neg htries.ne']
      rfl
  case fails =>
    obtain ⟨b, hexec⟩ := execAccumRetryTimeout_of_limit hc hsent hlimit
    have hc1 : (s.countPath c.key m.path 0 b).port.sctx.get n = some c := hc
    obtain ⟨hmsgs, hraised, hreg⟩ := State.failMsg_path m hc1
    exact ⟨_, hexec, hraised, hmsgs, hreg⟩

end Sys2Proof.Machine
end

section
/-! The statement of acknowledgements: O50. Batches that leave (R158), and what an entry does to the message it names (R160, R161). -/

namespace Sys2Proof.Machine

/-! ## ACK_FLUSH (R158) -/

/-- No batch for the sender and tag waits. -/
def State.noBatch (s : State) (dst tag : Nat) : Prop := ∀ x ∈ s.port.acks, ¬(x.dst = dst ∧ x.tag = tag)

/-- The batch of a sender and tag leaves; no other one is new, and memory and regions stay. -/
theorem State.flushAck_does (s : State) (dst tag : Nat) : (s.flushAck dst tag).mem = s.mem ∧ (s.flushAck dst tag).regions = s.regions ∧
    (s.flushAck dst tag).noBatch dst tag ∧ ∀ x ∈ (s.flushAck dst tag).port.acks, x ∈ s.port.acks := by
  unfold State.flushAck
  split
  next b hb =>
    refine ⟨rfl, rfl, fun x hx => ?_, fun x hx => (List.mem_filter.mp hx).1⟩
    simpa [imp_iff_not_or] using (List.mem_filter.mp hx).2
  next h =>
    refine ⟨rfl, rfl, fun x hx => ?_, fun x hx => hx⟩
    simpa using List.find?_eq_none.mp h x hx

/-- After the batches of a list have left, none of them waits. -/
theorem State.foldl_flushAck_does (dst : Nat) (l : List AckBatch) (s : State) :
    (l.foldl (fun t b => t.flushAck dst b.tag) s).mem = s.mem ∧ (l.foldl (fun t b => t.flushAck dst b.tag) s).regions = s.regions ∧
    (∀ x ∈ (l.foldl (fun t b => t.flushAck dst b.tag) s).port.acks, x ∈ s.port.acks) ∧
    ∀ b ∈ l, (l.foldl (fun t b => t.flushAck dst b.tag) s).noBatch dst b.tag := by
  induction l generalizing s with
  | nil => exact ⟨rfl, rfl, fun _ h => h, nofun⟩
  | cons b l ih =>
    obtain ⟨hmem, hregions, hnone, hold⟩ := s.flushAck_does dst b.tag
    obtain ⟨ihmem, ihregions, ihold, ihnone⟩ := ih (s.flushAck dst b.tag)
    refine ⟨ihmem.trans hmem, ihregions.trans hregions, fun x hx => hold x (ihold x hx), fun y hy => ?_⟩
    rcases List.mem_cons.mp hy with rfl | hy
    · exact fun x hx => hnone x (ihold x hx)
    · exact ihnone y hy

theorem execAckFlush_of_aligned {s : State} (dst : Nat) (haligned : s.aligned = true) : execAckFlush dst s =
    .next ((s.port.acks.filter (fun b => b.dst == dst && s.past b.since 50)).foldl (fun t b => t.flushAck dst b.tag) s) := by
  simp [execAckFlush, haligned]

/-! ## ACK_PACKET_RECEIVE (R160, R161) -/

theorem execAckPacketReceive_of_one {s : State} (src : Nat) {v : List Byte} (haligned : s.aligned = true) (hwhole : trailerOk v = true)
    (htyp : (Hdr.parse v).typ = 2) (hcount : (Hdr.parse v).count = 1) :
    execAckPacketReceive src v s = .next (s.packetIn.ackEntry src (slice (payloadOf v) 0 16)).settle := by
  simp [execAckPacketReceive, haligned, hwhole, htyp, hcount]

theorem execAckPacketReceive_of_broken {s : State} (src : Nat) {v : List Byte} (haligned : s.aligned = true) (hbroken : trailerOk v = false) :
    execAckPacketReceive src v s = .next (s.packetIn.bump (qtrCnt 4)) := by
  simp [execAckPacketReceive, haligned, hbroken]

/-- The context that an entry names (Table 5-6). -/
abbrev entryCtx (e : List Byte) : Nat := bits (field e 0 2) 0 10
/-- The KIND of an entry (Table 5-6). -/
abbrev entryKind (e : List Byte) : Nat := bits (field e 0 2) 10 2

theorem State.ackEntry_of_free {s : State} (src : Nat) {e : List Byte} (hc : s.port.sctx.get (entryCtx e) = none) :
    s.ackEntry src e = s.bump (qtrCnt 2) := by
  simp [State.ackEntry, hc]

/-- A context in which a later epoch has fenced the message of a SEQ (R161). -/
def SendCtx.fencedUnder (seq epoch : Nat) (c : SendCtx) : SendCtx :=
  { c.modMsg seq (fun m => { m with st := .fenced }) with fencedBy := some (Nat.max epoch (c.fencedBy.getD 0)) }

section
variable {s : State} {e : List Byte} {c : SendCtx} {m : Msg} (hc : s.port.sctx.get (entryCtx e) = some c)
  (hm : c.msgs.find? (fun m => m.seq == field e 4 4 && (m.st == .sent || m.st == .fenced)) = some m)
include hc hm

/-- An entry that does not refuse retires its message, after a round-trip sample or without one (R145, R160). -/
theorem State.ackEntry_of_retired (hkind : entryKind e ≠ 3) : ∃ u : State, u.mem = s.mem ∧ u.port.sctx = s.port.sctx ∧
    s.ackEntry c.key e = u.endMsg (entryCtx e) m true none := by
  refine ⟨if entryKind e = 0 && m.tries == 1 then s.sample c.key (s.now - m.first) else s, ?_, ?_, ?_⟩
  · split <;> rfl
  · split <;> rfl
  · simp [State.ackEntry, hc, hm, hkind]

/-- A refusal under a later epoch fences the context (R161). -/
theorem State.ackEntry_of_stale {r : Region} (hkind : entryKind e = 3) (hst : field e 2 2 = stStaleEpoch) (hr : s.regions.get c.region = some r)
    (hepoch : r.epoch < field e 8 4) :
    s.ackEntry c.key e =
      (s.event 69 (infoB c.sheaf c.dst 0)).modCtx (entryCtx e) (SendCtx.fencedUnder (field e 4 4) (field e 8 4)) := by
  simp only [State.ackEntry, hc, hm, hkind, hst, hr, ne_eq, not_true, if_false, if_true, Option.map_some, Option.getD_some, if_pos hepoch]
  rfl

/-- A refusal for its tag or for its contents fails the message (R161). -/
theorem State.ackEntry_of_refused (hkind : entryKind e = 3) (hst : field e 2 2 = stNackTag ∨ field e 2 2 = stCheckFail) :
    s.ackEntry c.key e = s.failMsg (entryCtx e) c m (field e 2 2) := by
  have hstale : field e 2 2 ≠ stStaleEpoch := by rcases hst with h | h <;> rw [h] <;> decide
  simp [State.ackEntry, hc, hm, hkind, hstale, hst]
end

/-- Settles O50: a flush takes its batches out, and an entry does to the message that it names what its KIND and STATUS say. -/
theorem acknowledgementsRetireMessages : Obligations.AcknowledgementsRetireMessages := by
  refine ⟨fun s dst haligned => ?flush, fun s src v e haligned hwhole htyp hcount he => ?entry,
    fun s src v haligned hbroken => execAckPacketReceive_of_broken src haligned hbroken⟩
  case flush =>
    obtain ⟨hmem, hregions, -, hnone⟩ :=
      State.foldl_flushAck_does dst (s.port.acks.filter (fun b => b.dst == dst && s.past b.since 50)) s
    exact ⟨_, execAckFlush_of_aligned dst haligned, hmem, hregions,
      fun b hb hdst hpast => hnone b (List.mem_filter.mpr ⟨hb, by simp [hdst, hpast]⟩)⟩
  case entry =>
    subst he
    have hexec := execAckPacketReceive_of_one src haligned hwhole htyp hcount
    refine ⟨fun c m hc hm hsrc => ?named, fun hc => ?unnamed⟩
    case unnamed =>
      refine ⟨_, hexec, ?_⟩
      rw [State.ackEntry_of_free src (s := s.packetIn) hc]
      exact ⟨State.bump_port _ _, State.bump_mem _ _, State.reg_bump_self _ _⟩
    case named =>
      subst hsrc
      have hc1 : s.packetIn.port.sctx.get (entryCtx (slice (payloadOf v) 0 16)) = some c := hc
      refine ⟨fun hkind => ?retired, fun r hkind hst hr hepoch => ?fenced, fun hkind hst => ?failed⟩
      case retired =>
        obtain ⟨u, hmem, hsctx, hentry⟩ := State.ackEntry_of_retired hc1 hm hkind
        rw [hentry] at hexec
        refine ⟨_, hexec, (u.endMsg_does _ m true none).2.1.trans hmem, ?_⟩
        rw [State.get_endMsg m true none (hsctx ▸ hc1), Option.map_some, SendCtx.ended_msgs, SendCtx.ended_retired]
        split
        · rfl
        · rw [Tab.get_set_self]
      case fenced =>
        rw [State.ackEntry_of_stale hc1 hm hkind hst hr hepoch] at hexec
        refine ⟨_, hexec, s.packetIn.event_mem 69 (infoB c.sheaf c.dst 0),
          s.packetIn.event_raises 69 (infoB c.sheaf c.dst 0) (by decide), ?_⟩
        rw [State.modCtx, Tab.get_upd, if_pos rfl, State.event_port, hc1]
        rfl
      case failed =>
        obtain ⟨hmsgs, hraised, hreg, hmem⟩ := State.failMsg_refused m hc1 hst
        exact ⟨_, hexec.trans (by rw [State.ackEntry_of_refused hc1 hm hkind hst]), hmem, hraised, hreg, hmsgs⟩

end Sys2Proof.Machine
end

section
/-! SUPPORT. What the receive window, landing and the spill area do with a packet (R22, R24, R149 to R152). -/

namespace Sys2Proof.Machine

/-! ## Fields of a header -/

theorem leNat_lt (v : List Byte) : leNat v < 256 ^ v.length := by
  induction v with
  | nil => simp [leNat]
  | cons b v ih =>
    have hb := b.isLt
    rw [leNat, List.length_cons, pow_succ]
    omega

theorem field_lt (v : List Byte) (off n : Nat) : field v off n < 256 ^ n := by
  simpa [field, slice_length] using leNat_lt (slice v off n)

theorem Hdr.parse_seq_lt (v : List Byte) : (Hdr.parse v).seq < 2 ^ 32 := field_lt v 16 4
theorem Hdr.parse_pkt_lt (v : List Byte) : (Hdr.parse v).pkt < 8 := Nat.mod_lt _ (by decide)
theorem Hdr.parse_lag_lt (v : List Byte) : (Hdr.parse v).lag < 64 := Nat.mod_lt _ (by decide)

/-- A string spliced in reads back. -/
theorem slice_splice (v w : List Byte) (off : Nat) (h : off ≤ v.length) : slice (splice v off w) off w.length = w := by
  simpa [splice, Nat.min_eq_left h] using slice_middle (v.take off) w (v.drop (off + w.length))

/-! ## The base and the floor (R149, R150) -/

section
variable {c : RecvCtx} (hbase : (c.win.get c.base).map (fun y => y.st) ≠ some .done)
include hbase

/-- A base that is not DONE stays the base. -/
theorem RecvCtx.slide_of_open (n : Nat) : RecvCtx.slide n c = c := by
  cases n with
  | zero => rfl
  | succ n =>
    unfold RecvCtx.slide
    split
    next x hx => rw [if_neg fun hdone => hbase (by rw [hx, Option.map_some, hdone])]
    next => rfl

theorem RecvCtx.put_of_open {seq : Nat} {x : Rx} (hx : x.st ≠ .done) : c.put seq x = { c with win := c.win.set seq x } := by
  refine RecvCtx.slide_of_open ?_ 64
  dsimp only
  by_cases h : c.base = seq
  · rw [h, Tab.get_set_self]
    simpa using hx
  · rw [Tab.get_set_ne _ _ _ _ h]
    exact hbase
end

/-- A floor at the base moves nothing. -/
theorem RecvCtx.advance_at_base {c : RecvCtx} {f : Nat} (n : Nat) (hfloor : c.floor = none) (hf : (f + 2 ^ 32 - c.base) % 2 ^ 32 = 0) :
    RecvCtx.advance f n c = (c, 0) := by
  have hc : { c with floor := none } = c := by rw [← hfloor]
  cases n with
  | zero => rw [RecvCtx.advance, hc]
  | succ n => rw [RecvCtx.advance, if_pos (Or.inl hf), hc]

theorem State.floor_at_base {s : State} {n f : Nat} {c : RecvCtx} (hc : s.port.rctx.get n = some c) (hfloor : c.floor = none)
    (hbase : (c.win.get c.base).map (fun y => y.st) ≠ some .done) (hf : (f + 2 ^ 32 - c.base) % 2 ^ 32 = 0) :
    s.floor n f = s.modRecv n (fun _ => c) := by
  have ht : c.target f = f := by rw [RecvCtx.target, hfloor]
  simp only [State.floor, hc, ht, RecvCtx.advance_at_base 65 hfloor hf, RecvCtx.slide_of_open hbase]
  rfl

/-! ## Window entries -/

theorem State.get_modRecv (s : State) (n k : Nat) (f : RecvCtx → RecvCtx) :
    (s.modRecv n f).port.rctx.get k = if k = n then (s.port.rctx.get k).map f else s.port.rctx.get k := Tab.get_upd _ _ _ _

/-- The window entry that a change of its own context leaves. -/
theorem State.applyRx_modRecv {s : State} {n : Nat} {c : RecvCtx} (hc : s.port.rctx.get n = some c) (f : RecvCtx → RecvCtx) (seq : Nat) :
    (s.modRecv n f).applyRx ⟨n, seq⟩ = (f c).win.get seq := by
  rw [State.applyRx, State.get_modRecv, if_pos rfl, hc]
  rfl

theorem State.applyRx_congr {s t : State} (h : t.port.rctx = s.port.rctx) (a : Apply) : t.applyRx a = s.applyRx a := by
  rw [State.applyRx, h, State.applyRx]

theorem State.applyRx_spillOut {s : State} {n seq p : Nat} {x y : Rx} (hy : s.applyRx ⟨n, seq⟩ = some y) (a : Apply) :
    (s.spillOut n seq p x).applyRx a = if a = ⟨n, seq⟩ then some { x with place := some p, data := [] } else s.applyRx a := by
  obtain ⟨k, i⟩ := a
  obtain ⟨c, hc, -⟩ := Option.bind_eq_some_iff.mp hy
  have hc' : (s.toSpill p x x.data).port.rctx.get n = some c := hc
  by_cases hk : k = n
  · subst hk
    rw [State.spillOut, State.applyRx_modRecv hc']
    by_cases hi : i = seq
    · rw [hi, if_pos rfl, Tab.get_set_self]
    · rw [if_neg (by simp [hi]), Tab.get_set_ne _ _ _ _ hi, State.applyRx, hc]
      rfl
  · rw [if_neg (by simp [hk]), State.applyRx, State.spillOut, State.get_modRecv, if_neg hk]
    rfl

/-! ## Messages moved to the spill area (R22, R151) -/

/-- `t` is `s` after messages left landing for the spill area: the queue and the regions stay, an entry of the window keeps its state, mask and
first packet, and one that is not queued stays as it is. -/
structure State.Spills (s t : State) : Prop where
  regions : t.regions = s.regions
  regs : t.regs = s.regs
  queue : t.port.applyQ = s.port.applyQ
  kept : ∀ a x, s.applyRx a = some x → ∃ y, t.applyRx a = some y ∧ y.st = x.st ∧ y.mask = x.mask ∧ y.first = x.first
  waiting : ∀ a, a ∉ s.port.applyQ → t.applyRx a = s.applyRx a

theorem State.Spills.refl (s : State) : s.Spills s := ⟨rfl, rfl, rfl, fun _ x hx => ⟨x, hx, rfl, rfl, rfl⟩, fun _ _ => rfl⟩

theorem State.Spills.trans {s t u : State} (h : s.Spills t) (g : t.Spills u) : s.Spills u where
  regions := g.regions.trans h.regions
  regs := g.regs.trans h.regs
  queue := g.queue.trans h.queue
  kept a x hx := by
    obtain ⟨y, hy, hst, hmask, hfirst⟩ := h.kept a x hx
    obtain ⟨z, hz, hst', hmask', hfirst'⟩ := g.kept a y hy
    exact ⟨z, hz, hst'.trans hst, hmask'.trans hmask, hfirst'.trans hfirst⟩
  waiting a ha := (g.waiting a (h.queue ▸ ha)).trans (h.waiting a ha)

theorem State.spills_spillOut {s : State} {a : Apply} {p : Nat} {x : Rx} (ha : a ∈ s.port.applyQ) (hx : s.applyRx a = some x) :
    s.Spills (s.spillOut a.ctx a.seq p x) where
  regions := rfl
  regs := rfl
  queue := rfl
  kept b y hy := by
    rw [State.applyRx_spillOut hx]
    split
    next h =>
      subst h
      obtain rfl : x = y := Option.some.inj (hx.symm.trans hy)
      exact ⟨_, rfl, rfl, rfl, rfl⟩
    next => exact ⟨y, hy, rfl, rfl, rfl⟩
  waiting b hb := by
    rw [State.applyRx_spillOut hx, if_neg fun h => hb (by rw [h]; exact ha)]

theorem State.spills_spillLoop (n : Nat) (s : State) : s.Spills (State.spillLoop n s) := by
  induction n generalizing s with
  | zero => exact .refl s
  | succ n ih =>
    unfold State.spillLoop
    split
    · exact .refl s
    · split
      next a x p hfirst _ =>
        obtain ⟨b, hb, hsome⟩ := List.exists_of_findSome?_eq_some hfirst
        split at hsome
        next y hy =>
          split at hsome
          · cases hsome
            exact (State.spills_spillOut hb hy).trans (ih _)
          · cases hsome
        next => cases hsome
      next => exact .refl s

/-- With no complete message nothing leaves landing. -/
theorem State.spillLoop_of_empty {s : State} (h : s.port.applyQ = []) (n : Nat) : State.spillLoop n s = s := by
  cases n with
  | zero => rfl
  | succ n =>
    unfold State.spillLoop
    rw [h]
    simp

/-! ## Packets taken (R149, R151) -/

section
variable {s : State} {n seq pkt : Nat} {c : RecvCtx} {x : Rx} {v : List Byte} (hc : s.port.rctx.get n = some c)
  (hbase : (c.win.get c.base).map (fun y => y.st) ≠ some .done) (hx : x.st = .assembling)
include hc hbase

/-- The last packet of a message makes it APPLYING and puts it in its apply queue. -/
theorem State.takePacket_of_last (hmask : x.mask + 2 ^ pkt = 255) :
    (s.takePacket n seq x pkt v).port.applyQ = s.port.applyQ ++ [⟨n, seq⟩] ∧
    ((s.takePacket n seq x pkt v).applyRx ⟨n, seq⟩).map (fun z => (z.st, z.mask)) = some (.applying, 255) := by
  have hctx : (s.takePacket n seq x pkt v).port.rctx = (s.modRecv n (fun c => c.put seq
      ⟨.applying, x.mask + 2 ^ pkt, splice (s.rxData x) (512 * pkt) (fit 512 v), x.header, x.first, none⟩)).port.rctx := by
    rw [State.takePacket, if_pos hmask]
  refine ⟨by rw [State.takePacket, if_pos hmask]; rfl, ?_⟩
  rw [State.applyRx_congr hctx, State.applyRx_modRecv hc, RecvCtx.put_of_open hbase (by simp), Tab.get_set_self, hmask]
  rfl

include hx

/-- An earlier packet of a message in landing is written there. -/
theorem State.takePacket_of_landing (hplace : x.place = none) (hmask : x.mask + 2 ^ pkt ≠ 255) :
    (s.takePacket n seq x pkt v).mem = s.mem ∧ (s.takePacket n seq x pkt v).port.applyQ = s.port.applyQ ∧
    (s.takePacket n seq x pkt v).regions = s.regions ∧ (s.takePacket n seq x pkt v).applyRx ⟨n, seq⟩ =
      some { x with mask := x.mask + 2 ^ pkt, data := splice x.data (512 * pkt) (fit 512 v) } := by
  have hdata : s.rxData x = x.data := by rw [State.rxData, hplace]
  simp only [State.takePacket, if_neg hmask, hplace, hdata]
  refine ⟨rfl, rfl, rfl, ?_⟩
  rw [State.applyRx_modRecv hc, RecvCtx.put_of_open hbase (by simp [hx]), Tab.get_set_self]

/-- An earlier packet of a parked message is written in the spill area with its mask. -/
theorem State.takePacket_of_parked {q : Nat} (hplace : x.place = some q) (hmask : x.mask + 2 ^ pkt ≠ 255) :
    (s.takePacket n seq x pkt v).mem = memWrite s.mem (s.stackAddr (s.spillOff q))
      (fit 4096 (splice (s.rxData x) (512 * pkt) (fit 512 v)) ++ leBytes 1 (x.mask + 2 ^ pkt)) ∧
    (s.takePacket n seq x pkt v).port.applyQ = s.port.applyQ ∧ (s.takePacket n seq x pkt v).regs = s.regs ∧
    (s.takePacket n seq x pkt v).applyRx ⟨n, seq⟩ = some { x with mask := x.mask + 2 ^ pkt } := by
  simp only [State.takePacket, if_neg hmask, hplace]
  refine ⟨rfl, rfl, rfl, ?_⟩
  refine (State.applyRx_modRecv hc _ seq).trans ?_
  rw [RecvCtx.put_of_open hbase (by simp [hx]), Tab.get_set_self]
end

/-- A message written to a place of the spill area reads back, and only its own place changes (R24, log entry 126). -/
theorem memRead_spilled (m : Tab Byte) (a mask : Nat) (v : List Byte) :
    memRead (memWrite m a (fit 4096 v ++ leBytes 1 mask)) a 4097 = fit 4096 v ++ leBytes 1 mask := by
  simpa [fit_length, leBytes] using memRead_memWrite_self m a (fit 4096 v ++ leBytes 1 mask)

theorem memRead_spilled_message (m : Tab Byte) (a mask : Nat) (v : List Byte) :
    memRead (memWrite m a (fit 4096 v ++ leBytes 1 mask)) a 4096 = fit 4096 v := by
  have h := congrArg (List.take 4096) (memRead_spilled m a mask v)
  rwa [List.take_left' (fit_length 4096 v), memRead, ← List.map_take, List.take_range] at h

theorem byteAt_spilled_apart (m : Tab Byte) (a mask k : Nat) (v : List Byte) (hk : k < a ∨ a + 4097 ≤ k) :
    byteAt (memWrite m a (fit 4096 v ++ leBytes 1 mask)) k = byteAt m k := by
  rw [byteAt_memWrite, if_neg]
  simp [fit_length, leBytes]
  omega

/-- A discarded packet is counted in its class, and touches neither memory nor windows (R24). -/
theorem State.spillDrop_does (s : State) (cls : Nat) : (s.spillDrop cls).reg (faultCnt (2 + cls)) = s.reg (faultCnt (2 + cls)) + 1#32 ∧
    (s.spillDrop cls).mem = s.mem ∧ (s.spillDrop cls).port.rctx = s.port.rctx ∧ (s.spillDrop cls).port.applyQ = s.port.applyQ ∧
    (s.spillDrop cls).port.tx = s.port.tx := by
  have hreg := s.reg_bump_self (faultCnt (2 + cls))
  unfold State.spillDrop
  extract_lets s1
  split_ifs
  · rw [State.event_reg, State.event_mem, State.event_port]
    exact ⟨hreg, rfl, rfl, rfl, rfl⟩
  · exact ⟨hreg, rfl, rfl, rfl, rfl⟩

end Sys2Proof.Machine
end

section
/-! The statement of packets at their receiver: O48. -/

namespace Sys2Proof.Machine

/-! ## The window check (R149) -/

/-- Context c takes packets of header h: h is in its window by its LAG, no floor is kept, and the base is not DONE. -/
structure RecvCtx.Takes (c : RecvCtx) (h : Hdr) : Prop where
  floor : c.floor = none
  lag : h.lag = (h.seq + 2 ^ 32 - c.base) % 2 ^ 32
  inWindow : h.lag < 64
  seq : h.seq < 2 ^ 32
  base : c.base < 2 ^ 32
  isOpen : (c.win.get c.base).map (fun y => y.st) ≠ some .done

/-- The floor of such a packet is the base. -/
theorem RecvCtx.Takes.floor_eq {c : RecvCtx} {h : Hdr} (ht : c.Takes h) :
    ((h.seq + 2 ^ 32 - h.lag) % 2 ^ 32 + 2 ^ 32 - c.base) % 2 ^ 32 = 0 := by
  have := ht.lag
  have := ht.inWindow
  have := ht.seq
  have := ht.base
  omega

section
variable {s : State} {n : Nat} {c : RecvCtx} {h : Hdr} (hc : s.port.rctx.get n = some c) (ht : c.Takes h)
include hc

theorem State.get_modRecv_self : (s.modRecv n (fun _ => c)).port.rctx.get n = some c := by
  rw [State.get_modRecv, if_pos rfl, hc, Option.map_some]

include ht

/-- A packet of a FREE SEQ begins an assembly of 4,096 bytes in landing. -/
theorem State.window_of_free (src epoch : Nat) (v : List Byte) (hfree : c.win.get h.seq = none) :
    ∃ t : State, t.mem = s.mem ∧ t.regions = s.regions ∧ t.port = (s.modRecv n (fun _ => c)).port ∧
      s.window src n epoch h v =
        State.spillLoop 2048 (t.takePacket n h.seq ⟨.assembling, 0, zeros 4096, v.take 32, s.now, none⟩ h.pkt (payloadOf v)) := by
  have hlag := ht.lag
  have hlt := ht.inWindow
  have hw := State.floor_at_base hc ht.floor ht.isOpen ht.floor_eq
  refine ⟨if s.power.lanes = .cold then (s.modRecv n (fun _ => c)).bump (pwrCnt 3) else s.modRecv n (fun _ => c),
    by split <;> rfl, by split <;> rfl, by split <;> rfl, ?_⟩
  simp only [State.window, hw, State.get_modRecv_self hc, ← hlag, hfree]
  rw [if_neg (by omega), if_neg (by omega)]
  rfl

/-- A packet that an assembly lacks is taken into it; one for a parked message is counted (R151). -/
theorem State.window_of_assembling (src epoch : Nat) (v : List Byte) {x : Rx} (hx : c.win.get h.seq = some x) (hst : x.st = .assembling)
    (hbit : bitAt x.mask h.pkt = false) :
    s.window src n epoch h v = State.spillLoop 2048
      ((if x.place.isSome then (s.modRecv n (fun _ => c)).bump (qtrCnt 11) else s.modRecv n (fun _ => c)).takePacket
        n h.seq x h.pkt (payloadOf v)) := by
  have hlag := ht.lag
  have hlt := ht.inWindow
  have hw := State.floor_at_base hc ht.floor ht.isOpen ht.floor_eq
  simp only [State.window, hw, State.get_modRecv_self hc, ← hlag, hx, hst, hbit]
  rw [if_neg (by omega), if_neg (by omega)]
  rfl
end

/-! ## The checks before it (R148) -/

/-- What rows 4 to 10 of Table 5-4 ask of a packet for receive context n: it is for a local parity member, of region j, from a data member of
the sheaf that is level-matched, under the job and epoch of the region, for a stripe of both members and the bank of its step. -/
structure State.Admits (s : State) (h : Hdr) (n j : Nat) (r : Region) (sh : Sheaf) (x : Member) (p : RecvCtx) : Prop where
  member : s.localMember h.sheaf h.dst = some (j, r)
  sheaf : s.sheaves.get h.sheaf = some sh
  parity : sh.k ≤ h.dst
  fromData : h.src < sh.k
  job : h.job = r.jobTag
  epoch : h.epoch = r.epoch
  sender : sh.mem? h.src = some x
  stripe : h.stripe < r.tileCount
  stripeSent : h.stripe < x.tiles
  bank : h.bank = 3 ∨ h.bank = h.step % (sh.dMax + 1)
  matched : s.isLocal x = true ∨ x.matched = true
  ctx : s.port.rctx.find? (fun p => p.2.region == j && p.2.src == h.src) = some (n, p)

/-- A packet that passes them, and is not held behind another message of its SEQ (R382), meets the window check. -/
theorem State.accum_of_admits {s : State} {n j : Nat} {r : Region} {sh : Sheaf} {x : Member} {p : RecvCtx} {v : List Byte} (src : Nat)
    (ha : s.Admits (Hdr.parse v) n j r sh x p)
    (hfixed : ∀ y, s.applyRx ⟨n, (Hdr.parse v).seq⟩ = some y → y.st = .assembling → (Hdr.parse y.header).fixed = (Hdr.parse v).fixed) :
    s.accum src v = s.window src n r.epoch (Hdr.parse v) v := by
  obtain ⟨hmember, hsheaf, hparity, hdata, hjob, hepoch, hsender, hstripe, hsent, hbank, hmatched, hctx⟩ := ha
  have hold : ((s.port.rctx.get n).bind (fun c => c.win.get (Hdr.parse v).seq)).any
      (fun y => y.st == .assembling && (Hdr.parse y.header).fixed != (Hdr.parse v).fixed) = false := by
    cases hy : (s.port.rctx.get n).bind (fun c => c.win.get (Hdr.parse v).seq) with
    | none => rfl
    | some y =>
      have := hfixed y hy
      simpa using this
  have hm : (!(s.isLocal x || x.matched)) = false := by rcases hmatched with h | h <;> simp [h]
  unfold State.accum
  simp only [hmember, hsheaf, hctx, hsender, Option.map_some, Option.getD_some, hm, hold]
  rw [if_neg (by omega), if_neg (by simpa using hjob), if_neg (by omega), if_neg (by omega), if_neg (by omega), if_neg (by simp),
    if_neg (by simp)]

theorem execAccumPacketReceive_of_admits {s : State} {n j : Nat} {r : Region} {sh : Sheaf} {x : Member} {p : RecvCtx} {v : List Byte}
    (src : Nat) (hal : s.aligned = true) (htr : trailerOk v = true) (htyp : (Hdr.parse v).typ = 1) (hcls : (Hdr.parse v).cls = 1)
    (hov : s.overflow = false) (ha : s.packetIn.Admits (Hdr.parse v) n j r sh x p)
    (hfixed : ∀ y, s.packetIn.applyRx ⟨n, (Hdr.parse v).seq⟩ = some y → y.st = .assembling →
      (Hdr.parse y.header).fixed = (Hdr.parse v).fixed) :
    exec (.accumPacketReceive src v) s = .next { s.packetIn.window src n r.epoch (Hdr.parse v) v with
      power := { (s.packetIn.window src n r.epoch (Hdr.parse v) v).power with lastAccum := some s.now } } := by
  have hov' : s.packetIn.overflow = false := hov
  show execAccumPacketReceive src v s = _
  simp [execAccumPacketReceive, hal, htr, htyp, hcls, hov', State.accum_of_admits src ha hfixed]

/-! ## What a taken packet leaves (R149 to R151) -/

section
variable {s : State} {n : Nat} {c : RecvCtx} {h : Hdr} (src epoch : Nat) (v : List Byte) (hc : s.port.rctx.get n = some c) (ht : c.Takes h)
include hc ht

/-- The first packet of a message opens its assembly in landing with its 512 bytes in place. -/
theorem State.window_opens (hpkt : h.pkt < 8) (hfree : c.win.get h.seq = none) (hq : ⟨n, h.seq⟩ ∉ s.port.applyQ) :
    ∃ y, (s.window src n epoch h v).applyRx ⟨n, h.seq⟩ = some y ∧ y.st = .assembling ∧ y.mask = 2 ^ h.pkt ∧ y.first = s.now ∧
      y.place = none ∧ slice y.data (512 * h.pkt) 512 = fit 512 (payloadOf v) ∧ (s.window src n epoch h v).regions = s.regions ∧
      (s.window src n epoch h v).port.applyQ = s.port.applyQ ∧ (s.port.applyQ = [] → (s.window src n epoch h v).mem = s.mem) := by
  obtain ⟨t, hmem, hregions, hport, hw⟩ := State.window_of_free hc ht src epoch v hfree
  have hct : t.port.rctx.get n = some c := hport ▸ State.get_modRecv_self hc
  have hqt : t.port.applyQ = s.port.applyQ := by rw [hport]; rfl
  have hmask : 0 + 2 ^ h.pkt ≠ 255 := by
    have : ∀ k < 8, 0 + 2 ^ k ≠ 255 := by decide
    exact this _ hpkt
  have hslice := slice_splice (zeros 4096) (fit 512 (payloadOf v)) (512 * h.pkt) (by rw [zeros_length]; omega)
  rw [fit_length] at hslice
  obtain ⟨htmem, htq, htregions, hrx⟩ := State.takePacket_of_landing (seq := h.seq) (v := payloadOf v)
    (x := ⟨.assembling, 0, zeros 4096, v.take 32, s.now, none⟩) hct ht.isOpen rfl rfl hmask
  have hspill := State.spills_spillLoop 2048
    (t.takePacket n h.seq ⟨.assembling, 0, zeros 4096, v.take 32, s.now, none⟩ h.pkt (payloadOf v))
  rw [hw]
  refine ⟨_, (hspill.waiting _ (by rw [htq, hqt]; exact hq)).trans hrx, rfl, Nat.zero_add _, rfl, rfl, hslice,
    hspill.regions.trans (htregions.trans hregions), hspill.queue.trans (htq.trans hqt), fun hnil => ?_⟩
  rw [State.spillLoop_of_empty (htq.trans (hqt.trans hnil)), htmem, hmem]

section
variable {x : Rx} (hx : c.win.get h.seq = some x) (hst : x.st = .assembling) (hbit : bitAt x.mask h.pkt = false)
include hx hst hbit

/-- The last packet of a message completes it for its apply queue. -/
theorem State.window_completes (hmask : x.mask + 2 ^ h.pkt = 255) :
    (s.window src n epoch h v).port.applyQ = s.port.applyQ ++ [⟨n, h.seq⟩] ∧
      ((s.window src n epoch h v).applyRx ⟨n, h.seq⟩).map (fun z => (z.st, z.mask)) = some (.applying, 255) := by
  rw [State.window_of_assembling hc ht src epoch v hx hst hbit]
  generalize hs1 : (if x.place.isSome then (s.modRecv n (fun _ => c)).bump (qtrCnt 11) else s.modRecv n (fun _ => c)) = s1
  have hport : s1.port = (s.modRecv n (fun _ => c)).port := by rw [← hs1]; split <;> rfl
  have hc1 : s1.port.rctx.get n = some c := hport ▸ State.get_modRecv_self hc
  obtain ⟨hqueue, hrx⟩ := State.takePacket_of_last (v := payloadOf v) hc1 ht.isOpen hmask
  have hspill := State.spills_spillLoop 2048 (s1.takePacket n h.seq x h.pkt (payloadOf v))
  obtain ⟨y, hy, hyst⟩ := Option.map_eq_some_iff.mp hrx
  obtain ⟨z, hz, hzst, hzmask, -⟩ := hspill.kept _ y hy
  refine ⟨hspill.queue.trans (hqueue.trans (by rw [hport]; rfl)), ?_⟩
  rw [hz, Option.map_some, hzst, hzmask, hyst]

/-- An earlier packet of a parked message is counted and written in the spill area. -/
theorem State.window_parked {q : Nat} (hplace : x.place = some q) (hq : s.port.applyQ = []) (hmask : x.mask + 2 ^ h.pkt ≠ 255) :
    (s.window src n epoch h v).reg (qtrCnt 11) = s.reg (qtrCnt 11) + 1#32 ∧ (s.window src n epoch h v).port.applyQ = [] ∧
      (s.window src n epoch h v).applyRx ⟨n, h.seq⟩ = some { x with mask := x.mask + 2 ^ h.pkt } ∧
      memRead (s.window src n epoch h v).mem (s.stackAddr (s.spillOff q)) 4096 =
        fit 4096 (splice (s.rxData x) (512 * h.pkt) (fit 512 (payloadOf v))) := by
  have hc1 : ((s.modRecv n (fun _ => c)).bump (qtrCnt 11)).port.rctx.get n = some c := State.get_modRecv_self hc
  obtain ⟨hmem, hqueue, hregs, hrx⟩ := State.takePacket_of_parked (v := payloadOf v) hc1 ht.isOpen hst hplace hmask
  have hoff : ((s.modRecv n (fun _ => c)).bump (qtrCnt 11)).spillOff q = s.spillOff q := by
    have hreg := State.reg_bump_ne (s.modRecv n (fun _ => c)) (qtrCnt 11) 0x0104 (by decide)
    simp only [State.spillOff, State.spillSpan, State.rf, State.regN, hreg]
    rfl
  have hdata : ((s.modRecv n (fun _ => c)).bump (qtrCnt 11)).rxData x = s.rxData x := by
    simp only [State.rxData, hplace, hoff]
    rfl
  rw [State.window_of_assembling hc ht src epoch v hx hst hbit, if_pos (by rw [hplace]; rfl),
    State.spillLoop_of_empty (hqueue.trans hq)]
  refine ⟨?_, hqueue.trans hq, hrx, ?_⟩
  · rw [State.reg, hregs]
    exact State.reg_bump_self (s.modRecv n (fun _ => c)) (qtrCnt 11)
  · rw [hmem, hoff, hdata]
    exact memRead_spilled_message _ _ _ _
end
end

/-! ## Timers of assemblies (R24, R151, R152) -/

theorem State.applyRx_freed {s : State} {n seq : Nat} {c : RecvCtx} (hc : s.port.rctx.get n = some c) :
    (s.modRecv n (fun c => c.free seq)).applyRx ⟨n, seq⟩ = none := by
  rw [State.applyRx_modRecv hc, RecvCtx.free, Tab.get_del, if_pos rfl]

section
variable {s : State} {n seq : Nat} {c : RecvCtx} {x : Rx} (hc : s.port.rctx.get n = some c) (hx : c.win.get seq = some x)
include hc hx

theorem State.applyRx_of_win : s.applyRx ⟨n, seq⟩ = some x := by
  rw [State.applyRx, hc]
  exact hx

theorem execAssemblyTimeout_of_place {p : Nat} (hst : x.st = .assembling) (hplace : x.place = none) (hdue : s.past x.first 20000 = true)
    (hp : s.spillPlace = some p) : exec (.assemblyTimeout n seq) s = .next ((s.spillOut n seq p x).bump (qtrCnt 10)) := by
  show execAssemblyTimeout n seq s = _
  simp [execAssemblyTimeout, hc, hx, hst, hplace, hdue, hp]

theorem execAssemblyTimeout_of_full (hst : x.st = .assembling) (hplace : x.place = none) (hdue : s.past x.first 20000 = true)
    (hp : s.spillPlace = none) : exec (.assemblyTimeout n seq) s = .next ((s.modRecv n (fun c => c.free seq)).spillDrop 1) := by
  show execAssemblyTimeout n seq s = _
  simp [execAssemblyTimeout, hc, hx, hst, hplace, hdue, hp]

theorem execParkExpiry_of_due {p : Nat} (hst : x.st = .assembling) (hplace : x.place = some p) (hdue : s.past x.first 2000000 = true) :
    exec (.parkExpiry n seq) s = .next ((s.modRecv n (fun c => c.free seq)).bump (qtrCnt 12)) := by
  show execParkExpiry n seq s = _
  simp [execParkExpiry, hc, hx, hst, hplace, hdue]
end

theorem execSpillOverflowTimer_of_ended {s : State} {since cls : Nat} (hs : s.port.spillEvent = some (since, cls)) (hov : s.overflow = false) :
    exec .spillOverflowTimer s = .next { s with port := { s.port with spillEvent := none } } := by
  show execSpillOverflowTimer s = _
  simp [execSpillOverflowTimer, hs, hov]

theorem execSpillOverflowTimer_of_standing {s : State} {since cls : Nat} (hs : s.port.spillEvent = some (since, cls)) (hov : s.overflow = true)
    (hdue : s.past since 100000 = true) :
    exec .spillOverflowTimer s = .next (({ s with port := { s.port with spillEvent := some (s.now, cls) } }).event 64 cls) := by
  show execSpillOverflowTimer s = _
  simp [execSpillOverflowTimer, hs, hov, hdue]

/-! ## The statement -/

/-- Settles O48: a packet is dropped, discarded or taken by the rows of Table 5-4, and the timers of assemblies park or discard what is not
complete. -/
theorem accumPacketsAssemble : Obligations.AccumPacketsAssemble := by
  unfold Obligations.AccumPacketsAssemble
  refine ⟨?dropped, ?taken, ?timers, ?overflow⟩
  case dropped =>
    intro s src v hal
    refine ⟨fun htr => ?_, fun htr htyp hcls => ?_, fun htr htyp hcls hov => ?_⟩
    · show execAccumPacketReceive src v s = _
      simp [execAccumPacketReceive, hal, htr]
    · show execAccumPacketReceive src v s = _
      simp [execAccumPacketReceive, hal, htr, htyp, hcls]
    · have hov' : s.packetIn.overflow = true := hov
      obtain ⟨hreg, hmem, hctx, hqueue, htx⟩ := s.packetIn.spillDrop_does 1
      refine ⟨s.packetIn.spillDrop 1, ?_, hreg, hctx, hqueue, htx, hmem⟩
      show execAccumPacketReceive src v s = _
      simp [execAccumPacketReceive, hal, htr, htyp, hcls, hov']
  case taken =>
    intro s src n j v h r sh x c p hal htr hh htyp hcls hov hmember hsheaf hparity hdata hjob hepoch hsender hstripe hsent hbank hmatched
      hctx hc hfloor hlag hbase hopen
    subst hh
    have ht : c.Takes (Hdr.parse v) := ⟨hfloor, hlag, Hdr.parse_lag_lt v, Hdr.parse_seq_lt v, hbase, hopen⟩
    have ha : s.packetIn.Admits (Hdr.parse v) n j r sh x p :=
      ⟨hmember, hsheaf, hparity, hdata, hjob, hepoch, hsender, hstripe, hsent, hbank, hmatched, hctx⟩
    have hc' : s.packetIn.port.rctx.get n = some c := hc
    have hrx : s.packetIn.applyRx ⟨n, (Hdr.parse v).seq⟩ = c.win.get (Hdr.parse v).seq := by rw [State.applyRx, hc']; rfl
    have hexec := execAccumPacketReceive_of_admits src hal htr htyp hcls hov ha
    refine ⟨fun hfree hq => ?_, fun y hy hst hfixed hbit hmask => ?_, fun y q hy hst hplace hfixed hq hbit hmask => ?_⟩
    · obtain ⟨y, hy, hst, hmask, hfirst, hplace, hbytes, hregions, hqueue, hmem⟩ :=
        State.window_opens src r.epoch v hc' ht (Hdr.parse_pkt_lt v) hfree hq
      exact ⟨_, y, hexec fun y hy => absurd (hrx.symm.trans hy) (by simp [hfree]), hy, hst, hmask, hfirst, hplace, hbytes, hregions,
        hqueue, hmem⟩
    · obtain ⟨hqueue, hdone⟩ := State.window_completes src r.epoch v hc' ht hy hst hbit hmask
      exact ⟨_, hexec fun z hz _ => Option.some.inj ((hrx.symm.trans hz).symm.trans hy) ▸ hfixed, hqueue, hdone⟩
    · obtain ⟨hreg, hqueue, hentry, hmem⟩ := State.window_parked src r.epoch v hc' ht hy hst hbit hplace hq hmask
      refine ⟨_, hexec fun z hz _ => Option.some.inj ((hrx.symm.trans hz).symm.trans hy) ▸ hfixed, hreg, hqueue, ?_, hmem⟩
      exact (congrArg (Option.map _) hentry).trans (by rw [Option.map_some, hst, hplace])
  case timers =>
    intro s n seq c x hc hx hst
    refine ⟨fun hplace hdue => ⟨fun p hp => ?_, fun hp => ?_⟩, fun p hplace hdue => ?_⟩
    · refine ⟨_, execAssemblyTimeout_of_place hc hx hst hplace hdue hp, State.reg_bump_self (s.spillOut n seq p x) (qtrCnt 10),
        memRead_spilled _ _ _ _, fun a ha => byteAt_spilled_apart _ _ _ _ _ ha, ?_⟩
      exact (State.applyRx_spillOut (State.applyRx_of_win hc hx) ⟨n, seq⟩).trans (if_pos rfl)
    · obtain ⟨hreg, hmem, hctx, -⟩ := (s.modRecv n (fun c => c.free seq)).spillDrop_does 1
      exact ⟨_, execAssemblyTimeout_of_full hc hx hst hplace hdue hp, hmem, hreg,
        (State.applyRx_congr hctx ⟨n, seq⟩).trans (State.applyRx_freed hc)⟩
    · exact ⟨_, execParkExpiry_of_due hc hx hst hplace hdue, rfl, State.reg_bump_self (s.modRecv n (fun c => c.free seq)) (qtrCnt 12),
        State.applyRx_freed hc⟩
  case overflow =>
    intro s since cls hs
    refine ⟨fun hov => execSpillOverflowTimer_of_ended hs hov, fun hov hdue => ?_⟩
    refine ⟨_, execSpillOverflowTimer_of_standing hs hov hdue, ?_, State.event_raises _ 64 cls (by decide), State.event_mem _ 64 cls⟩
    rw [State.event_port]

end Sys2Proof.Machine
end

section
/-! SUPPORT. Lane work without a fault (R340 to R342): the checks are linear, so an enabled lane gives the value of the work. -/

namespace Sys2Proof.Machine

/-! ## Arithmetic of the checks (R63, R341) -/

theorem gfMul_one : ∀ b : Byte, gfMul 1#8 b = b := by decide

theorem gfDouble_xor (a b : Byte) : gfDouble (a ^^^ b) = gfDouble a ^^^ gfDouble b := by
  unfold gfDouble
  rw [BitVec.getLsbD_xor, BitVec.shiftLeft_xor_distrib]
  cases a.getLsbD 7 <;> cases b.getLsbD 7
  · rfl
  · exact BitVec.xor_assoc _ _ _
  · exact (by ac_rfl : (a <<< 1 ^^^ b <<< 1) ^^^ 0x1D#8 = (a <<< 1 ^^^ 0x1D#8) ^^^ b <<< 1)
  · have h : (a <<< 1 ^^^ 0x1D#8) ^^^ (b <<< 1 ^^^ 0x1D#8) = (a <<< 1 ^^^ b <<< 1) ^^^ (0x1D#8 ^^^ 0x1D#8) := by ac_rfl
    exact (h.trans BitVec.xor_zero).symm

theorem gfScale_one (v : List Byte) : gfScale 1#8 v = v := by
  rw [gfScale, if_neg (by decide), funext gfMul_one, List.map_id']

theorem xorBytes_eq_zipWith {a b : List Byte} (h : a.length = b.length) : xorBytes a b = List.zipWith (· ^^^ ·) a b := by
  induction a generalizing b with
  | nil => rfl
  | cons x a ih =>
    cases b with
    | nil => cases h
    | cons y b => rw [xorBytes, ih (Nat.succ.inj h), List.zipWith_cons_cons]

theorem xorBytes_zeros (v : List Byte) : xorBytes v (zeros v.length) = v := by
  induction v with
  | nil => rfl
  | cons x v ih => exact congrArg₂ List.cons (BitVec.xor_zero) ih

theorem zeros_xorBytes (v : List Byte) : xorBytes (zeros v.length) v = v := by
  induction v with
  | nil => rfl
  | cons x v ih => exact congrArg₂ List.cons (BitVec.zero_xor) ih

theorem xorBytes_append {a b c d : List Byte} (h : a.length = b.length) : xorBytes (a ++ c) (b ++ d) = xorBytes a b ++ xorBytes c d := by
  induction a generalizing b with
  | nil =>
    cases b with
    | nil => rfl
    | cons => cases h
  | cons x a ih =>
    cases b with
    | nil => cases h
    | cons y b => exact congrArg (_ :: ·) (ih (Nat.succ.inj h))

/-- A slice of an XOR is the XOR of the slices. -/
theorem slice_xorBytes {a b : List Byte} (h : a.length = b.length) (off n : Nat) :
    slice (xorBytes a b) off n = xorBytes (slice a off n) (slice b off n) := by
  have hl : ((a.drop off).take n).length = ((b.drop off).take n).length := by simp [h]
  have hz : zeros (n - (b.drop off).length) = zeros (n - (a.drop off).length) := by simp [h]
  have hx : (xorBytes a b).length = a.length := xorBytes_length a b
  have htake : ((xorBytes a b).drop off).take n = xorBytes ((a.drop off).take n) ((b.drop off).take n) := by
    rw [xorBytes_eq_zipWith hl, xorBytes_eq_zipWith h, List.drop_zipWith, List.take_zipWith]
  have hzz := xorBytes_zeros (zeros (n - (a.drop off).length))
  rw [zeros_length] at hzz
  unfold slice fit
  rw [hz, xorBytes_append hl, hzz, htake, List.length_drop, hx, List.length_drop]

/-- The checks of an XOR of two vectors (R342). -/
theorem laneChecks_xorBytes {a b : List Byte} (h : a.length = b.length) :
    laneChecks (xorBytes a b) = ((laneChecks a).1 ^^^ (laneChecks b).1, (laneChecks a).2 ^^^ (laneChecks b).2) := by
  induction a generalizing b with
  | nil =>
    cases b with
    | nil => rfl
    | cons => cases h
  | cons x a ih =>
    cases b with
    | nil => cases h
    | cons y b =>
      have ih' : List.foldr (fun x (a : Byte × Byte) => (x ^^^ a.1, x ^^^ gfDouble a.2)) (0#8, 0#8) (xorBytes a b) = _ := ih (Nat.succ.inj h)
      simp only [laneChecks, xorBytes, List.foldr_cons, ih', gfDouble_xor]
      exact Prod.ext (by ac_rfl) (by ac_rfl)

theorem tileChecks_length (v : List Byte) : (tileChecks v).length = (v.length + 63) / 64 := by simp [tileChecks]

/-- The checks of an XOR of two tiles are the XOR of their checks (R342). -/
theorem tileChecks_xorBytes {a b : List Byte} (h : a.length = b.length) :
    tileChecks (xorBytes a b) = xorChecks (tileChecks a) (tileChecks b) := by
  have hx : (xorBytes a b).length = a.length := xorBytes_length a b
  unfold tileChecks xorChecks
  rw [hx, ← h, List.zipWith_map, List.zipWith_self]
  refine List.map_congr_left fun i _ => ?_
  rw [slice_xorBytes h, laneChecks_xorBytes (by rw [slice_length, slice_length])]

theorem xorChecks_zero (l : List (Byte × Byte)) : xorChecks (List.replicate l.length (0#8, 0#8)) l = l := by
  induction l with
  | nil => rfl
  | cons x l ih => exact congrArg₂ List.cons (Prod.ext BitVec.zero_xor BitVec.zero_xor) ih

/-! ## Work that passes its checks (R340, R343) -/

/-- The inputs carry their own checks, and the predictions from them are the checks of the outputs. -/
structure LaneJob.Sound (j : LaneJob) : Prop where
  held : j.ins.map (fun x => tileChecks x.1) = j.ins.map (·.2)
  predicted : j.predict (j.ins.map (·.2)) = j.value.map tileChecks

/-- With an enabled lane the round-robin order finds one. -/
theorem exists_lane {lanes : Word} (h : lanes ≠ 0#32) (last : Nat) :
    ∃ l, ((List.range 32).map (fun i => (last + 1 + i) % 32)).find? (fun l => lanes.getLsbD l) = some l := by
  by_contra hnone
  have hfind := Option.eq_none_iff_forall_ne_some.mpr fun l hl => hnone ⟨l, hl⟩
  refine h (BitVec.eq_of_getLsbD_eq fun i hi => ?_)
  have hmem : i ∈ (List.range 32).map (fun k => (last + 1 + k) % 32) :=
    List.mem_map.mpr ⟨(i + 32 - (last + 1) % 32) % 32, List.mem_range.mpr (Nat.mod_lt _ (by decide)), by omega⟩
  simpa using List.find?_eq_none.mp hfind i hmem

/-- Sound work goes to the next enabled lane, and its value is accepted. -/
theorem State.laneWork_of_sound {s : State} {j : LaneJob} (hj : j.Sound) (hlanes : s.boot.lanes ≠ 0#32) :
    ∃ q p, s.laneWork noFault j = (some j.value, { s with seqs := q, power := p }) := by
  obtain ⟨l, hl⟩ := exists_lane hlanes s.seqs.lane
  refine ⟨{ s.seqs with lane := l }, { s.power with lastWork := s.now }, ?_⟩
  unfold State.laneWork State.laneRun
  rw [hl]
  exact if_pos ⟨hj.predicted, hj.held⟩

/-- The work of an apply: the message and the tile that it is added into, each with its checks, as their XOR. -/
def applyJob (d v : List Byte) : LaneJob := ⟨[(xorBytes d (fit 4096 noFault.held), tileChecks d), (v, tileChecks v)], [[(1#8, 0), (1#8, 1)]]⟩

section
variable {d v : List Byte} (hd : d.length = 4096) (hv : v.length = 4096)
include hd

/-- Nothing is held wrong without a fault. -/
theorem applyJob_eq (v : List Byte) : applyJob d v = ⟨[(d, tileChecks d), (v, tileChecks v)], [[(1#8, 0), (1#8, 1)]]⟩ := by
  have h0 : fit 4096 noFault.held = zeros d.length := by rw [hd]; rfl
  rw [applyJob, h0, xorBytes_zeros]

theorem applyJob_value (v : List Byte) : (applyJob d v).value = [xorBytes d v] := by
  have hz : zeros 4096 = zeros d.length := by rw [hd]
  rw [applyJob_eq hd]
  simp only [LaneJob.value, List.map_cons, List.map_nil, List.foldl_cons, List.foldl_nil, gfScale_one]
  rw [hz]
  exact congrArg (fun x => [xorBytes x v]) (zeros_xorBytes d)

include hv

theorem applyJob_sound : (applyJob d v).Sound where
  held := by rw [applyJob_eq hd]; rfl
  predicted := by
    have hlen : 64 = (tileChecks d).length := by rw [tileChecks_length, hd]
    have hone : ∀ l : List (Byte × Byte), l.map (fun x => (gfMul 1#8 x.1, gfMul 1#8 x.2)) = l := fun l => by simp [gfMul_one]
    rw [applyJob_value hd, applyJob_eq hd, List.map_singleton, tileChecks_xorBytes (hd.trans hv.symm)]
    simp only [LaneJob.predict, List.map_cons, List.map_nil, List.foldl_cons, List.foldl_nil, hone]
    rw [hlen]
    exact congrArg (fun x => [xorChecks x (tileChecks v)]) (xorChecks_zero _)
end

end Sys2Proof.Machine
end

section
/-! SUPPORT. What the reads of walks and applies keep (R113, R206 to R222, R312 to R315): no operation changes, and no region moves. -/

namespace Sys2Proof.Machine

/-- The first logical tile of a region, by which its tiles weigh (R127). -/
def State.baseOf (s : State) (j : Nat) : Option Nat := (s.regions.get j).map (fun r => r.logicalBase)

/-- `t` has the operations of `s₀`, and its regions where they were. -/
def State.Reads (s₀ t : State) : Prop := t.ops = s₀.ops ∧ ∀ j, t.baseOf j = s₀.baseOf j

section
variable {s₀ s t : State}

theorem State.Reads.refl (s : State) : s.Reads s := ⟨rfl, fun _ => rfl⟩

/-- The fields that reads change, beside the regions, may take any value. -/
theorem State.Reads.update {mem : Tab Byte} {regs : Tab Word} {tables : Tables} {tap : Tap} {port : Port} {snap : Snap}
    (hk : s₀.Reads s) : s₀.Reads { s with mem := mem, regs := regs, tables := tables, tap := tap, port := port, snap := snap } := hk

theorem State.Reads.ite {c : Prop} [Decidable c] (hk : s₀.Reads s) (g : s₀.Reads t) : s₀.Reads (if c then s else t) := by
  split
  · exact hk
  · exact g

theorem State.Reads.ite_snd {α : Type} {c : Prop} [Decidable c] {p q : α × State} (hp : s₀.Reads p.2) (hq : s₀.Reads q.2) :
    s₀.Reads (if c then p else q).2 := by
  split
  · exact hp
  · exact hq

theorem State.Reads.pair {α : Type} {x : α} (hk : s₀.Reads s) : s₀.Reads (x, s).2 := hk

/-- The state of a pair, under the pair's name for it. -/
theorem State.Reads.snd {α : Type} {p : α × State} {x : α} (e : p = (x, t)) (hk : s₀.Reads p.2) : s₀.Reads t := by
  subst e
  exact hk

/-- A region weighs its tiles after the reads as before (R127). -/
theorem State.Reads.weight_eq {j : Nat} {r q : Region} (hk : s.Reads t) (hr : s.regions.get j = some r) (hq : t.regions.get j = some q)
    (x : Nat) : q.weight x = r.weight x := by
  have hbase := hk.2 j
  rw [State.baseOf, State.baseOf, hr, hq, Option.map_some, Option.map_some, Option.some.injEq] at hbase
  rw [Region.weight, hbase, Region.weight]

/-! ## Counters, events and regions -/

theorem State.Reads.bumpBy {off n : Nat} (hk : s₀.Reads s) : s₀.Reads (s.bumpBy off n) := .ite hk (.update hk)

theorem State.Reads.bump {off : Nat} (hk : s₀.Reads s) : s₀.Reads (s.bump off) := .bumpBy hk

theorem State.Reads.event {src detail : Nat} (hk : s₀.Reads s) : s₀.Reads (s.event src detail) := by
  obtain ⟨e, he⟩ := s.event_changes_evt src detail
  rw [he]
  exact hk

theorem State.Reads.giveUp {j t : Nat} (hk : s₀.Reads s) : s₀.Reads (s.giveUp j t) := .event (.bump hk)

theorem State.Reads.modRegion {i : Nat} {f : Region → Region} (hf : ∀ r, (f r).logicalBase = r.logicalBase) (hk : s₀.Reads s) :
    s₀.Reads (s.modRegion i f) := by
  refine ⟨hk.1, fun j => ?_⟩
  rw [← hk.2 j, State.baseOf, State.get_modRegion, State.baseOf]
  split
  · rw [Option.map_map]
    exact congrArg (fun g => Option.map g _) (funext hf)
  · rfl

/-! ## Stores of corrected and built tiles -/

theorem State.Reads.putLine {r : Region} {t g : Nat} {v : List Byte} (hk : s₀.Reads s) : s₀.Reads (s.putLine r t g v) := by
  rcases s.putLine_cases r t g v with h | ⟨off, -, -, h⟩
  · rwa [h]
  · rw [h]
    exact hk

theorem State.Reads.putTile {r : Region} {t : Nat} {v : List Byte} (hk : s₀.Reads s) : s₀.Reads (s.putTile r t v) :=
  .update (.putLine (.update hk))

theorem State.Reads.cbwAsk {j t : Nat} (hk : s₀.Reads s) : s₀.Reads (s.cbwAsk j t) := by
  unfold State.cbwAsk
  split
  · extract_lets
    split
    · split <;> exact hk
    · exact hk
  · exact hk

theorem State.Reads.cbwEngine {j t : Nat} (hk : s₀.Reads s) : s₀.Reads (s.cbwEngine j t) :=
  .ite (.cbwAsk hk) (.bump (.update (.cbwAsk hk)))

theorem State.Reads.repairTile {j t : Nat} {r : Region} {v : List Byte} (hk : s₀.Reads s) : s₀.Reads (s.repairTile j t r v) :=
  .ite (.cbwEngine (.ite hk (.update hk))) (.putTile hk)

theorem State.Reads.acceptBuild {j t : Nat} {v : List Byte} (hk : s₀.Reads s) : s₀.Reads (s.acceptBuild j t v) := by
  unfold State.acceptBuild
  split
  · exact hk
  · exact .update (.modRegion (fun _ => rfl) (.putTile hk))

/-! ## Reads of a member's own tiles -/

theorem State.Reads.noteRead {i t : Nat} {r : Region} {x : TileRd} (hk : s₀.Reads s) : s₀.Reads (s.noteRead i t r x) := by
  unfold State.noteRead
  extract_lets g s1 s2
  have h2 : s₀.Reads s2 := .modRegion (fun _ => rfl) (.ite (.bump hk) hk)
  exact .ite h2 (.ite (.putLine (.bump h2)) (.ite h2 (.repairTile (.bump (.bumpBy h2)))))

theorem State.Reads.readPlain {ext : Ext} {j : Nat} {r : Region} {t : Nat} (hk : s₀.Reads s) : s₀.Reads (s.readPlain ext j r t).2 :=
  .noteRead hk

theorem State.Reads.xorTiles {ext : Ext} {l : List (Nat × Region × Nat)} {v : List Byte} (hk : s₀.Reads s) :
    s₀.Reads (s.xorTiles ext l v).2 := by
  induction l generalizing s v with
  | nil => exact hk
  | cons x l ih =>
    unfold State.xorTiles
    split
    · exact ih (.snd ‹_› (.readPlain hk))
    · exact .giveUp (.snd ‹_› (.readPlain hk))

theorem State.Reads.touchQuiet {j : Nat} (hk : s₀.Reads s) : s₀.Reads (s.touchQuiet j) := by
  unfold State.touchQuiet
  extract_lets _ _ _ _ _ _ s2
  have h2 : s₀.Reads s2 := .modRegion (fun _ => rfl) (.update hk)
  split
  · exact hk
  · exact .ite (.modRegion (fun _ => rfl) hk) (.ite (.bump h2) h2)

theorem State.Reads.viewPlain {ext : Ext} {j : Nat} {r : Region} {view t : Nat} (hk : s₀.Reads s) :
    s₀.Reads (s.viewPlain ext j r view t).2 := by
  unfold State.viewPlain
  split
  next hread => exact .giveUp (.snd hread (.readPlain hk))
  next hread =>
    have h1 := State.Reads.snd hread (.readPlain hk)
    exact .ite_snd h1 (.ite_snd (.xorTiles h1) (.xorTiles h1))

theorem State.Reads.readOwnMember {ext : Ext} {view sheaf i t : Nat} (hk : s₀.Reads s) : s₀.Reads (s.readOwnMember ext view sheaf i t).2 := by
  unfold State.readOwnMember
  split
  · exact hk
  · extract_lets _ s1
    have h1 : s₀.Reads s1 := .ite (.touchQuiet hk) hk
    split
    · exact hk
    · split
      · exact hk
      · split
        · exact h1
        · split
          · exact h1
          · split <;> exact .snd ‹_› (.viewPlain h1)

/-! ## Reads of a stripe for no operation -/

theorem State.Reads.charge {dst n : Nat} (hk : s₀.Reads s) : s₀.Reads (s.charge dst n) := .update hk

theorem State.Reads.countPath {dst p tries timeouts : Nat} (hk : s₀.Reads s) : s₀.Reads (s.countPath dst p tries timeouts) := .update hk

theorem State.Reads.issueRead {slot op cls view sheaf stripe job src epoch i : Nat} {x : Member} (hk : s₀.Reads s) :
    s₀.Reads (s.issueRead slot op cls view sheaf stripe job src epoch i x) := by
  unfold State.issueRead
  exact .update (.update (.countPath (.ite (.charge hk) hk)))

theorem State.Reads.sendOnce {cls view sheaf stripe job src epoch i : Nat} {x : Member} (hk : s₀.Reads s) :
    s₀.Reads (s.sendOnce cls view sheaf stripe job src epoch i x) := by
  unfold State.sendOnce
  split
  · exact .update (.issueRead hk)
  · exact hk

theorem State.Reads.readMember {ext : Ext} {cls view sheaf : Nat} {me : Region} {i t : Nat} {x : Member} (hk : s₀.Reads s) :
    s₀.Reads (s.readMember ext none cls view sheaf me i t x).2 := by
  unfold State.readMember
  exact .ite_snd (.readOwnMember hk) (.pair (.sendOnce hk))

theorem State.Reads.readMembers {ext : Ext} {cls sheaf : Nat} {sh : Sheaf} {me : Region} {t : Nat} {l : List Nat} {c : Tab MemRd}
    (hk : s₀.Reads s) : s₀.Reads (s.readMembers ext none cls sheaf sh me t l c).2 := by
  induction l generalizing s c with
  | nil => exact hk
  | cons x l ih =>
    unfold State.readMembers
    split
    · exact ih hk
    · split
      · exact ih hk
      · exact ih (.readMember hk)

theorem State.Reads.useSlot {d : DecSlot} (hk : s₀.Reads s) : s₀.Reads (s.useSlot none d) := by
  unfold State.useSlot
  extract_lets
  split
  · exact hk
  · split
    · exact hk
    · exact .bump hk

theorem State.Reads.solveStripe {region : Nat} {me : Region} {sh : Sheaf} {t : Nat} {sel : List Nat} {c : Tab MemRd} (hk : s₀.Reads s) :
    s₀.Reads (s.solveStripe none region me sh t sel c).2 := by
  unfold State.solveStripe
  extract_lets
  split
  · exact hk
  · split
    · exact hk
    · exact .useSlot hk

theorem State.Reads.reselect {t : Nat} {bad : List Nat} (hk : s₀.Reads s) : s₀.Reads (s.reselect none t bad) := .bumpBy hk

theorem State.Reads.readStripe {ext : Ext} {cls region sheaf : Nat} {me : Region} {sh : Sheaf} {t : Nat} {order : List Nat} {n : Nat}
    {excl : List Nat} {c : Tab MemRd} (hk : s₀.Reads s) :
    s₀.Reads (s.readStripe ext none cls region sheaf me sh t order n excl c).2 := by
  induction n generalizing s excl c with
  | zero => exact hk
  | succ n ih =>
    unfold State.readStripe
    extract_lets _ _ _ _ _ q _ _ _ p
    have hq : s₀.Reads q.2 := .readMembers hk
    have hp : s₀.Reads p.2 := .readMembers hq
    split
    · exact hk
    · split
      · exact hq
      · split
        · exact hq
        · exact .ite_snd (ih (.reselect hq)) (.ite_snd hp (.ite_snd (ih (.reselect hp)) (.ite_snd hp (.solveStripe hp))))

theorem State.Reads.decodeStripe {ext : Ext} {cls region : Nat} {r : Region} {sh : Sheaf} {t : Nat} {order excl : List Nat}
    (hk : s₀.Reads s) : s₀.Reads (s.decodeStripe ext none cls region r sh t order excl).2 := .readStripe hk

theorem State.Reads.targetTile {ext : Ext} {cls region : Nat} {r : Region} {sh : Sheaf} {target t : Nat} (hk : s₀.Reads s) :
    s₀.Reads (s.targetTile ext none cls region r sh target t).2 := by
  unfold State.targetTile
  split
  · exact hk
  · split
    · exact .ite_snd (.snd ‹_› (.decodeStripe hk)) (.snd ‹_› (.decodeStripe hk))
    · exact .snd ‹_› (.decodeStripe hk)
    · exact .snd ‹_› (.decodeStripe hk)
    · exact .snd ‹_› (.decodeStripe hk)

theorem State.Reads.buildValue {ext : Ext} {cls j : Nat} {r : Region} {sh : Sheaf} {t : Nat} (hk : s₀.Reads s) :
    s₀.Reads (s.buildValue ext none cls j r sh t).2 := by
  unfold State.buildValue
  split
  · exact .targetTile hk
  · split
    · split <;> exact .snd ‹_› (.xorTiles (.snd ‹_› (.decodeStripe hk)))
    · exact .snd ‹_› (.decodeStripe hk)
    · exact .snd ‹_› (.decodeStripe hk)
    · exact .snd ‹_› (.decodeStripe hk)

/-! ## Reads through repair (R312 to R315) -/

theorem State.Reads.repairValue {ext : Ext} {j : Nat} {r : Region} {t : Nat} (hk : s₀.Reads s) : s₀.Reads (s.repairValue ext j r t).2 := by
  unfold State.repairValue
  split
  · exact hk
  · split
    · split <;> exact .snd ‹_› (.buildValue hk)
    · split
      · exact hk
      · split
        · exact .xorTiles (.snd ‹_› (.targetTile hk))
        · exact .snd ‹_› (.targetTile hk)

theorem State.Reads.readTile {ext : Ext} {j : Nat} {r : Region} {t : Nat} (hk : s₀.Reads s) : s₀.Reads (s.readTile ext j r t).2 := by
  unfold State.readTile
  split
  next hread => exact .snd hread (.readPlain hk)
  next hread =>
    have h1 := State.Reads.snd hread (.readPlain hk)
    split
    · split
      · exact .giveUp h1
      · split
        · exact .bumpBy (.acceptBuild (.snd ‹_› (.buildValue h1)))
        · exact .giveUp (.snd ‹_› (.buildValue h1))
    · split
      · exact .bump (.repairTile (.snd ‹_› (.repairValue h1)))
      · exact .giveUp (.snd ‹_› (.repairValue h1))

theorem State.Reads.readApply {ext : Ext} {j : Nat} {r : Region} {t : Nat} (hk : s₀.Reads s) : s₀.Reads (s.readApply ext j r t).2 := by
  unfold State.readApply
  split
  · split <;> exact .snd ‹_› (.readPlain hk)
  · exact .readTile hk

/-! ## Reads of stored tiles (R168) -/

theorem State.Reads.readPart {ext : Ext} {tile off n : Nat} (hk : s₀.Reads s) : s₀.Reads (s.readPart ext tile off n).2 := by
  unfold State.readPart
  extract_lets
  split
  · exact hk
  · split
    · exact hk
    · split <;> exact .snd ‹_› (.readTile hk)

theorem State.Reads.readStack {ext : Ext} {n off len : Nat} (hk : s₀.Reads s) : s₀.Reads (s.readStack ext n off len).2 := by
  induction n generalizing s off len with
  | zero => exact hk
  | succ n ih =>
    unfold State.readStack
    extract_lets
    split
    · exact hk
    · split
      next hread => exact .snd hread (.readPart hk)
      next hread => split <;> exact .snd ‹_› (ih (.snd hread (.readPart hk)))

theorem State.Reads.readAt {ext : Ext} {a n cls : Nat} (hk : s₀.Reads s) : s₀.Reads (s.readAt ext a n cls).2 := by
  unfold State.readAt
  split
  · split <;> exact .snd ‹_› (.readStack hk)
  · exact hk

theorem State.Reads.readRemote {ext : Ext} {a : Nat} (hk : s₀.Reads s) : s₀.Reads (s.readRemote ext a).2 := by
  unfold State.readRemote
  split <;> exact .snd ‹_› (.readAt hk)

theorem State.Reads.readStored {ext : Ext} {sheaf i t : Nat} {x : Member} (hk : s₀.Reads s) :
    s₀.Reads (s.readStored ext sheaf i t x).2 := by
  unfold State.readStored
  split
  · split
    · exact hk
    · split <;> exact .snd ‹_› (.readTile hk)
  · exact .readRemote hk

theorem State.Reads.storedData {ext : Ext} {sheaf t : Nat} {sh : Sheaf} {l : List Nat} (hk : s₀.Reads s) :
    s₀.Reads (s.storedData ext sheaf t sh l).2 := by
  induction l generalizing s with
  | nil => exact hk
  | cons i l ih =>
    unfold State.storedData
    split
    · exact hk
    · split
      next hread => exact .snd hread (.ite_snd hk (.readStored hk))
      next hread => split <;> exact .snd ‹_› (ih (.snd hread (.ite_snd hk (.readStored hk))))
end

end Sys2Proof.Machine
end

section
/-! The statement of applies: O49. -/

namespace Sys2Proof.Machine

/-! ## What the end of an apply leaves (R150, R154, R158) -/

/-- `t` is `s` but for the port and the count of messages that a floor discards. -/
structure State.AnswersOnly (s t : State) : Prop where
  rest : t = { s with port := t.port, regs := t.regs }
  counts : ∀ off, off ≠ qtrCnt 12 → t.reg off = s.reg off

theorem State.AnswersOnly.of_port {s : State} (p : Port) : s.AnswersOnly { s with port := p } := ⟨rfl, fun _ _ => rfl⟩

theorem State.AnswersOnly.refl (s : State) : s.AnswersOnly s := .of_port s.port

theorem State.AnswersOnly.trans {s t u : State} (h : s.AnswersOnly t) (g : t.AnswersOnly u) : s.AnswersOnly u where
  rest := by
    have hr := h.rest
    have gr := g.rest
    rw [hr] at gr
    exact gr
  counts off hoff := (g.counts off hoff).trans (h.counts off hoff)

theorem State.answersOnly_discards (s : State) (k : Nat) : s.AnswersOnly (s.bumpBy (qtrCnt 12) k) where
  rest := by
    unfold State.bumpBy
    split <;> rfl
  counts off hoff := by rw [State.reg_bumpBy, if_neg hoff]

theorem State.answersOnly_floor (s : State) (n f : Nat) : s.AnswersOnly (s.floor n f) := by
  unfold State.floor
  split
  · exact .refl s
  · exact (AnswersOnly.of_port _).trans (State.answersOnly_discards _ _)

theorem State.answersOnly_applied (s : State) (a : Apply) (done : Bool) : s.AnswersOnly (s.applied a done) := by
  unfold State.applied
  extract_lets p s1 s2
  have h : s.AnswersOnly s2 := .of_port _
  split
  next f _ => exact h.trans (s2.answersOnly_floor a.ctx f)
  next => exact h

theorem State.answersOnly_flushAck (s : State) (dst tag : Nat) : s.AnswersOnly (s.flushAck dst tag) := by
  unfold State.flushAck
  split
  · exact .of_port _
  · exact .refl s

/-- An APPLIED or DISCARDED entry is formed without a count. -/
theorem State.answersOnly_addAck (s : State) (dst tag sheaf stripe : Nat) (e : AckEntry) (h1 : e.kind ≠ 1) (h3 : e.kind ≠ 3) :
    s.AnswersOnly (s.addAck dst tag sheaf stripe e) := by
  unfold State.addAck
  extract_lets same dup s0 l p s1 full s2
  have h0 : s.AnswersOnly s0 := by
    dsimp only [s0]
    split
    · exact s.answersOnly_flushAck dst tag
    · exact .refl s
  have hs1 : s.AnswersOnly s1 := by
    dsimp only [s1]
    split <;> exact h0.trans (.of_port _)
  have hs2 : s.AnswersOnly s2 := by
    dsimp only [s2]
    split
    · exact hs1.trans (s1.answersOnly_flushAck dst tag)
    · exact hs1
  rw [if_neg h1, if_neg h3]
  split
  · exact .refl s
  · exact hs2

theorem State.answersOnly_ackTo (s : State) (src : Nat) (h : Hdr) (kind status epoch : Nat) (h1 : kind ≠ 1) (h3 : kind ≠ 3) :
    s.AnswersOnly (s.ackTo src h kind status epoch) := s.answersOnly_addAck _ _ _ _ _ h1 h3

section
variable {s t : State} (h : s.AnswersOnly t)
include h
theorem State.AnswersOnly.mem_eq : t.mem = s.mem := by rw [h.rest]
theorem State.AnswersOnly.strap_eq : t.strap = s.strap := by rw [h.rest]
theorem State.AnswersOnly.regions_eq : t.regions = s.regions := by rw [h.rest]
theorem State.AnswersOnly.banks_eq : t.banks = s.banks := by rw [h.rest]
end

/-- The entry that an apply gives the sender of its message, if its sheaf still knows it (R158). -/
def State.answer (s : State) (c : RecvCtx) (r : Region) (h : Hdr) (kind : Nat) (t : State) : State :=
  match ((s.sheaves.get c.sheaf).bind (fun sh => sh.mem? c.src)).map (fun y => dstKey y.node y.agent) with
  | some k => t.ackTo k h kind 0 r.epoch
  | none => t

theorem State.answersOnly_answer (s t : State) (c : RecvCtx) (r : Region) (h : Hdr) {kind : Nat} (h1 : kind ≠ 1) (h3 : kind ≠ 3) :
    t.AnswersOnly (s.answer c r h kind t) := by
  unfold State.answer
  split
  next k _ => exact t.answersOnly_ackTo k h kind 0 r.epoch h1 h3
  next => exact .refl t

/-! ## ACCUM_APPLY by its cases (R154 to R157, R191, R343) -/

section
variable {s : State} {k : Nat} {ext : Ext} {a : Apply} {c : RecvCtx} {x : Rx} {r : Region} {h : Hdr} (hfront : s.applyFront k = some a)
  (hc : s.port.rctx.get a.ctx = some c) (hx : c.win.get a.seq = some x) (hr : s.regions.get c.region = some r) (hh : h = Hdr.parse x.header)

include hc hx hr hh in
/-- Neither copy-before-write nor THERM_LEVEL 3 holds a message that is not blocked. -/
theorem State.applyBlocked_eq : s.applyBlocked a = if h.bank = 3 then s.cbwHolds c.region h.stripe
    else s.cbwHolds r.link (h.bank * r.tileCount + h.stripe) || !s.thermOk r.set h.step := by
  subst hh
  simp only [State.applyBlocked, State.applyRx, hc, Option.bind_some, hx, hr]

include hfront

theorem execAccumApply_of_not_turn (hfree : s.applyBlocked a = false) (hturn : s.applyTurn k = false) :
    exec (.accumApply k ext noFault) s = .next s := by
  show execAccumApply k ext noFault s = _
  simp [execAccumApply, hfront, hfree, hturn]

include hc hx hr hh

/-- A message for committed parity is added by a lane into the stripe's tile of its region (R155). -/
theorem execAccumApply_of_committed {v : List Byte} {s1 : State} (hbank : h.bank = 3) (hfree : s.applyBlocked a = false)
    (hturn : s.applyTurn k = true) (henc : s.encoding c.region = false) (hlanes : s.boot.lanes ≠ 0#32) (hready : s.laneReady = true)
    (hread : s.readApply ext c.region r h.stripe = (some v, s1)) (hlanes1 : s1.boot.lanes ≠ 0#32) (hd : (s.rxData x).length = 4096)
    (hv : v.length = 4096) :
    ∃ q p, exec (.accumApply k ext noFault) s = .next (s.answer c r h 0
      (({ s1 with seqs := q, power := p }.putParity c.region h.stripe r (xorBytes (s.rxData x) v)).applied a true)).settle := by
  have hcbw : s.cbwHolds c.region h.stripe = false := by rw [← hfree, State.applyBlocked_eq hc hx hr hh, if_pos hbank]
  obtain ⟨q, p, hwork⟩ := State.laneWork_of_sound (applyJob_sound hd hv) hlanes1
  rw [applyJob_value hd v] at hwork
  refine ⟨q, p, ?_⟩
  subst hh
  show execAccumApply k ext noFault s = _
  simp only [execAccumApply, hfront, hfree, hturn, hc, hx, hr, hbank, henc, hcbw, if_neg hlanes, hready, hread]
  simp only [applyJob] at hwork
  simp only [hwork, Bool.not_false, Bool.not_true, Bool.and_false, Bool.false_and, Bool.or_false, Bool.false_eq_true, if_false,
    if_true, bne_self_eq_false]
  rfl

/-- A message for a bank that is to take it is added into the bank's tile of the stripe, and the bank is in use (R156, R191). -/
theorem execAccumApply_of_bank {v : List Byte} {s1 : State} {b : Region} (hbank : h.bank ≠ 3) (hfree : s.applyBlocked a = false)
    (hturn : s.applyTurn k = true) (htake : s.bankDecision r h.bank h.step = .apply) (hb : s.regions.get r.link = some b)
    (hlanes : s.boot.lanes ≠ 0#32) (hready : s.laneReady = true)
    (hread : s.readApply ext r.link b (h.bank * r.tileCount + h.stripe) = (some v, s1)) (hlanes1 : s1.boot.lanes ≠ 0#32)
    (hd : (s.rxData x).length = 4096) (hv : v.length = 4096) :
    ∃ q p, exec (.accumApply k ext noFault) s = .next (s.answer c r h 0
      ((let t := { s1 with seqs := q, power := p }.putTile b (h.bank * r.tileCount + h.stripe) (xorBytes (s.rxData x) v)
        if t.banks.has (bankKey r.link h.bank) then t
        else { t with banks := t.banks.set (bankKey r.link h.bank) ⟨.active, h.step, 0⟩ }).applied a true)).settle := by
  have hheld : (s.cbwHolds r.link (h.bank * r.tileCount + h.stripe) || !s.thermOk r.set h.step) = false := by
    rw [← hfree, State.applyBlocked_eq hc hx hr hh, if_neg hbank]
  obtain ⟨hcbw, htherm⟩ := Bool.or_eq_false_iff.mp hheld
  obtain ⟨q, p, hwork⟩ := State.laneWork_of_sound (applyJob_sound hd hv) hlanes1
  rw [applyJob_value hd v] at hwork
  refine ⟨q, p, ?_⟩
  subst hh
  show execAccumApply k ext noFault s = _
  simp only [execAccumApply, hfront, hfree, hturn, hc, hx, hr, if_neg hbank, htake, hb, hcbw, if_neg hlanes, hready, htherm, hread]
  simp only [applyJob] at hwork
  simp only [hwork, Bool.not_false, Bool.not_true, Bool.and_false, Bool.or_false, Bool.false_eq_true, if_false]
  rfl

/-- Without an enabled lane a message for committed parity is dropped (R343). -/
theorem execAccumApply_of_no_lane (hbank : h.bank = 3) (hfree : s.applyBlocked a = false) (hturn : s.applyTurn k = true)
    (henc : s.encoding c.region = false) (hlanes : s.boot.lanes = 0#32) :
    exec (.accumApply k ext noFault) s = .next (s.applied a false) := by
  have hcbw : s.cbwHolds c.region h.stripe = false := by rw [← hfree, State.applyBlocked_eq hc hx hr hh, if_pos hbank]
  subst hh
  show execAccumApply k ext noFault s = _
  simp [execAccumApply, hfront, hfree, hturn, hc, hx, hr, hbank, henc, hcbw, hlanes]

variable (hbank : h.bank ≠ 3) (hgo : s.applyBlocked a = true ∨ s.applyTurn k = true)
include hbank hgo

theorem execAccumApply_of_busy (hbusy : s.bankDecision r h.bank h.step = .busy) :
    exec (.accumApply k ext noFault) s = .next ((s.applied a false).bump (qtrCnt 13)) := by
  have hturn : (!s.applyBlocked a && !s.applyTurn k) = false := by rcases hgo with hg | hg <;> simp [hg]
  subst hh
  show execAccumApply k ext noFault s = _
  simp [execAccumApply, hfront, hturn, hc, hx, hr, hbank, hbusy]

theorem execAccumApply_of_discard {late : Bool} (hdiscard : s.bankDecision r h.bank h.step = .discard late) :
    exec (.accumApply k ext noFault) s = .next (let t := (s.answer c r h 2 (s.applied a true)).bump (stepCnt 4)
      if late then (t.bump (stepCnt 0)).event 71 (infoA c.region h.stripe) else t) := by
  have hturn : (!s.applyBlocked a && !s.applyTurn k) = false := by rcases hgo with hg | hg <;> simp [hg]
  subst hh
  show execAccumApply k ext noFault s = _
  simp only [execAccumApply, hfront, hturn, hc, hx, hr, if_neg hbank, hdiscard]
  rfl
end

/-- What an apply stored, and its regions and banks, are what its end and its answer leave. -/
theorem State.answersOnly_answer_applied (s t : State) (a : Apply) (c : RecvCtx) (r : Region) (h : Hdr) :
    t.AnswersOnly (s.answer c r h 0 (t.applied a true)) :=
  (t.answersOnly_applied a true).trans (s.answersOnly_answer _ c r h (by decide) (by decide))

/-- A store of a bank tile leaves the bank in use. -/
theorem State.has_takeBank (t : State) (key : Nat) (b : Bank) :
    (if t.banks.has key then t else { t with banks := t.banks.set key b }).banks.has key = true := by
  split
  next h => exact h
  next => rw [Tab.has, Tab.get_set_self]; rfl

theorem State.event_banks (s : State) (src detail : Nat) : (s.event src detail).banks = s.banks := by
  rw [s.signalsOnly_event src detail]

/-! ## The statement -/

/-- Settles O49, by the cases of ACCUM_APPLY: the lane's result is the XOR, since its checks are linear. -/
theorem completeMessagesApply : Obligations.CompleteMessagesApply := by
  unfold Obligations.CompleteMessagesApply
  intro s k ext a c x r h hfront hc hx hr hh
  refine ⟨execAccumApply_of_not_turn hfront, ?committed, ?bank, execAccumApply_of_no_lane hfront hc hx hr hh, ?busy, ?discard⟩
  case committed =>
    intro v s1 r1 hbank hfree hturn henc hlanes hready hread hlanes1 hr1 hd hv hapart
    obtain ⟨q, p, hexec⟩ := execAccumApply_of_committed hfront hc hx hr hh hbank hfree hturn henc hlanes hready hread hlanes1 hd hv
    have hend := s.answersOnly_answer_applied
      ({ s1 with seqs := q, power := p }.putParity c.region h.stripe r (xorBytes (s.rxData x) v)) a c r h
    obtain ⟨hmem, hstrap, hdigest, -⟩ :=
      State.restoreTile_does { s1 with seqs := q, power := p } c.region h.stripe r (xorBytes (s.rxData x) v)
    refine ⟨_, hexec, ?_, ?_⟩
    · rw [State.tileBytes_congr (hend.mem_eq.trans hmem) (hend.strap_eq.trans hstrap), State.tileBytes_putTile _ _ hapart,
        fit_of_length ((xorBytes_length _ _).trans hd)]
    · rw [hend.regions_eq]
      have hweight := (State.Reads.snd hread (State.Reads.refl s).readApply).weight_eq hr hr1 h.stripe
      exact (hdigest r1 hr1).trans (by rw [hweight]; rfl)
  case bank =>
    intro v s1 b hbank hfree hturn htake hb hlanes hready hread hlanes1 hd hv hapart
    obtain ⟨q, p, hexec⟩ := execAccumApply_of_bank hfront hc hx hr hh hbank hfree hturn htake hb hlanes hready hread hlanes1 hd hv
    refine ⟨_, hexec, ?_, ?_⟩
    · rw [State.tileBytes_congr ((s.answersOnly_answer_applied _ a c r h).mem_eq.trans ?_)
        ((s.answersOnly_answer_applied _ a c r h).strap_eq.trans ?_), State.tileBytes_putTile _ _ hapart,
        fit_of_length ((xorBytes_length _ _).trans hd)]
      · exact { s1 with seqs := q, power := p }
      · dsimp only
        split <;> rfl
      · dsimp only
        split <;> rfl
    · rw [(s.answersOnly_answer_applied _ a c r h).banks_eq]
      exact State.has_takeBank _ _ _
  case busy =>
    intro hbank hgo hbusy
    have happlied := s.answersOnly_applied a false
    refine ⟨_, execAccumApply_of_busy hfront hc hx hr hh hbank hgo hbusy, (State.bump_mem _ _).trans happlied.mem_eq,
      (State.bump_banks _ _).trans happlied.banks_eq, ?_⟩
    rw [State.reg_bump_self, happlied.counts _ (by decide)]
  case discard =>
    intro late hbank hgo hdiscard
    have hend := (s.answersOnly_applied a true).trans (s.answersOnly_answer (s.applied a true) c r h (kind := 2) (by decide) (by decide))
    refine ⟨_, execAccumApply_of_discard hfront hc hx hr hh hbank hgo hdiscard, ?_⟩
    have hreg : ((s.answer c r h 2 (s.applied a true)).bump (stepCnt 4)).reg (stepCnt 4) = s.reg (stepCnt 4) + 1#32 := by
      rw [State.reg_bump_self, hend.counts _ (by decide)]
    cases late with
    | false => exact ⟨(State.bump_mem _ _).trans hend.mem_eq, (State.bump_banks _ _).trans hend.banks_eq, hreg, nofun⟩
    | true =>
      refine ⟨(State.event_mem _ _ _).trans hend.mem_eq, ?_, ?_, fun _ => State.event_raises _ 71 _ (by decide)⟩
      · exact (State.event_banks _ 71 _).trans hend.banks_eq
      · exact (State.event_reg _ 71 _ _).trans ((State.reg_bump_ne _ _ _ (by decide)).trans hreg)

end Sys2Proof.Machine
end

section
/-! SUPPORT. Memory at the ends of operations: with room in the audit buffer a record of a configuration change stays in it (R102, R455), so
that neither an end nor a YIELD point touches memory. -/

namespace Sys2Proof.Machine

/-- `t` has the memory of `s`, and at most n entries more of the audit buffer are taken in it. -/
def State.Records (s : State) (n : Nat) (t : State) : Prop := t.mem = s.mem ∧ t.auditUsed ≤ s.auditUsed + n

theorem State.Records.trans {s t u : State} {m n : Nat} (h : s.Records m t) (g : t.Records n u) : s.Records (m + n) u :=
  ⟨g.1.trans h.1, by have := h.2; have := g.2; omega⟩

/-! ## Records that stay in the buffer (R454, R455) -/

theorem State.records_settleAudit (s : State) : s.Records 0 s.settleAudit := by
  obtain ⟨e, he⟩ := s.settleAudit_sets_full
  rw [he]
  exact ⟨rfl, Nat.le_refl _⟩

theorem State.records_auditForm {s : State} (status origin index kind object detail epoch : Nat) (resv : Bool) (h : s.auditUsed < 256) :
    s.Records 1 (s.auditForm status origin index kind object detail epoch resv) := by
  unfold State.auditForm
  extract_lets rec0 p s0 q s1 a2 s2
  have h1 : s.Records 0 s1 := by
    cases resv
    · exact ⟨rfl, Nat.le_refl _⟩
    · exact ⟨rfl, Nat.add_le_add_left (Nat.sub_le _ _) _⟩
  have h2 : s2 = s1 := if_neg fun hfull => by
    have := h1.2
    simp only [Bool.and_eq_true, decide_eq_true_eq] at hfull
    omega
  have hs2 : s.Records 0 s2 := h2.symm ▸ h1
  have hlost : s1.Records 1 { s1 with audit := { s1.audit with lost := s1.audit.lost + 1#32 } } := ⟨rfl, Nat.le_succ _⟩
  have hjoin : s2.Records 1 { s2 with audit := { s2.audit with buf := s2.audit.buf ++ [rec0] } } :=
    ⟨rfl, by simp only [State.auditUsed, List.length_append, List.length_singleton]; omega⟩
  split
  · exact (h1.trans hlost).trans (State.records_settleAudit _)
  · exact (hs2.trans hjoin).trans (State.records_settleAudit _)

section
variable {s : State} (o : Op)

/-- The end of an operation forms at most one record, that of a configuration change (R102). -/
theorem State.records_auditFinal (status aux : Nat) (h : s.auditUsed + bit o.configChange ≤ 256) :
    s.Records (bit o.configChange) (s.auditFinal o status aux) := by
  unfold State.auditFinal
  cases hchange : o.configChange with
  | false => exact ⟨rfl, Nat.le_refl _⟩
  | true =>
    rw [hchange] at h
    rw [if_neg (by simp)]
    split
    · split
      · have hgive : s.Records 1 { s with audit := { s.audit with resv := s.audit.resv - 1 } } :=
          ⟨rfl, (Nat.add_le_add_left (Nat.sub_le _ _) _).trans (Nat.le_succ _)⟩
        exact hgive.trans (State.records_settleAudit _)
      · exact ⟨rfl, Nat.le_succ _⟩
    · dsimp only
      split <;> exact State.records_auditForm _ _ _ _ _ _ _ _ h

theorem State.records_finishOne (st cursor result aux : Nat) (h : s.auditUsed + bit o.configChange ≤ 256) :
    s.Records (bit o.configChange) (s.finishOne o st cursor result aux) := State.records_auditFinal o (finalStatus st) aux h
end

/-! ## Ends (R102, R103) -/

/-- The configuration changes of a list. -/
def changes (l : List Op) : Nat := l.countP (fun o => o.configChange)

theorem changes_cons (o : Op) (l : List Op) : changes (o :: l) = changes l + bit o.configChange := by
  rw [changes, List.countP_cons]
  rfl

theorem changes_filter_le (p : Op → Bool) (l : List Op) : changes (l.filter p) ≤ changes l := List.filter_sublist.countP_le

/-- A change of an operation that keeps its descriptor keeps the number of configuration changes. -/
theorem changes_modOp (s : State) (id : Nat) {f : Op → Op} (hf : ∀ o, (f o).configChange = o.configChange) :
    changes (s.modOp id f).ops = changes s.ops := by
  rw [State.modOp, changes, List.countP_map, changes]
  congr 1
  funext x
  rw [Function.comp_apply]
  split
  · exact hf x
  · rfl

theorem State.auditRoom_iff (s : State) : s.auditRoom ↔ s.auditUsed + changes s.ops < 256 := by
  rw [State.auditRoom, changes, List.countP_eq_length_filter]

/-- The operations left when one ends have one configuration change less, if it is one. -/
theorem changes_ended {l : List Op} {o : Op} (ho : o ∈ l) : changes (l.filter (fun x => x.id != o.id)) + bit o.configChange ≤ changes l := by
  have hsplit := List.countP_eq_countP_filter_add l (fun x => x.configChange) (fun x => x.id != o.id)
  have hown : bit o.configChange ≤ (l.filter (fun x => !(x.id != o.id))).countP (fun x => x.configChange) := by
    cases hchange : o.configChange with
    | false => exact Nat.zero_le _
    | true => exact List.countP_pos_iff.mpr ⟨o, List.mem_filter.mpr ⟨ho, by simp⟩, hchange⟩
  unfold changes
  omega

/-- Operations that end one after another, each with its record, where there is room for them all. -/
theorem State.records_foldl_finishOne (cursor : Nat) (result : Op → Nat) (l : List Op) {s : State} (h : s.auditUsed + changes l ≤ 256) :
    s.Records (changes l) (l.foldl (fun t c => t.finishOne c stOk cursor (result c) 0) s) := by
  induction l generalizing s with
  | nil => exact ⟨rfl, Nat.le_refl _⟩
  | cons c l ih =>
    rw [changes_cons] at h ⊢
    have hc := State.records_finishOne (s := s) c stOk cursor (result c) 0 (by omega)
    have hl := hc.trans (ih (s := s.finishOne c stOk cursor (result c) 0) (by have := hc.2; omega))
    rwa [Nat.add_comm] at hl

theorem State.endsOnly_foldl_finishOne (cursor : Nat) (result : Op → Nat) (l : List Op) (s : State) :
    s.EndsOnly (l.foldl (fun t c => t.finishOne c stOk cursor (result c) 0) s) := by
  refine List.foldlRecOn (motive := s.EndsOnly) l _ ?_ fun _ h c _ => h.trans (State.endsOnly_finishOne _ c _ _ _ _)
  unfold State.EndsOnly
  rfl

/-- The end of an operation of the list, with those of the controls that wait for it, leaves memory. -/
theorem State.finish_mem {s : State} {o : Op} (ho : o ∈ s.ops) (hroom : s.auditRoom) (st cursor result aux : Nat) :
    (s.finish o st cursor result aux).mem = s.mem := by
  have hused := (s.auditRoom_iff).mp hroom
  have hended := changes_ended ho
  have hone := State.records_finishOne (s := s) o st cursor result aux (by omega)
  have hcontrols := changes_filter_le (fun c => c.stage == .waitTarget && c.note.get nkTarget == some o.id)
    (s.finishOne o st cursor result aux).ops
  rw [State.finishOne_ops] at hcontrols
  have hall := State.records_foldl_finishOne cursor (fun c => bit (c.opcode == 0x7D && st == stCancelled))
    ((s.finishOne o st cursor result aux).ops.filter (fun c => c.stage == .waitTarget && c.note.get nkTarget == some o.id))
    (s := s.finishOne o st cursor result aux) (by rw [State.finishOne_ops]; have := hone.2; omega)
  exact hall.1.trans hone.1

/-! ## YIELD points (R101 to R104) -/

theorem State.leaveSeq_keeps (s : State) (id : Nat) : s.Records 0 (s.leaveSeq id) ∧ (s.leaveSeq id).ops = s.ops ∧
    (s.leaveSeq id).regions = s.regions := by
  unfold State.leaveSeq
  split <;> exact ⟨⟨rfl, Nat.le_refl _⟩, rfl, rfl⟩

theorem State.makeReady_keeps (s : State) (id : Nat) : (s.makeReady id).mem = s.mem ∧ (s.makeReady id).regions = s.regions := by
  unfold State.makeReady
  split <;> exact ⟨rfl, rfl⟩

theorem State.op?_mem {s : State} {id : Nat} {o : Op} (h : s.op? id = some o) : o ∈ s.ops := List.mem_of_find?_eq_some h

/-- What a cancelled ENCODE_FULL leaves is its record alone (Table 3-15). -/
theorem State.cancelClean_encode {s : State} {o : Op} (h : o.opcode = 0x20) : s.cancelClean o = s := by
  unfold State.cancelClean
  simp [h]

/-- A YIELD point of an ENCODE_FULL leaves memory and regions. -/
theorem State.yieldPoint_keeps {s : State} {id : Nat} {o : Op} (ho : s.op? id = some o) (hcode : o.opcode = 0x20) (hroom : s.auditRoom) :
    (s.yieldPoint id).mem = s.mem ∧ (s.yieldPoint id).regions = s.regions := by
  unfold State.yieldPoint
  split
  next hnone => cases ho.symm.trans hnone
  next x hx =>
    obtain rfl := Option.some.inj (ho.symm.trans hx)
    split
    next =>
      extract_lets s1 q s2
      obtain ⟨hleave, hops, hregions⟩ :=
        ((s.interim o stSuspended o.cursor).modOp id (fun x => { x with st := .suspended })).leaveSeq_keeps id
      have hchanges : changes s2.ops = changes s.ops := by
        rw [show s2.ops = _ from hops]
        exact changes_modOp s id fun _ => rfl
      have hroom' := s.auditRoom_iff.mp hroom
      have hused : s2.auditUsed ≤ s.auditUsed + 0 := hleave.2
      have hle := changes_filter_le (fun c => c.stage == .waitTarget && c.note.get nkTarget == some id && c.opcode == 0x7E) s2.ops
      have hall := State.records_foldl_finishOne o.cursor (fun _ => 1)
        (s2.ops.filter (fun c => c.stage == .waitTarget && c.note.get nkTarget == some id && c.opcode == 0x7E)) (s := s2) (by omega)
      refine ⟨hall.1.trans hleave.1, ?_⟩
      exact (State.endsOnly_foldl_finishOne o.cursor (fun _ => 1) _ s2).regions_eq.trans hregions
    next =>
      rw [State.cancelOp, State.cancelClean_encode hcode]
      exact ⟨State.finish_mem (State.op?_mem ho) hroom _ _ _ _, (s.endsOnly_finish o _ _ _ _).regions_eq⟩
    next =>
      split
      · exact ⟨rfl, rfl⟩
      · obtain ⟨hleave, -, hregions⟩ := s.leaveSeq_keeps id
        obtain ⟨hmem, hregions'⟩ := (s.leaveSeq id).makeReady_keeps id
        exact ⟨hmem.trans hleave.1, hregions'.trans hregions⟩
    next => exact ⟨rfl, rfl⟩

end Sys2Proof.Machine
end

section
/-! The statement of full encoding and verification: O24. -/

namespace Sys2Proof.Machine

/-! ## Walks of one unit (R14, R92) -/

section
variable {op last : Nat} {f : Nat → State → Walk} {s : State} {o : Op} (ho : s.op? op = some o)
include ho

/-- A walk that has reached its last unit does nothing more. -/
theorem State.walk_of_over (n : Nat) (hover : last ≤ o.cursor) : State.walk op last f n s = .go s := by
  cases n with
  | zero => rfl
  | succ n =>
    unfold State.walk State.walkBy
    simp [ho, hover]

section
variable {s1 : State} (hmore : o.cursor < last)
include hmore

theorem State.walk_of_go (hf : f o.cursor s = .go s1) :
    State.walk op last f 1 s = .go (s1.modOp op (fun x => { x with cursor := o.cursor + 1 })) := by
  simp only [State.walk, State.walkBy, ho, Option.map_some, Option.getD_some, if_neg (not_le.mpr hmore), hf]

theorem State.walk_of_wait (hf : f o.cursor s = .wait s1) : State.walk op last f 1 s = .wait s1 := by
  simp only [State.walk, State.walkBy, ho, Option.map_some, Option.getD_some, if_neg (not_le.mpr hmore), hf]
end

theorem State.endWalk_of_over {done : State → Op → State} (hover : last ≤ o.cursor) :
    State.endWalk op last done (.go s) = (done s o).settle := by
  simp [State.endWalk, ho, hover]

theorem State.endWalk_of_more {done : State → Op → State} (hmore : o.cursor < last) :
    State.endWalk op last done (.go s) = (s.yieldPoint op).settle := by
  simp [State.endWalk, ho, hmore]
end

/-- One unit before the last whose writes go through the tap ends as they do, once they are issued. -/
theorem State.unitEnds_walk {op last : Nat} {g : Nat → State → Walk} {done : State → Op → State} {s s1 : State} {o : Op}
    (ho : s.op? op = some o) (hmore : o.cursor + 1 < last) (hissued : o.n nkIssued ≠ o.cursor + 1)
    (hg : g o.cursor (s.modOp op (fun x => x.keep nkErrors 0)) = .go s1) :
    (s1.modOp op (fun x => x.keep nkIssued (o.cursor + 1))).unitEnds
      (State.endWalk op last done (State.walk op last (fun t u => u.unitWrites op t (g t)) 1 s)) op (o.cursor + 1) := by
  have hcursor : o.cursor < last := by omega
  unfold State.unitEnds
  generalize hu : s1.modOp op (fun x => x.keep nkIssued (o.cursor + 1)) = u
  have hunit : s.unitWrites op o.cursor (g o.cursor) = if u.settle.engineHeld op then Walk.wait u.settle
      else if ((u.settle.op? op).map (fun x => decide (0 < x.n nkErrors))).getD false then Walk.stop stCheckFail u.settle
      else Walk.go u.settle := by
    simp only [State.unitWrites, ho, if_neg hissued, hg, hu]
  generalize u.settle = w at hunit ⊢
  refine ⟨fun hheld => ?_, fun hheld herr => ?_⟩
  · rw [if_pos hheld] at hunit
    rw [State.walk_of_wait ho hcursor hunit]
    rfl
  · obtain ⟨x, hx, hnone⟩ := Option.map_eq_some_iff.mp herr
    rw [if_neg (by simp [hheld]), if_neg (by simp [hx, hnone])] at hunit
    rw [State.walk_of_go ho hcursor hunit]
    exact State.endWalk_of_more (State.op?_modOp_self (f := fun x => { x with cursor := o.cursor + 1 }) hx fun _ => rfl) hmore

/-! ## Operations at work -/

theorem State.opcode_of_work {s : State} {id code : Nat} {o : Op} (h : s.work id code = some o) : o.opcode = code := by
  unfold State.work at h
  split at h
  next x hx =>
    split at h
    next hgo =>
      cases h
      simp only [Bool.and_eq_true, beq_iff_eq] at hgo
      exact hgo.1.1.1.1
    next => cases h
  next => cases h

/-- A number kept with an operation leaves its RESULT. -/
theorem State.result_keep (s : State) (op k v : Nat) :
    ((s.modOp op (fun x => x.keep k v)).op? op).map (fun x => x.result) = (s.op? op).map (fun x => x.result) := by
  rw [s.op?_modOp op op (fun x => x.keep k v) fun _ => rfl, if_pos rfl, Option.map_map]
  rfl

/-! ## ENCODE_FULL (R168, R169) -/

theorem xorBytes_foldl_length {α : Type} (g : α → List Byte) (l : List α) (v : List Byte) :
    (l.foldl (fun acc p => xorBytes acc (g p)) v).length = v.length := by
  induction l generalizing v with
  | nil => rfl
  | cons x l ih => rw [List.foldl_cons, ih, xorBytes_length]

theorem State.encodeRow_length (s : State) (region j : Nat) (d : List (List Byte)) : (s.encodeRow region j d).length = 4096 :=
  (xorBytes_foldl_length _ _ _).trans (zeros_length 4096)

/-- A restore write is no change of an operation or of the audit log. -/
theorem State.restoreTile_keeps (s : State) (j t : Nat) (r : Region) (v : List Byte) :
    (s.restoreTile j t r v).ops = s.ops ∧ (s.restoreTile j t r v).audit = s.audit := by
  obtain ⟨tap, f, -, hrelease⟩ := s.release_whole j t r v
  unfold State.restoreTile
  rw [hrelease]
  exact ⟨State.putTile_ops _ _ _ _, State.putTile_audit _ _ _ _⟩

/-- A tile of strength 0 reads as what was stored. -/
theorem State.tileBytes_putTile_bare (s : State) {r : Region} {t : Nat} (v : List Byte) (hg : r.strengthAt t = 0) :
    (s.putTile r t v).tileBytes r t = fit 4096 v := by
  have hself := s.stackRead_stackWrite_self ((r.tileBase + t) * 4096) (fit 4096 v)
  rw [fit_length] at hself
  rw [State.tileBytes_congr (s.putTile_mem r t v) rfl, State.putLine_of_no_line _ v (.inr hg)]
  exact hself

section
variable {s s1 : State} {op units : Nat} {ext : Ext} {o : Op} {r : Region} {sh : Sheaf} {d : List (List Byte)}
  (hwork : s.work op 0x20 = some o) (hr : s.regions.get (o.arg 16 1) = some r) (hsh : s.sheafOf r = some sh)
include hwork hr hsh

theorem execEncodeFull_of_fresh (hstage : o.stage = .fresh) (hcount : countOk (o.arg 24 4) = true) (h28 : o.arg 28 8 = 0)
    (h36 : o.arg 36 4 = 0) : exec (.encodeFull op units ext) s = .next (if s.encodeRefused o r sh then s.fail o stConflict
      else s.modOp op (fun x => { x with stage := .walking, cursor := x.arg 20 3 })) := by
  show execEncodeFull op units ext s = _
  simp [execEncodeFull, hwork, hr, hsh, hstage, hcount, h28, h36]

variable (hstage : o.stage = .walking)
include hstage

theorem execEncodeFull_of_walking : exec (.encodeFull op units ext) s = .next (State.endWalk op (o.arg 20 3 + o.arg 24 4)
    (fun t x => t.finish x stOk x.cursor (((t.regions.get (o.arg 16 1)).map (·.digest.toNat)).getD 0) 0)
    (State.walk op (o.arg 20 3 + o.arg 24 4) (fun t u => u.encodeStripe ext (o.arg 16 1) r sh t) units s)) := by
  show execEncodeFull op units ext s = _
  simp [execEncodeFull, hwork, hr, hsh, hstage]

/-- After its last stripe an ENCODE_FULL ends with the digest of its region. -/
theorem execEncodeFull_of_over (hover : o.arg 20 3 + o.arg 24 4 ≤ o.cursor) :
    exec (.encodeFull op units ext) s = .next (State.settle (s.finish o stOk o.cursor r.digest.toNat 0)) := by
  have ho := State.op?_of_work hwork
  rw [execEncodeFull_of_walking hwork hr hsh hstage, State.walk_of_over ho units hover, State.endWalk_of_over ho hover, hr]
  rfl

/-- A stripe whose data tiles are read takes the row as a write of its parity tile, and the walk ends or passes a YIELD point: neither touches
memory or the regions. -/
theorem execEncodeFull_of_stripe (hmore : o.cursor < o.arg 20 3 + o.arg 24 4) (hcbw : s.cbwHolds (o.arg 16 1) o.cursor = false)
    (hready : s.laneReady = true) (hread : s.storedData ext r.sheaf o.cursor sh (List.range sh.k) = (.inl d, s1)) (hroom : s1.auditRoom) :
    ∃ u : State, exec (.encodeFull op 1 ext) s = .next u.settle ∧
      u.mem = (s1.restoreTile (o.arg 16 1) o.cursor r (s1.encodeRow (o.arg 16 1) (r.member - sh.k) d)).mem ∧
      u.regions = (s1.restoreTile (o.arg 16 1) o.cursor r (s1.encodeRow (o.arg 16 1) (r.member - sh.k) d)).regions ∧
      u.strap = (s1.restoreTile (o.arg 16 1) o.cursor r (s1.encodeRow (o.arg 16 1) (r.member - sh.k) d)).strap := by
  have ho := State.op?_of_work hwork
  have hstripe : s.encodeStripe ext (o.arg 16 1) r sh o.cursor =
      .go (s1.restoreTile (o.arg 16 1) o.cursor r (s1.encodeRow (o.arg 16 1) (r.member - sh.k) d)) := by
    simp [State.encodeStripe, hcbw, hready, hread]
    rfl
  obtain ⟨hops, haudit⟩ := s1.restoreTile_keeps (o.arg 16 1) o.cursor r (s1.encodeRow (o.arg 16 1) (r.member - sh.k) d)
  rw [execEncodeFull_of_walking hwork hr hsh hstage, State.walk_of_go ho hmore hstripe]
  generalize s1.restoreTile (o.arg 16 1) o.cursor r (s1.encodeRow (o.arg 16 1) (r.member - sh.k) d) = s2 at hops haudit ⊢
  have ho2 : s2.op? op = some o := by
    rw [State.op?, hops, ((State.Reads.refl s).storedData.snd hread).1]
    exact ho
  have ho3 : (s2.modOp op (fun x => { x with cursor := o.cursor + 1 })).op? op = some { o with cursor := o.cursor + 1 } :=
    State.op?_modOp_self ho2 fun _ => rfl
  have hcode : o.opcode = 0x20 := State.opcode_of_work hwork
  have hroom3 : (s2.modOp op (fun x => { x with cursor := o.cursor + 1 })).auditRoom := by
    have hused : (s2.modOp op (fun x => { x with cursor := o.cursor + 1 })).auditUsed = s1.auditUsed := by
      simp only [State.auditUsed, State.modOp, haudit]
    rw [State.auditRoom_iff, hused, changes_modOp s2 op (f := fun x => { x with cursor := o.cursor + 1 }) fun _ => rfl, hops]
    exact s1.auditRoom_iff.mp hroom
  by_cases hover : o.arg 20 3 + o.arg 24 4 ≤ o.cursor + 1
  · refine ⟨_, congrArg _ (State.endWalk_of_over ho3 hover), State.finish_mem (State.op?_mem ho3) hroom3 _ _ _ _,
      (State.endsOnly_finish _ _ _ _ _ _).regions_eq, ?_⟩
    exact (State.Keeps.refl _).finish.2.1
  · obtain ⟨hmem, hregions⟩ := State.yieldPoint_keeps ho3 hcode hroom3
    exact ⟨_, congrArg _ (State.endWalk_of_more ho3 (not_le.mp hover)), hmem, hregions, (State.Keeps.refl _).yieldPoint.2.1⟩
end

/-! ## VERIFY_STRIPES (R168, R170) -/

/-- One stripe of VERIFY_STRIPES up to the issue of its list entry. -/
def State.checkStripe (ext : Ext) (op j : Nat) (r : Region) (sh : Sheaf) (t : Nat) (s : State) : Walk :=
  if !s.laneReady then .wait s else
  match s.storedData ext r.sheaf t sh (List.range sh.k) with
  | (.inr st, s1) => .stop st s1
  | (.inl d, s1) => match s1.rowsAgree ext r.set j r.sheaf t sh d (List.range sh.m) with
    | (.inr st, s2) => .stop st s2
    | (.inl true, s2) => .go s2
    | (.inl false, s2) =>
      match s2.op? op with
      | none => .go s2
      | some o =>
        let a := o.arg 28 8 + 4 * o.result
        let listed := o.arg 28 8 ≠ 0 ∧ o.result < o.arg 36 4
        let s3 := if o.result = 0 then s2.event 70 (infoA j t) else s2
        if listed ∧ writeStatus ext a ≠ stOk then .stop (writeStatus ext a) s3 else
        let s4 := if listed then s3.engineWrite op a (leBytes 4 t) 3 else s3
        .go (s4.modOp op (fun o => { o with result := o.result + 1 }))

theorem State.verifyStripe_eq (ext : Ext) (op j : Nat) (r : Region) (sh : Sheaf) (t : Nat) (s : State) :
    s.verifyStripe ext op j r sh t = s.unitWrites op t (State.checkStripe ext op j r sh t) := rfl

/-- The event of the first stripe that differs. -/
def State.firstMismatch (s : State) (j t : Nat) (o : Op) : State := if o.result = 0 then s.event 70 (infoA j t) else s

/-- A stripe that differs is raised, listed and counted. -/
def State.mismatch (s : State) (op j t : Nat) (o : Op) : State :=
  (if o.arg 28 8 ≠ 0 ∧ o.result < o.arg 36 4 then (s.firstMismatch j t o).engineWrite op (o.arg 28 8 + 4 * o.result) (leBytes 4 t) 3
    else s.firstMismatch j t o).modOp op (fun x => { x with result := x.result + 1 })

section
variable {s s1 s2 : State} {op j t : Nat} {ext : Ext} {o : Op} {r : Region} {sh : Sheaf} {d : List (List Byte)}
  (hready : s.laneReady = true) (hread : s.storedData ext r.sheaf t sh (List.range sh.k) = (.inl d, s1))
include hready hread

theorem State.checkStripe_of_agree (hrows : s1.rowsAgree ext r.set j r.sheaf t sh d (List.range sh.m) = (.inl true, s2)) :
    s.checkStripe ext op j r sh t = .go s2 := by
  simp [State.checkStripe, hready, hread, hrows]

theorem State.checkStripe_of_differ (hrows : s1.rowsAgree ext r.set j r.sheaf t sh d (List.range sh.m) = (.inl false, s2))
    (ho : s2.op? op = some o) (hwrite : writeStatus ext (o.arg 28 8 + 4 * o.result) = stOk) :
    s.checkStripe ext op j r sh t = .go (s2.mismatch op j t o) := by
  simp only [State.checkStripe, hready, hread, hrows, ho, hwrite, Bool.not_true, Bool.false_eq_true, if_false, ne_eq, not_true, and_false]
  rfl
end

section
variable (s : State) (op j t : Nat) (o : Op)

theorem State.firstMismatch_ops : (s.firstMismatch j t o).ops = s.ops := by
  unfold State.firstMismatch
  split
  · exact s.ops_event _ _
  · rfl

theorem State.engineWrite_keeps (a : Nat) (v : List Byte) (cls : Nat) :
    (s.engineWrite op a v cls).ops = s.ops ∧ (s.engineWrite op a v cls).evt = s.evt := by
  unfold State.engineWrite State.storeFor State.putWrite
  split
  · split <;> exact ⟨rfl, rfl⟩
  · exact ⟨rfl, rfl⟩

/-- A stripe that differs is counted in its operation. -/
theorem State.op?_mismatch (ho : s.op? op = some o) : (s.mismatch op j t o).op? op = some { o with result := o.result + 1 } := by
  refine State.op?_modOp_self (f := fun x => { x with result := x.result + 1 }) ?_ fun _ => rfl
  split
  · rw [State.op?, (State.engineWrite_keeps _ _ _ _ _).1, State.firstMismatch_ops]
    exact ho
  · rw [State.op?, State.firstMismatch_ops]
    exact ho

/-- The first stripe that differs raises its event. -/
theorem State.mismatch_raises (hfirst : o.result = 0) : (s.mismatch op j t o).raised 70 = true := by
  have hevent : (s.firstMismatch j t o).raised 70 = true := by
    rw [State.firstMismatch, if_pos hfirst]
    exact State.event_raises _ 70 _ (by decide)
  refine State.KeepsRaised.of_evt (s := s.firstMismatch j t o) ?_ 70 hevent
  show (if _ then _ else _ : State).evt = _
  split
  · exact (State.engineWrite_keeps _ _ _ _ _).2
  · rfl

theorem State.putDone_of_event {src detail agent : Nat} {own : Option Nat} {off : Nat} {v : List Byte} {u : State}
    (h : (s.event src detail).putDone u agent own off v) : s.putDone u agent own off v := by
  obtain ⟨e, he⟩ := s.event_changes_evt src detail
  rw [he] at h
  exact h

/-- Its entry of the list is performed, or stands at the tap. -/
theorem State.putDone_mismatch (hlist : o.arg 28 8 ≠ 0) (hroom : o.result < o.arg 36 4)
    (hstack : s.inStack (o.arg 28 8 + 4 * o.result) 4 = true) :
    s.putDone (s.mismatch op j t o) engineAgent (some op) (gOff (o.arg 28 8 + 4 * o.result)) (leBytes 4 t) := by
  have hw : ∀ w : State, w.inStack (o.arg 28 8 + 4 * o.result) 4 = true → w.putDone
      ((w.engineWrite op (o.arg 28 8 + 4 * o.result) (leBytes 4 t) 3).modOp op (fun x => { x with result := x.result + 1 }))
      engineAgent (some op) (gOff (o.arg 28 8 + 4 * o.result)) (leBytes 4 t) := fun w hin => by
    rw [State.engineWrite, (w.storeFor_does (some op) _ (leBytes 4 t) 3).1 hin]
    exact (w.putDone_putWrite _ _ _ _).congr rfl rfl
  rw [State.mismatch, if_pos ⟨hlist, hroom⟩]
  unfold State.firstMismatch
  split
  · refine s.putDone_of_event (src := 70) (detail := infoA j t) (hw _ ?_)
    obtain ⟨e, he⟩ := s.event_changes_evt 70 (infoA j t)
    rw [he]
    exact hstack
  · exact hw s hstack
end

section
variable {s : State} {op units : Nat} {ext : Ext} {o : Op} {r : Region} {sh : Sheaf} (hwork : s.work op 0x21 = some o)
  (hr : s.regions.get (o.arg 16 1) = some r) (hsh : s.sheafOf r = some sh)
include hwork hr hsh

theorem execVerifyStripes_of_fresh (hstage : o.stage = .fresh) (hcount : countOk (o.arg 24 4) = true) (halign : o.arg 28 8 % 4 = 0)
    (halive : sh.allAlive (sh.k + sh.m) = true) (hend : o.arg 20 3 + o.arg 24 4 ≤ sh.stripes) :
    exec (.verifyStripes op units ext) s = .next (s.modOp op (fun x => { x with stage := .walking, cursor := x.arg 20 3 })) := by
  show execVerifyStripes op units ext s = _
  simp [execVerifyStripes, hwork, hr, hsh, hstage, hcount, halign, halive, not_lt.mpr hend]

theorem execVerifyStripes_of_walking (hstage : o.stage = .walking) :
    exec (.verifyStripes op units ext) s = .next (State.endWalk op (o.arg 20 3 + o.arg 24 4)
      (fun t x => t.finish x stOk x.cursor x.result 0) (State.walk op (o.arg 20 3 + o.arg 24 4)
        (fun t u => u.unitWrites op t (State.checkStripe ext op (o.arg 16 1) r sh t)) units s)) := by
  show execVerifyStripes op units ext s = _
  simp [execVerifyStripes, hwork, hr, hsh, hstage, State.verifyStripe_eq]
end

/-! ## The statement -/

/-- Settles O24: a stripe of an encode is a write of its parity tile, whose rule gives the tile, the digest and the frame; one of a verification
is counted, raised and listed in its operation, and both walks end with the count or the digest of the end. -/
theorem parityEncodeAndVerify : Obligations.ParityEncodeAndVerify := by
  unfold Obligations.ParityEncodeAndVerify
  refine ⟨?encode, ?stripe, ?digest, ?verify, ?check, ?count⟩
  case encode =>
    intro s op units ext o r sh hwork hstage hr hsh hcount h28 h36
    have hexec := execEncodeFull_of_fresh (units := units) (ext := ext) hwork hr hsh hstage hcount h28 h36
    refine ⟨fun hrefused => ?_, fun hrefused => ?_⟩
    · rw [hrefused] at hexec
      exact ⟨_, hexec, State.op?_modOp_self (State.op?_of_work hwork) fun _ => rfl, rfl, rfl⟩
    · rw [hrefused] at hexec
      refine ⟨_, hexec, ?_, (s.endsOnly_fail o stConflict).regions_eq⟩
      exact State.id_of_work hwork ▸ s.completed_fail o stConflict
  case stripe =>
    intro s s1 op ext o r sh d hwork hstage hr hsh hmore hcbw hready hbare hread hroom
    obtain ⟨u, hexec, hmem, hregions, hstrap⟩ := execEncodeFull_of_stripe hwork hr hsh hstage hmore hcbw hready hread hroom
    obtain ⟨hrmem, hrstrap, hdigest, -⟩ :=
      s1.restoreTile_does (o.arg 16 1) o.cursor r (s1.encodeRow (o.arg 16 1) (r.member - sh.k) d)
    have hreads : s.Reads s1 := (State.Reads.refl s).storedData.snd hread
    have hkeeps : s.Keeps s1 := .snd hread (State.Keeps.refl s).storedData
    refine ⟨u, hexec, ?_, ?_, fun a ha => ?_⟩
    · rw [State.tileBytes_congr (hmem.trans hrmem) (hstrap.trans hrstrap), State.tileBytes_putTile_bare _ _ hbare,
        fit_of_length (s1.encodeRow_length _ _ _)]
    · rw [hregions]
      cases hq : s1.regions.get (o.arg 16 1) with
      | none =>
        have hbase := hreads.2 (o.arg 16 1)
        rw [State.baseOf, State.baseOf, hq, hr] at hbase
        cases hbase
      | some q => rw [hdigest q hq, Option.map_some, hreads.weight_eq hr hq]
    · have htile : s1.tileAddr (r.tileBase + o.cursor) = s.tileAddr (r.tileBase + o.cursor) := by
        rw [State.tileAddr, State.stackAddr, hkeeps.2.1, State.tileAddr, State.stackAddr]
      rw [← htile] at ha
      rw [hmem, hrmem]
      exact s1.byteAt_putTile _ ha fun _ _ hg => absurd hbare hg
  case digest =>
    intro s op units ext o r sh hwork hstage hr hsh hover
    refine ⟨_, execEncodeFull_of_over hwork hr hsh hstage hover, ?_, fun hroom =>
      State.finish_mem (State.op?_mem (State.op?_of_work hwork)) hroom _ _ _ _⟩
    have hend := s.completed_finish_ok o o.cursor r.digest.toNat 0
    rwa [Nat.mod_eq_of_lt r.digest.isLt, State.id_of_work hwork] at hend
  case verify =>
    intro s op units ext o r sh hwork hstage hr hsh hcount halign halive hend
    exact ⟨_, execVerifyStripes_of_fresh hwork hr hsh hstage hcount halign halive hend,
      State.op?_modOp_self (State.op?_of_work hwork) fun _ => rfl, rfl⟩
  case check =>
    intro s s1 s2 op ext o o2 r sh d b hwork hstage hr hsh hmore hissued hready hread hrows ho2 hdesc hwrite
    have hexec := execVerifyStripes_of_walking (units := 1) (ext := ext) hwork hr hsh hstage
    have ho := State.op?_of_work hwork
    have harg : ∀ off n, o2.arg off n = o.arg off n := fun off n => by rw [Op.arg, hdesc, Op.arg]
    have hready' : (s.modOp op (fun x => x.keep nkErrors 0)).laneReady = true := hready
    cases b with
    | true =>
      refine ⟨_, _, hexec, ?_, nofun, fun _ => ?_, nofun,
        State.unitEnds_walk ho hmore hissued (State.checkStripe_of_agree hready' hread hrows)⟩
      · rw [State.result_keep, ho2]
        rfl
      · rfl
    | false =>
      have hcheck := State.checkStripe_of_differ (op := op) hready' hread hrows ho2 (by rw [harg]; exact hwrite)
      refine ⟨_, _, hexec, ?_, fun _ hfirst => ?_, nofun, fun _ hlist hroom hstack => ?_, State.unitEnds_walk ho hmore hissued hcheck⟩
      · rw [State.result_keep, s2.op?_mismatch op (o.arg 16 1) o.cursor o2 ho2]
        rfl
      · exact s2.mismatch_raises op (o.arg 16 1) o.cursor o2 hfirst
      · have hput := s2.putDone_mismatch op (o.arg 16 1) o.cursor o2
        simp only [harg] at hput
        exact (hput hlist hroom hstack).congr rfl rfl
  case count =>
    intro s op units ext o r sh hwork hstage hr hsh hover
    have ho := State.op?_of_work hwork
    refine ⟨s.finish o stOk o.cursor o.result 0, ?_, ?_⟩
    · rw [execVerifyStripes_of_walking hwork hr hsh hstage, State.walk_of_over ho units hover, State.endWalk_of_over ho hover]
    · exact State.id_of_work hwork ▸ s.completed_finish_ok o o.cursor o.result 0

end Sys2Proof.Machine
end

section
/-! SUPPORT. What the operations of a step find and leave (R177 to R188): an operation in its waits, the sets of a mask, and the step tables. -/

namespace Sys2Proof.Machine

/-! ## Operations in their waits (R334) -/

/-- An operation that waits is the one with its number, and has the opcode asked for. -/
theorem State.of_waiting {s : State} {id code : Nat} {o : Op} (h : s.waiting id code = some o) :
    s.op? id = some o ∧ o.id = id ∧ o.opcode = code := by
  unfold State.waiting at h
  split at h
  next x hx =>
    split at h
    next hgo =>
      cases h
      simp only [Bool.and_eq_true, beq_iff_eq] at hgo
      exact ⟨hx, State.op?_some_id hx, hgo.1.1⟩
    next => cases h
  next => cases h

/-- An operation at work holds a sequencer and is found by the commands of the waits too. -/
theorem State.of_work {s : State} {id code : Nat} {o : Op} (h : s.work id code = some o) :
    s.waiting id code = some o ∧ s.seqs.q.any (fun p => p.2 == id) = true := by
  unfold State.work at h
  split at h
  next x hx =>
    split at h
    next hgo =>
      cases h
      simp only [Bool.and_eq_true] at hgo
      obtain ⟨⟨⟨⟨hcode, hstarted⟩, hst⟩, hseq⟩, -⟩ := hgo
      exact ⟨by simp only [State.waiting, hx, hcode, hstarted, hst, Bool.and_self, if_true], hseq⟩
    next => cases h
  next => cases h

/-- Giving up a sequencer changes the sequencers and a counter. -/
theorem State.leaveSeq_changes (s : State) (id : Nat) : ∃ q r, s.leaveSeq id = { s with seqs := q, regs := r } := by
  unfold State.leaveSeq
  split
  · exact ⟨_, _, rfl⟩
  · exact ⟨_, _, rfl⟩

/-- A parked operation takes its stage; beside the operations the sequencers and a counter change. -/
theorem State.park_changes (s : State) (id : Nat) (f : Op → Op) : ∃ q r, s.park id f = { s.modOp id f with seqs := q, regs := r } :=
  (s.modOp id f).leaveSeq_changes id

theorem State.op?_park {s : State} {id : Nat} {o : Op} {f : Op → Op} (h : s.op? id = some o) (hf : ∀ o, (f o).id = o.id) :
    (s.park id f).op? id = some (f o) := by
  obtain ⟨q, r, hpark⟩ := s.park_changes id f
  rw [hpark]
  exact State.op?_modOp_self h hf

section
variable {s t : State} (h : s.EndsOnly t)
include h
theorem State.EndsOnly.sets_eq : t.sets = s.sets := by rw [h]
theorem State.EndsOnly.setTab_eq (k : Nat) : t.setTab k = s.setTab k := by rw [State.setTab, h.sets_eq, State.setTab]
theorem State.EndsOnly.reg_eq (off : Nat) : t.reg off = s.reg off := by rw [h]; rfl
theorem State.EndsOnly.heldReads_eq : t.port.heldReads = s.port.heldReads := by rw [h]
end

/-- An operation that ends under its number with OK leaves its record with its RESULT. -/
theorem State.finish_ok_completed (s : State) {o : Op} {op : Nat} (hid : o.id = op) (cursor : Nat) {result : Nat} (h : result < 2 ^ 64) :
    (s.finish o stOk cursor result 0).completed op stOk result 0 := by
  have hend := s.completed_finish_ok o cursor result 0
  rwa [Nat.mod_eq_of_lt h, hid] at hend

/-- The pending bits stand as an operation ends. -/
theorem State.keepsRaised_auditFinal (s : State) (o : Op) (status aux : Nat) : s.KeepsRaised (s.auditFinal o status aux) := by
  unfold State.auditFinal
  split
  · exact .of_evt rfl
  split
  · split
    · exact (State.KeepsRaised.of_evt (t := { s with audit := { s.audit with resv := s.audit.resv - 1 } }) rfl).trans
        (State.keepsRaised_settleAudit _)
    · exact .of_evt rfl
  dsimp only
  split <;> exact State.keepsRaised_auditForm _ _ _ _ _ _ _ _ _

theorem State.keepsRaised_finishOne (s : State) (o : Op) (st cursor result aux : Nat) : s.KeepsRaised (s.finishOne o st cursor result aux) :=
  State.keepsRaised_auditFinal { s with
    recs := s.recs.filter (fun r : Rec => !(r.op == o.id && !r.final)) ++ [s.mkRec o (finalStatus st) cursor result aux true]
    ops := s.ops.filter (fun x => x.id != o.id)
    seqs := { s.seqs with q := s.seqs.q.filter (fun p => p.2 != o.id), ready := s.seqs.ready.filter (fun x => x != o.id),
                          trigOwn := s.seqs.trigOwn.filter (fun p => p.2 != o.id) }
    tables := s.tables.dropRefs o.id } o (finalStatus st) aux

theorem State.keepsRaised_fail (s : State) (o : Op) (st : Nat) : s.KeepsRaised (s.fail o st) :=
  List.foldlRecOn (motive := s.KeepsRaised) _ _ (s.keepsRaised_finishOne o st _ _ _)
    fun _ h _ _ => h.trans (State.keepsRaised_finishOne _ _ _ _ _ _)

/-! ## Step tables (Table 6-1) -/

theorem setsOf_nodup (m : Nat) : (setsOf m).Nodup := List.nodup_range.filter _

theorem Op.sets_nodup (o : Op) : o.sets.Nodup := setsOf_nodup _

theorem State.setTab_putSet (s : State) (k j : Nat) (t : SetTab) : (s.putSet k t).setTab j = if j = k then t else s.setTab j := by
  simp only [State.setTab, State.putSet_sets]
  split
  next h => rw [h, Tab.get_set_self, Option.getD_some]
  next h => rw [Tab.get_set_ne _ _ _ _ h]

/-- A change made set by set, each from that set's table alone where P holds: every set of the list has it once, and no other set. -/
theorem State.setTab_foldl {P : State → Prop} {f : State → Nat → State} {g : Nat → SetTab → SetTab} (hP : ∀ u k, P u → P (f u k))
    (hf : ∀ u k j, P u → (f u k).setTab j = if j = k then g k (u.setTab k) else u.setTab j) {l : List Nat} (hl : l.Nodup) {s : State}
    (hs : P s) (j : Nat) : (l.foldl f s).setTab j = if j ∈ l then g j (s.setTab j) else s.setTab j := by
  induction l generalizing s with
  | nil => rfl
  | cons k l ih =>
    obtain ⟨hk, hl⟩ := List.nodup_cons.mp hl
    rw [List.foldl_cons, ih hl (hP s k hs), hf s k j hs]
    by_cases hj : j = k
    · subst hj
      simp [hk]
    · simp [hj]

end Sys2Proof.Machine
end

section
/-! The statement of STEP_OPEN: O19. Its checks and waits, its effect in the sets, and the end of its level wait. -/

namespace Sys2Proof.Machine

/-! ## The waits (R182, R185, R245) -/

/-- The merges that a STEP_OPEN forces change banks and a counter. -/
theorem State.forceMerges_changes (s : State) (o : Op) : ∃ b r, s.forceMerges o = { s with banks := b, regs := r } := by
  unfold State.forceMerges
  refine List.foldlRecOn (motive := fun t : State => ∃ b r, t = { s with banks := b, regs := r }) _ _ ⟨s.banks, s.regs, rfl⟩ ?_
  rintro t ⟨b, r, rfl⟩ p -
  split
  · exact ⟨_, _, rfl⟩
  · exact ⟨b, r, rfl⟩

/-- `t` is `s` but for banks, counters and the operations: what the waits of a STEP_OPEN may change. -/
def State.WaitsOnly (s t : State) : Prop := t = { s with banks := t.banks, regs := t.regs, seqs := t.seqs, ops := t.ops }

theorem State.WaitsOnly.trans {s t u : State} (h : s.WaitsOnly t) (g : t.WaitsOnly u) : s.WaitsOnly u := by
  unfold State.WaitsOnly at g ⊢
  rw [g, h]

/-- Counting a STEP_OPEN that waits leaves the stages of the operations. -/
theorem State.countOpenWait_does (s : State) (o : Op) : s.WaitsOnly (s.countOpenWait o) ∧
    ((s.countOpenWait o).op? o.id).map (fun x => x.stage) = (s.op? o.id).map (fun x => x.stage) := by
  unfold State.countOpenWait
  split
  · refine ⟨rfl, ?_⟩
    rw [State.op?_modOp _ _ _ (fun x => x.keep nkOpenWait 1) fun _ => rfl, if_pos rfl, Option.map_map]
    rfl
  · exact ⟨rfl, rfl⟩

/-- A STEP_OPEN whose level wait is over waits for its banks and the cut, or for the slots. -/
theorem State.openWait_does {s : State} {o x : Op} (hx : s.op? o.id = some x) : s.WaitsOnly (s.openWait o) ∧
    ((s.openWait o).op? o.id).map (fun y => y.stage) = some (if s.banksReady o && !s.cutBefore (o.arg 16 8) then .waitSlot else .waitBank) := by
  have hstage (u : State) (st : Stage) (hu : u.op? o.id = some x) :
      ((u.modOp o.id (fun y => { y with stage := st })).op? o.id).map (fun y => y.stage) = some st := by
    rw [State.op?_modOp_self (f := fun y => { y with stage := st }) hu fun _ => rfl, Option.map_some]
  unfold State.openWait
  extract_lets m s1
  cases hready : s.banksReady o with
  | false =>
    obtain ⟨b, r, hforce⟩ := s.forceMerges_changes o
    obtain ⟨honly, hcount⟩ := ((s.forceMerges o).modOp o.id (fun y => { y with stage := .waitBank })).countOpenWait_does o
    refine ⟨.trans ?_ honly, hcount.trans (hstage _ _ ?_)⟩
    · rw [hforce]; rfl
    · rw [hforce]; exact hx
  | true =>
    cases hcut : s.cutBefore m with
    | true => exact ⟨rfl, hstage _ _ hx⟩
    | false =>
      have hone : s.WaitsOnly s1 ∧ (s1.op? o.id).map (fun y => y.stage) = some .waitSlot := ⟨rfl, hstage _ _ hx⟩
      obtain ⟨honly, hcount⟩ := s1.countOpenWait_does o
      simp only [Bool.not_true, Bool.false_eq_true, if_false]
      split
      · exact hone
      · exact ⟨hone.1.trans honly, hcount.trans hone.2⟩

/-- A STEP_OPEN whose checks pass enters its level wait, or the waits after it. -/
theorem State.openStart_does {s : State} {op : Nat} {o : Op} (ho : s.op? op = some o) (hid : o.id = op) (b : Bool) :
    s.WaitsOnly (if b then (s.leaveSeq op).openWait o else s.park op (fun x => { x with stage := .waitLevel s.now })) ∧
    ((if b then (s.leaveSeq op).openWait o else s.park op (fun x => { x with stage := .waitLevel s.now })).op? op).map (fun y => y.stage) =
      some (if b then (if s.banksReady o && !s.cutBefore (o.arg 16 8) then .waitSlot else .waitBank) else .waitLevel s.now) := by
  subst hid
  cases b with
  | false =>
    refine ⟨?_, ?_⟩
    · obtain ⟨q, r, hpark⟩ := s.park_changes o.id (fun x => { x with stage := .waitLevel s.now })
      simp only [Bool.false_eq_true, if_false, hpark]
      rfl
    · simp only [Bool.false_eq_true, if_false, State.op?_park (f := fun x => { x with stage := .waitLevel s.now }) ho fun _ => rfl]
      rfl
  | true =>
    obtain ⟨q, r, hleave⟩ := s.leaveSeq_changes o.id
    simp only [if_true, hleave]
    have hwait := State.openWait_does (s := { s with seqs := q, regs := r }) (o := o) ho
    exact ⟨.trans (t := { s with seqs := q, regs := r }) rfl hwait.1, hwait.2⟩

/-! ## The checks (R184, R441, Table 6-6) -/

theorem execStepOpen_of_passes {s : State} {op : Nat} {o : Op} (hwork : s.work op 0x10 = some o) (hstage : o.stage = .fresh)
    (hrows : ∀ k ∈ o.sets, s.openRow1 o k = false ∧ s.openRow2 o.step k = false ∧ s.openRow3 k = false ∧ s.openRow4 k = false)
    (hmatch : ∀ p ∈ s.awaited o, p.2.2.mismatch = none) :
    exec (.stepOpen op) s = .next (State.settle (if (s.awaited o).all (fun p => p.2.2.matched) then (s.leaveSeq op).openWait o
      else s.park op (fun x => { x with stage := .waitLevel s.now }))) := by
  have hpass : (o.sets.any (s.openRow1 o) || o.sets.any (s.openRow2 o.step) || o.sets.any s.openRow3 || o.sets.any s.openRow4) = false := by
    simp only [Bool.or_eq_false_iff, List.any_eq_false, Bool.not_eq_true]
    exact ⟨⟨⟨fun k hk => (hrows k hk).1, fun k hk => (hrows k hk).2.1⟩, fun k hk => (hrows k hk).2.2.1⟩, fun k hk => (hrows k hk).2.2.2⟩
  have hfar : (s.awaited o).find? (fun p => p.2.2.mismatch.isSome) = none := by
    rw [List.find?_eq_none]
    exact fun p hp => by simp [hmatch p hp]
  show execStepOpen op s = _
  simp [execStepOpen, hwork, hstage, hpass, hfar]

theorem execStepOpen_of_row {s : State} {op k : Nat} {o : Op} (hwork : s.work op 0x10 = some o) (hstage : o.stage = .fresh) (hk : k ∈ o.sets)
    (hrow : s.openRow1 o k = true ∨ s.openRow2 o.step k = true ∨ s.openRow3 k = true ∨ s.openRow4 k = true) :
    exec (.stepOpen op) s = .next (s.fail o stConflict) := by
  have hmet : (o.sets.any (s.openRow1 o) || o.sets.any (s.openRow2 o.step) || o.sets.any s.openRow3 || o.sets.any s.openRow4) = true := by
    simp only [Bool.or_eq_true, List.any_eq_true, or_assoc]
    exact hrow.imp (⟨k, hk, ·⟩) (.imp (⟨k, hk, ·⟩) (.imp (⟨k, hk, ·⟩) (⟨k, hk, ·⟩)))
  show execStepOpen op s = _
  simp only [execStepOpen, hwork, hstage, hmet, ne_eq, not_true, if_true, if_false]

/-! ## The effect (R185) -/

theorem execStepOpenEffect_of_ready {s : State} {op : Nat} {o : Op} (hwait : s.waiting op 0x10 = some o)
    (hstage : o.stage = .waitBank ∨ o.stage = .waitSlot) (hready : s.openReady o = true) :
    exec (.stepOpenEffect op) s = .next ((o.sets.foldl (fun t k => t.openSet o.step k) s).finish o stOk 0 0 0).settle := by
  show execStepOpenEffect op s = _
  rcases hstage with h | h <;> simp [execStepOpenEffect, hwait, h, hready]

/-- The table of set k once step n is OPEN in it, with depth d. -/
def SetTab.opened (d n : Nat) (t : SetTab) : SetTab :=
  { t with d := d, h := Nat.max t.h n, n := some (n + 1), live := t.live ++ [(n, false)], closing := none }

/-- `t` is `s` but for the sets, the tap and the port. -/
def State.SetsOnly (s t : State) : Prop := t = { s with sets := t.sets, tap := t.tap, port := t.port }

theorem State.setsOnly_openSets (s : State) (n : Nat) (l : List Nat) : s.SetsOnly (l.foldl (fun t k => t.openSet n k) s) := by
  refine List.foldlRecOn (motive := s.SetsOnly) _ _ (by rfl) fun t h k _ => ?_
  unfold State.SetsOnly State.openSet at *
  rw [h]
  rfl

/-- The step tables once a step is OPEN in its sets. -/
theorem State.setTab_openSets (s : State) (n : Nat) {l : List Nat} (hl : l.Nodup) (j : Nat) :
    (l.foldl (fun t k => t.openSet n k) s).setTab j = if j ∈ l then (s.setTab j).opened (s.setDepth j) n else s.setTab j :=
  State.setTab_foldl (P := fun u => ∀ k, u.setDepth k = s.setDepth k) (f := fun t k => t.openSet n k)
    (g := fun k t => t.opened (s.setDepth k) n) (fun _ _ hu => hu)
    (fun u k j hu => (u.setTab_putSet k j _).trans (by rw [hu k]; rfl)) hl (fun _ => rfl) j

/-! ## The end of the level wait (R441, R442) -/

/-- The record of a topology mismatch names the member in its registers, with its event and count, and leaves the step tables. -/
theorem State.topoRecord_does (s : State) (sheaf i : Nat) (x : Member) (node agent cause : Nat) :
    (s.topoRecord sheaf i x node agent cause).sets = s.sets ∧
    (s.topoRecord sheaf i x node agent cause).raised 91 = true ∧
    ∀ off, (s.topoRecord sheaf i x node agent cause).reg off = if off = bootCnt 4 then s.reg off + 1#32
      else if off = 0x019C then BitVec.ofNat 32 (node + 2 ^ 18 * agent + 2 ^ 22 * cause + 2 ^ 24 * (x.level.getD 0))
      else if off = 0x0198 then BitVec.ofNat 32 (sheaf + 2 ^ 24 * i) else s.reg off := by
  unfold State.topoRecord
  extract_lets s1
  refine ⟨?_, State.event_raises _ _ _ (by decide), fun off => ?_⟩
  · rw [(s1.bump (bootCnt 4)).signalsOnly_event, State.bump_sets, State.setReg_sets, State.setReg_sets]
  · rw [State.event_reg, State.bump, State.reg_bumpBy, State.reg_setReg, State.reg_setReg]
    split
    next h => subst h; rfl
    next => rfl

theorem execTopologyWaitTimeout_of_past {s : State} {op since sheaf i : Nat} {o : Op} {x : Member} (hwait : s.waiting op 0x10 = some o)
    (hstage : o.stage = .waitLevel since) (hmatch : ∀ p ∈ s.awaited o, p.2.2.mismatch = none)
    (hfirst : (s.awaited o).find? (fun p => !p.2.2.matched) = some (sheaf, i, x))
    (hpast : s.past since (100000 * s.rf 0x0194 0 10) = true) :
    ∃ cause, exec (.topologyWaitTimeout op) s =
      .next (((s.topoRecord sheaf i x x.node x.agent cause).bump (bootCnt 5)).fail o stTopology).settle := by
  have hfar : (s.awaited o).find? (fun p => p.2.2.mismatch.isSome) = none := by
    rw [List.find?_eq_none]
    exact fun p hp => by simp [hmatch p hp]
  show ∃ cause, execTopologyWaitTimeout op s = _
  simp only [execTopologyWaitTimeout, hwait, hstage, hfar, hfirst, hpast, if_true]
  exact ⟨_, rfl⟩

/-! ## The statement -/

/-- Settles O19: the waits change stages, banks and counters alone; the effect changes the table of each of its sets once; and the record of the
member that does not match is kept as the operation ends. -/
theorem stepOpens : Obligations.StepOpens := by
  unfold Obligations.StepOpens
  refine ⟨?waits, ?refused, ?effect, ?timeout⟩
  case waits =>
    intro s op o hwork hstage hrows hmatch
    obtain ⟨honly, hstage'⟩ := State.openStart_does (State.op?_of_work hwork) (State.id_of_work hwork)
      ((s.awaited o).all (fun p => p.2.2.matched))
    obtain ⟨o', ho', hst⟩ := Option.map_eq_some_iff.mp hstage'
    refine ⟨_, o', execStepOpen_of_passes hwork hstage hrows hmatch, ho', hst, ?_, ?_, ?_⟩ <;> rw [honly]
  case refused =>
    intro s op o k hwork hstage hk hrow
    exact ⟨_, execStepOpen_of_row hwork hstage hk hrow, (s.fail_does (State.id_of_work hwork) rfl).2.2, (s.endsOnly_fail o _).sets_eq⟩
  case effect =>
    intro s op o hwait hstage hready
    obtain ⟨ho, hid, -⟩ := State.of_waiting hwait
    have hopened := s.setsOnly_openSets o.step o.sets
    have htab (k : Nat) := s.setTab_openSets o.step o.sets_nodup k
    have ho' : o ∈ (o.sets.foldl (fun t k => t.openSet o.step k) s).ops := by
      rw [hopened]
      exact State.op?_mem ho
    have hends := (o.sets.foldl (fun t k => t.openSet o.step k) s).endsOnly_finish o stOk 0 0 0
    refine ⟨_, execStepOpenEffect_of_ready hwait hstage hready, ?_, fun k hk => ?_, fun k hk => ?_, ?_, fun hroom => ?_⟩
    · exact State.finish_ok_completed _ hid 0 (by decide)
    · rw [hends.setTab_eq, htab, if_pos hk]
      exact ⟨rfl, rfl, rfl, rfl, rfl⟩
    · rw [hends.setTab_eq, htab, if_neg hk]
    · rw [hends.regions_eq, hopened]
    · rw [State.finish_mem ho' (by rw [hopened]; exact hroom), hopened]
  case timeout =>
    intro s op since sheaf i o x hwait hstage hmatch hfirst hpast
    obtain ⟨ho, hid, -⟩ := State.of_waiting hwait
    obtain ⟨cause, hexec⟩ := execTopologyWaitTimeout_of_past hwait hstage hmatch hfirst hpast
    obtain ⟨hsets, hraised, hreg⟩ := s.topoRecord_does sheaf i x x.node x.agent cause
    have hends := ((s.topoRecord sheaf i x x.node x.agent cause).bump (bootCnt 5)).endsOnly_fail o stTopology
    refine ⟨_, hexec, (State.fail_does _ hid rfl).2.2, ?_, ?_, ?_, ?_⟩
    · exact State.keepsRaised_fail _ _ _ _ hraised
    · rw [hends.reg_eq, State.reg_bump_ne _ _ _ (by decide), hreg]
      rfl
    · rw [hends.reg_eq, State.reg_bump_self, hreg]
      rfl
    · rw [hends.sets_eq, State.bump_sets, hsets]

end Sys2Proof.Machine
end

section
/-! The statement of STEP_CLOSE, FENCE and STEP_CONFIRM: O20. Its clause for STEP_CONFIRM excludes another NORM_REDUCE by number alone, and a
state may list two operations under one number. -/

namespace Sys2Proof.Machine

/-- An operation number 4 on step 1 of set 0, at its start, with its place in the order of starts (R188). -/
def stepOneOp (opcode : Byte) (start : Nat) : Op :=
  { id := 4, ring := 0, desc := [opcode] ++ zeros 7 ++ [1#8] ++ zeros 7 ++ [1#8] ++ zeros 47, bank := 0, boot := false, st := .running
    started := true, stage := .fresh, cursor := 0, result := 0, aux := 0, pc := 0, regs := [], slots := [], bufs := 0, part := 0, refs := []
    note := [(nkStart, start)], got := [], hold := 0, control := none, resv := false }

/-- A STEP_CONFIRM of the CLOSED step 1 holds a sequencer, and a NORM_REDUCE of the step that started before it has the same number. -/
def confirmBesideReduce : State :=
  { State.reset with
    ops := [stepOneOp 0x11#8 1, stepOneOp 0x53#8 0], seqs := { State.reset.seqs with q := [(0, 4)] }
    sets := [(0, { SetTab.new 0 with live := [(1, true)] })] }

theorem confirmBesideReduce_calm : confirmBesideReduce.calm := by
  refine ⟨rfl, rfl, rfl, rfl, fun o ho => ?_⟩
  have hstage : ∀ x ∈ confirmBesideReduce.ops, x.stage = .fresh := by decide +kernel
  rw [hstage o ho]
  exact ⟨nofun, fun _ => ⟨nofun, nofun⟩⟩

/-- The STEP_CONFIRM waits for the NORM_REDUCE, and so for its own number (R188). -/
theorem confirmBesideReduce_waits :
    exec (.stepConfirm 4) confirmBesideReduce = .next (confirmBesideReduce.waitFor (stepOneOp 0x11#8 1) [4]) := by
  show execStepConfirm 4 confirmBesideReduce = _
  unfold execStepConfirm
  exact congrArg Host.Outcome.next (by decide +kernel)

/-- Refutes O20: with a second operation under its number, a NORM_REDUCE of the step, the STEP_CONFIRM that meets every hypothesis of its clause
enters the wait of R188 and does not complete. -/
theorem not_closeFenceConfirm : ¬ Obligations.CloseFenceConfirm := by
  rintro ⟨-, -, -, hconfirm⟩
  obtain ⟨t, ht, ⟨hended, -⟩, -⟩ := hconfirm confirmBesideReduce 4 (stepOneOp 0x11#8 1) (by decide +kernel) rfl confirmBesideReduce_calm
    (by decide +kernel) (by decide +kernel) (by decide +kernel) (by decide +kernel)
  obtain rfl : confirmBesideReduce.waitFor (stepOneOp 0x11#8 1) [4] = t :=
    Host.Outcome.next.inj (confirmBesideReduce_waits.symm.trans ht)
  exact absurd hended (by decide +kernel)

end Sys2Proof.Machine
end

section
/-! The statement of STEP_ROLLBACK and RETIRE_WORK: O21. What the effect edge of a rollback leaves, and what the pieces of retire work do. -/

namespace Sys2Proof.Machine

/-! ## The effect edge of a rollback (R195) -/

/-- `t` is `s` but for what the traffic of steps touches: counters, table references, the power counts, the tap, the port, the banks and the
regions. -/
def State.TrafficOnly (s t : State) : Prop :=
  t = { s with regs := t.regs, tables := t.tables, power := t.power, tap := t.tap, port := t.port, banks := t.banks, regions := t.regions }

theorem State.TrafficOnly.refl (s : State) : s.TrafficOnly s := rfl

theorem State.TrafficOnly.trans {s t u : State} (h : s.TrafficOnly t) (g : t.TrafficOnly u) : s.TrafficOnly u := by
  unfold State.TrafficOnly at g ⊢
  rw [g, h]

theorem State.DeltasOnly.trafficOnly {s t : State} (h : s.DeltasOnly t) : s.TrafficOnly t := by
  unfold State.TrafficOnly
  rw [h]

theorem State.SlotsOnly.trafficOnly {s t : State} (h : s.SlotsOnly t) : s.TrafficOnly t := by
  unfold State.TrafficOnly
  rw [h]

section
variable {s t : State} (h : s.TrafficOnly t)
include h
theorem State.TrafficOnly.mem_eq : t.mem = s.mem := by rw [h]
theorem State.TrafficOnly.ops_eq : t.ops = s.ops := by rw [h]
theorem State.TrafficOnly.setTab_eq (k : Nat) : t.setTab k = s.setTab k := by rw [h]; rfl
end

theorem State.trafficOnly_foldl {α : Type} {f : State → α → State} (hf : ∀ (u : State) x, u.TrafficOnly (f u x)) (l : List α) (s : State) :
    s.TrafficOnly (l.foldl f s) :=
  List.foldlRecOn (motive := s.TrafficOnly) _ _ (.refl s) fun u h x _ => h.trans (hf u x)

theorem State.trafficOnly_closeSlot (s : State) (k : Nat) : s.TrafficOnly (s.closeSlot k) := by
  obtain ⟨g, hg⟩ := s.closeSlot_keeps k
  exact .trans (t := { s with regions := g }) rfl hg.trafficOnly

/-- A message that is dropped leaves its context and its slot (R143). -/
theorem State.trafficOnly_endMsg (s : State) (n : Nat) (m : Msg) : s.TrafficOnly (s.endMsg n m false none) := by
  unfold State.endMsg
  extract_lets _ s1 s2 s3
  have h2 : s2 = s1 := if_neg (by simp)
  have h3 : s3 = s2 := if_neg (by simp)
  rw [h3, h2]
  exact .trans (t := s1.endSend n m.seq false none) rfl (State.slotsOnly_slotDone _ _).trafficOnly

theorem State.trafficOnly_dropMsgs (s : State) (n : Nat) (p : Msg → Bool) : s.TrafficOnly (s.dropMsgs n p) := by
  unfold State.dropMsgs
  split
  · exact .refl s
  · exact State.trafficOnly_foldl (fun u m => u.trafficOnly_endMsg n m) _ s

theorem State.trafficOnly_rollTraffic (s : State) (o : Op) : s.TrafficOnly (s.rollTraffic o) := by
  unfold State.rollTraffic
  extract_lets m f l s1 park _ s2 s3
  have h1 : s.TrafficOnly s1 := State.trafficOnly_foldl (fun u (p : Nat × Delta) => (u.deltasOnly_freeSlot p.1).trafficOnly) _ s
  have h3 : s2.TrafficOnly s3 := State.trafficOnly_foldl (fun u (p : Nat × SendCtx) => u.trafficOnly_dropMsgs p.1 _) _ s2
  have h2 : s1.TrafficOnly s2 := rfl
  exact ((h1.trans h2).trans h3).trans (by rfl)

theorem State.trafficOnly_rollSlots (s : State) (o : Op) : s.TrafficOnly (s.rollSlots o) := by
  unfold State.rollSlots State.closeSlots
  extract_lets m hit slots _ s1
  exact .trans (t := s1) rfl (State.trafficOnly_foldl (fun u (p : Nat × Delta) => u.trafficOnly_closeSlot p.1) _ s1)

/-- The table of a set in which the steps from F to L are rolled back. -/
def SetTab.rolledBack (f l : Nat) (t : SetTab) : SetTab :=
  { t with live := t.live.filter (fun p => !within f l p.1), h := Nat.max t.h l, n := some (nextStep f l), closing := none }

/-- The sets of a rollback in which its steps are live no more. -/
def State.rollSets (s : State) (o : Op) : State := o.sets.foldl (fun u k => u.rollSet o k) s

theorem State.setTab_rollSets (s : State) (o : Op) (j : Nat) :
    (s.rollSets o).setTab j = if j ∈ o.sets then (s.setTab j).rolledBack o.step (o.arg 24 6) else s.setTab j :=
  State.setTab_foldl (P := fun _ => True) (f := fun u k => u.rollSet o k) (g := fun _ => SetTab.rolledBack o.step (o.arg 24 6))
    (fun _ _ _ => trivial) (fun u k j _ => u.setTab_putSet k j _) o.sets_nodup trivial j

theorem State.rollSets_keeps (s : State) (o : Op) : (s.rollSets o).mem = s.mem ∧
    ((s.op? o.id).isSome = true → ((s.rollSets o).op? o.id).isSome = true) := by
  refine List.foldlRecOn (motive := fun t : State => t.mem = s.mem ∧ ((s.op? o.id).isSome = true → (t.op? o.id).isSome = true)) _ _
    ⟨rfl, id⟩ fun t ⟨hmem, hop⟩ k _ => ⟨hmem, fun hs => ?_⟩
  obtain ⟨x, hx⟩ := Option.isSome_iff_exists.mp (hop hs)
  exact Option.isSome_iff_exists.mpr ⟨_, State.op?_modOp_self (s := t.putSet k _) hx fun _ => rfl⟩

theorem execStepRollback_of_passes {s : State} {op units : Nat} {ext : Ext} {o : Op} (hwork : s.work op 0x12 = some o)
    (hstage : o.stage = .fresh) (hstatus : s.rollbackStatus o = 0)
    (hfirst : s.startedBefore o [0x14, 0x11, 0x12, 0x53] (fun _ => true) = []) :
    exec (.stepRollback op units ext) s =
      .next (((((s.rollSets o).modOp op (fun x => { x with stage := .walking })).rollTraffic o).rollSlots o).settle) := by
  obtain ⟨hwait, hseq⟩ := State.of_work hwork
  show execStepRollback op units ext s = _
  simp only [execStepRollback, hwait, hstage, hseq, hfirst, hstatus, Bool.not_true, Bool.false_eq_true, if_false, List.isEmpty_nil, if_true,
    ne_eq, not_true]
  rfl

theorem execStepRollback_of_walked {s : State} {op units : Nat} {ext : Ext} {o : Op} (hwork : s.work op 0x12 = some o)
    (hstage : o.stage = .walking) (hbusy : s.rollBusy o = false) (hover : (s.rollTiles o).length ≤ o.cursor) :
    exec (.stepRollback op units ext) s = .next (s.park op (fun x => { x with stage := .draining })).settle := by
  obtain ⟨hwait, hseq⟩ := State.of_work hwork
  have hwalk : State.rollWalk ext o (((s.rollTiles o).drop o.cursor).take units) s = s := by
    rw [List.drop_eq_nil_of_le hover, List.take_nil]
    rfl
  show execStepRollback op units ext s = _
  simp [execStepRollback, hwait, hstage, hseq, hbusy, hwalk, State.op?_of_work hwork, hover]

/-- The number after LAST that is congruent to FIRST modulo 6 (R179). -/
theorem nextStep_spec (f l : Nat) : l < nextStep f l ∧ nextStep f l ≤ l + 6 ∧ nextStep f l % 6 = f % 6 := by
  unfold nextStep
  omega

/-! ## Stamps of the dirty map (R126) -/

theorem State.dirtyAt_setDirty_self (s : State) {r : Region} (h : r.dirtyBase ≠ none) (g v : Nat) : (s.setDirty r g v).dirtyAt r g = v := by
  obtain ⟨b, hb⟩ := Option.ne_none_iff_exists'.mp h
  simp only [State.dirtyAt, State.setDirty, hb]
  split
  next hv => rw [Tab.get_del, if_pos rfl, hv]; rfl
  next => rw [Tab.get_set_self]; rfl

/-- A stamp that has the value written stays at it, whichever stamp is written. -/
theorem State.dirtyAt_setDirty_of_eq {s : State} {q : Region} {h v : Nat} (hv : s.dirtyAt q h = v) (hq : q.dirtyBase ≠ none)
    (r : Region) (g : Nat) : (s.setDirty r g v).dirtyAt q h = v := by
  obtain ⟨b, hb⟩ := Option.ne_none_iff_exists'.mp hq
  cases hr : r.dirtyBase with
  | none => rwa [State.setDirty, hr]
  | some a =>
    by_cases hkey : b + h = a + g
    · have hself := s.dirtyAt_setDirty_self (r := r) (by simp [hr]) g v
      simp only [State.dirtyAt, hr, hb] at hself ⊢
      rwa [hkey]
    · simp only [State.dirtyAt, State.setDirty, hr, hb] at hv ⊢
      split
      · rwa [Tab.get_del, if_neg hkey]
      · rwa [Tab.get_set_ne _ _ _ _ hkey]

/-- A list of writes that reaches its member with P, each of which keeps P, ends with P. -/
theorem foldl_reaches {α : Type} {P : State → Prop} {f : State → α → State} (hP : ∀ u x, P u → P (f u x)) {l : List α} {x : α}
    (hx : x ∈ l) (hf : ∀ u, P (f u x)) (s : State) : P (l.foldl f s) := by
  obtain ⟨a, b, rfl⟩ := List.append_of_mem hx
  rw [List.foldl_append, List.foldl_cons]
  exact List.foldlRecOn b f (hf _) fun u hu y _ => hP u y hu

/-- The stamps of one region that equal a code in `s` are written in `t`. -/
def State.remapRegion (s : State) (code new : Nat) (t : State) (p : Nat × Region) : State :=
  ((List.range p.2.granules).filter (fun g => s.dirtyAt p.2 g == code)).foldl (fun u g => u.setDirty p.2 g new) t

theorem State.remap_eq (s : State) (k code new : Nat) : s.remap k code new = (s.setRegions k).foldl (s.remapRegion code new) s := rfl

/-- The stamps of a set's regions that equal a code take the new value (R126). -/
theorem State.dirtyAt_remap (s : State) {k code : Nat} (new : Nat) {p : Nat × Region} {g : Nat} (hp : p ∈ s.setRegions k) (hg : g < p.2.granules)
    (hcode : s.dirtyAt p.2 g = code) (hstamp : code ≠ 0) : (s.remap k code new).dirtyAt p.2 g = new := by
  have hbase : p.2.dirtyBase ≠ none := fun hnone => hstamp (by rw [← hcode, State.dirtyAt, hnone])
  have hmark : g ∈ (List.range p.2.granules).filter (fun g => s.dirtyAt p.2 g == code) := by simp [hg, hcode]
  have hkeep (r : Region) (u : State) (h : Nat) (hu : u.dirtyAt p.2 g = new) : (u.setDirty r h new).dirtyAt p.2 g = new :=
    State.dirtyAt_setDirty_of_eq hu hbase r h
  have hregion (u : State) (q : Nat × Region) (hu : u.dirtyAt p.2 g = new) : (s.remapRegion code new u q).dirtyAt p.2 g = new :=
    List.foldlRecOn (motive := fun u : State => u.dirtyAt p.2 g = new) _ _ hu fun u hu h _ => hkeep q.2 u h hu
  have hown (u : State) : (s.remapRegion code new u p).dirtyAt p.2 g = new :=
    foldl_reaches (P := fun u => u.dirtyAt p.2 g = new) (hkeep p.2) hmark (fun u => u.dirtyAt_setDirty_self hbase g new) u
  rw [State.remap_eq]
  exact foldl_reaches (P := fun u => u.dirtyAt p.2 g = new) hregion hp hown s

theorem State.deltasOnly_remap (s : State) (k code new : Nat) : s.DeltasOnly (s.remap k code new) :=
  List.foldlRecOn (motive := s.DeltasOnly) _ _ (.refl s) fun _ h p _ =>
    List.foldlRecOn (motive := s.DeltasOnly) _ _ h fun u h g _ => h.trans (u.deltasOnly_setDirty p.2 g new)

/-! ## Pieces of retire work (R124, R126, R190) -/

section
variable {s t : State} (h : s.DeltasOnly t)
include h
theorem State.DeltasOnly.retire_eq : t.retire = s.retire := by rw [h]
theorem State.DeltasOnly.banks_eq : t.banks = s.banks := by rw [h]
theorem State.DeltasOnly.forcedBank_eq : t.forcedBank = s.forcedBank := by rw [h]; rfl
end

/-- With one entry of retire work, an update of the dirty map, and no merge forced, a piece does that update. -/
theorem State.retireLoop_of_map {s : State} {w : Retire} {k code new : Nat} (hw : s.retire = [w]) (hforced : s.forcedBank = none)
    (hmap : State.retireMaps 1 s = ({ s with retire := [] } : State).remap k code new) :
    State.retireLoop 1 s = ({ s with retire := [] } : State).remap k code new := by
  have honly := State.deltasOnly_remap { s with retire := [] } k code new
  have hretire : (({ s with retire := [] } : State).remap k code new).retire = [] := honly.retire_eq
  have hnone : (({ s with retire := [] } : State).remap k code new).forcedBank = none := honly.forcedBank_eq.trans hforced
  simp only [State.retireLoop, hw, List.length_singleton, hmap, hretire, hnone]

/-- The stamps after that piece. -/
theorem State.retireLoop_of_map_does {s : State} {w : Retire} {k x new : Nat} (hw : s.retire = [w]) (hforced : s.forcedBank = none)
    (hmap : State.retireMaps 1 s = ({ s with retire := [] } : State).remap k (x % 3 + 1) new) :
    (State.retireLoop 1 s).retire = [] ∧ (State.retireLoop 1 s).mem = s.mem ∧
      ∀ p g, p ∈ s.setRegions k → g < p.2.granules → s.dirtyAt p.2 g = x % 3 + 1 → (State.retireLoop 1 s).dirtyAt p.2 g = new := by
  rw [State.retireLoop_of_map hw hforced hmap]
  have honly := State.deltasOnly_remap { s with retire := [] } k (x % 3 + 1) new
  exact ⟨honly.retire_eq, honly.mem_eq, fun p g hp hg hstamp => State.dirtyAt_remap { s with retire := [] } new hp hg hstamp (by omega)⟩

/-- The map updates at the head of the retire work take entries off its front and leave the banks. -/
theorem State.retireMaps_keeps (n : Nat) (s : State) : (State.retireMaps n s).retire <:+ s.retire ∧ (State.retireMaps n s).banks = s.banks := by
  induction n generalizing s with
  | zero => exact ⟨List.suffix_rfl, rfl⟩
  | succ n ih =>
    have hstep {w : Retire} {l : List Retire} (hw : s.retire = w :: l) (k code new : Nat) :
        (State.retireMaps n (({ s with retire := l } : State).remap k code new)).retire <:+ s.retire ∧
        (State.retireMaps n (({ s with retire := l } : State).remap k code new)).banks = s.banks := by
      obtain ⟨hsuffix, hbanks⟩ := ih (({ s with retire := l } : State).remap k code new)
      have honly := State.deltasOnly_remap { s with retire := l } k code new
      rw [honly.retire_eq] at hsuffix
      exact ⟨hsuffix.trans (hw ▸ List.suffix_cons w l), hbanks.trans honly.banks_eq⟩
    unfold State.retireMaps
    split
    next hw => exact hstep hw _ _ _
    next hw => exact hstep hw _ _ _
    next => exact ⟨List.suffix_rfl, rfl⟩

/-- With no cut, nothing holds back the zeroing of tiles. -/
theorem State.zeroTiles_of_no_cut {s : State} (hcut : s.snap.cut = none) (j : Nat) (q : Region) (l : List Nat) :
    (s.zeroTiles j q l).2 = true := by
  induction l generalizing s with
  | nil => rfl
  | cons t l ih =>
    have hfree : s.cbwHolds j t = false := by rw [State.cbwHolds, hcut]
    rw [State.zeroTiles, hfree]
    exact ih (by rw [State.putTile_snap, hcut])

/-- A bank that is zeroed is listed no more (R190). -/
theorem State.retireOne_zeroBank {s : State} (hcut : s.snap.cut = none) (j x : Nat) :
    (s.retireOne (.zeroBank j x)).2 = true ∧ (s.retireOne (.zeroBank j x)).1.banks.get (bankKey j x) = none := by
  have hdel (t : Tab Bank) : (t.del (bankKey j x)).get (bankKey j x) = none := by rw [Tab.get_del, if_pos rfl]
  unfold State.retireOne
  split
  next h => cases h
  next h => cases h
  next h => cases h
  next h =>
    cases h
    split
    · exact ⟨rfl, hdel _⟩
    next q _ =>
      dsimp only
      rw [if_pos (State.zeroTiles_of_no_cut hcut j q _)]
      exact ⟨rfl, hdel _⟩

theorem State.retireLoop_of_zeroBank {s : State} {j x : Nat} {l : List Retire} (hw : s.retire = .zeroBank j x :: l) (hcut : s.snap.cut = none) :
    (State.retireLoop 1 s).retire <:+ l ∧ (State.retireLoop 1 s).banks.get (bankKey j x) = none := by
  obtain ⟨hdone, hfree⟩ := State.retireOne_zeroBank hcut j x
  have hhead (n : Nat) : State.retireMaps n s = s := by
    cases n with
    | zero => rfl
    | succ n => simp only [State.retireMaps, hw]
  simp only [State.retireLoop, hhead, hw, hdone, if_true]
  obtain ⟨hsuffix, hbanks⟩ := State.retireMaps_keeps l.length { (s.retireOne (.zeroBank j x)).1 with retire := l }
  exact ⟨hsuffix, by rw [hbanks]; exact hfree⟩

/-! ## The statement -/

/-- Settles O21: the effect edge changes the tables of its sets and the traffic of its steps, and no memory; a piece of retire work writes the
stamps that equal its step's, each to the value that its entry gives, or frees the bank that it has zeroed. -/
theorem rollbackAndRetireWork : Obligations.RollbackAndRetireWork := by
  unfold Obligations.RollbackAndRetireWork
  refine ⟨⟨?effect, ?drain, nextStep_spec⟩, ?confirmed, ?rolledBack, ?zeroed⟩
  case effect =>
    intro s op units ext o hwork hstage hstatus hfirst
    have hid := State.id_of_work hwork
    subst hid
    have honly := (((s.rollSets o).modOp o.id (fun x => { x with stage := .walking })).trafficOnly_rollTraffic o).trans
      (State.trafficOnly_rollSlots _ o)
    have htab (k : Nat) := (honly.setTab_eq k).trans (s.setTab_rollSets o k)
    obtain ⟨hmem, hop⟩ := s.rollSets_keeps o
    refine ⟨_, execStepRollback_of_passes hwork hstage hstatus hfirst, ?_, fun k hk => ?_, fun k hk => ?_, honly.mem_eq.trans hmem⟩
    · obtain ⟨x, hx⟩ := Option.isSome_iff_exists.mp (hop (by rw [State.op?_of_work hwork]; rfl))
      rw [State.op?, honly.ops_eq]
      exact congrArg (Option.map _) (State.op?_modOp_self (f := fun x => { x with stage := .walking }) hx fun _ => rfl)
    · rw [htab, if_pos hk]
      exact ⟨rfl, rfl, Nat.le_max_right _ _, rfl⟩
    · rw [htab, if_neg hk]
  case drain =>
    intro s op units ext o hwork hstage hbusy hover
    refine ⟨_, execStepRollback_of_walked hwork hstage hbusy hover, ?_, ?_⟩
    · rw [State.op?_park (f := fun x => { x with stage := .draining }) (State.op?_of_work hwork) fun _ => rfl]
      rfl
    · obtain ⟨q, r, hpark⟩ := s.park_changes op (fun x => { x with stage := .draining })
      rw [hpark]
      rfl
  case confirmed =>
    intro s k n hw hforced
    exact ⟨_, rfl, State.retireLoop_of_map_does hw hforced (by simp only [State.retireMaps, hw])⟩
  case rolledBack =>
    intro s k f n hw hforced
    exact ⟨_, rfl, State.retireLoop_of_map_does hw hforced (by simp only [State.retireMaps, hw, List.contains_nil, Bool.or_false])⟩
  case zeroed =>
    intro s j x l hw hcut
    exact ⟨_, rfl, State.retireLoop_of_zeroBank hw hcut⟩

end Sys2Proof.Machine
end

section
/-! The statement of MERGE_BANK: O22. What a read and a store of an unguarded tile give, one stripe of a merge, and its ends. -/

namespace Sys2Proof.Machine

/-! ## Unguarded tiles (R304, R311) -/

theorem memRead_add (m : Tab Byte) (a p q : Nat) : memRead m a (p + q) = memRead m a p ++ memRead m (a + p) q := by
  simp only [memRead, List.range_add, List.map_append, List.map_map, List.append_cancel_left_eq]
  exact List.map_congr_left fun i _ => by rw [Function.comp_apply, Nat.add_assoc]

/-- Pieces of equal length read one after another are one read. -/
theorem flatMap_memRead (m : Tab Byte) (a k n : Nat) : (List.range n).flatMap (fun i => memRead m (a + k * i) k) = memRead m a (k * n) := by
  induction n with
  | zero => rfl
  | succ n ih => rw [List.range_succ, List.flatMap_append, ih, Nat.mul_succ, memRead_add, List.flatMap_singleton]

/-- With no answer listed a tile is read as it stands in memory, with no sector flagged. -/
theorem State.tileRaw_unlisted (s : State) (tile : Nat) : s.tileRaw [] tile = (memRead s.mem (s.tileAddr tile) 4096, []) :=
  congrArg₂ Prod.mk (flatMap_memRead s.mem (s.tileAddr tile) 64 64) (List.filter_eq_nil_iff.mpr fun _ _ => by simp [extFind])

theorem State.modRegion_of_id (s : State) (i : Nat) {f : Region → Region} (h : ∀ r, f r = r) : s.modRegion i f = s := by
  obtain rfl : f = id := funext h
  simp [State.modRegion, Tab.upd]

section
variable (s : State) (j : Nat) {r q : Region} {t : Nat} (hbare : r.strengthAt t = 0)
include hbare

theorem State.readGuard_bare : s.readGuard [] r t = ⟨s.tileBytes r t, true, 0, 0, false, false⟩ := by
  simp only [State.readGuard, hbare, State.tileRaw_unlisted]
  rfl

/-- A read of a tile of strength 0 gives its bytes and leaves the state. -/
theorem State.readPlain_bare : s.readPlain [] j r t = (some (s.tileBytes r t), s) := by
  have hnote : s.noteRead j t r ⟨s.tileBytes r t, true, 0, 0, false, false⟩ = s := by
    simp only [State.noteRead, hbare, Bool.false_and, Bool.false_eq_true, if_false, decide_true, Bool.true_or, if_true]
    exact s.modRegion_of_id j fun x => by simp [bit]
  simp only [State.readPlain, s.readGuard_bare hbare, hnote, if_true]

theorem State.readApply_bare : s.readApply [] j r t = (some (s.tileBytes r t), s) := by
  simp only [State.readApply, State.readTile, s.readPlain_bare j hbare, ite_self]

/-- A store of a tile of strength 0 writes its bytes alone. -/
theorem State.putTile_mem_bare (v : List Byte) : (s.putTile r t v).mem = (s.stackWrite ((r.tileBase + t) * 4096) (fit 4096 v)).mem := by
  rw [State.putTile_mem, State.putLine_of_no_line _ v (.inr hbare)]

/-- It leaves every other tile. -/
theorem State.tileBytes_putTile_ne {x : Nat} (v : List Byte) (h : q.tileBase + x ≠ r.tileBase + t) :
    (s.putTile r t v).tileBytes q x = s.tileBytes q x := by
  rw [State.tileBytes_congr (s.putTile_mem_bare hbare v) (State.putTile_strap _ _ _ _)]
  exact s.stackRead_stackWrite_apart _ _ _ _ (by rw [fit_length]; omega)
end

/-! ## One stripe of a merge (R193) -/

theorem State.mem_banks_modOp (s : State) (bs : Tab Bank) (op : Nat) (f : Op → Op) :
    (({ s with banks := bs } : State).modOp op f).mem = s.mem := rfl

/-- A tile's bytes depend neither on the banks nor on the operations. -/
theorem State.tileBytes_banks_modOp (s : State) (bs : Tab Bank) (op : Nat) (f : Op → Op) (r : Region) (x : Nat) :
    (({ s with banks := bs } : State).modOp op f).tileBytes r x = s.tileBytes r x :=
  State.tileBytes_congr (s.mem_banks_modOp bs op f) rfl r x

theorem State.cbwHolds_of_no_cut {s : State} (hcut : s.snap.cut = none) (j t : Nat) : s.cbwHolds j t = false := by
  rw [State.cbwHolds, hcut]

/-- The tiles of a merged stripe: tile t of home region j and bank tile x of its PENDING region q. -/
def State.mergeTiles (s : State) (j t : Nat) (r q : Region) (x : Nat) : State :=
  if allZero (s.tileBytes q x) then s.putTile q x (zeros 4096)
  else (s.putParity j t r (xorBytes (s.tileBytes r t) (s.tileBytes q x))).putTile q x (zeros 4096)

section
variable {s : State} {j t : Nat} {r q : Region} {x : Nat}

theorem State.mergeTiles_ops : (s.mergeTiles j t r q x).ops = s.ops := by
  unfold State.mergeTiles
  split
  · exact State.putTile_ops _ _ _ _
  · rw [State.putTile_ops]
    exact (s.restoreTile_keeps j t r _).1

theorem tileBytes_length (s : State) (r : Region) (t : Nat) : (s.tileBytes r t).length = 4096 := memRead_length _ _ _

/-- Bytes that are all zero change nothing under XOR. -/
theorem xorBytes_of_allZero {v w : List Byte} (h : w.length = v.length) (hw : allZero w = true) : xorBytes v w = v := by
  have hzeros : w = zeros v.length := by
    rw [← h]
    exact List.eq_replicate_of_mem fun b hb => by simpa using List.all_eq_true.mp hw b hb
  rw [hzeros, xorBytes_zeros]

variable (hr : r.strengthAt t = 0) (hq : q.strengthAt x = 0) (hapart : r.tileBase + t ≠ q.tileBase + x)
include hr hq hapart

/-- The committed tile becomes the XOR of itself and the bank tile, and the bank tile zeros. -/
theorem State.mergeTiles_tiles : (s.mergeTiles j t r q x).tileBytes r t = xorBytes (s.tileBytes r t) (s.tileBytes q x) ∧
    (s.mergeTiles j t r q x).tileBytes q x = zeros 4096 := by
  have hzeros : fit 4096 (zeros 4096) = zeros 4096 := fit_of_length (zeros_length _)
  unfold State.mergeTiles
  split
  next hzero =>
    refine ⟨?_, by rw [State.tileBytes_putTile_bare _ _ hq, hzeros]⟩
    rw [State.tileBytes_putTile_ne _ hq _ hapart, xorBytes_of_allZero (by rw [tileBytes_length, tileBytes_length]) hzero]
  next =>
    obtain ⟨hmem, hstrap, -, -⟩ := s.restoreTile_does j t r (xorBytes (s.tileBytes r t) (s.tileBytes q x))
    refine ⟨?_, by rw [State.tileBytes_putTile_bare _ _ hq, hzeros]⟩
    rw [State.tileBytes_putTile_ne _ hq _ hapart, State.putParity, State.tileBytes_congr hmem hstrap, State.tileBytes_putTile_bare _ _ hr,
      fit_of_length (by rw [xorBytes_length, tileBytes_length])]

omit hapart in
/-- Every byte outside the two tiles is as before. -/
theorem State.byteAt_mergeTiles {a : Nat} (hat : a < s.tileAddr (r.tileBase + t) ∨ s.tileAddr (r.tileBase + t) + 4096 ≤ a)
    (hax : a < s.tileAddr (q.tileBase + x) ∨ s.tileAddr (q.tileBase + x) + 4096 ≤ a) :
    byteAt (s.mergeTiles j t r q x).mem a = byteAt s.mem a := by
  unfold State.mergeTiles
  split
  · exact s.byteAt_putTile _ hax fun _ _ hg => absurd hq hg
  · obtain ⟨hmem, hstrap, -, -⟩ := s.restoreTile_does j t r (xorBytes (s.tileBytes r t) (s.tileBytes q x))
    rw [State.byteAt_putTile _ _ ?_ fun _ _ hg => absurd hq hg, State.putParity, hmem, s.byteAt_putTile _ hat fun _ _ hg => absurd hr hg]
    rwa [State.putParity, State.tileAddr, State.stackAddr, hstrap, State.putTile_strap]
end

/-- A stripe before the last of unguarded tiles merges at once: its tiles, and the position of its bank. -/
theorem State.mergeStripe_bare {s : State} {j key : Nat} {r q : Region} {b : Bank} (hb : s.banks.get key = some b)
    (hq : s.regions.get r.link = some q) (hmore : b.pos + 1 < r.tileCount) (hready : s.laneReady = true) (hcut : s.snap.cut = none)
    (hrbare : r.strengthAt b.pos = 0) (hqbare : q.strengthAt (key % 3 * r.tileCount + b.pos) = 0) :
    ∃ t, s.mergeStripe [] j r key =
      some { s.mergeTiles j b.pos r q (key % 3 * r.tileCount + b.pos) with banks := Tab.set t key { b with pos := b.pos + 1 } } := by
  refine ⟨(s.mergeTiles j b.pos r q (key % 3 * r.tileCount + b.pos)).banks, ?_⟩
  simp only [State.mergeStripe, hb, hq, State.cbwHolds_of_no_cut hcut, hready, State.readApply_bare _ _ hrbare, State.readApply_bare _ _ hqbare,
    not_le.mpr hmore, Bool.not_true, Bool.or_self, Bool.false_eq_true, if_false, State.mergeTiles]
  split <;> rfl

/-! ## MERGE_BANK (R193) -/

section
variable {s : State} {op units : Nat} {ext : Ext} {o : Op} {r : Region} (hwork : s.work op 0x22 = some o)
  (hr : s.regions.get (o.arg 16 1) = some r)
include hwork hr

theorem execMergeBank_of_confirmed {b : Bank} (hstage : o.stage = .fresh) (hrole : r.role = .parityHome) (hsheaf : r.sheaf ≠ 0)
    (hb : s.banks.get (bankKey r.link (s.bankOf r o.step)) = some b) (hstep : b.step = o.step) (hst : b.st = .confirmed) :
    exec (.mergeBank op units ext) s =
      .next (({ s with banks := s.banks.set (bankKey r.link (s.bankOf r o.step)) { b with st := .merging, pos := 0 } } : State).modOp op
        (fun x => { x with stage := .walking })) := by
  obtain ⟨hwait, hseq⟩ := State.of_work hwork
  show execMergeBank op units ext s = _
  simp [execMergeBank, hwait, hr, hstage, hseq, hrole, hsheaf, hb, hstep, hst]

/-- A walk whose bank stands after it goes on; one whose bank is FREE has ended. -/
theorem execMergeBank_of_walking {u : State} {x : Op} (hstage : o.stage = .walking)
    (hwalk : State.mergeLoop ext op (o.arg 16 1) r (bankKey r.link (s.bankOf r o.step)) units s = u) (hx : u.op? op = some x) :
    exec (.mergeBank op units ext) s =
      .next (if (u.banks.get (bankKey r.link (s.bankOf r o.step))).isNone then (u.finish x stOk x.cursor 0 0).settle else u.settle) := by
  obtain ⟨hwait, hseq⟩ := State.of_work hwork
  show execMergeBank op units ext s = _
  simp [execMergeBank, hwait, hr, hstage, hseq, hwalk, hx]
end

/-- Settles O22: a merge of one stripe is two stores of unguarded tiles apart from each other, or, with the bank tile zero, the one that leaves it
zero; a bank that is FREE ends the operation. -/
theorem mergeBankXorsIntoCommitted : Obligations.MergeBankXorsIntoCommitted := by
  unfold Obligations.MergeBankXorsIntoCommitted
  refine ⟨?start, ?stripe, ?free⟩
  case start =>
    intro s op units ext o r b hwork hstage hr hrole hsheaf hb hstep hst
    refine ⟨_, execMergeBank_of_confirmed hwork hr hstage hrole hsheaf hb hstep hst, Tab.get_set_self _ _ _, ?_, rfl, rfl⟩
    exact congrArg (Option.map _) (State.op?_modOp_self (f := fun x => { x with stage := .walking })
      (s := { s with banks := _ }) (State.op?_of_work hwork) fun _ => rfl)
  case stripe =>
    intro s op o r q b hwork hstage hr hq hb hmore hready hcut hrg hrre hqg hqre hbank hapart
    have hkey : bankKey r.link (s.bankOf r o.step) % 3 = s.bankOf r o.step := by
      rw [bankKey, Nat.mul_add_mod, Nat.mod_eq_of_lt hbank]
    have hrbare : r.strengthAt b.pos = 0 := by rw [Region.strengthAt, hrre, hrg]
    have hqbare : q.strengthAt (s.bankOf r o.step * r.tileCount + b.pos) = 0 := by rw [Region.strengthAt, hqre, hqg]
    obtain ⟨t, hstripe⟩ := State.mergeStripe_bare (j := o.arg 16 1) hb hq hmore hready hcut hrbare (by rw [hkey]; exact hqbare)
    rw [hkey] at hstripe
    have hloop : State.mergeLoop [] op (o.arg 16 1) r (bankKey r.link (s.bankOf r o.step)) 1 s =
        ({ s.mergeTiles (o.arg 16 1) b.pos r q (s.bankOf r o.step * r.tileCount + b.pos) with
          banks := Tab.set t (bankKey r.link (s.bankOf r o.step)) { b with pos := b.pos + 1 } } : State).modOp op
            (fun x => { x with cursor := x.cursor + 1 }) := by
      simp [State.mergeLoop, hb, hstripe]
    have hop := State.op?_modOp_self (f := fun x => { x with cursor := x.cursor + 1 }) (id := op) (o := o)
      (s := { s.mergeTiles (o.arg 16 1) b.pos r q (s.bankOf r o.step * r.tileCount + b.pos) with
        banks := Tab.set t (bankKey r.link (s.bankOf r o.step)) { b with pos := b.pos + 1 } })
      (by rw [State.op?, State.mergeTiles_ops]; exact State.op?_of_work hwork) fun _ => rfl
    obtain ⟨htile, hzero⟩ := State.mergeTiles_tiles (s := s) (j := o.arg 16 1) hrbare hqbare hapart
    refine ⟨_, (execMergeBank_of_walking hwork hr hstage hloop hop).trans (congrArg _ (if_neg ?_)),
      (State.tileBytes_banks_modOp _ _ _ _ r _).trans htile, (State.tileBytes_banks_modOp _ _ _ _ q _).trans hzero, Tab.get_set_self _ _ _,
      fun a har haq => ?_⟩
    · rw [State.modOp_banks, Tab.get_set_self]
      exact Bool.false_ne_true
    · rw [State.mem_banks_modOp]
      exact State.byteAt_mergeTiles hrbare hqbare har haq
  case free =>
    intro s op units ext o r hwork hstage hr hb
    have ho := State.op?_of_work hwork
    have hloop : State.mergeLoop ext op (o.arg 16 1) r (bankKey r.link (s.bankOf r o.step)) units s = s := by
      cases units with
      | zero => rfl
      | succ n => simp [State.mergeLoop, hb]
    refine ⟨_, (execMergeBank_of_walking hwork hr hstage hloop ho).trans (congrArg _ (if_pos ?_)),
      State.finish_ok_completed _ (State.id_of_work hwork) _ (by decide), fun hroom => State.finish_mem (State.op?_mem ho) hroom _ _ _ _⟩
    rw [hb]
    rfl

end Sys2Proof.Machine
end

section
/-! SUPPORT. What the moves after a command (State.settle) do to memory: they only write bytes. A write lists no 0, so a byte that is
listed as 0 after them was listed before and is untouched. State.Keeps speaks of memory in canonical form alone; here memory is any table.
Each operation that they call has one lemma, named after it: first memory, tiles, the audit log and the ends of operations. -/

namespace Sys2Proof.Machine

/-- The memory tables that writes of bytes make of `m`. -/
inductive Stored (m : Tab Byte) : Tab Byte → Prop
  | refl : Stored m m
  | write {n : Tab Byte} (a : Nat) (v : List Byte) : Stored m n → Stored m (memWrite n a v)

/-- Where writes leave a byte listed as 0, they have not touched it (log entry 1). -/
theorem Stored.listed_zero {m n : Tab Byte} (h : Stored m n) {k : Nat} (hz : (k, (0#8 : Byte)) ∈ n) :
    (k, (0#8 : Byte)) ∈ m ∧ byteAt n k = byteAt m k := by
  induction h with
  | refl => exact ⟨hz, rfl⟩
  | write a v _ ih =>
    simp only [memWrite, List.mem_append, List.mem_filter, decide_eq_true_eq] at hz
    obtain (⟨hold, hlow⟩ | hnew) | ⟨hold, hhigh⟩ := hz
    · exact ⟨(ih hold).1, by rw [byteAt_memWrite, if_neg (by omega)]; exact (ih hold).2⟩
    · exact absurd rfl (listing_keys a v _ hnew).2.2
    · exact ⟨(ih hold).1, by rw [byteAt_memWrite, if_neg (by omega)]; exact (ih hold).2⟩

/-- `t` has the memory of `s` with bytes written. -/
def State.Stores (s t : State) : Prop := Stored s.mem t.mem

/-- The state that an operation gives, if it gives one, has the memory of `s₀` with bytes written. -/
inductive State.StoresAll (s₀ : State) : Option State → Prop
  | none : s₀.StoresAll none
  | some {t : State} : s₀.Stores t → s₀.StoresAll (some t)

section
variable {s₀ s t : State}

theorem State.Stores.refl (s : State) : s.Stores s := Stored.refl

theorem State.Stores.stackWrite {off : Nat} {v : List Byte} (hk : s₀.Stores s) : s₀.Stores (s.stackWrite off v) := .write _ v hk

/-- Every field beside the memory may take any value. -/
theorem State.Stores.update {pending : List Instr} {strap : Strap} {free fetchLast nextOp starts receipt : Nat} {time : Word64}
    {regs : Tab Word} {chipSel : Tab Nat} {staged latch : List HighWord} {boot : Boot} {ucode : Ucode} {rings : Tab Ring} {ops : List Op}
    {recs : List Rec} {seqs : Seqs} {regions : Tab Region} {sheaves : Tab Sheaf} {tables : Tables} {tap : Tap} {port : Port}
    {sward : Sward} {sets : Tab SetTab} {banks : Tab Bank} {retire : List Retire} {snap : Snap} {power : Power} {cal : Cal} {evt : Evt}
    {audit : Audit} {saves : List Saved} (hk : s₀.Stores s) :
    s₀.Stores ⟨pending, free, strap, time, s.mem, regs, chipSel, staged, latch, boot, ucode, rings, fetchLast, ops, nextOp, starts,
      recs, seqs, regions, sheaves, tables, tap, port, sward, sets, banks, retire, snap, power, cal, evt, audit, receipt, saves⟩ := hk

theorem State.Stores.ite {c : Prop} [Decidable c] (hk : s₀.Stores s) (g : s₀.Stores t) : s₀.Stores (if c then s else t) := by
  split
  · exact hk
  · exact g

theorem State.Stores.ite_snd {α : Type} {c : Prop} [Decidable c] {p q : α × State} (hp : s₀.Stores p.2) (hq : s₀.Stores q.2) :
    s₀.Stores (if c then p else q).2 := by
  split
  · exact hp
  · exact hq

theorem State.Stores.foldl {α : Type} {f : State → α → State} {l : List α} (hk : s₀.Stores s)
    (hf : ∀ t x, s₀.Stores t → s₀.Stores (f t x)) : s₀.Stores (l.foldl f s) := by
  induction l generalizing s with
  | nil => exact hk
  | cons x l ih => exact ih (hf s x hk)

theorem State.Stores.pair {α : Type} {x : α} (hk : s₀.Stores s) : s₀.Stores (x, s).2 := hk

theorem State.Stores.snd {α : Type} {p : α × State} {x : α} (e : p = (x, t)) (hk : s₀.Stores p.2) : s₀.Stores t := by
  subst e
  exact hk

theorem State.Stores.of_some {o : Option State} (e : o = some t) (hk : s₀.StoresAll o) : s₀.Stores t := by
  cases e
  cases hk
  assumption

theorem State.Stores.writeLoose {off : Nat} {v : List (Option Byte)} (hk : s₀.Stores s) : s₀.Stores (s.writeLoose off v) := .stackWrite hk

theorem State.Stores.putWrite {agent : Nat} {op : Option Nat} {off : Nat} {v : List (Option Byte)} (hk : s₀.Stores s) :
    s₀.Stores (s.putWrite agent op off v) := .ite (.update hk) (.writeLoose hk)

theorem State.Stores.storeFor {op : Option Nat} {a : Nat} {v : List Byte} {cls : Nat} (hk : s₀.Stores s) : s₀.Stores (s.storeFor op a v cls) :=
  .ite (.putWrite hk) (.update hk)

theorem State.Stores.store {a : Nat} {v : List Byte} {cls : Nat} (hk : s₀.Stores s) : s₀.Stores (s.store a v cls) := .storeFor hk

theorem State.Stores.bumpBy {off n : Nat} (hk : s₀.Stores s) : s₀.Stores (s.bumpBy off n) := .ite hk (.update hk)

theorem State.Stores.bump {off : Nat} (hk : s₀.Stores s) : s₀.Stores (s.bump off) := .bumpBy hk

theorem State.Stores.putLine {r : Region} {t g : Nat} {v : List Byte} (hk : s₀.Stores s) : s₀.Stores (s.putLine r t g v) := by
  unfold State.putLine
  split
  · exact .ite hk (.stackWrite hk)
  · exact hk

theorem State.Stores.xorLine {r : Region} {t g : Nat} {d : List Byte} (hk : s₀.Stores s) : s₀.Stores (s.xorLine r t g d) := by
  unfold State.xorLine
  split
  · exact .ite hk (.stackWrite hk)
  · exact hk

theorem State.Stores.putTile {r : Region} {t : Nat} {v : List Byte} (hk : s₀.Stores s) : s₀.Stores (s.putTile r t v) :=
  .update (.putLine (.stackWrite hk))

theorem State.Stores.putPart {r : Region} {t : Nat} {v : List Byte} (hk : s₀.Stores s) : s₀.Stores (s.putPart r t v) :=
  .update (.xorLine (.stackWrite hk))

theorem State.Stores.setCodes {c : Cut} {i n code : Nat} (hk : s₀.Stores s) : s₀.Stores (s.setCodes c i n code) := .stackWrite hk

theorem State.Stores.issueCopy {c : Cut} {tag i n : Nat} {prio : Bool} (hk : s₀.Stores s) : s₀.Stores (s.issueCopy c tag i n prio) :=
  .update (.setCodes hk)

theorem State.Stores.cbwAsk {j t : Nat} (hk : s₀.Stores s) : s₀.Stores (s.cbwAsk j t) := by
  unfold State.cbwAsk
  split
  · extract_lets
    split
    · split
      · exact .issueCopy hk
      · exact hk
    · exact hk
  · exact hk

theorem State.Stores.cbwEngine {j t : Nat} (hk : s₀.Stores s) : s₀.Stores (s.cbwEngine j t) := .ite (.cbwAsk hk) (.bump (.update (.cbwAsk hk)))

theorem State.Stores.endWaits (hk : s₀.Stores s) : s₀.Stores (s.endWaits) := .foldl hk fun _ _ g => .ite g (.bumpBy (.update g))

theorem State.Stores.repairTile {j t : Nat} {r : Region} {v : List Byte} (hk : s₀.Stores s) : s₀.Stores (s.repairTile j t r v) :=
  .ite (.cbwEngine (.ite hk (.update hk))) (.putTile hk)

theorem State.StoresAll.repairMove (hk : s₀.Stores s) : s₀.StoresAll (s.repairMove) := by
  unfold State.repairMove
  split
  · exact .none
  · extract_lets
    split
    · exact .some (.putTile (.update hk))
    · exact .some (.update hk)

theorem State.Stores.noteRead {i t : Nat} {r : Region} {x : TileRd} (hk : s₀.Stores s) : s₀.Stores (s.noteRead i t r x) := by
  unfold State.noteRead
  extract_lets _ s1
  have h1 : s₀.Stores s1 := .ite (.bump hk) hk
  exact .ite (.update h1)
    (.ite (.putLine (.bump (.update h1))) (.ite (.update h1) (.repairTile (.bump (.bumpBy (.update h1))))))

theorem State.Stores.freshNat (hk : s₀.Stores s) : s₀.Stores (s.freshNat).2 := .pair (.update hk)

theorem State.Stores.setPending {src : Nat} {fast : Bool} (hk : s₀.Stores s) : s₀.Stores (s.setPending src fast) :=
  .ite (.update hk) (.update hk)

theorem State.Stores.occur {src detail : Nat} {fast : Bool} (hk : s₀.Stores s) : s₀.Stores (s.occur src detail fast) :=
  .update (.setPending hk)

theorem State.Stores.event {src detail : Nat} (hk : s₀.Stores s) : s₀.Stores (s.event src detail) := .occur hk

theorem State.Stores.settleAudit (hk : s₀.Stores s) : s₀.Stores (s.settleAudit) := .ite (.event (.update hk)) (.update hk)

theorem State.Stores.auditMove (hk : s₀.Stores s) : s₀.Stores (s.auditMove) := by
  unfold State.auditMove
  split
  · exact hk
  · exact .update (.store hk)

theorem State.Stores.auditForm {status origin index kind object detail epoch : Nat} {resv : Bool} (hk : s₀.Stores s) :
    s₀.Stores (s.auditForm status origin index kind object detail epoch resv) := by
  unfold State.auditForm
  extract_lets _ _ s0 _ _ _ s2
  have h0 : s₀.Stores s0 := .ite (.update hk) hk
  have h2 : s₀.Stores s2 := .ite (.auditMove (.update h0)) (.update h0)
  exact .ite (.settleAudit (.update h0)) (.settleAudit (.update h2))

theorem State.Stores.auditFinal {o : Op} {status aux : Nat} (hk : s₀.Stores s) : s₀.Stores (s.auditFinal o status aux) := by
  unfold State.auditFinal
  extract_lets
  split
  · exact hk
  · split
    · exact .ite (.settleAudit (.update hk)) hk
    · split <;> exact .auditForm hk

theorem State.Stores.finishOne {o : Op} {st cursor result aux : Nat} (hk : s₀.Stores s) : s₀.Stores (s.finishOne o st cursor result aux) :=
  .auditFinal (.update hk)

theorem State.Stores.releaseControls {id status cursor : Nat} (hk : s₀.Stores s) : s₀.Stores (s.releaseControls id status cursor) :=
  .foldl hk fun _ _ g => .finishOne g

theorem State.Stores.finish {o : Op} {status cursor result aux : Nat} (hk : s₀.Stores s) : s₀.Stores (s.finish o status cursor result aux) :=
  .releaseControls (.finishOne hk)

end

end Sys2Proof.Machine
end

section
/-! SUPPORT. Reads through guard and sheaf: they write to memory only the tiles and lines that they repair. -/

namespace Sys2Proof.Machine

section
variable {s₀ s : State}

theorem State.Stores.freeSlot {k : Nat} (hk : s₀.Stores s) : s₀.Stores (s.freeSlot k) := by
  unfold State.freeSlot
  extract_lets
  split
  · exact hk
  · exact .ite (.update hk) (.update hk)

theorem State.Stores.touchQuiet {j : Nat} (hk : s₀.Stores s) : s₀.Stores (s.touchQuiet j) := by
  unfold State.touchQuiet
  extract_lets _ _ _ _ _ _ s2
  have h2 : s₀.Stores s2 := .update hk
  split
  · exact hk
  · exact .ite (.update hk) (.ite (.bump h2) h2)

theorem State.Stores.readPlain {ext : Ext} {j : Nat} {r : Region} {t : Nat} (hk : s₀.Stores s) : s₀.Stores (s.readPlain ext j r t).2 :=
  .pair (.noteRead hk)

theorem State.Stores.giveUp {j t : Nat} (hk : s₀.Stores s) : s₀.Stores (s.giveUp j t) := .event (.bump hk)

theorem State.Stores.xorTiles {ext : Ext} {l : List (Nat × Region × Nat)} {l2 : List Byte} (hk : s₀.Stores s) :
    s₀.Stores (s.xorTiles ext l l2).2 := by
  induction l generalizing s l2 with
  | nil => exact hk
  | cons x l ih =>
    unfold State.xorTiles
    split
    · exact ih (.snd ‹_› (.readPlain hk))
    · exact .pair (.giveUp (.snd ‹_› (.readPlain hk)))

theorem State.Stores.charge {dst n : Nat} (hk : s₀.Stores s) : s₀.Stores (s.charge dst n) := .update hk

theorem State.Stores.issueRead {slot op cls view sheaf stripe job src epoch i : Nat} {x : Member} (hk : s₀.Stores s) :
    s₀.Stores (s.issueRead slot op cls view sheaf stripe job src epoch i x) := .update (.ite (.charge hk) hk)

theorem State.Stores.putGot {id i view stripe : Nat} {x : MemRd} (hk : s₀.Stores s) : s₀.Stores (s.putGot id i view stripe x) := by
  unfold State.putGot
  extract_lets
  split
  · exact .update hk
  · exact .update hk
  · exact .update hk
  · exact hk

theorem State.Stores.askMember {id cls view sheaf stripe job src epoch i : Nat} {x : Member} (hk : s₀.Stores s) :
    s₀.Stores (s.askMember id cls view sheaf stripe job src epoch i x).2 := by
  unfold State.askMember
  extract_lets
  split
  · exact hk
  · split
    · exact hk
    · split
      · exact .pair (.update hk)
      · split
        · exact .pair (.issueRead hk)
        · exact hk

theorem State.Stores.sendOnce {cls view sheaf stripe job src epoch i : Nat} {x : Member} (hk : s₀.Stores s) :
    s₀.Stores (s.sendOnce cls view sheaf stripe job src epoch i x) := by
  unfold State.sendOnce
  split
  · exact .update (.issueRead hk)
  · exact hk

theorem State.Stores.viewPlain {ext : Ext} {j : Nat} {r : Region} {view t : Nat} (hk : s₀.Stores s) :
    s₀.Stores (s.viewPlain ext j r view t).2 := by
  unfold State.viewPlain
  split
  · exact .pair (.giveUp (.snd ‹_› (.readPlain hk)))
  · exact .ite_snd (.pair (.snd ‹_› (.readPlain hk)))
      (.ite_snd (.xorTiles (.snd ‹_› (.readPlain hk))) (.xorTiles (.snd ‹_› (.readPlain hk))))

theorem State.Stores.readOwnMember {ext : Ext} {view sheaf i t : Nat} (hk : s₀.Stores s) :
    s₀.Stores (s.readOwnMember ext view sheaf i t).2 := by
  unfold State.readOwnMember
  split
  · exact hk
  · extract_lets _ s1
    have h1 : s₀.Stores s1 := .ite (.touchQuiet hk) hk
    split
    · exact hk
    · split
      · exact hk
      · split
        · exact h1
        · split
          · exact h1
          · split <;> exact .pair (.snd ‹_› (.viewPlain h1))

theorem State.Stores.readMember {ext : Ext} {op : Option Nat} {cls view sheaf : Nat} {me : Region} {i t : Nat} {x : Member}
    (hk : s₀.Stores s) : s₀.Stores (s.readMember ext op cls view sheaf me i t x).2 := by
  unfold State.readMember
  split
  · exact .ite_snd (.readOwnMember hk) (.pair (.sendOnce hk))
  · extract_lets
    split
    · split
      · exact hk
      · exact .pair (.putGot (.readOwnMember hk))
    · exact .askMember hk

theorem State.Stores.readMembers {ext : Ext} {op : Option Nat} {cls sheaf : Nat} {sh : Sheaf} {me : Region} {t : Nat} {l : List Nat}
    {x : Tab MemRd} (hk : s₀.Stores s) : s₀.Stores (s.readMembers ext op cls sheaf sh me t l x).2 := by
  induction l generalizing s x with
  | nil => exact hk
  | cons x l ih =>
    unfold State.readMembers
    split
    · exact ih hk
    · split
      · exact ih hk
      · exact ih (.readMember hk)

theorem State.Stores.useSlot {op : Option Nat} {d : DecSlot} (hk : s₀.Stores s) : s₀.Stores (s.useSlot op d) := by
  unfold State.useSlot
  extract_lets
  split
  · exact .update hk
  · split
    · exact .update hk
    · exact .bump hk

theorem State.Stores.solveStripe {op : Option Nat} {region : Nat} {me : Region} {sh : Sheaf} {t : Nat} {sel : List Nat} {c : Tab MemRd}
    (hk : s₀.Stores s) : s₀.Stores (s.solveStripe op region me sh t sel c).2 := by
  unfold State.solveStripe
  extract_lets
  split
  · exact hk
  · split
    · exact hk
    · exact .pair (.useSlot hk)

theorem State.Stores.reselect {op : Option Nat} {t : Nat} {bad : List Nat} (hk : s₀.Stores s) : s₀.Stores (s.reselect op t bad) := by
  unfold State.reselect
  split
  · exact .bumpBy hk
  · exact .bumpBy (.update hk)

theorem State.Stores.readStripe {ext : Ext} {op : Option Nat} {cls region sheaf : Nat} {me : Region} {sh : Sheaf} {t : Nat}
    {order : List Nat} {n : Nat} {l : List Nat} {x : Tab MemRd} (hk : s₀.Stores s) :
    s₀.Stores (s.readStripe ext op cls region sheaf me sh t order n l x).2 := by
  induction n generalizing s l x with
  | zero => exact hk
  | succ n ih =>
    unfold State.readStripe
    extract_lets
    split
    · exact hk
    · split
      · exact .pair (.readMembers hk)
      · split
        · exact .pair (.readMembers hk)
        · exact .ite_snd (ih (.reselect (.readMembers hk)))
            (.ite_snd (.pair (.readMembers (.readMembers hk)))
              (.ite_snd (ih (.reselect (.readMembers (.readMembers hk))))
                (.ite_snd (.pair (.readMembers (.readMembers hk))) (.solveStripe (.readMembers (.readMembers hk))))))

theorem State.Stores.decodeStripe {ext : Ext} {op : Option Nat} {cls region : Nat} {r : Region} {sh : Sheaf} {t : Nat}
    {order excl : List Nat} (hk : s₀.Stores s) : s₀.Stores (s.decodeStripe ext op cls region r sh t order excl).2 := .readStripe hk

theorem State.Stores.targetTile {ext : Ext} {op : Option Nat} {cls region : Nat} {r : Region} {sh : Sheaf} {target t : Nat}
    (hk : s₀.Stores s) : s₀.Stores (s.targetTile ext op cls region r sh target t).2 := by
  unfold State.targetTile
  split
  · exact hk
  · split
    · exact .ite_snd (.pair (.snd ‹_› (.decodeStripe hk))) (.pair (.snd ‹_› (.decodeStripe hk)))
    · exact .pair (.snd ‹_› (.decodeStripe hk))
    · exact .pair (.snd ‹_› (.decodeStripe hk))
    · exact .pair (.snd ‹_› (.decodeStripe hk))

theorem State.Stores.buildValue {ext : Ext} {op : Option Nat} {cls j : Nat} {r : Region} {sh : Sheaf} {t : Nat} (hk : s₀.Stores s) :
    s₀.Stores (s.buildValue ext op cls j r sh t).2 := by
  unfold State.buildValue
  split
  · exact .targetTile hk
  · split
    · split <;> exact .pair (.snd ‹_› (.xorTiles (.snd ‹_› (.decodeStripe hk))))
    · exact .pair (.snd ‹_› (.decodeStripe hk))
    · exact .pair (.snd ‹_› (.decodeStripe hk))
    · exact .pair (.snd ‹_› (.decodeStripe hk))

theorem State.Stores.acceptBuild {j t : Nat} {v : List Byte} (hk : s₀.Stores s) : s₀.Stores (s.acceptBuild j t v) := by
  unfold State.acceptBuild
  split
  · exact hk
  · exact .update (.putTile hk)

theorem State.Stores.repairValue {ext : Ext} {j : Nat} {r : Region} {t : Nat} (hk : s₀.Stores s) : s₀.Stores (s.repairValue ext j r t).2 := by
  unfold State.repairValue
  split
  · exact hk
  · split
    · split <;> exact .pair (.snd ‹_› (.buildValue hk))
    · split
      · exact hk
      · split
        · exact .xorTiles (.snd ‹_› (.targetTile hk))
        · exact .pair (.snd ‹_› (.targetTile hk))

theorem State.Stores.readTile {ext : Ext} {j : Nat} {r : Region} {t : Nat} (hk : s₀.Stores s) : s₀.Stores (s.readTile ext j r t).2 := by
  unfold State.readTile
  split
  · exact .pair (.snd ‹_› (.readPlain hk))
  · split
    · split
      · exact .pair (.giveUp (.snd ‹_› (.readPlain hk)))
      · split
        · exact .pair (.bumpBy (.acceptBuild (.snd ‹_› (.buildValue (.snd ‹_› (.readPlain hk))))))
        · exact .pair (.giveUp (.snd ‹_› (.buildValue (.snd ‹_› (.readPlain hk)))))
    · split
      · exact .pair (.bump (.repairTile (.snd ‹_› (.repairValue (.snd ‹_› (.readPlain hk))))))
      · exact .pair (.giveUp (.snd ‹_› (.repairValue (.snd ‹_› (.readPlain hk)))))

theorem State.Stores.viewTile {ext : Ext} {j : Nat} {r : Region} {view t : Nat} (hk : s₀.Stores s) :
    s₀.Stores (s.viewTile ext j r view t).2 := by
  unfold State.viewTile
  split
  · exact .pair (.snd ‹_› (.readTile hk))
  · exact .ite_snd (.pair (.snd ‹_› (.readTile hk)))
      (.ite_snd (.xorTiles (.snd ‹_› (.readTile hk))) (.xorTiles (.snd ‹_› (.readTile hk))))

end

end Sys2Proof.Machine
end

section
/-! SUPPORT. The write tap: it writes to memory only the writes that it performs, and parked deltas. -/

namespace Sys2Proof.Machine

section
variable {s₀ s : State}

theorem State.Stores.release {j t : Nat} {r : Region} {whole : Bool} {v : List Byte} (hk : s₀.Stores s) :
    s₀.Stores (s.release j t r whole v) := by
  unfold State.release
  extract_lets _ s1
  have h1 : s₀.Stores s1 := .ite (.putTile hk) (.putPart hk)
  exact .ite (.update h1) (.update h1)

theorem State.Stores.writeError {agent : Nat} {op : Option Nat} {tile : Nat} (hk : s₀.Stores s) : s₀.Stores (s.writeError agent op tile) := by
  unfold State.writeError
  split
  · split
    · exact .update hk
    · exact hk
  · exact .update hk

theorem State.Stores.refuseWrite {h : Held} {tile : Nat} (hk : s₀.Stores s) : s₀.Stores (s.refuseWrite h tile) := .writeError (.update hk)

theorem State.Stores.setDirty {r : Region} {g v : Nat} (hk : s₀.Stores s) : s₀.Stores (s.setDirty r g v) := by
  unfold State.setDirty
  split
  · exact .update hk
  · exact hk

theorem State.Stores.track {j t : Nat} {first : Bool} (hk : s₀.Stores s) : s₀.Stores (s.track j t first) := by
  unfold State.track
  extract_lets
  split
  · exact .update hk
  · exact .ite (.update hk) hk

theorem State.Stores.addNorm {j n : Nat} {x : Nat × Nat} (hk : s₀.Stores s) : s₀.Stores (s.addNorm j n x) := .ite hk (.update hk)

theorem State.Stores.handOff {k : Nat} (hk : s₀.Stores s) : s₀.Stores (s.handOff k) := by
  unfold State.handOff
  extract_lets
  split
  · exact hk
  · split
    · exact .freeSlot hk
    · exact .ite (.bump (.freeSlot hk)) (.update hk)

theorem State.Stores.slotClosed {k : Nat} (hk : s₀.Stores s) : s₀.Stores (s.slotClosed k) := by
  unfold State.slotClosed
  split
  · exact hk
  · split
    · exact .freeSlot hk
    · extract_lets _ _ _ s2
      have h2 : s₀.Stores s2 := by
        unfold s2
        split
        · exact .ite (.addNorm (.update hk)) (.update hk)
        · exact .update hk
      exact .ite (.freeSlot h2) (.handOff h2)

theorem State.Stores.closeSlot {k : Nat} (hk : s₀.Stores s) : s₀.Stores (s.closeSlot k) := by
  unfold State.closeSlot
  split
  · exact hk
  · exact .ite hk (.ite (.slotClosed (.update hk)) (.bump (.update hk)))

theorem State.Stores.logWrite {r : Region} {d : Delta} {m : BitVec 64} (hk : s₀.Stores s) : s₀.Stores (s.logWrite r d m) := by
  unfold State.logWrite
  split
  · exact hk
  · split
    · exact hk
    · exact .putTile hk

theorem State.Stores.takeDelta {h : Held} {k : Nat} {r : Region} (hk : s₀.Stores s) : s₀.Stores (s.takeDelta h k r) := by
  unfold State.takeDelta
  extract_lets _ _ _ _ s2
  have h2 : s₀.Stores s2 := by
    unfold s2
    split
    · extract_lets _ a
      have ha : s₀.Stores a := .track (.setDirty (.ite (.logWrite (.update hk)) (.update hk)))
      exact .ite (.ite (.addNorm ha) ha) (.update hk)
    · exact .update hk
  split
  · exact .ite (.closeSlot (.update h2)) (.update h2)
  · exact .update h2

theorem State.Stores.quietRefuse {h : Held} {r : Region} (hk : s₀.Stores s) : s₀.Stores (s.quietRefuse h r) := .event (.bump (.refuseWrite hk))

theorem State.StoresAll.askOnce {j t : Nat} (hk : s₀.Stores s) : s₀.StoresAll (s.askOnce j t) := by
  unfold State.askOnce
  split
  · exact .none
  · exact .some (.cbwEngine hk)

theorem State.StoresAll.meetSlot {h : Held} {r : Region} (hk : s₀.Stores s) : s₀.StoresAll (s.meetSlot h r) := by
  unfold State.meetSlot
  extract_lets
  split
  · exact .some (.quietRefuse hk)
  · split
    · exact .askOnce hk
    · split
      · split
        · exact .some (.takeDelta hk)
        · split
          · exact .none
          · exact .some (.closeSlot hk)
      · split
        · exact .none
        · split
          · exact .none
          · split
            · exact .some (.bump (.update hk))
            · exact .some (.takeDelta (.update hk))

theorem State.Stores.beginCapture {h : Held} {r : Region} (hk : s₀.Stores s) : s₀.Stores (s.beginCapture h r) :=
  .ite (.quietRefuse hk) (.update (.bumpBy (.update hk)))

theorem State.Stores.plainRelease {h : Held} {r : Region} (hk : s₀.Stores s) : s₀.Stores (s.plainRelease h r) :=
  .update (.release (.ite (.bumpBy hk) hk))

theorem State.StoresAll.moveCapture {h : Held} {r : Region} (hk : s₀.Stores s) : s₀.StoresAll (s.moveCapture h r) := by
  unfold State.moveCapture
  split
  · exact .none
  · split
    · exact .some (.beginCapture hk)
    · exact .meetSlot hk
    · exact .none
    · exact .none
    · exact .none
    · exact .none

theorem State.StoresAll.moveHeld {h : Held} (hk : s₀.Stores s) : s₀.StoresAll (s.moveHeld h) := by
  unfold State.moveHeld
  split
  · exact .none
  · extract_lets
    split
    · exact .some (.bump (.refuseWrite hk))
    · split
      · split
        · split
          · exact .moveCapture hk
          · exact .some (.cbwAsk hk)
        · exact .some (.update (.bump (.cbwAsk hk)))
      · split
        · exact .some (.update (.bumpBy hk))
        · exact .moveCapture hk

theorem State.Stores.releasePart {h : Held} (hk : s₀.Stores s) : s₀.Stores (s.releasePart h) := by
  unfold State.releasePart
  split
  · exact .update (.ite (.writeLoose hk) hk)
  · exact .ite (.plainRelease hk) (.update (.release hk))

theorem State.StoresAll.releaseMove (hk : s₀.Stores s) : s₀.StoresAll (s.releaseMove) := by
  unfold State.releaseMove
  split
  · exact .some (.foldl hk fun _ _ g => .releasePart g)
  · exact .none

theorem State.Stores.arrivePart {gid : Nat} {q : Queued} {j : Nat} {r : Region} {t off : Nat} {v : List (Option Byte)} (hk : s₀.Stores s) :
    s₀.Stores (s.arrivePart gid q j r t off v) := by
  unfold State.arrivePart
  extract_lets
  exact .ite (.event (.bump (.writeError hk))) (.ite (.bump (.writeError hk)) (.ite (.bump (.update hk)) (.update hk)))

theorem State.Stores.arriveParts {gid : Nat} {q : Queued} {l : List (Nat × Nat × List (Option Byte))} (hk : s₀.Stores s) :
    s₀.Stores (s.arriveParts gid q l) := by
  induction l generalizing s with
  | nil => exact hk
  | cons x l ih =>
    unfold State.arriveParts
    split
    · exact ih (.update hk)
    · exact ih (.arrivePart hk)

theorem State.Stores.expirePair {tile : Nat} (hk : s₀.Stores s) : s₀.Stores (s.expirePair tile) := by
  unfold State.expirePair
  extract_lets
  split
  · exact .ite (.ite (.update hk) (.bump (.update hk))) hk
  · exact hk

theorem State.StoresAll.admitMove (hk : s₀.Stores s) : s₀.StoresAll (s.admitMove) := by
  unfold State.admitMove
  split
  · exact .none
  · extract_lets _ s1
    have h1 : s₀.Stores s1 := .foldl (.update hk) fun _ _ g => .expirePair g
    split
    · exact .none
    · exact .some (.arriveParts h1)

theorem State.StoresAll.tapMove (hk : s₀.Stores s) : s₀.StoresAll s.tapMove := by
  unfold State.tapMove
  split
  · exact .some (.of_some ‹_› (.repairMove hk))
  · split
    next he =>
      obtain ⟨w, _, hw⟩ := List.exists_of_findSome?_eq_some he
      exact .some (.of_some hw (.moveHeld hk))
    next =>
      split
      · exact .some (.of_some ‹_› (.releaseMove hk))
      · exact .admitMove hk

theorem State.Stores.settleTap {n : Nat} (hk : s₀.Stores s) : s₀.Stores (State.settleTap n s) := by
  induction n generalizing s with
  | zero => exact hk
  | succ n ih =>
    unfold State.settleTap
    split
    · exact ih (.of_some ‹_› (.tapMove hk))
    · exact hk

theorem State.Stores.formMsgs {k : Nat} {d : Delta} (hk : s₀.Stores s) : s₀.Stores (s.formMsgs k d) :=
  .ite (.freeSlot (.update hk)) (.bumpBy (.update hk))

theorem State.Stores.assign {n : Nat} (hk : s₀.Stores s) : s₀.Stores (State.assign n s) := by
  induction n generalizing s with
  | zero => exact hk
  | succ n ih =>
    unfold State.assign
    split
    · exact ih (.formMsgs hk)
    · exact hk

theorem State.Stores.parkDelta {k : Nat} {d : Delta} (hk : s₀.Stores s) : s₀.Stores (s.parkDelta k d) := by
  unfold State.parkDelta
  extract_lets _ s1 _ s2
  have h1 : s₀.Stores s1 := .stackWrite (.freeSlot hk)
  have h2 : s₀.Stores s2 := .bump (.update h1)
  exact .foldl h2 fun _ _ g => .bump (.freeSlot g)

theorem State.Stores.parkLoop {n : Nat} (hk : s₀.Stores s) : s₀.Stores (State.parkLoop n s) := by
  induction n generalizing s with
  | zero => exact hk
  | succ n ih =>
    unfold State.parkLoop
    extract_lets
    split
    · exact hk
    · split
      · exact hk
      · exact .ite (ih (.parkDelta hk)) (.bumpBy (.update hk))

end

end Sys2Proof.Machine
end

section
/-! SUPPORT. READ service and the ends of closes, fences, confirms and rollbacks: with these, all that follows a command only writes bytes. -/

namespace Sys2Proof.Machine

section
variable {s₀ s : State}

theorem State.Stores.dataHdr {h : Hdr} {r : Option Region} (hk : s₀.Stores s) : s₀.Stores (s.dataHdr h r).2 := by
  unfold State.dataHdr
  extract_lets
  split
  · exact hk
  · exact .pair (.freshNat hk)

theorem State.Stores.countAnswer {h : Hdr} {since : Nat} (hk : s₀.Stores s) : s₀.Stores (s.countAnswer h since) :=
  .ite hk (.ite (.bump (.bump hk)) (.bump hk))

theorem State.Stores.refuseRead {src : Nat} {h : Hdr} {r : Option Region} {since st : Nat} (hk : s₀.Stores s) :
    s₀.Stores (s.refuseRead src h r since st) := .countAnswer (.update (.dataHdr hk))

theorem State.Stores.answerRead {src : Nat} {h : Hdr} {r : Region} {since : Nat} {v : List Byte} (hk : s₀.Stores s) :
    s₀.Stores (s.answerRead src h r since v) := .countAnswer (.update (.dataHdr hk))

theorem State.StoresAll.armMap {j : Nat} {r : Region} (hk : s₀.Stores s) : s₀.StoresAll (s.armMap j r) := by
  unfold State.armMap
  split
  · exact .some (.update hk)
  · split
    · exact .none
    · exact .some (.update hk)

theorem State.Stores.readRegion {ext : Ext} {src : Nat} {v : List Byte} {h : Hdr} {since j : Nat} {r : Region} {view : Nat}
    (hk : s₀.Stores s) : s₀.Stores (s.readRegion ext src v h since j r view) := by
  unfold State.readRegion
  extract_lets
  split
  · split
    · exact .refuseRead hk
    · extract_lets s2
      have h2 : s₀.Stores s2 := .ite (.update (.of_some ‹_› (.armMap hk))) (.of_some ‹_› (.armMap hk))
      split
      · split
        · exact .answerRead (.of_some ‹_› (.armMap hk))
        · exact .of_some ‹_› (.armMap hk)
      · split
        · exact .answerRead (.snd ‹_› (.viewTile h2))
        · exact .refuseRead (.snd ‹_› (.viewTile h2))
  · split
    · exact .update hk
    · split
      · exact .answerRead (.snd ‹_› (.viewTile hk))
      · exact .refuseRead (.snd ‹_› (.viewTile hk))

theorem State.Stores.serveRead {ext : Ext} {src : Nat} {v : List Byte} {since : Nat} (hk : s₀.Stores s) :
    s₀.Stores (s.serveRead ext src v since) := by
  unfold State.serveRead
  extract_lets
  split
  · exact .refuseRead hk
  · extract_lets
    exact .ite (.refuseRead hk)
      (.ite (.refuseRead hk)
        (.ite (.refuseRead hk)
          (.ite (.bump hk)
            (.ite (.refuseRead hk)
              (.ite (.refuseRead hk)
                (.ite (.update hk)
                  (.ite (.ite (.refuseRead (.touchQuiet hk)) (.ite (.update (.touchQuiet hk)) (.readRegion (.touchQuiet hk))))
                    (.readRegion hk))))))))

theorem State.Stores.settleReads (hk : s₀.Stores s) : s₀.Stores (s.settleReads) := .foldl (.update hk) fun _ _ g => .serveRead g

theorem State.Stores.clearFails {m : Nat} (hk : s₀.Stores s) : s₀.Stores (s.clearFails m) := .foldl hk fun _ _ g => .update g

theorem State.Stores.remap {k code new : Nat} (hk : s₀.Stores s) : s₀.Stores (s.remap k code new) :=
  .foldl hk fun _ _ g => .foldl g fun _ _ g => .setDirty g

theorem State.Stores.retireMaps {n : Nat} (hk : s₀.Stores s) : s₀.Stores (State.retireMaps n s) := by
  induction n generalizing s with
  | zero => exact hk
  | succ n ih =>
    unfold State.retireMaps
    split
    · exact ih (.remap (.update hk))
    · exact ih (.remap (.update hk))
    · exact hk

theorem State.Stores.addRetire {l : List Retire} (hk : s₀.Stores s) : s₀.Stores (s.addRetire l) := .retireMaps (.update hk)

theorem State.Stores.confirmSet {n k : Nat} (hk : s₀.Stores s) : s₀.Stores (s.confirmSet n k) :=
  .addRetire (.update hk)

theorem State.Stores.fenceEnd {o : Op} (hk : s₀.Stores s) : s₀.Stores (s.fenceEnd o) := by
  unfold State.fenceEnd
  extract_lets _ _ _ s1
  have h1 : s₀.Stores s1 := .foldl hk fun _ _ g => .confirmSet g
  exact .ite (.finish (.clearFails hk)) (.ite (.finish hk) (.finish h1))

theorem State.Stores.settleFences (hk : s₀.Stores s) : s₀.Stores (s.settleFences) := by
  unfold State.settleFences
  refine .foldl hk fun _ _ g => ?_
  split
  · split
    · exact .ite (.fenceEnd g) g
    · exact g
  · exact g

theorem State.Stores.closeSlots {p : Delta → Bool} (hk : s₀.Stores s) : s₀.Stores (s.closeSlots p) := .foldl hk fun _ _ g => .closeSlot g

theorem State.Stores.closeStep {o : Op} {since : Nat} (hk : s₀.Stores s) : s₀.Stores (s.closeStep o since) := by
  unfold State.closeStep
  extract_lets _ _ _ s2
  have h2 : s₀.Stores s2 := .foldl (.closeSlots hk) fun _ _ g => .update g
  exact .ite hk (.ite (.closeSlots hk) (.finish h2))

theorem State.Stores.settleCloses (hk : s₀.Stores s) : s₀.Stores (s.settleCloses) := by
  unfold State.settleCloses
  refine .foldl hk fun _ _ g => ?_
  split
  · exact .ite (.closeStep g) g
  · exact g

theorem State.Stores.rollRetire {o : Op} (hk : s₀.Stores s) : s₀.Stores (s.rollRetire o) :=
  .foldl hk fun _ _ g => .addRetire (.foldl g fun _ _ g => .update g)

theorem State.Stores.settleDrains (hk : s₀.Stores s) : s₀.Stores (s.settleDrains) := .foldl hk fun _ _ g => .ite (.finish (.rollRetire g)) g

theorem State.Stores.tapRound (hk : s₀.Stores s) : s₀.Stores (s.tapRound) := .parkLoop (.assign (.endWaits (.settleTap hk)))

theorem State.Stores.settle (hk : s₀.Stores s) : s₀.Stores (s.settle) :=
  .settleReads (.settleDrains (.settleFences (.tapRound (.settleCloses (.tapRound (.tapRound hk))))))

end

end Sys2Proof.Machine
end

section
/-! The statement of NORM_REDUCE and NORM_CELL_POLL: O23. Its clause for the add to ARRIVED takes the address of the word in 64 bits and more:
a cell at the end of the address range has it at 2^64, where the statement reads memory and the add, which wraps to the stack's byte 0, does not
write. -/

namespace Sys2Proof.Machine

/-- A NORM_REDUCE numbered 4 that polls its cell at 2^64 - 176 and has still to add to ARRIVED. -/
def reduceAtTheEnd : Op :=
  { id := 4, ring := 0, desc := [0x53#8] ++ zeros 23 ++ [0x50#8] ++ List.replicate 7 0xFF#8 ++ zeros 32, bank := 0, boot := false, st := .running
    started := true, stage := .polling, cursor := 0, result := 0, aux := 0, pc := 0, regs := [], slots := [], bufs := 0, part := 0, refs := []
    note := [], got := [], hold := 0, control := none, resv := false }

/-- The address of its ARRIVED, as the statement takes it. -/
theorem reduceAtTheEnd_arrived : reduceAtTheEnd.arg 24 8 + 176 = 2 ^ 64 := by decide +kernel

/-- The reset state of node 0 with that operation, and with the byte at 2^64 listed as 0. -/
def pollAtTheEnd : State := { State.reset with mem := [(2 ^ 64, 0#8)], ops := [reduceAtTheEnd] }

theorem pollAtTheEnd_waiting : pollAtTheEnd.waiting 4 0x53 = some reduceAtTheEnd := by decide +kernel

/-- The poll adds to ARRIVED. -/
theorem pollAtTheEnd_arrives : exec (.normCellPoll 4 []) pollAtTheEnd = .next (pollAtTheEnd.arrive 4).settle := by
  show execNormCellPoll 4 [] pollAtTheEnd = _
  rw [execNormCellPoll, pollAtTheEnd_waiting]
  rfl

/-- The byte at 2^64 is still listed as 0 afterwards. -/
theorem pollAtTheEnd_listed : (2 ^ 64, (0#8 : Byte)) ∈ (pollAtTheEnd.arrive 4).settle.mem := by decide +kernel

theorem byteAt_pollAtTheEnd : byteAt (pollAtTheEnd.arrive 4).settle.mem (2 ^ 64) = 0#8 := by decide +kernel

/-- Numbers read from memory have the first byte as their remainder modulo 256. -/
theorem leNat_memRead_mod (m : Tab Byte) (a n : Nat) : leNat (memRead m a (n + 1)) % 256 = (byteAt m a).toNat := by
  rw [memRead, List.range_succ_eq_map, List.map_cons, leNat, Nat.add_mul_mod_self_left, Nat.add_zero]
  exact Nat.mod_eq_of_lt (byteAt m a).isLt

/-- Refutes O23: no state that the moves after the poll take to its outcome has a 1 at 2^64, as the clause asks, because those moves only write
bytes and the outcome lists a 0 there. -/
theorem not_normReduceAddsAndPolls : ¬ Obligations.NormReduceAddsAndPolls := by
  rintro ⟨-, hpoll, -⟩
  obtain ⟨u, hu, -, harrived, -⟩ := hpoll pollAtTheEnd 4 [] reduceAtTheEnd pollAtTheEnd_waiting rfl (by decide +kernel) (by decide +kernel)
    (by decide +kernel) (by decide +kernel) (by decide +kernel) rfl rfl
  rw [reduceAtTheEnd_arrived] at harrived
  have hsettle : (pollAtTheEnd.arrive 4).settle = u.settle := Host.Outcome.next.inj (pollAtTheEnd_arrives.symm.trans hu)
  have hzero : byteAt u.mem (2 ^ 64) = 0#8 := by
    have hstores : u.Stores u.settle := .settle (.refl u)
    rw [← (hstores.listed_zero (hsettle ▸ pollAtTheEnd_listed)).2, ← hsettle, byteAt_pollAtTheEnd]
  have hold : leNat (memRead pollAtTheEnd.mem (2 ^ 64) 8) = 0 := by decide +kernel
  have hmod := leNat_memRead_mod u.mem (2 ^ 64) 7
  rw [harrived, hold, hzero] at hmod
  exact absurd hmod (by decide)

end Sys2Proof.Machine
end

section
/-! SUPPORT. What the reads of an operation and its waits leave of the operations (R206, R210, R334): each keeps all but the answers and the
numbers that it notes. -/

namespace Sys2Proof.Machine

/-- An operation without the answers and the numbers that it keeps. -/
def Op.bare (o : Op) : Op := { o with got := [], note := [] }

/-- `t` has the operations of `s₀`, but for the answers and the numbers that they keep. -/
def State.NotesOnly (s₀ t : State) : Prop := t.ops.map Op.bare = s₀.ops.map Op.bare

section
variable {s₀ s t : State}

theorem State.NotesOnly.refl (s : State) : s.NotesOnly s := rfl

theorem State.NotesOnly.of_ops (hk : s₀.NotesOnly s) (h : t.ops = s.ops) : s₀.NotesOnly t := by
  unfold State.NotesOnly
  rw [h]
  exact hk

/-- Reads for no operation leave all operations as they are. -/
theorem State.NotesOnly.of_reads (hk : s₀.NotesOnly s) (h : s.Reads t) : s₀.NotesOnly t := hk.of_ops h.1

theorem State.NotesOnly.ite {c : Prop} [Decidable c] (hk : s₀.NotesOnly s) (g : s₀.NotesOnly t) : s₀.NotesOnly (if c then s else t) := by
  split
  · exact hk
  · exact g

theorem State.NotesOnly.ite_snd {α : Type} {c : Prop} [Decidable c] {p q : α × State} (hp : s₀.NotesOnly p.2) (hq : s₀.NotesOnly q.2) :
    s₀.NotesOnly (if c then p else q).2 := by
  split
  · exact hp
  · exact hq

/-- The state of a pair, under the pair's name for it. -/
theorem State.NotesOnly.snd {α : Type} {p : α × State} {x : α} (e : p = (x, t)) (hk : s₀.NotesOnly p.2) : s₀.NotesOnly t := by
  subst e
  exact hk

theorem State.NotesOnly.modOp {id : Nat} {f : Op → Op} (hf : ∀ o, (f o).bare = o.bare) (hk : s₀.NotesOnly s) :
    s₀.NotesOnly (s.modOp id f) := by
  refine Eq.trans ?_ hk
  rw [State.modOp, List.map_map]
  refine List.map_congr_left fun o _ => ?_
  rw [Function.comp_apply]
  split
  · exact hf o
  · rfl

/-- An operation is found as before under its number. -/
theorem State.NotesOnly.op? {id : Nat} {o : Op} (hk : s.NotesOnly t) (ho : s.op? id = some o) : ∃ x, t.op? id = some x ∧ x.bare = o.bare := by
  have hfind : ∀ u : State, (u.op? id).map Op.bare = (u.ops.map Op.bare).find? (fun o => o.id == id) := fun u => by
    rw [List.find?_map]
    rfl
  have hsame : (t.op? id).map Op.bare = some o.bare := by
    rw [hfind, hk, ← hfind, ho]
    rfl
  exact Option.map_eq_some_iff.mp hsame

theorem Op.slots_of_bare {o x : Op} (h : x.bare = o.bare) : x.slots = o.slots :=
  (congrArg Op.slots h : x.bare.slots = o.bare.slots)
theorem Op.desc_of_bare {o x : Op} (h : x.bare = o.bare) : x.desc = o.desc :=
  (congrArg Op.desc h : x.bare.desc = o.bare.desc)

theorem Op.arg_of_bare {o x : Op} (h : x.bare = o.bare) (off n : Nat) : x.arg off n = o.arg off n := by
  rw [Op.arg, Op.desc_of_bare h, Op.arg]
theorem Op.opcode_of_bare {o x : Op} (h : x.bare = o.bare) : x.opcode = o.opcode := by
  rw [Op.opcode, Op.desc_of_bare h, Op.opcode]

/-- As many operations are configuration changes as before. -/
theorem State.NotesOnly.changes_eq (hk : s.NotesOnly t) : changes t.ops = changes s.ops := by
  have hbare : ∀ l : List Op, changes l = (l.map Op.bare).countP (fun o => o.configChange) := fun l => by
    rw [List.countP_map]
    rfl
  rw [hbare, hk, ← hbare]

/-! ## Answers for an operation (R206, R210) -/

theorem State.NotesOnly.putGot {id i view stripe : Nat} {x : MemRd} (hk : s₀.NotesOnly s) : s₀.NotesOnly (s.putGot id i view stripe x) := by
  unfold State.putGot
  extract_lets g
  have hg : ∀ st v n, s₀.NotesOnly (g st v n) := fun _ _ _ => .modOp (fun _ => rfl) hk
  split
  · exact hg _ _ _
  · exact hg _ _ _
  · exact hg _ _ _
  · exact hk

theorem State.NotesOnly.askMember {id cls view sheaf stripe job src epoch i : Nat} {x : Member} (hk : s₀.NotesOnly s) :
    s₀.NotesOnly (s.askMember id cls view sheaf stripe job src epoch i x).2 := by
  unfold State.askMember
  split
  · exact hk
  · extract_lets
    split
    · exact hk
    · split
      · exact hk
      · split
        · exact hk.of_reads (State.Reads.refl s).issueRead
        · exact hk

theorem State.NotesOnly.readMember {ext : Ext} {op : Option Nat} {cls view sheaf : Nat} {me : Region} {i t : Nat} {x : Member}
    (hk : s₀.NotesOnly s) : s₀.NotesOnly (s.readMember ext op cls view sheaf me i t x).2 := by
  cases op with
  | none => exact hk.of_reads (State.Reads.refl s).readMember
  | some id =>
    unfold State.readMember
    dsimp only
    split
    · split
      · exact hk
      · exact .putGot (hk.of_reads (State.Reads.refl s).readOwnMember)
    · exact .askMember hk

theorem State.NotesOnly.readMembers {ext : Ext} {op : Option Nat} {cls sheaf : Nat} {sh : Sheaf} {me : Region} {t : Nat} {l : List Nat}
    {c : Tab MemRd} (hk : s₀.NotesOnly s) : s₀.NotesOnly (s.readMembers ext op cls sheaf sh me t l c).2 := by
  induction l generalizing s c with
  | nil => exact hk
  | cons i l ih =>
    unfold State.readMembers
    split
    · exact ih hk
    · split
      · exact ih hk
      · exact ih (.readMember hk)

/-! ## Decodes and builds for an operation (R209, R216) -/

theorem State.NotesOnly.useSlot {op : Option Nat} {d : DecSlot} (hk : s₀.NotesOnly s) : s₀.NotesOnly (s.useSlot op d) := by
  unfold State.useSlot
  extract_lets
  split
  · exact hk
  · split
    · exact hk
    · exact hk.of_ops (State.bump_ops _ _)

theorem State.NotesOnly.solveStripe {op : Option Nat} {region : Nat} {me : Region} {sh : Sheaf} {t : Nat} {sel : List Nat} {c : Tab MemRd}
    (hk : s₀.NotesOnly s) : s₀.NotesOnly (s.solveStripe op region me sh t sel c).2 := by
  unfold State.solveStripe
  extract_lets
  split
  · exact hk
  · split
    · exact hk
    · exact .useSlot hk

theorem State.NotesOnly.reselect {op : Option Nat} {t : Nat} {bad : List Nat} (hk : s₀.NotesOnly s) : s₀.NotesOnly (s.reselect op t bad) := by
  unfold State.reselect
  split
  · exact hk.of_ops (State.bumpBy_ops _ _ _)
  next id =>
    extract_lets is n
    have hmark : s₀.NotesOnly (s.modOp id fun o => { o with got := o.got.map fun g => if is g then { g with noted := true } else g }) :=
      .modOp (fun _ => rfl) hk
    exact hmark.of_ops (State.bumpBy_ops _ _ _)

theorem State.NotesOnly.readStripe {ext : Ext} {op : Option Nat} {cls region sheaf : Nat} {me : Region} {sh : Sheaf} {t : Nat}
    {order : List Nat} {n : Nat} {excl : List Nat} {c : Tab MemRd} (hk : s₀.NotesOnly s) :
    s₀.NotesOnly (s.readStripe ext op cls region sheaf me sh t order n excl c).2 := by
  induction n generalizing s excl c with
  | zero => exact hk
  | succ n ih =>
    unfold State.readStripe
    extract_lets _ _ _ _ _ q _ _ _ p
    have hq : s₀.NotesOnly q.2 := .readMembers hk
    have hp : s₀.NotesOnly p.2 := .readMembers hq
    split
    · exact hk
    · split
      · exact hq
      · split
        · exact hq
        · exact .ite_snd (ih (.reselect hq)) (.ite_snd hp (.ite_snd (ih (.reselect hp)) (.ite_snd hp (.solveStripe hp))))

theorem State.NotesOnly.decodeStripe {ext : Ext} {op : Option Nat} {cls region : Nat} {r : Region} {sh : Sheaf} {t : Nat}
    {order excl : List Nat} (hk : s₀.NotesOnly s) : s₀.NotesOnly (s.decodeStripe ext op cls region r sh t order excl).2 := .readStripe hk

theorem State.NotesOnly.targetTile {ext : Ext} {op : Option Nat} {cls region : Nat} {r : Region} {sh : Sheaf} {target t : Nat}
    (hk : s₀.NotesOnly s) : s₀.NotesOnly (s.targetTile ext op cls region r sh target t).2 := by
  unfold State.targetTile
  split
  · exact hk
  · split
    · exact .ite_snd (.snd ‹_› (.decodeStripe hk)) (.snd ‹_› (.decodeStripe hk))
    all_goals exact .snd ‹_› (.decodeStripe hk)

theorem State.NotesOnly.buildValue {ext : Ext} {op : Option Nat} {cls j : Nat} {r : Region} {sh : Sheaf} {t : Nat} (hk : s₀.NotesOnly s) :
    s₀.NotesOnly (s.buildValue ext op cls j r sh t).2 := by
  unfold State.buildValue
  split
  · exact .targetTile hk
  · split
    next hdecode =>
      have h1 := State.NotesOnly.snd hdecode (.decodeStripe hk)
      split <;> exact .snd ‹_› (h1.of_reads (State.Reads.refl _).xorTiles)
    all_goals exact .snd ‹_› (.decodeStripe hk)

/-! ## The units of a walk (R210, R212) -/

theorem State.NotesOnly.freshTries {op : Nat} (hk : s₀.NotesOnly s) : s₀.NotesOnly (s.freshTries op) := .modOp (fun _ => rfl) hk

theorem State.NotesOnly.freshEpoch {op epoch : Nat} (hk : s₀.NotesOnly s) : s₀.NotesOnly (s.freshEpoch op epoch) := by
  unfold State.freshEpoch
  split
  · exact hk
  · have hempty : s₀.NotesOnly (s.modOp op fun o => { o.keep nkEpoch (epoch + 1) with got := [] }) := .modOp (fun _ => rfl) hk
    exact .ite hk (hempty.of_ops rfl)

/-! ## Words that wait no longer (R334) -/

theorem State.NotesOnly.unpark {id : Nat} {f : Op → Op} (hf : ∀ o, (f o).bare = o.bare) (hk : s₀.NotesOnly s) :
    s₀.NotesOnly (s.unpark id f) := by
  refine (State.NotesOnly.modOp (id := id) hf hk).of_ops ?_
  unfold State.unpark State.makeReady
  split <;> rfl

end

end Sys2Proof.Machine
end

section
/-! SUPPORT. Walks of one unit, and what the operation of a walk keeps under a new epoch of its region (R212). -/

namespace Sys2Proof.Machine

/-- A walk of one unit does with its state what the unit does, from whatever state with its CURSOR. -/
theorem State.walk_one_congr {op last : Nat} {f g : Nat → State → Walk} {s w : State} {o x : Op} (ho : s.op? op = some o)
    (hx : w.op? op = some x) (hcursor : x.cursor = o.cursor) (hmore : o.cursor < last) (h : f o.cursor s = g o.cursor w) :
    State.walk op last f 1 s = State.walk op last g 1 w := by
  simp only [State.walk, State.walkBy, ho, hx, hcursor, Option.map_some, Option.getD_some, if_neg (not_le.mpr hmore), h]

/-- Under a new epoch an operation keeps its place and the unit whose writes are issued. -/
theorem State.op?_freshEpoch {s : State} {op : Nat} {o : Op} (epoch : Nat) (ho : s.op? op = some o) :
    ∃ x, (s.freshEpoch op epoch).op? op = some x ∧ x.cursor = o.cursor ∧ x.n nkIssued = o.n nkIssued := by
  unfold State.freshEpoch
  rw [ho]
  dsimp only
  split
  · exact ⟨o, ho, rfl, rfl⟩
  · refine ⟨_, State.op?_modOp_self (f := fun o => { o.keep nkEpoch (epoch + 1) with got := [] }) ho fun _ => rfl, rfl, ?_⟩
    exact congrArg (fun n => n.getD 0) (Tab.get_set_ne o.note nkEpoch nkIssued (epoch + 1) (by decide))

theorem State.laneReady_freshEpoch (s : State) (op epoch : Nat) : (s.freshEpoch op epoch).laneReady = s.laneReady := by
  unfold State.freshEpoch
  split
  · rfl
  · split <;> rfl

end Sys2Proof.Machine
end

section
/-! The statement of degraded reads: O25. A tile of a lost member is decoded and is a write of the operation's own (R209). -/

namespace Sys2Proof.Machine

/-- The statuses of a DEGRADED_READ are ones that a final record carries (R94). -/
theorem State.finalStatus_degradedStatus (s : State) (o : Op) : finalStatus (s.degradedStatus o) = s.degradedStatus o := by
  unfold State.degradedStatus
  dsimp only
  split
  · rfl
  · split
    · rfl
    · split
      · rfl
      · split
        · rfl
        · split_ifs <;> rfl

/-- A DEGRADED_READ that passes its checks names a region (R208). -/
theorem State.region_of_degradedStatus {s : State} {o : Op} (h : s.degradedStatus o = 0) : ∃ r, s.regions.get (o.arg 16 1) = some r := by
  cases hr : s.regions.get (o.arg 16 1) with
  | some r => exact ⟨r, rfl⟩
  | none =>
    simp only [State.degradedStatus, hr] at h
    split at h <;> cases h

/-- A tile goes to its place in the destination: in the own stack through the tap, elsewhere once its bucket holds it (R14, R364). -/
def State.putTarget (ext : Ext) (op dest : Nat) (v : List Byte) (u : State) : Walk :=
  let dst := dstKey (gNode dest) (gAgent dest)
  if writeStatus ext dest ≠ stOk then Walk.stop (writeStatus ext dest) u
  else if u.own dest then Walk.go ((u.engineWrite op dest v 0).freshTries op)
  else if !u.bucketOk dst 4096 then Walk.wait (u.putBucket (u.bucketNow dst))
  else Walk.go (((u.charge dst 4096).engineWrite op dest v 0).freshTries op)

/-- The place of tile t of a DEGRADED_READ (R208). -/
abbrev Op.place (o : Op) (t : Nat) : Nat := o.arg 28 8 + 4096 * (t - o.arg 20 4)

/-- A real tile of a member that is REMOVED or suspect is decoded, and its unit ends with its write (R209). -/
theorem State.degradedTile_of_lost {s : State} {ext : Ext} {op t : Nat} {o : Op} {r : Region} {sh : Sheaf} {x : Member}
    (hr : s.regions.get (o.arg 16 1) = some r) (hsh : s.sheafOf r = some sh) (hx : sh.mem? (o.arg 17 1) = some x) (hsame : o.sameMember r = true)
    (hreal : sh.virtual (o.arg 17 1) t = false) (hlost : x.st = .removed ∨ x.suspect = true) :
    s.degradedTile ext op o t = (s.freshEpoch op r.epoch).unitWrites op t
      (fun u => u.degradedDecode ext op (o.arg 16 1) r sh (o.arg 17 1) t (State.putTarget ext op (o.place t))) := by
  simp only [State.degradedTile, hr, hsh, hx, hsame, hreal, if_pos hlost, Bool.not_true, Bool.false_eq_true, if_false]
  rfl

/-- The unit of a DEGRADED_READ's walk at tile t. -/
def State.degradedUnit (ext : Ext) (op t : Nat) (s : State) : Walk :=
  match s.op? op with
  | some o => s.degradedTile ext op o t
  | none => .wait s

theorem State.degradedUnit_of_op {s : State} {op : Nat} {o : Op} (ho : s.op? op = some o) (ext : Ext) (t : Nat) :
    s.degradedUnit ext op t = s.degradedTile ext op o t := by
  rw [State.degradedUnit, ho]

/-- The state in which a decoded tile is counted and its write issued (R211). -/
def State.decoded (s : State) (op dest : Nat) (v : List Byte) : State :=
  (((s.bumpBy (rbldCnt 0) 1).modOp op (fun o => { o with result := o.result + 1 })).engineWrite op dest v 0).freshTries op

theorem State.degradedDecode_of_tile {s s1 : State} {ext : Ext} {op j target t dest : Nat} {r : Region} {sh : Sheaf} {v : List Byte}
    (hready : s.laneReady = true) (htile : s.targetTile ext (some op) 0 j r sh target t = (.tile v true, s1))
    (hwrite : writeStatus ext dest = stOk) (hown : s1.own dest = true) :
    s.degradedDecode ext op j r sh target t (State.putTarget ext op dest) = .go (s1.decoded op dest v) := by
  have hown' : ((s1.bumpBy (rbldCnt 0) 1).modOp op (fun o => { o with result := o.result + 1 })).own dest = true := by
    rw [← hown, State.own, State.own, State.modOp_strap, State.bumpBy_strap]
  simp [State.degradedDecode, hready, htile, State.putTarget, hwrite, bit, hown', State.decoded]

section
variable {s : State} {op dest : Nat} {v : List Byte}

theorem State.putDone_decoded (hstack : s.inStack dest v.length = true) :
    s.putDone (s.decoded op dest v) engineAgent (some op) (gOff dest) v := by
  have hput : ∀ u : State, u.inStack dest v.length = true → u.putDone (u.engineWrite op dest v 0) engineAgent (some op) (gOff dest) v := by
    intro u hu
    rw [State.engineWrite, (u.storeFor_does (some op) _ v 0).1 hu]
    exact u.putDone_putWrite _ _ _ _
  have hcounted : ((s.bumpBy (rbldCnt 0) 1).modOp op (fun o => { o with result := o.result + 1 })).inStack dest v.length = true := hstack
  exact (hput _ hcounted).congr rfl rfl

theorem State.op?_decoded {o : Op} (ho : s.op? op = some o) :
    ((s.decoded op dest v).op? op).map (fun x => x.result) = some (o.result + 1) := by
  have hcounted : ((s.bumpBy (rbldCnt 0) 1).modOp op (fun o => { o with result := o.result + 1 })).op? op =
      some { o with result := o.result + 1 } :=
    State.op?_modOp_self (f := fun o => { o with result := o.result + 1 }) (by rw [State.op?, State.bumpBy_ops]; exact ho) fun _ => rfl
  generalize hu : (s.bumpBy (rbldCnt 0) 1).modOp op (fun o => { o with result := o.result + 1 }) = u at hcounted
  have hwritten : (u.engineWrite op dest v 0).op? op = some { o with result := o.result + 1 } := by
    rw [State.op?, (u.engineWrite_keeps op dest v 0).1]
    exact hcounted
  rw [State.decoded, hu, State.freshTries,
    State.op?_modOp_self (f := fun o => { o with note := o.note.del nkTries, got := [] }) hwritten fun _ => rfl]
  rfl
end

section
variable {s : State} {op units : Nat} {ext : Ext} {o : Op} (hwork : s.work op 0x30 = some o)
include hwork

theorem execDegradedRead_of_passed {r : Region} (hstage : o.stage = .fresh) (hst : s.degradedStatus o = 0)
    (hr : s.regions.get (o.arg 16 1) = some r) : exec (.degradedRead op units ext) s = .next (s.modOp op (fun o =>
      { (o.keep nkSheaf (r.sheaf + 1)).keep nkMember (r.member + 1) with stage := .walking, cursor := o.arg 20 4 })) := by
  show execDegradedRead op units ext s = _
  simp [execDegradedRead, hwork, hstage, hst, hr]

theorem execDegradedRead_of_failed (hstage : o.stage = .fresh) (hst : s.degradedStatus o ≠ 0) :
    exec (.degradedRead op units ext) s = .next (s.fail o (s.degradedStatus o)) := by
  show execDegradedRead op units ext s = _
  simp [execDegradedRead, hwork, hstage, hst]

/-- A DEGRADED_READ at its tiles walks them, and ends with the count of those that it decoded (R209, R211). -/
theorem execDegradedRead_of_walking (hstage : o.stage = .walking) : exec (.degradedRead op units ext) s =
    .next (State.endWalk op (o.arg 20 4 + o.arg 24 4) (fun t x => t.finish x stOk x.cursor x.result 0)
      (State.walk op (o.arg 20 4 + o.arg 24 4) (State.degradedUnit ext op) (if o.st = .cancelling then 1 else units) s)) := by
  show execDegradedRead op units ext s = _
  simp [execDegradedRead, hwork, hstage]
  rfl
end

/-- Settles O25: a tile of a lost member is a decode, whose write, once issued, ends its unit as every write of an operation does. -/
theorem degradedReadDecodesTiles : Obligations.DegradedReadDecodesTiles := by
  refine ⟨fun s op units ext o hwork hstage => ?start, ?tile, fun s op units ext o hwork hstage hover => ?done⟩
  case start =>
    refine ⟨fun hst => ?passed, fun hst => ?failed⟩
    case passed =>
      obtain ⟨r, hr⟩ := State.region_of_degradedStatus hst
      refine ⟨_, execDegradedRead_of_passed hwork hstage hst hr, ?_, rfl, rfl⟩
      rw [State.op?_modOp_self (f := fun o => { (o.keep nkSheaf (r.sheaf + 1)).keep nkMember (r.member + 1) with
        stage := .walking, cursor := o.arg 20 4 }) (State.op?_of_work hwork) fun _ => rfl]
      rfl
    case failed =>
      have hend := s.completed_fail o (s.degradedStatus o)
      rw [State.finalStatus_degradedStatus, State.id_of_work hwork] at hend
      exact ⟨_, execDegradedRead_of_failed hwork hstage hst, hend⟩
  case tile =>
    intro s s1 op ext o o1 r sh x v dest hwork hstage hmore hst hr hsh hx hsame hissued hreal hlost hready htile hlen ho1 hdest hwrite hstack
    subst hdest
    have ho := State.op?_of_work hwork
    obtain ⟨y, hy, hcursor, hn⟩ := State.op?_freshEpoch r.epoch ho
    have hready' : ((s.freshEpoch op r.epoch).modOp op (fun x => x.keep nkErrors 0)).laneReady = true :=
      (s.laneReady_freshEpoch op r.epoch).trans hready
    have hown : s1.own (o.place o.cursor) = true := by
      rw [State.inStack, Bool.and_eq_true] at hstack
      exact hstack.1
    have hdecode := State.degradedDecode_of_tile hready' htile hwrite hown
    have hwalk := State.walk_one_congr (last := o.arg 20 4 + o.arg 24 4) (f := State.degradedUnit ext op)
      (g := fun t u => u.unitWrites op t
        (fun u => u.degradedDecode ext op (o.arg 16 1) r sh (o.arg 17 1) t (State.putTarget ext op (o.place t))))
      ho hy hcursor (by omega) 
      ((State.degradedUnit_of_op ho ext o.cursor).trans (State.degradedTile_of_lost hr hsh hx hsame hreal hlost))
    have hexec := execDegradedRead_of_walking (units := 1) (ext := ext) hwork hstage
    rw [ite_self, hwalk] at hexec
    refine ⟨_, _, hexec, ?_, ?_, hcursor ▸ State.unitEnds_walk hy (by omega) (by omega) (by rw [hcursor]; exact hdecode)⟩
    · exact (State.putDone_decoded (hlen.symm ▸ hstack)).congr rfl rfl
    · rw [State.result_keep, State.op?_decoded ho1]
  case done =>
    have ho := State.op?_of_work hwork
    refine ⟨s.finish o stOk o.cursor o.result 0, ?_, State.id_of_work hwork ▸ s.completed_finish_ok o o.cursor o.result 0⟩
    rw [execDegradedRead_of_walking hwork hstage, State.walk_of_over ho _ hover, State.endWalk_of_over ho hover]

end Sys2Proof.Machine
end

section
/-! SUPPORT. What a YIELD point does to memory and regions, for an operation that leaves nothing beside its record as it is cancelled
(R101 to R104, Table 3-15). -/

namespace Sys2Proof.Machine

/-- An operation is suspended: its interim record waits, and it stands at no sequencer (R101). -/
def State.suspend (s : State) (id : Nat) (o : Op) : State :=
  let s1 := ((s.interim o stSuspended o.cursor).modOp id (fun x => { x with st := .suspended })).leaveSeq id
  { s1 with seqs := { s1.seqs with ready := s1.seqs.ready.filter (fun x => x != id) } }

theorem State.suspend_keeps (s : State) (id : Nat) (o : Op) : s.Records 0 (s.suspend id o) ∧ changes (s.suspend id o).ops = changes s.ops ∧
    (s.suspend id o).regions = s.regions := by
  obtain ⟨hleave, hops, hregions⟩ := ((s.interim o stSuspended o.cursor).modOp id (fun x => { x with st := .suspended })).leaveSeq_keeps id
  exact ⟨hleave, (congrArg changes hops).trans (changes_modOp s id fun _ => rfl), hregions⟩

section
variable {s : State} {id : Nat} {o : Op} (ho : s.op? id = some o)
include ho

/-- A SUSPENDING operation is suspended, and the SUSPENDs that wait for it end (R101, R103). -/
theorem State.yieldPoint_of_suspending (hst : o.st = .suspending) : ∃ p : Op → Bool, s.yieldPoint id =
    ((s.suspend id o).ops.filter p).foldl (fun t c => t.finishOne c stOk o.cursor 1 0) (s.suspend id o) := by
  simp only [State.yieldPoint, ho, hst]
  exact ⟨_, rfl⟩

theorem State.yieldPoint_of_cancelling (hst : o.st = .cancelling) : s.yieldPoint id = s.cancelOp o := by
  simp only [State.yieldPoint, ho, hst]

/-- Any other operation at most gives up its sequencer (R334). -/
theorem State.yieldPoint_of_going (hgo : o.st ≠ .suspending) (hstay : o.st ≠ .cancelling) :
    s.yieldPoint id = s ∨ s.yieldPoint id = (s.leaveSeq id).makeReady id := by
  cases hst : o.st with
  | suspending => exact absurd hst hgo
  | cancelling => exact absurd hst hstay
  | running =>
    simp only [State.yieldPoint, ho, hst]
    exact ite_eq_or_eq _ _ _
  | _ => exact .inl (by simp only [State.yieldPoint, ho, hst])

/-- With room in the audit buffer a YIELD point leaves memory and regions, where a cancelled operation leaves its record alone. -/
theorem State.yieldPoint_leaves (hclean : s.cancelClean o = s) (hroom : s.auditRoom) :
    (s.yieldPoint id).mem = s.mem ∧ (s.yieldPoint id).regions = s.regions := by
  by_cases hsuspend : o.st = .suspending
  · obtain ⟨p, hyield⟩ := State.yieldPoint_of_suspending ho hsuspend
    obtain ⟨hrecords, hchanges, hregions⟩ := s.suspend_keeps id o
    have hused := hrecords.2
    have hroom' := s.auditRoom_iff.mp hroom
    have hle := changes_filter_le p (s.suspend id o).ops
    have hends := State.records_foldl_finishOne o.cursor (fun _ => 1) ((s.suspend id o).ops.filter p) (s := s.suspend id o) (by omega)
    have honly := State.endsOnly_foldl_finishOne o.cursor (fun _ => 1) ((s.suspend id o).ops.filter p) (s.suspend id o)
    rw [hyield]
    exact ⟨hends.1.trans hrecords.1, honly.regions_eq.trans hregions⟩
  by_cases hcancel : o.st = .cancelling
  · rw [State.yieldPoint_of_cancelling ho hcancel, State.cancelOp, hclean]
    exact ⟨State.finish_mem (State.op?_mem ho) hroom _ _ _ _, (s.endsOnly_finish o _ _ _ _).regions_eq⟩
  rcases State.yieldPoint_of_going ho hsuspend hcancel with h | h
  · rw [h]
    exact ⟨rfl, rfl⟩
  · obtain ⟨hleave, -, hregions⟩ := s.leaveSeq_keeps id
    obtain ⟨hmem, hregions'⟩ := (s.leaveSeq id).makeReady_keeps id
    rw [h]
    exact ⟨hmem.trans hleave.1, hregions'.trans hregions⟩
end

end Sys2Proof.Machine
end

section
/-! SUPPORT. What the acceptance of a build leaves (R216): the tile as stored, its built bit, and both digests. -/

namespace Sys2Proof.Machine

/-- A region with tile t built as v. -/
def Region.withBuilt (r : Region) (t : Nat) (v : List Byte) : Region := { r with
  built := r.built.set t (), builds := r.builds.del t, digest := r.digest + crc64 v * r.weight t
  rebuildDigest := r.rebuildDigest + crc64 v * r.weight t }

theorem Region.built_withBuilt (r : Region) (t : Nat) (v : List Byte) : (r.withBuilt t v).built.has t = true := by
  rw [Region.withBuilt, Tab.has, Tab.get_set_self, Option.isSome_some]

theorem Region.builds_withBuilt (r : Region) (t : Nat) (v : List Byte) : (r.withBuilt t v).builds.has t = false := by
  rw [Region.withBuilt, Tab.has, Tab.get_del, if_pos rfl, Option.isSome_none]

/-- A store of a whole tile changes memory and pairing alone (R113, R309). -/
theorem State.putTile_changes (s : State) (r : Region) (t : Nat) (v : List Byte) :
    s.putTile r t v = { s with mem := (s.putTile r t v).mem, tap := (s.putTile r t v).tap } := by
  rcases (s.stackWrite ((r.tileBase + t) * 4096) (fit 4096 v)).putLine_cases r t (r.strengthAt t) v with h | ⟨off, -, -, h⟩ <;>
    rw [State.putTile, h] <;> rfl

/-- A build is the store of its tile and its entry in the region; it lets the writes go that it held. -/
theorem State.acceptBuild_does {s : State} {j : Nat} {r : Region} (t : Nat) (v : List Byte) (hr : s.regions.get j = some r) :
    ∃ tap : Tap, s.acceptBuild j t v =
      { s with mem := (s.putTile r t v).mem, regions := s.regions.upd j (fun r' => { r' with
        built := r'.built.set t (), builds := r'.builds.del t, digest := r'.digest + crc64 v * r.weight t
        rebuildDigest := r'.rebuildDigest + crc64 v * r.weight t }), tap := tap } := by
  simp only [State.acceptBuild, hr]
  rw [State.putTile_changes]
  exact ⟨_, rfl⟩

section
variable {s : State} {j : Nat} {r : Region} (t : Nat) (v : List Byte) (hr : s.regions.get j = some r)
include hr

theorem State.get_acceptBuild : (s.acceptBuild j t v).regions.get j = some (r.withBuilt t v) := by
  obtain ⟨tap, h⟩ := State.acceptBuild_does t v hr
  rw [h, Tab.get_upd, if_pos rfl, hr]
  rfl

theorem State.acceptBuild_regs : (s.acceptBuild j t v).regs = s.regs := by
  obtain ⟨tap, h⟩ := State.acceptBuild_does t v hr
  rw [h]

theorem State.acceptBuild_audit : (s.acceptBuild j t v).audit = s.audit := by
  obtain ⟨tap, h⟩ := State.acceptBuild_does t v hr
  rw [h]

/-- A built tile that does not hold its own line reads as what was built. -/
theorem State.tileBytes_acceptBuild (hline : r.lineApart t) : (s.acceptBuild j t v).tileBytes r t = fit 4096 v := by
  obtain ⟨tap, h⟩ := State.acceptBuild_does t v hr
  rw [← s.tileBytes_putTile v hline]
  exact State.tileBytes_congr (by rw [h]) (by rw [h, State.putTile_strap]) r t
end

end Sys2Proof.Machine
end

section
/-! The statement of rebuilds: O26. A build stores its tile and moves both digests (R216), and a REBUILD ends by what it has built (R221). -/

namespace Sys2Proof.Machine

/-! ## The checks (R219) -/

/-- The statuses of a REBUILD at its start are ones that a final record carries (R94). -/
theorem State.finalStatus_rebuildStatus (s : State) (o : Op) : finalStatus (s.rebuildStatus o) = s.rebuildStatus o := by
  unfold State.rebuildStatus
  split
  · rfl
  · split
    · rfl
    · split_ifs <;> rfl

/-- A REBUILD that passes its checks names a region. -/
theorem State.region_of_rebuildStatus {s : State} {o : Op} (h : s.rebuildStatus o = 0) : ∃ r, s.regions.get (o.arg 16 1) = some r := by
  cases hr : s.regions.get (o.arg 16 1) with
  | some r => exact ⟨r, rfl⟩
  | none =>
    simp only [State.rebuildStatus, hr] at h
    split at h <;> cases h

/-! ## The end (R221) -/

theorem State.keepsRaised_finish (s : State) (o : Op) (st cursor result aux : Nat) : s.KeepsRaised (s.finish o st cursor result aux) :=
  List.foldlRecOn (motive := s.KeepsRaised) _ _ (s.keepsRaised_finishOne o st cursor result aux)
    fun _ h _ _ => h.trans (State.keepsRaised_finishOne _ _ _ _ _ _)

/-- A REBUILD of a region whose digest differs ends with its rebuild digest as RESULT all the same (log entry 119). -/
theorem State.completed_mismatch (s : State) {o : Op} (hcode : o.opcode = 0x31) (cursor : Nat) (d : Word64) :
    (s.finish o stRebuildMismatch cursor d.toNat 0).completed o.id stRebuildMismatch d.toNat 0 := by
  have hend := s.completed_finish o stRebuildMismatch cursor d.toNat 0
  have hshow : o.showsResult (finalStatus stRebuildMismatch) = true := by
    rw [Op.showsResult, hcode]
    rfl
  rwa [if_pos hshow, Nat.mod_eq_of_lt d.isLt] at hend

section
variable {s : State} {o : Op} {r : Region} (hr : s.regions.get (o.arg 16 1) = some r)
include hr

theorem State.rebuildEnd_of_part (hpart : r.built.length < r.tileCount) :
    s.rebuildEnd o = s.finish o stOk o.cursor r.rebuildDigest.toNat 0 := by
  simp only [State.rebuildEnd, hr, if_pos hpart]

variable (hwhole : r.tileCount ≤ r.built.length)
include hwhole

theorem State.rebuildEnd_of_agree (hagree : bitAt (o.arg 30 1) 0 = false ∨ r.rebuildDigest.toNat = o.arg 32 8) :
    s.rebuildEnd o = (s.finish o stOk o.cursor r.rebuildDigest.toNat 0).modRegion (o.arg 16 1) (fun r => { r with state := .live }) := by
  have hsame : (bitAt (o.arg 30 1) 0 && r.rebuildDigest.toNat != o.arg 32 8) = false := by
    rcases hagree with h | h <;> simp [h]
  simp only [State.rebuildEnd, hr, if_neg (not_lt.mpr hwhole), hsame]
  rfl

theorem State.rebuildEnd_of_differ (hcheck : bitAt (o.arg 30 1) 0 = true) (hdiffer : r.rebuildDigest.toNat ≠ o.arg 32 8) :
    s.rebuildEnd o = (s.event 74 (infoA (o.arg 16 1) 0)).finish o stRebuildMismatch o.cursor r.rebuildDigest.toNat 0 := by
  have hbad : (bitAt (o.arg 30 1) 0 && r.rebuildDigest.toNat != o.arg 32 8) = true := by simp [hcheck, hdiffer]
  simp only [State.rebuildEnd, hr, if_neg (not_lt.mpr hwhole), hbad]
  rfl
end

/-- An end of a REBUILD leaves memory, and of its region all but the state. -/
theorem State.rebuildEnd_leaves {s : State} {o : Op} {r : Region} (hr : s.regions.get (o.arg 16 1) = some r) (ho : o ∈ s.ops)
    (hroom : s.auditRoom) : (s.rebuildEnd o).mem = s.mem ∧
      ∃ st, (s.rebuildEnd o).regions.get (o.arg 16 1) = some { r with state := st } := by
  by_cases hpart : r.built.length < r.tileCount
  · rw [State.rebuildEnd_of_part hr hpart, (s.endsOnly_finish o _ _ _ _).regions_eq]
    exact ⟨State.finish_mem ho hroom _ _ _ _, r.state, hr⟩
  have hwhole := not_lt.mp hpart
  by_cases hdiffer : bitAt (o.arg 30 1) 0 = true ∧ r.rebuildDigest.toNat ≠ o.arg 32 8
  · obtain ⟨e, he⟩ := s.event_changes_evt 74 (infoA (o.arg 16 1) 0)
    rw [State.rebuildEnd_of_differ hr hwhole hdiffer.1 hdiffer.2, he, (State.endsOnly_finish _ o _ _ _ _).regions_eq]
    exact ⟨State.finish_mem (s := { s with evt := e }) ho hroom _ _ _ _, r.state, hr⟩
  · have hagree : bitAt (o.arg 30 1) 0 = false ∨ r.rebuildDigest.toNat = o.arg 32 8 := by
      rw [not_and_or, Bool.not_eq_true, not_not] at hdiffer
      exact hdiffer
    rw [State.rebuildEnd_of_agree hr hwhole hagree, State.get_modRegion, if_pos rfl, (s.endsOnly_finish o _ _ _ _).regions_eq, hr]
    exact ⟨State.finish_mem ho hroom _ _ _ _, .live, rfl⟩

/-! ## REBUILD by its stages (R219, R220) -/

/-- What a cancelled REBUILD leaves is its record alone (Table 3-15). -/
theorem State.cancelClean_rebuild {s : State} {o : Op} (h : o.opcode = 0x31) : s.cancelClean o = s := by
  unfold State.cancelClean
  simp [h]

/-- The unit of a REBUILD's walk at tile t. -/
def State.rebuildUnit (ext : Ext) (op t : Nat) (s : State) : Walk :=
  match s.op? op with
  | some o => s.rebuildTile ext op o t
  | none => .wait s

/-- The state in which a tile that a REBUILD builds is accepted and counted (R216). -/
def State.rebuilt (s : State) (op j t : Nat) (v : List Byte) (d : Bool) : State :=
  ((s.acceptBuild j t v).bumpBy (rbldCnt 0) (bit d)).freshTries op

/-- The unit of a tile that is not built is its build, where its stripe gives the value (R216). -/
theorem State.rebuildUnit_of_tile {s s1 : State} {ext : Ext} {op t : Nat} {o : Op} {r : Region} {sh : Sheaf} {v : List Byte} {d : Bool}
    (ho : s.op? op = some o) (hr : s.regions.get (o.arg 16 1) = some r) (hsh : s.sheafOf r = some sh) (hsame : o.sameMember r = true)
    (hst : r.state = .fostering) (hbuilt : r.built.has t = false) (hcbw : s.cbwHolds (o.arg 16 1) t = false) (hready : s.laneReady = true)
    (htile : (s.freshEpoch op r.epoch).buildValue ext (some op) 3 (o.arg 16 1) r sh t = (.tile v d, s1)) :
    s.rebuildUnit ext op t = .go (s1.rebuilt op (o.arg 16 1) t v d) := by
  simp [State.rebuildUnit, ho, State.rebuildTile, hr, hsh, hsame, hst, hbuilt, hcbw, hready, htile, State.rebuilt]

section
variable {s : State} {op units : Nat} {ext : Ext} {o : Op} (hwork : s.work op 0x31 = some o)
include hwork

theorem execRebuild_of_passed {r : Region} (hstage : o.stage = .fresh) (hst : s.rebuildStatus o = 0)
    (hr : s.regions.get (o.arg 16 1) = some r) : exec (.rebuild op units ext) s = .next (s.modOp op (fun o =>
      { (o.keep nkSheaf (r.sheaf + 1)).keep nkMember (r.member + 1) with stage := .walking, cursor := o.arg 20 4 })) := by
  show execRebuild op units ext s = _
  simp [execRebuild, hwork, hstage, hst, hr]

theorem execRebuild_of_failed (hstage : o.stage = .fresh) (hst : s.rebuildStatus o ≠ 0) :
    exec (.rebuild op units ext) s = .next (s.fail o (s.rebuildStatus o)) := by
  show execRebuild op units ext s = _
  simp [execRebuild, hwork, hstage, hst]

variable (hstage : o.stage = .walking)
include hstage

theorem execRebuild_of_walking : exec (.rebuild op units ext) s = .next (State.endWalk op (o.arg 20 4 + o.arg 24 4) State.rebuildEnd
    (State.walk op (o.arg 20 4 + o.arg 24 4) (State.rebuildUnit ext op) units s)) := by
  show execRebuild op units ext s = _
  simp [execRebuild, hwork, hstage]
  rfl

theorem execRebuild_of_over (hover : o.arg 20 4 + o.arg 24 4 ≤ o.cursor) :
    exec (.rebuild op units ext) s = .next (s.rebuildEnd o).settle := by
  have ho := State.op?_of_work hwork
  rw [execRebuild_of_walking hwork hstage, State.walk_of_over ho units hover, State.endWalk_of_over ho hover]
end

/-! ## A unit of a REBUILD (R216, R220) -/

section
variable {s s1 : State} {op j t : Nat} {v : List Byte} {d : Bool} {q : Region} (hq : s1.regions.get j = some q)
include hq

theorem State.get_rebuilt : (s1.rebuilt op j t v d).regions.get j = some (q.withBuilt t v) := by
  rw [← State.get_acceptBuild t v hq, State.rebuilt, State.freshTries, State.modOp_regions, State.bumpBy_regions]

theorem State.tileBytes_rebuilt (hline : q.lineApart t) : (s1.rebuilt op j t v d).tileBytes q t = fit 4096 v := by
  rw [← State.tileBytes_acceptBuild t v hq hline]
  exact State.tileBytes_congr (State.bumpBy_mem _ _ _) (State.bumpBy_strap _ _ _) q t

/-- Accepting a build forms no record. -/
theorem State.audit_rebuilt : (s1.rebuilt op j t v d).audit = s1.audit := by
  rw [← State.acceptBuild_audit t v hq, State.rebuilt, State.freshTries, State.modOp_audit, State.bumpBy_audit]
end

theorem State.NotesOnly.rebuilt {s s1 : State} {op j t : Nat} {v : List Byte} {d : Bool} (hk : s.NotesOnly s1) :
    s.NotesOnly (s1.rebuilt op j t v d) :=
  .freshTries ((hk.of_reads (State.Reads.refl s1).acceptBuild).of_ops (State.bumpBy_ops _ _ _))

/-- A REBUILD that has done a unit ends, or passes a YIELD point: both leave memory, and of its region all but the state. -/
theorem execRebuild_of_unit {s s2 : State} {op : Nat} {ext : Ext} {o : Op} {q : Region} (hwork : s.work op 0x31 = some o)
    (hstage : o.stage = .walking) (hmore : o.cursor < o.arg 20 4 + o.arg 24 4) (hunit : s.rebuildUnit ext op o.cursor = .go s2)
    (hnotes : s.NotesOnly s2) (hq : s2.regions.get (o.arg 16 1) = some q) (hroom : s2.auditRoom) :
    ∃ u : State, exec (.rebuild op 1 ext) s = .next u.settle ∧ u.mem = s2.mem ∧ u.strap = s2.strap ∧
      ∃ st, u.regions.get (o.arg 16 1) = some { q with state := st } := by
  have ho := State.op?_of_work hwork
  obtain ⟨x, hx, hbare⟩ := hnotes.op? ho
  have ho3 : (s2.modOp op (fun x => { x with cursor := o.cursor + 1 })).op? op = some { x with cursor := o.cursor + 1 } :=
    State.op?_modOp_self hx fun _ => rfl
  have hroom3 : (s2.modOp op (fun x => { x with cursor := o.cursor + 1 })).auditRoom := by
    rw [State.auditRoom_iff, changes_modOp s2 op (f := fun x => { x with cursor := o.cursor + 1 }) fun _ => rfl]
    exact s2.auditRoom_iff.mp hroom
  rw [execRebuild_of_walking hwork hstage, State.walk_of_go ho hmore hunit]
  by_cases hover : o.arg 20 4 + o.arg 24 4 ≤ o.cursor + 1
  · have hj : ({ x with cursor := o.cursor + 1 } : Op).arg 16 1 = o.arg 16 1 := Op.arg_of_bare hbare 16 1
    obtain ⟨hmem, hregion⟩ := State.rebuildEnd_leaves (hj ▸ hq) (State.op?_mem ho3) hroom3
    refine ⟨_, congrArg _ (State.endWalk_of_over ho3 hover), hmem, (State.Keeps.refl _).rebuildEnd.2.1, ?_⟩
    rwa [hj] at hregion
  · have hcode : x.opcode = 0x31 := (Op.opcode_of_bare hbare).trans (State.opcode_of_work hwork)
    obtain ⟨hmem, hregions⟩ := State.yieldPoint_leaves ho3 (State.cancelClean_rebuild hcode) hroom3
    exact ⟨_, congrArg _ (State.endWalk_of_more ho3 (not_le.mp hover)), hmem, (State.Keeps.refl _).yieldPoint.2.1, q.state,
      (congrArg (fun l : Tab Region => l.get (o.arg 16 1)) hregions).trans hq⟩

/-! ## TILE_BUILD_DONE (R217) -/

theorem execTileBuildDone_of_tile {s s1 : State} {region tile n : Nat} {ext : Ext} {r : Region} {sh : Sheaf} {v : List Byte} {d : Bool}
    (hr : s.regions.get region = some r) (hbuild : r.builds.get tile = some n) (hsh : s.sheafOf r = some sh) (hst : r.state = .fostering)
    (hbuilt : r.built.has tile = false) (hready : s.c0Ready sh tile [r.member] = true)
    (htile : s.buildValue ext none 0 region r sh tile = (.tile v d, s1)) :
    exec (.tileBuildDone region tile ext) s = .next (State.settle ((s1.acceptBuild region tile v).bumpBy (rbldCnt 0) (bit d))) := by
  show execTileBuildDone region tile ext s = _
  simp [execTileBuildDone, hr, hbuild, hsh, hst, hbuilt, hready, htile]

/-! ## The statement -/

/-- Settles O26: a unit of a REBUILD is the build of its tile, as TILE_BUILD_DONE is, and the end of one finds its region built in part, whole
and agreeing, or whole and differing. -/
theorem rebuildBuildsTiles : Obligations.RebuildBuildsTiles := by
  refine ⟨fun s op units ext o hwork hstage => ?start, ?tile, fun s op units ext o r hwork hstage hr hover => ?done, ?held⟩
  case start =>
    refine ⟨fun hst => ?passed, fun hst => ?failed⟩
    case passed =>
      obtain ⟨r, hr⟩ := State.region_of_rebuildStatus hst
      refine ⟨_, execRebuild_of_passed hwork hstage hst hr, ?_, rfl, rfl⟩
      rw [State.op?_modOp_self (f := fun o => { (o.keep nkSheaf (r.sheaf + 1)).keep nkMember (r.member + 1) with
        stage := .walking, cursor := o.arg 20 4 }) (State.op?_of_work hwork) fun _ => rfl]
      rfl
    case failed =>
      have hend := s.completed_fail o (s.rebuildStatus o)
      rw [State.finalStatus_rebuildStatus, State.id_of_work hwork] at hend
      exact ⟨_, execRebuild_of_failed hwork hstage hst, hend⟩
  case tile =>
    intro s s1 op ext o r r1 sh v d hwork hstage hr hsh hmore hsame hst hbuilt hcbw hready htile hr1 hline hroom
    have hunit := State.rebuildUnit_of_tile (State.op?_of_work hwork) hr hsh hsame hst hbuilt hcbw hready htile
    have hread : s.NotesOnly s1 := .snd htile (.buildValue (.freshEpoch (.refl s)))
    have hroom2 : (s1.rebuilt op (o.arg 16 1) o.cursor v d).auditRoom := by
      have hsame2 : s1.NotesOnly (s1.rebuilt op (o.arg 16 1) o.cursor v d) := (State.NotesOnly.refl s1).rebuilt
      rw [State.auditRoom_iff, State.auditUsed, State.audit_rebuilt hr1, hsame2.changes_eq]
      exact s1.auditRoom_iff.mp hroom
    obtain ⟨u, hexec, hmem, hstrap, st, hregion⟩ :=
      execRebuild_of_unit hwork hstage hmore hunit hread.rebuilt (State.get_rebuilt hr1) hroom2
    refine ⟨u, hexec, ?_, ?_⟩
    · rw [State.tileBytes_congr hmem hstrap, State.tileBytes_rebuilt hr1 hline]
    · rw [hregion, Option.map_some]
      exact congrArg (fun b => some (b, _, _)) (r1.built_withBuilt o.cursor v)
  case done =>
    have hexec := execRebuild_of_over (units := units) (ext := ext) hwork hstage hover
    have hid := State.id_of_work hwork
    have hok : (s.finish o stOk o.cursor r.rebuildDigest.toNat 0).completed op stOk r.rebuildDigest.toNat 0 :=
      s.finish_ok_completed hid o.cursor r.rebuildDigest.isLt
    have hregions := (s.endsOnly_finish o stOk o.cursor r.rebuildDigest.toNat 0).regions_eq
    refine ⟨fun hpart => ?part, fun hwhole hagree => ?agree, fun hwhole hcheck hdiffer => ?differ⟩
    case part =>
      rw [State.rebuildEnd_of_part hr hpart] at hexec
      exact ⟨_, hexec, hok, hregions⟩
    case agree =>
      rw [State.rebuildEnd_of_agree hr hwhole hagree] at hexec
      refine ⟨_, hexec, hok, ?_⟩
      rw [State.get_modRegion, if_pos rfl, hregions, hr]
      rfl
    case differ =>
      rw [State.rebuildEnd_of_differ hr hwhole hcheck hdiffer] at hexec
      refine ⟨_, hexec, hid ▸ State.completed_mismatch _ (State.opcode_of_work hwork) _ _, ?_, ?_⟩
      · exact State.keepsRaised_finish _ _ _ _ _ _ 74 (s.event_raises 74 _ (by decide))
      · rw [(State.endsOnly_finish _ _ _ _ _ _).regions_eq, State.event_regions]
  case held =>
    intro s s1 region tile n ext r r1 sh v d hr hbuild hsh hst hbuilt hready htile hr1 hline
    refine ⟨_, execTileBuildDone_of_tile hr hbuild hsh hst hbuilt hready htile, ?_, ?_, ?_⟩
    · rw [← State.tileBytes_acceptBuild tile v hr1 hline]
      exact State.tileBytes_congr (State.bumpBy_mem _ _ _) (State.bumpBy_strap _ _ _) r1 tile
    · rw [State.bumpBy_regions, State.get_acceptBuild tile v hr1, Option.map_some, Region.built_withBuilt, Region.builds_withBuilt]
      rfl
    · rw [State.reg_bumpBy, if_pos rfl, State.reg, State.acceptBuild_regs tile v hr1, State.reg]

end Sys2Proof.Machine
end

section
/-! SUPPORT. What the end of a READ leaves (R206, R210, R336): its slot is free, its operation has the answer or the status, and the words that
waited for it may go on. -/

namespace Sys2Proof.Machine

/-- TRIGs that fire take transfers out and count at their triggers; nothing else changes (Table 11-4). -/
theorem State.fireTrigs_changes (s : State) (op : Nat) : s.fireTrigs op =
    { s with port := { s.port with xfers := (s.fireTrigs op).port.xfers }, seqs := (s.fireTrigs op).seqs } := by
  refine List.foldlRecOn (motive := fun t : State => t = { s with port := { s.port with xfers := t.port.xfers }, seqs := t.seqs }) _ _ rfl
    fun t ht x _ => ?_
  dsimp only
  split
  · split
    · rw [ht]
      rfl
    · exact ht
  · exact ht

/-- Words that wait no longer note it, and their operations stand in the ready queue; nothing else changes (R334). -/
theorem State.wakeWords_does (s : State) :
    s.NotesOnly s.wakeWords ∧ s.wakeWords = { s with ops := s.wakeWords.ops, seqs := s.wakeWords.seqs } := by
  have hunpark : ∀ (t : State) (id : Nat) (f : Op → Op), t.unpark id f = { t with ops := (t.unpark id f).ops, seqs := (t.unpark id f).seqs } :=
    fun t id f => by
      unfold State.unpark State.makeReady
      split <;> rfl
  refine List.foldlRecOn (motive := fun t : State => s.NotesOnly t ∧ t = { s with ops := t.ops, seqs := t.seqs }) _ _ ⟨rfl, rfl⟩
    fun t ht o _ => ?_
  split
  · split
    · refine ⟨ht.1.unpark fun _ => rfl, ?_⟩
      rw [hunpark, ht.2]
    · exact ht
  · exact ht

/-- What a READ of an operation's own walk leaves with it: the answer or the status, and the times (R210). -/
def ReadReq.got (q : ReadReq) (st : Nat) (v : List Byte) (now : Nat) : Got := ⟨q.dst, q.view, q.stripe, st, v, q.step, q.first, now, false⟩

/-- What a READ of a microprogram leaves in its stream slot: the view, or the status (R336). -/
def Slot.ofRead (st : Nat) (v : List Byte) : Slot := if st = stOk then Slot.full v else Slot.failed st

section
variable {s : State} {slot st : Nat} {q : ReadReq} {v : List Byte}

theorem State.endRead_of_kept (hkeep : q.keep = true) : s.endRead slot q st v =
    ({ s with port := { s.port with rreq := s.port.rreq.del slot } }).modOp q.op
      (fun o => { o with got := o.got ++ [q.got st v s.now] }) := by
  simp only [State.endRead, hkeep]
  rfl

/-- An operation whose stream slot takes what a READ gives, and which notes the first status that is not OK. -/
def Op.takeRead (o : Op) (target st : Nat) (v : List Byte) : Op :=
  { (if st = stOk || o.n nkFirstBad != 0 then o else o.keep nkFirstBad st) with slots := o.slots.set target (Slot.ofRead st v) }

theorem State.endRead_of_word (hkeep : q.keep = false) : s.endRead slot q st v =
    (State.fireTrigs (({ s with port := { s.port with rreq := s.port.rreq.del slot } }).modOp q.op
      (fun o => o.takeRead q.target st v)) q.op).wakeWords := by
  simp only [State.endRead, hkeep]
  rfl

theorem Op.id_takeRead (o : Op) (target st : Nat) (v : List Byte) : (o.takeRead target st v).id = o.id := by
  unfold Op.takeRead
  split <;> rfl

/-- The end of a READ frees its slot, sends nothing and leaves memory. -/
theorem State.endRead_leaves (s : State) (slot : Nat) (q : ReadReq) (st : Nat) (v : List Byte) :
    (s.endRead slot q st v).port.rreq.get slot = none ∧ (s.endRead slot q st v).mem = s.mem ∧
      (s.endRead slot q st v).port.tx = s.port.tx := by
  have hfree : (s.port.rreq.del slot).get slot = none := by rw [Tab.get_del, if_pos rfl]
  cases hkeep : q.keep with
  | true =>
    rw [State.endRead_of_kept hkeep]
    exact ⟨hfree, rfl, rfl⟩
  | false =>
    rw [State.endRead_of_word hkeep, (State.wakeWords_does _).2, State.fireTrigs_changes]
    exact ⟨hfree, rfl, rfl⟩

/-- An operation keeps the answer of a READ of its own walk for the unit. -/
theorem State.got_endRead {o : Op} (ho : s.op? q.op = some o) (hkeep : q.keep = true) :
    ((s.endRead slot q st v).op? q.op).map (fun x => x.got) = some (o.got ++ [q.got st v s.now]) := by
  have ho' : ({ s with port := { s.port with rreq := s.port.rreq.del slot } } : State).op? q.op = some o := ho
  rw [State.endRead_of_kept hkeep,
    State.op?_modOp_self (f := fun o => { o with got := o.got ++ [q.got st v s.now] }) ho' fun _ => rfl]
  rfl

/-- The stream slot of a microprogram takes what the READ gives. -/
theorem State.slot_endRead {o : Op} (ho : s.op? q.op = some o) (hkeep : q.keep = false) :
    ((s.endRead slot q st v).op? q.op).map (fun x => x.slots.get q.target) = some (some (Slot.ofRead st v)) := by
  have ho1 : (({ s with port := { s.port with rreq := s.port.rreq.del slot } } : State).modOp q.op
      (fun o => o.takeRead q.target st v)).op? q.op = some (o.takeRead q.target st v) :=
    State.op?_modOp_self (f := fun o => o.takeRead q.target st v) ho fun o => o.id_takeRead _ _ _
  rw [State.endRead_of_word hkeep]
  generalize State.modOp _ q.op (fun o => o.takeRead q.target st v) = u at ho1 ⊢
  have ho2 : (u.fireTrigs q.op).op? q.op = some (o.takeRead q.target st v) := by
    rw [u.fireTrigs_changes]
    exact ho1
  obtain ⟨x, hx, hbare⟩ := (State.wakeWords_does (u.fireTrigs q.op)).1.op? ho2
  rw [hx, Option.map_some, Op.slots_of_bare hbare]
  exact congrArg some (Tab.get_set_self _ _ _)
end

end Sys2Proof.Machine
end

section
/-! SUPPORT. READ service (R202 to R207): a refusal is one packet, an answer eight, and both leave the rest of the engine as the read of the tile
does. -/

namespace Sys2Proof.Machine

section
variable {s : State} {src since : Nat} {h : Hdr} (hcls : h.cls ≠ 0)
include hcls

theorem State.refuseRead_does (r : Option Region) (st : Nat) : (s.refuseRead src h r since st).mem = s.mem ∧
    (s.refuseRead src h r since st).regions = s.regions ∧ (s.refuseRead src h r since st).port.tx.length = s.port.tx.length + 1 := by
  simp only [State.refuseRead, State.countAnswer, if_pos hcls]
  cases r <;> exact ⟨rfl, rfl, by simp [State.sendData, State.dataHdr, State.freshNat]⟩

theorem State.answerRead_does (r : Region) (v : List Byte) : (s.answerRead src h r since v).mem = s.mem ∧
    ∃ l : List Tx, (s.answerRead src h r since v).port.tx = s.port.tx ++ l ∧ l.length = 8 := by
  simp only [State.answerRead, State.countAnswer, if_pos hcls]
  exact ⟨rfl, _, rfl, by simp⟩
end

section
variable {s : State} {ext : Ext} {src since : Nat} {v : List Byte}

theorem State.serveRead_of_absent (h : s.localMember (Hdr.parse v).sheaf (Hdr.parse v).dst = none) :
    s.serveRead ext src v since = s.refuseRead src (Hdr.parse v) none since stStaleEpoch := by
  simp only [State.serveRead, h]

/-- What Table 7-3 asks of a READ in view CURRENT of a stored tile t of region j: the region's job and epoch, a member of the sheaf as sender,
a tile of the region that is no build's, and no write before it that is held for copy-before-write. -/
structure State.AnswersCurrent (s : State) (v : List Byte) (j : Nat) (r : Region) : Prop where
  member : s.localMember (Hdr.parse v).sheaf (Hdr.parse v).dst = some (j, r)
  job : (Hdr.parse v).job = r.jobTag
  view : field (payloadOf v) 0 1 = 0
  sender : (Hdr.parse v).src ≠ 0xFF
  epoch : (Hdr.parse v).epoch = r.epoch
  stripe : (Hdr.parse v).stripe < r.tileCount
  stored : r.state ≠ .fostering
  first : s.cbwBefore j (Hdr.parse v).stripe = false

theorem State.serveRead_of_current {s1 : State} {j : Nat} {r : Region} {d : List Byte} (ha : s.AnswersCurrent v j r)
    (hread : s.viewTile ext j r 0 (Hdr.parse v).stripe = (some d, s1)) :
    s.serveRead ext src v since = s1.answerRead src (Hdr.parse v) r since d := by
  obtain ⟨hmember, hjob, hview, hsender, hepoch, hstripe, hstored, hfirst⟩ := ha
  simp [State.serveRead, hmember, hjob, hview, hsender, hepoch, not_le.mpr hstripe, hstored, State.readRegion, hfirst, hread]

/-- A READ of class 3 is served as it arrives (R207, R358). -/
theorem execReadPacketReceive_of_background (haligned : s.aligned = true) (hwhole : trailerOk v = true) (htyp : (Hdr.parse v).typ = 3)
    (hcls : (Hdr.parse v).cls = 3) : exec (.readPacketReceive src v ext) s = .next (s.packetIn.serveRead ext src v s.now).settle := by
  show execReadPacketReceive src v ext s = _
  simp [execReadPacketReceive, haligned, hwhole, htyp, hcls]
end

end Sys2Proof.Machine
end

section
/-! The statement of READs, their answers and peers: O51. -/

namespace Sys2Proof.Machine

/-! ## Packets before ALIGN_ACK (R21, R32) -/

section
variable {s : State} (hoff : s.aligned = false) (src : Nat) (v : List Byte) (ext : Ext)
include hoff

theorem execAccumPacketReceive_of_unaligned : exec (.accumPacketReceive src v) s = .next s.packetIn := by
  show execAccumPacketReceive src v s = _
  simp [execAccumPacketReceive, hoff]

theorem execAckPacketReceive_of_unaligned : exec (.ackPacketReceive src v) s = .next s.packetIn := by
  show execAckPacketReceive src v s = _
  simp [execAckPacketReceive, hoff]

theorem execReadPacketReceive_of_unaligned : exec (.readPacketReceive src v ext) s = .next s.packetIn := by
  show execReadPacketReceive src v ext s = _
  simp [execReadPacketReceive, hoff]

theorem execReadDataReceive_of_unaligned : exec (.readDataReceive src v) s = .next s.packetIn := by
  show execReadDataReceive src v s = _
  simp [execReadDataReceive, hoff]

theorem execLarkReceive_of_unaligned : exec (.larkReceive src v) s = .next s.packetIn := by
  show execLarkReceive src v s = _
  simp [execLarkReceive, hoff]

theorem execReportReceive_of_unaligned : exec (.reportReceive src v) s = .next s.packetIn := by
  show execReportReceive src v s = _
  simp [execReportReceive, hoff]

theorem execHebribryReadReceive_of_unaligned (off : Nat) : exec (.hebribryReadReceive src off ext) s = .next s.packetIn := by
  show execHebribryReadReceive src off ext s = _
  simp [execHebribryReadReceive, hoff]

theorem execReservedTypePacket_of_unaligned : exec (.reservedTypePacket src v) s = .next s.packetIn := by
  show execReservedTypePacket src v s = _
  simp [execReservedTypePacket, hoff]
end

/-! ## READ_DATA_RECEIVE (R206) -/

/-- A READ that takes packet h of its answer. -/
def ReadReq.take (q : ReadReq) (h : Hdr) (v : List Byte) : ReadReq :=
  { q with mask := q.mask + 2 ^ h.pkt, data := splice (fit 4096 q.data) (512 * h.pkt) (fit 512 v), step := h.step }

/-- A packet of READ_DATA answers READ q: it names the READ's slot and request number, and comes from its destination (R206). -/
structure State.AnswersRead (s : State) (src : Nat) (v : List Byte) (q : ReadReq) : Prop where
  aligned : s.aligned = true
  whole : trailerOk v = true
  typ : (Hdr.parse v).typ = 4
  slot : s.port.rreq.get (Hdr.parse v).sctx = some q
  seq : q.seq = (Hdr.parse v).seq
  dst : dstKey q.node q.agent = src

section
variable {s : State} {src : Nat} {v : List Byte} {q : ReadReq} (ha : s.AnswersRead src v q)
include ha

/-- A refusal ends the READ with its status. -/
theorem execReadDataReceive_of_refusal (hlen : (payloadOf v).length = 16) : exec (.readDataReceive src v) s =
    .next (s.packetIn.endRead (Hdr.parse v).sctx q (field (payloadOf v) 0 2) []) := by
  obtain ⟨haligned, hwhole, htyp, hslot, hseq, hdst⟩ := ha
  show execReadDataReceive src v s = _
  simp [execReadDataReceive, haligned, hwhole, htyp, hlen, hslot, hseq, hdst]

variable (hlen : (payloadOf v).length ≠ 16) (hroom : s.overflow = false) (hnew : bitAt q.mask (Hdr.parse v).pkt = false)
include hlen hroom hnew

/-- A packet that the answer lacks is taken, and the last one ends the READ. -/
theorem execReadDataReceive_of_packet : exec (.readDataReceive src v) s = .next
    (if (q.take (Hdr.parse v) (payloadOf v)).mask = 255 then s.packetIn.endRead (Hdr.parse v).sctx (q.take (Hdr.parse v) (payloadOf v)) stOk
        (q.take (Hdr.parse v) (payloadOf v)).data
      else { s.packetIn with port := { s.packetIn.port with
        rreq := s.port.rreq.set (Hdr.parse v).sctx (q.take (Hdr.parse v) (payloadOf v)) } }) := by
  obtain ⟨haligned, hwhole, htyp, hslot, hseq, hdst⟩ := ha
  have hroom' : s.packetIn.overflow = false := hroom
  show execReadDataReceive src v s = _
  simp [execReadDataReceive, haligned, hwhole, htyp, hlen, hroom', hslot, hseq, hdst, hnew, ReadReq.take]

theorem execReadDataReceive_of_last (hall : q.mask + 2 ^ (Hdr.parse v).pkt = 255) : exec (.readDataReceive src v) s =
    .next (s.packetIn.endRead (Hdr.parse v).sctx (q.take (Hdr.parse v) (payloadOf v)) stOk
      (splice (fit 4096 q.data) (512 * (Hdr.parse v).pkt) (fit 512 (payloadOf v)))) :=
  (execReadDataReceive_of_packet ha hlen hroom hnew).trans (congrArg _ (if_pos hall))

theorem execReadDataReceive_of_more (hmore : q.mask + 2 ^ (Hdr.parse v).pkt ≠ 255) : exec (.readDataReceive src v) s =
    .next { s.packetIn with port := { s.packetIn.port with
      rreq := s.port.rreq.set (Hdr.parse v).sctx (q.take (Hdr.parse v) (payloadOf v)) } } :=
  (execReadDataReceive_of_packet ha hlen hroom hnew).trans (congrArg _ (if_neg hmore))
end

/-! ## READ_RETRY_TIMEOUT (R144, R206) -/

/-- A READ after its next try, on the path and with the timer of that try (R145 to R147). -/
def State.retried (s : State) (q : ReadReq) : ReadReq :=
  let p := s.nextPath (dstKey q.node q.agent) (stripeHash q.sheaf q.stripe) q.path (q.onPath + 1)
  { q with tries := q.tries + 1, path := p, onPath := if p = q.path then q.onPath + 1 else 0, timeout := s.backoff q.timeout
           due := s.now + s.backoff q.timeout }

/-- The state in which the packet of a later try of a READ leaves: its path has counted the timeout and the try (R165). -/
def State.beginRetry (s : State) (slot : Nat) (q : ReadReq) : State :=
  let u := (s.countPath (dstKey q.node q.agent) q.path 0 1).countPath (dstKey q.node q.agent) (s.retried q).path 1 0
  { u with port := { u.port with rreq := u.port.rreq.set slot (s.retried q) } }

theorem State.beginRetry_does (s : State) (slot : Nat) (q : ReadReq) : (s.beginRetry slot q).ops = s.ops ∧
    (s.beginRetry slot q).mem = s.mem ∧ (s.beginRetry slot q).port.tx = s.port.tx ∧
    (s.beginRetry slot q).port.rreq.get slot = some (s.retried q) := by
  unfold State.beginRetry
  generalize s.retried q = q'
  exact ⟨rfl, rfl, rfl, Tab.get_set_self _ _ _⟩

section
variable {s : State} {slot : Nat} {q : ReadReq} (hq : s.port.rreq.get slot = some q)
include hq

/-- At the limit of tries or of time the READ fails for its path. -/
theorem execReadRetryTimeout_of_limit (hlimit : q.due ≤ s.now ∧ 64 ≤ q.tries ∨ q.first + 1000000 ≤ s.now) :
    exec (.readRetryTimeout slot) s = .next ((s.countPath (dstKey q.node q.agent) q.path 0 (bit (decide (q.due ≤ s.now)))).endRead slot q
      (if q.keep then readFailed else stPathFailed) []) := by
  have hend : q.first + 1000000 ≤ s.now ∨ decide (q.due ≤ s.now) = true ∧ 64 ≤ q.tries := by
    rw [decide_eq_true_eq]
    exact hlimit.symm
  show execReadRetryTimeout slot s = _
  simp only [execReadRetryTimeout, hq, if_pos hend]

/-- A READ of another class than C0 whose timer runs out is tried again. -/
theorem execReadRetryTimeout_of_due (hdue : q.due ≤ s.now) (htries : q.tries < 64) (hearly : s.now < q.first + 1000000) (hcls : q.cls ≠ 0) :
    ∃ x, exec (.readRetryTimeout slot) s = .next ((s.beginRetry slot q).send x) := by
  have hgo : ¬(q.first + 1000000 ≤ s.now ∨ True ∧ 64 ≤ q.tries) := by omega
  show ∃ x, execReadRetryTimeout slot s = _
  simp only [execReadRetryTimeout, hq, decide_eq_true hdue, if_neg hgo, hcls]
  exact ⟨_, rfl⟩
end

/-! ## HEBRIBRY_READ_RECEIVE (R168, R311) -/

section
variable {s : State} {src off : Nat} {ext : Ext} (haligned : s.aligned = true)
include haligned

theorem execHebribryReadReceive_of_bad (hbad : off % 4096 ≠ 0 ∨ stackBytes ≤ off) :
    exec (.hebribryReadReceive src off ext) s = .next (s.packetIn.send (.readErrorAnswer src off)) := by
  show execHebribryReadReceive src off ext s = _
  simp [execHebribryReadReceive, haligned, hbad]

variable (hwhole : off % 4096 = 0) (hin : off < stackBytes)
include hwhole hin

theorem execHebribryReadReceive_of_loose (hloose : s.regionAt (off / 4096) = none) (hclean : (s.tileRaw ext (off / 4096)).2 = []) :
    exec (.hebribryReadReceive src off ext) s = .next (s.packetIn.send (.readAnswer src off (s.tileRaw ext (off / 4096)).1)) := by
  have hloose' : s.packetIn.regionAt (off / 4096) = none := hloose
  have hraw : s.packetIn.tileRaw ext (off / 4096) = s.tileRaw ext (off / 4096) := rfl
  show execHebribryReadReceive src off ext s = _
  simp [execHebribryReadReceive, haligned, hwhole, not_le.mpr hin, hloose', hraw, hclean]

theorem execHebribryReadReceive_of_region {s1 : State} {j : Nat} {r : Region} {v : List Byte} (hregion : s.regionAt (off / 4096) = some (j, r))
    (hread : s.packetIn.readTile ext j r (off / 4096 - r.tileBase) = (some v, s1)) :
    exec (.hebribryReadReceive src off ext) s = .next (s1.send (.readAnswer src off v)).settle := by
  have hregion' : s.packetIn.regionAt (off / 4096) = some (j, r) := hregion
  show execHebribryReadReceive src off ext s = _
  simp [execHebribryReadReceive, haligned, hwhole, not_le.mpr hin, hregion', hread]
end

/-! ## RESERVED_TYPE_PACKET (R148) -/

section
variable {s : State} {src : Nat} {v : List Byte} (haligned : s.aligned = true)
include haligned

theorem execReservedTypePacket_of_broken (hbroken : trailerOk v = false) :
    exec (.reservedTypePacket src v) s = .next (s.packetIn.bump (qtrCnt 4)) := by
  show execReservedTypePacket src v s = _
  simp [execReservedTypePacket, haligned, hbroken]

theorem execReservedTypePacket_of_reserved (hwhole : trailerOk v = true) (htyp : (Hdr.parse v).typ = 0 ∨ 6 < (Hdr.parse v).typ) :
    exec (.reservedTypePacket src v) s = .next (s.packetIn.bump (qtrCnt 5)) := by
  show execReservedTypePacket src v s = _
  simp [execReservedTypePacket, haligned, hwhole, htyp]
end

/-! ## The statement -/

/-- Settles O51: each command runs one case of its meaning, and the clauses read off what the packets sent, the end of a READ and its next try
leave. -/
theorem readsAnswersAndPeers : Obligations.ReadsAnswersAndPeers := by
  refine ⟨fun s src off v ext hoff => ?unaligned, ⟨?read, ?answer, ?retry⟩, ?peer, ?reserved⟩
  case unaligned =>
    exact ⟨execAccumPacketReceive_of_unaligned hoff src v, execAckPacketReceive_of_unaligned hoff src v,
      execReadPacketReceive_of_unaligned hoff src v ext, execReadDataReceive_of_unaligned hoff src v, execLarkReceive_of_unaligned hoff src v,
      execReportReceive_of_unaligned hoff src v, execHebribryReadReceive_of_unaligned hoff src ext off,
      execReservedTypePacket_of_unaligned hoff src v⟩
  case read =>
    intro s src v ext h haligned hh hwhole htyp hcls
    subst hh
    have hexec := execReadPacketReceive_of_background (src := src) (ext := ext) haligned hwhole htyp hcls
    have hslow : (Hdr.parse v).cls ≠ 0 := by omega
    refine ⟨fun habsent => ?absent, fun j r d s1 hmember hjob hview hsender hepoch hstripe hstored hfirst hread => ?current⟩
    case absent =>
      rw [State.serveRead_of_absent (s := s.packetIn) habsent] at hexec
      obtain ⟨hmem, hregions, htx⟩ := State.refuseRead_does (s := s.packetIn) (src := src) (since := s.now) hslow none stStaleEpoch
      exact ⟨_, hexec, by rw [htx]; simp, hmem, hregions⟩
    case current =>
      rw [State.serveRead_of_current (s := s.packetIn) ⟨hmember, hjob, hview, hsender, hepoch, hstripe, hstored, hfirst⟩ hread] at hexec
      obtain ⟨hmem, l, htx, hlen⟩ := State.answerRead_does (s := s1) (src := src) (since := s.now) hslow r d
      exact ⟨_, hexec, by rw [htx, List.length_append, hlen], by rw [htx, List.take_left], hmem⟩
  case answer =>
    intro s src v h q o haligned hh hwhole htyp hslot hseq hdst ho
    subst hh
    have ha : s.AnswersRead src v q := ⟨haligned, hwhole, htyp, hslot, hseq, hdst⟩
    have ho' : s.packetIn.op? q.op = some o := ho
    have hends := s.packetIn.endRead_leaves (Hdr.parse v).sctx
    refine ⟨fun hkeep => ⟨fun hlen hst => ?refusedWord, fun hlen hroom hnew hall => ?filledWord⟩,
      fun hkeep => ⟨fun hlen => ?refusedUnit, fun hlen hroom hnew hall => ?filledUnit⟩, fun hlen hroom hnew hmore => ?more⟩
    case refusedWord =>
      obtain ⟨hfree, hmem, -⟩ := hends q (field (payloadOf v) 0 2) []
      refine ⟨_, execReadDataReceive_of_refusal ha hlen, hfree, hmem, ?_⟩
      rw [State.slot_endRead ho' hkeep, Slot.ofRead, if_neg hst]
    case filledWord =>
      obtain ⟨hfree, hmem, -⟩ := hends (q.take (Hdr.parse v) (payloadOf v)) stOk _
      exact ⟨_, execReadDataReceive_of_last ha hlen hroom hnew hall, hfree, hmem,
        State.slot_endRead (q := q.take (Hdr.parse v) (payloadOf v)) ho' hkeep⟩
    case refusedUnit =>
      obtain ⟨hfree, hmem, -⟩ := hends q (field (payloadOf v) 0 2) []
      exact ⟨_, execReadDataReceive_of_refusal ha hlen, hfree, hmem, State.got_endRead ho' hkeep⟩
    case filledUnit =>
      obtain ⟨hfree, hmem, -⟩ := hends (q.take (Hdr.parse v) (payloadOf v)) stOk _
      exact ⟨_, execReadDataReceive_of_last ha hlen hroom hnew hall, hfree, hmem,
        State.got_endRead (q := q.take (Hdr.parse v) (payloadOf v)) ho' hkeep⟩
    case more =>
      refine ⟨_, execReadDataReceive_of_more ha hlen hroom hnew hmore, rfl, rfl, ?_⟩
      rw [Tab.get_set_self]
      rfl
  case retry =>
    intro s slot q o hq ho
    refine ⟨fun hlimit => ?limit, fun hdue htries hearly hcls => ?again⟩
    case limit =>
      have ho' : (s.countPath (dstKey q.node q.agent) q.path 0 (bit (decide (q.due ≤ s.now)))).op? q.op = some o := ho
      obtain ⟨hfree, -, htx⟩ := (s.countPath (dstKey q.node q.agent) q.path 0 (bit (decide (q.due ≤ s.now)))).endRead_leaves slot q
        (if q.keep then readFailed else stPathFailed) []
      refine ⟨_, execReadRetryTimeout_of_limit hq hlimit, hfree, htx, fun hkeep => ?_, fun hkeep => ?_⟩
      · rw [State.slot_endRead ho' hkeep, hkeep]
        rfl
      · rw [State.got_endRead ho' hkeep, hkeep]
        rfl
    case again =>
      obtain ⟨x, hexec⟩ := execReadRetryTimeout_of_due hq hdue htries hearly hcls
      obtain ⟨hops, hmem, htx, hget⟩ := s.beginRetry_does slot q
      refine ⟨_, hexec, hops, hmem, ?_, ?_⟩
      · rw [State.send_port, htx, List.length_append, List.length_singleton]
      · rw [State.send_port, hget]
        rfl
  case peer =>
    intro s src off ext haligned
    refine ⟨fun hbad => ?_, fun hwhole hin hloose hclean => ?_, fun j r v s1 hwhole hin hregion hread => ?_⟩
    · exact ⟨_, execHebribryReadReceive_of_bad haligned hbad, List.append_assoc _ _ _, rfl, rfl⟩
    · exact ⟨_, execHebribryReadReceive_of_loose haligned hwhole hin hloose hclean, List.append_assoc _ _ _, rfl, rfl⟩
    · exact ⟨_, execHebribryReadReceive_of_region haligned hwhole hin hregion hread, rfl, rfl⟩
  case reserved =>
    exact fun s src v haligned =>
      ⟨execReservedTypePacket_of_broken haligned, execReservedTypePacket_of_reserved haligned⟩

end Sys2Proof.Machine
end

section
/-! SUPPORT. What slots of the rick give (R233 to R237): a slot that is put, and a header that is written; and fields of strings in parts. -/

namespace Sys2Proof.Machine

theorem State.SignalsOnly.refl (s : State) : s.SignalsOnly s := rfl

section
variable {s t : State} (h : s.SignalsOnly t)
include h
theorem State.SignalsOnly.snap_eq : t.snap = s.snap := by rw [h]
theorem State.SignalsOnly.regions_eq : t.regions = s.regions := by rw [h]
theorem State.SignalsOnly.strap_eq : t.strap = s.strap := by rw [h]
end

section
variable {s t : State} (h : s.EndsOnly t)
include h
theorem State.EndsOnly.snap_eq : t.snap = s.snap := by rw [h]
theorem State.EndsOnly.strap_eq : t.strap = s.strap := by rw [h]
end

/-- A field beyond the first part of a string is one of the rest. -/
theorem field_append_right {v w : List Byte} {off : Nat} (n : Nat) (h : v.length ≤ off) : field (v ++ w) off n = field w (off - v.length) n := by
  rw [field, slice, List.drop_append, List.drop_of_length_le h, List.nil_append]
  rfl

/-- A field at the start of a string reads the number written there. -/
theorem field_leBytes_append (n a : Nat) (w : List Byte) : field (leBytes n a ++ w) 0 n = a % 256 ^ n := by
  have hfield := field_middle [] (leBytes n a) w
  rwa [List.nil_append, List.length_nil, leBytes_length, leNat_leBytes] at hfield

section
variable {s t : State}

theorem State.stackRead_congr (hmem : t.mem = s.mem) (hstrap : t.strap = s.strap) (off n : Nat) : t.stackRead off n = s.stackRead off n := by
  rw [State.stackRead, State.stackRead, State.stackAddr, State.stackAddr, hmem, hstrap]

theorem State.slotTile_congr (hregions : t.regions = s.regions) (x : Nat) : t.slotTile x = s.slotTile x := by
  rw [State.slotTile, State.slotTile, State.rick, State.rick, hregions]

theorem State.tilesOf_congr (hregions : t.regions = s.regions) (l : List Nat) : t.tilesOf l = s.tilesOf l := by
  rw [State.tilesOf, State.tilesOf, hregions]

theorem State.slotHeader_congr (hmem : t.mem = s.mem) (hstrap : t.strap = s.strap) (hregions : t.regions = s.regions) (x : Nat) :
    t.slotHeader x = s.slotHeader x := by
  rw [State.slotHeader, State.slotHeader, State.slotTile_congr hregions, State.stackRead_congr hmem hstrap]

theorem State.snapSlot_congr (hsnap : t.snap = s.snap) (x : Nat) : t.snapSlot x = s.snapSlot x := by
  rw [State.snapSlot, State.snapSlot, hsnap]
end

section
variable (s : State) (x : Nat)

theorem State.stackAddr_add (a b : Nat) : s.stackAddr (a + b) = s.stackAddr a + b := (Nat.add_assoc _ _ _).symm

theorem State.snapSlot_putSlot (v : SnapSlot) : (s.putSlot x v).snapSlot x = v := by
  unfold State.putSlot State.snapSlot
  split <;> rfl

/-- A header written to a slot is the slot's header (R235). -/
theorem State.slotHeader_stackWrite {v : List Byte} (hv : v.length = 64) : (s.stackWrite ((s.slotTile x).1 * 4096) v).slotHeader x = v :=
  Eq.trans (by rw [State.slotHeader, State.slotTile_congr (s.stackWrite_regions _ v), hv]) (s.stackRead_stackWrite_self _ v)

variable (st : SnapState)

theorem State.snapSlot_setSlotState : (s.setSlotState x st).snapSlot x = { s.snapSlot x with st := st } :=
  s.snapSlot_putSlot x _

/-- The header of a slot whose STATE changes holds its code (Tables 8-2, 8-4). -/
theorem State.state_of_setSlotState : field ((s.setSlotState x st).slotHeader x) 4 1 = st.code % 256 := by
  have hlen : (s.stackRead ((s.slotTile x).1 * 4096) 64).length = 64 := memRead_length _ _ _
  have hhead : (s.setSlotState x st).slotHeader x =
      (splice (s.stackRead ((s.slotTile x).1 * 4096) 64) 4 (leBytes 1 st.code)).take 56 ++
        s.headerCrc x (splice (s.stackRead ((s.slotTile x).1 * 4096) 64) 4 (leBytes 1 st.code)) := by
    refine State.slotHeader_stackWrite (s.putSlot x { s.snapSlot x with st := st }) x ?_
    rw [List.length_append, List.length_take, splice_length _ _ _ (by rw [leBytes_length, hlen]; decide), hlen, State.headerCrc, leBytes_length]
    rfl
  rw [hhead, splice, List.append_assoc, List.take_append, List.take_append, List.append_assoc, List.append_assoc,
    field_append_right 1 (by simp [hlen])]
  simp [hlen, leBytes_length, List.take_of_length_le, field_leBytes_append]

end

end Sys2Proof.Machine
end

section
/-! The statement of SNAP_CUT: O32. The checks of a cut and its map (R243, R244), the freeze edge, and its ends before it (R246). -/

namespace Sys2Proof.Machine

/-! ## SNAP_CUT (R240 to R244) -/

/-- The cut that a SNAP_CUT begins in slot x. -/
def State.newCut (s : State) (o : Op) (x : Nat) : Cut :=
  { op := o.id, slot := x, step := o.step, scope := o.arg 24 1, mask := o.arg 16 8, regions := s.scoped (o.arg 24 1) (o.arg 16 8)
    frozen := none, seq := 0, next := 0, held := s.tap.nextId }

/-- A cut that begins zeroes its map, stands, and waits for stillness; beside that the sequencers and a counter change. -/
theorem State.beginCut_changes (s : State) (o : Op) (x : Nat) : ∃ q r, s.beginCut o x =
    { ({ s.zeroMap (s.newCut o x) with snap := { s.snap with cut := some (s.newCut o x) } } : State).modOp o.id
        (fun o => { o with stage := .waitStill s.now, cursor := 0 }) with seqs := q, regs := r } := by
  obtain ⟨q, r, h⟩ := ({ s.zeroMap (s.newCut o x) with snap := { s.snap with cut := some (s.newCut o x) } } : State).park_changes o.id
    (fun o => { o with stage := .waitStill s.now, cursor := 0 })
  refine ⟨q, r, ?_⟩
  rw [← h]
  rfl

/-- Its operation waits for stillness (R244). -/
theorem State.stage_beginCut {s : State} {op : Nat} {o : Op} (x : Nat) (ho : s.op? op = some o) :
    ((s.beginCut o x).op? op).map (fun y => y.stage) = some (.waitStill s.now) := by
  have hid := State.op?_some_id ho
  subst hid
  obtain ⟨q, r, hbegin⟩ := s.beginCut_changes o x
  rw [hbegin]
  exact congrArg _ (State.op?_modOp_self (f := fun o => { o with stage := .waitStill s.now, cursor := 0 })
    (s := { s.zeroMap (s.newCut o x) with snap := { s.snap with cut := some (s.newCut o x) } }) ho fun _ => rfl)

/-- The bytes of the map tiles of a cut are 0, and every other byte is as before (R244, R247). -/
theorem State.byteAt_zeroMap (s : State) (c : Cut) (a : Nat) : byteAt (s.zeroMap c).mem a =
    if s.tileAddr ((s.slotTile c.slot).1 + 3) ≤ a ∧ a < s.tileAddr ((s.slotTile c.slot).1 + 3 + mapTiles (s.tilesOf c.regions)) then 0#8
    else byteAt s.mem a := by
  have hstart : s.mapOff c.slot 0 = ((s.slotTile c.slot).1 + 3) * 4096 := by rw [State.mapOff, Nat.zero_div, Nat.add_zero]
  rw [State.zeroMap, State.stackZero_mem, byteAt_memZero, hstart]
  simp only [State.tileAddr, Nat.add_mul, State.stackAddr_add]

/-- An AUTO cut that is due, with room in the log, is not put off (R263). -/
theorem Op.auto_passes {s : State} {o : Op} (hdue : o.fAuto = true → s.snap.interval ≤ s.elapsed ∧ s.auditFull = false) :
    (o.fAuto && (decide (s.elapsed < s.snap.interval) || s.auditFull)) = false := by
  cases hauto : o.fAuto with
  | false => rfl
  | true => simp [hdue hauto]

section
variable {s : State} {op units : Nat} {o : Op} (hwork : s.work op 0x40 = some o) (hstage : o.stage = .fresh)
include hwork hstage

theorem execSnapCut_of_malformed (hbad : o.cutMalformed = true) : exec (.snapCut op units) s = .next (s.fail o stNotSupported) := by
  show execSnapCut op units s = _
  simp [execSnapCut, hwork, hstage, hbad]

variable (hform : o.cutMalformed = false)
include hform

theorem execSnapCut_of_early (hauto : o.fAuto = true) (hearly : s.elapsed < s.snap.interval) :
    exec (.snapCut op units) s = .next (s.finish o stOk 0 0 0xFF) := by
  show execSnapCut op units s = _
  simp [execSnapCut, hwork, hstage, hform, hauto, hearly]

variable (hdue : o.fAuto = true → s.snap.interval ≤ s.elapsed ∧ s.auditFull = false)
include hdue

theorem execSnapCut_of_conflict (hconflict : s.cutConflict o = true) : exec (.snapCut op units) s = .next (s.fail o stConflict) := by
  have hnow := Op.auto_passes hdue
  show execSnapCut op units s = _
  simp [execSnapCut, hwork, hstage, hform, hnow, hconflict]

theorem execSnapCut_of_passes {x : Nat} (hconflict : s.cutConflict o = false) (hpick : s.pickSlot (o.arg 25 1) = some x) :
    exec (.snapCut op units) s = .next (s.beginCut o x).settle := by
  have hnow := Op.auto_passes hdue
  show execSnapCut op units s = _
  simp [execSnapCut, hwork, hstage, hform, hnow, hconflict, hpick]
end

/-! ## The freeze edge (R244 to R246) -/

/-- Where a cut stands before its freeze edge: its operation runs and waits, its waits are over, and a DEVICE cut is in time. -/
structure State.Freezing (s : State) (op : Nat) (o : Op) (c : Cut) : Prop where
  waiting : s.waiting op 0x40 = some o
  cut : s.snap.cut = some c
  own : c.op = op
  unfrozen : c.frozen = none
  running : o.st = .running
  ready : s.freezeReady c = true
  room : o.fAuto = true → s.auditFull = false
  free : (s.snapSlot c.slot).st ≠ .draining
  inTime : ∀ since, o.stage = .waitStill since → c.scope = 2 → s.now ≤ since + 1000000

theorem execSnapFreeze_of_freezing {s : State} {op : Nat} {o : Op} {c : Cut} (h : s.Freezing op o c) :
    exec (.snapFreeze op) s = .next (if s.cutSlotOk c then (s.freeze o c).settle else s.endEarly o) := by
  obtain ⟨hwait, hcut, hown, hfrozen, hrun, hready, hroom, hfree, htime⟩ := h
  have haudit : (o.fAuto && s.auditFull) = false := by
    cases hauto : o.fAuto with
    | false => rfl
    | true => rw [hroom hauto]; rfl
  show execSnapFreeze op s = _
  simp only [execSnapFreeze, hwait, hcut, hown, hfrozen, hrun, hready, haudit, bne_iff_ne.mpr hfree]
  refine congrArg _ (if_pos ?_)
  split
  next since hstage =>
    by_cases hscope : c.scope = 2
    · simp [not_lt.mpr (htime since hstage hscope)]
    · simp [hscope]
  next => simp


/-- The bytes of the header that a freeze edge writes, but for its CRC (Table 8-2). -/
def State.frozenHead (s : State) (o : Op) (c : Cut) (es : List SnapEntry) : List Byte :=
  leBytes 4 0x5759534C ++ leBytes 1 1 ++ leBytes 1 c.scope ++ leBytes 2 es.length ++ leBytes 6 c.step ++ leBytes 2 o.jobTag ++
    leBytes 8 c.mask ++ leBytes 6 s.now ++ zeros 2 ++ leBytes 8 (digestSumOf es) ++ leBytes 8 (s.snap.seq + 1) ++ leBytes 4 s.sourceWord ++
    zeros 4

/-- The rick with the slot of a cut FILLING and the cut frozen (R244). -/
def State.frozenSnap (s : State) (c : Cut) : Snap :=
  { (s.putSlot c.slot ⟨.filling, c.scope, s.snap.seq + 1⟩).snap with
    seq := s.snap.seq + 1, lastFreeze := some s.now, cut := some { c with frozen := some s.now, seq := s.snap.seq + 1 } }

/-- The state of a cut at its freeze edge: `w` with a header and the frozen rick of `s`, and the copy under way. -/
def State.frozen (s w : State) (o : Op) (c : Cut) (head : List Byte) : State :=
  ({ w.stackWrite ((s.slotTile c.slot).1 * 4096) head with snap := s.frozenSnap c } : State).modOp o.id (fun o => { o with stage := .copying })

/-- A freeze edge writes what a DEVICE cut saves, the directory and the header; an AUTO cut forms its record (R244). -/
theorem State.freeze_changes (s : State) (o : Op) (c : Cut) : ∃ (es : List SnapEntry) (crc : List Byte) (m : Tab Byte) (f : Nat) (l : List Saved),
    crc.length = 8 ∧ s.freeze o c = if o.fAuto then
      (s.frozen { s with mem := m, free := f, saves := l } o c (s.frozenHead o c es ++ crc)).auditForm 0 4 4 0x20 4 (c.slot + 2 * c.step) 0 false
      else s.frozen { s with mem := m, free := f, saves := l } o c (s.frozenHead o c es ++ crc) := by
  unfold State.freeze
  extract_lets seq t first base s0 ctx es s1 h s2 s3 s4 s5
  have hs0 : ∃ m f l, s0 = { s with mem := m, free := f, saves := l } := by
    unfold s0
    split <;> exact ⟨_, _, _, rfl⟩
  clear_value s0
  obtain ⟨m, f, l, rfl⟩ := hs0
  exact ⟨es, s1.headerCrc c.slot h, s1.mem, f, l, leBytes_length _ _, rfl⟩

theorem State.snapSlot_frozen (s w : State) (o : Op) (c : Cut) (head : List Byte) :
    (s.frozen w o c head).snapSlot c.slot = ⟨.filling, c.scope, s.snap.seq + 1⟩ := s.snapSlot_putSlot c.slot _

theorem State.frozenHead_length (s : State) (o : Op) (c : Cut) (es : List SnapEntry) : (s.frozenHead o c es).length = 56 := by
  simp [State.frozenHead, leBytes_length, zeros_length]

/-- The header of a frozen cut names its magic, its STATE, its scope and its step (Table 8-2). -/
theorem State.fields_frozenHead (s : State) (o : Op) (c : Cut) (es : List SnapEntry) (crc : List Byte) :
    field (s.frozenHead o c es ++ crc) 0 4 = 0x5759534C ∧ field (s.frozenHead o c es ++ crc) 4 1 = 1 ∧
    field (s.frozenHead o c es ++ crc) 5 1 = c.scope % 256 ∧ field (s.frozenHead o c es ++ crc) 8 6 = c.step % 2 ^ 48 := by
  simp [State.frozenHead, List.append_assoc, field_append_right, leBytes_length, field_leBytes_append]

/-- A freeze edge takes the state to the frozen one but for signals, and with room in the audit buffer memory too (R244, R455). -/
theorem State.freeze_does (s : State) (o : Op) (c : Cut) : ∃ (es : List SnapEntry) (crc : List Byte) (w : State), crc.length = 8 ∧
    w.regions = s.regions ∧ w.ops = s.ops ∧ (s.frozen w o c (s.frozenHead o c es ++ crc)).SignalsOnly (s.freeze o c) ∧
    (s.auditRoom → (s.freeze o c).mem = (s.frozen w o c (s.frozenHead o c es ++ crc)).mem) := by
  obtain ⟨es, crc, m, f, l, hcrc, hfreeze⟩ := s.freeze_changes o c
  refine ⟨es, crc, { s with mem := m, free := f, saves := l }, hcrc, rfl, rfl, ?_⟩
  have hused : (s.frozen { s with mem := m, free := f, saves := l } o c (s.frozenHead o c es ++ crc)).auditUsed = s.auditUsed := rfl
  rw [hfreeze]
  generalize s.frozen _ o c _ = u at hused
  split
  · exact ⟨State.signalsOnly_auditForm _ _ _ _ _ _ _ _ _, fun hroom =>
      (State.records_auditForm _ _ _ _ _ _ _ _ (hused.trans_lt (Nat.lt_of_le_of_lt (Nat.le_add_right _ _) hroom))).1⟩
  · exact ⟨.refl u, fun _ => rfl⟩

/-- A cut that ends before its freeze edge completes with CONFIG_CONFLICT and leaves no cut (R246). -/
theorem State.endEarly_does (s : State) {o : Op} {op : Nat} (hid : o.id = op) : ∃ u : State, s.endEarly o = u.settle ∧
    u.completed op stConflict 0 0 ∧ u.snap.cut = none ∧ u.regions = s.regions := by
  have hends := ({ s with snap := { s.snap with cut := none } } : State).endsOnly_fail o stConflict
  refine ⟨_, rfl, (State.fail_does _ hid rfl).2.2, ?_, hends.regions_eq⟩
  rw [hends.snap_eq]

theorem execSnapStillnessTimeout_of_past {s : State} {op since : Nat} {o : Op} {c : Cut} (hwait : s.waiting op 0x40 = some o)
    (hcut : s.snap.cut = some c) (hown : c.op = op) (hscope : c.scope = 2) (hfrozen : c.frozen = none) (hstage : o.stage = .waitStill since)
    (hpast : s.past since 1000000 = true) (hready : s.freezeReady c = false) :
    exec (.snapStillnessTimeout op) s = .next (s.endEarly o) := by
  show execSnapStillnessTimeout op s = _
  simp [execSnapStillnessTimeout, hwait, hcut, hown, hscope, hfrozen, hstage, hpast, hready]

/-! ## The statement -/

/-- Settles O32: a cut begins with its map zeroed, freezes with its slot and header written, or ends before with CONFIG_CONFLICT. -/
theorem snapCutAndFreeze : Obligations.SnapCutAndFreeze := by
  refine ⟨fun s op units o hwork hstage => ⟨?begins, ?malformed, ?early, ?conflict⟩, ?freezes, ?lost, ?timeout⟩
  case begins =>
    intro x hform hdue hconflict hpick
    obtain ⟨q, r, hbegin⟩ := s.beginCut_changes o x
    refine ⟨_, execSnapCut_of_passes hwork hstage hform hdue hconflict hpick, State.stage_beginCut x (State.op?_of_work hwork), ?_, ?_,
      fun a ha => ?_, fun a hlo hhi => ?_⟩ <;> rw [hbegin]
    · rfl
    · rfl
    · exact (s.byteAt_zeroMap (s.newCut o x) a).trans (if_neg fun h => ha.elim (not_lt.mpr h.1) (not_le.mpr h.2))
    · exact (s.byteAt_zeroMap (s.newCut o x) a).trans (if_pos ⟨hlo, hhi⟩)
  case malformed =>
    intro hbad
    exact ⟨_, execSnapCut_of_malformed hwork hstage hbad, (State.fail_does _ (State.id_of_work hwork) rfl).2.2, (s.endsOnly_fail o _).snap_eq⟩
  case early =>
    intro hform hauto hearly
    exact ⟨_, execSnapCut_of_early hwork hstage hform hauto hearly,
      State.id_of_work hwork ▸ s.completed_finish_ok o 0 0 0xFF, (s.endsOnly_finish o _ _ _ _).snap_eq⟩
  case conflict =>
    intro hform hauto hconflict
    exact ⟨_, execSnapCut_of_conflict hwork hstage hform (by simp [hauto]) hconflict, (State.fail_does _ (State.id_of_work hwork) rfl).2.2, (s.endsOnly_fail o _).snap_eq⟩
  case freezes =>
    intro s op o c hwait hcut hown hfrozen hrun hready hroom hok htime
    have hfree : (s.snapSlot c.slot).st ≠ .draining := fun h => by simp [State.cutSlotOk, h] at hok
    have hexec := execSnapFreeze_of_freezing ⟨hwait, hcut, hown, hfrozen, hrun, hready, hroom, hfree, htime⟩
    rw [hok, if_pos rfl] at hexec
    obtain ⟨ho, hid, -⟩ := State.of_waiting hwait
    obtain ⟨es, crc, w, hcrc, hregions, hops, honly, hmem⟩ := s.freeze_does o c
    refine ⟨_, hexec, ?_, ?_, ?_, ?_, ?_, honly.regions_eq.trans hregions, fun haudit => ?_⟩
    · rw [State.op?, honly.ops_eq]
      have hop := State.op?_modOp_self (f := fun o => { o with stage := .copying }) (s := w) (by rw [State.op?, hops]; exact ho) fun _ => rfl
      rw [← hid] at hop ⊢
      exact congrArg _ hop
    · rw [State.snapSlot_congr honly.snap_eq, State.snapSlot_frozen]
    · rw [honly.snap_eq]; rfl
    · rw [honly.snap_eq]; rfl
    · rw [honly.snap_eq]; rfl
    · have hhead : (s.freeze o c).slotHeader c.slot = s.frozenHead o c es ++ crc := by
        rw [State.slotHeader_congr (hmem haudit) honly.strap_eq honly.regions_eq, State.frozen, ← State.slotTile_congr hregions]
        exact w.slotHeader_stackWrite c.slot (by rw [List.length_append, State.frozenHead_length, hcrc])
      rw [hhead]
      exact s.fields_frozenHead o c es crc
  case lost =>
    intro s op o c hwait hcut hown hfrozen hrun hready hroom hok hfree htime
    have hexec := execSnapFreeze_of_freezing ⟨hwait, hcut, hown, hfrozen, hrun, hready, hroom, hfree, htime⟩
    obtain ⟨u, hend, hdone⟩ := s.endEarly_does (State.of_waiting hwait).2.1
    rw [hok, if_neg (by decide), hend] at hexec
    exact ⟨u, hexec, hdone⟩
  case timeout =>
    intro s op since o c hwait hcut hown hscope hfrozen hstage hpast hready
    obtain ⟨u, hend, hdone⟩ := s.endEarly_does (State.of_waiting hwait).2.1
    exact ⟨u, (execSnapStillnessTimeout_of_past hwait hcut hown hscope hfrozen hstage hpast hready).trans (congrArg _ hend), hdone⟩

end Sys2Proof.Machine
end

section
/-! SUPPORT. What the copy-on-write map gives (R247): codes that are set, and the place of a copied tile. -/

namespace Sys2Proof.Machine

/-- The digits of a number to base 4, as the codes of one byte of the map. -/
theorem digit_of_sum {f : Nat → Nat} (hf : ∀ q, f q < 4) {j : Nat} (hj : j < 4) :
    ((List.range 4).map (fun q => f q * 4 ^ q)).sum < 256 ∧ bits ((List.range 4).map (fun q => f q * 4 ^ q)).sum (2 * j) 2 = f j := by
  have hsum : ((List.range 4).map (fun q => f q * 4 ^ q)).sum = f 0 + 4 * f 1 + 16 * f 2 + 64 * f 3 := by
    simp [List.range_succ]
    omega
  have h0 := hf 0
  have h1 := hf 1
  have h2 := hf 2
  have h3 := hf 3
  rw [hsum, bits]
  refine ⟨by omega, ?_⟩
  interval_cases j <;> norm_num <;> omega

section
variable (s : State) (c : Cut)

theorem State.mapCode_lt (k : Nat) : s.mapCode c k < 4 := Nat.mod_lt _ (by decide)

/-- The address of the code of a copy index: one byte of the map holds four. -/
theorem State.mapAddr_eq (x i : Nat) : s.stackAddr (s.mapOff x i) = s.tileAddr ((s.slotTile x).1 + 3) + i / 4 := s.stackAddr_add _ _

/-- A code is read from its byte of the map (R247). -/
theorem State.mapCode_eq (k : Nat) : s.mapCode c k = bits (byteAt s.mem (s.stackAddr (s.mapOff c.slot k))).toNat (2 * (k % 4)) 2 := by
  simp [State.mapCode, State.stackRead, memRead, leNat]

/-- One byte of the map, with the codes of four copy indices, those from i to i + n set (R247). -/
def State.mapByte (i n code b : Nat) : Byte :=
  BitVec.ofNat 8 (((List.range 4).map (fun q => (if i ≤ 4 * b + q ∧ 4 * b + q < i + n then code else s.mapCode c (4 * b + q)) * 4 ^ q)).sum)

/-- A byte of the map holds the code set for each copy index in the range. -/
theorem State.code_of_mapByte {i n code k : Nat} (hcode : code < 4) (hlo : i ≤ k) (hhi : k < i + n) :
    bits (s.mapByte c i n code (k / 4)).toNat (2 * (k % 4)) 2 = code := by
  have hdigits : ∀ q, (if i ≤ 4 * (k / 4) + q ∧ 4 * (k / 4) + q < i + n then code else s.mapCode c (4 * (k / 4) + q)) < 4 := fun q => by
    split
    · exact hcode
    · exact s.mapCode_lt c _
  obtain ⟨hsmall, hdigit⟩ := digit_of_sum hdigits (Nat.mod_lt k (by decide : 0 < 4))
  rw [State.mapByte, BitVec.toNat_ofNat, Nat.mod_eq_of_lt hsmall, hdigit, Nat.div_add_mod, if_pos ⟨hlo, hhi⟩]

theorem State.setCodes_eq (i n code : Nat) : s.setCodes c i n code =
    s.stackWrite (s.mapOff c.slot i) ((List.range ((i + n + 3) / 4 - i / 4)).map (fun b => s.mapByte c i n code (i / 4 + b))) := rfl

/-- A copy index whose code is set has it (R247). -/
theorem State.mapCode_setCodes {i n code k : Nat} (hcode : code < 4) (hlo : i ≤ k) (hhi : k < i + n) :
    (s.setCodes c i n code).mapCode c k = code := by
  have hstart : i / 4 ≤ k / 4 := Nat.div_le_div_right hlo
  have hend : k / 4 - i / 4 < (i + n + 3) / 4 - i / 4 := by omega
  have hoff : (s.setCodes c i n code).stackAddr ((s.setCodes c i n code).mapOff c.slot k) = s.stackAddr (s.mapOff c.slot k) := by
    rw [State.mapAddr_eq, State.mapAddr_eq, State.slotTile_congr (s := s) (t := s.setCodes c i n code) rfl]
    rfl
  have hat : s.stackAddr (s.mapOff c.slot k) - s.stackAddr (s.mapOff c.slot i) = k / 4 - i / 4 := by
    rw [State.mapAddr_eq, State.mapAddr_eq]
    omega
  have hin : s.stackAddr (s.mapOff c.slot i) ≤ s.stackAddr (s.mapOff c.slot k) ∧
      s.stackAddr (s.mapOff c.slot k) < s.stackAddr (s.mapOff c.slot i) + ((i + n + 3) / 4 - i / 4) := by
    rw [State.mapAddr_eq, State.mapAddr_eq]
    omega
  rw [State.mapCode_eq, hoff, State.setCodes_eq, State.byteAt_stackWrite, List.length_map, List.length_range, if_pos hin, hat,
    List.getD_eq_getElem _ _ (by simpa using hend)]
  simpa [Nat.add_sub_cancel' hstart] using s.code_of_mapByte c hcode hlo hhi

theorem State.copyPlace_congr {s t : State} (h : t.regions = s.regions) (l : List Nat) (i : Nat) : t.copyPlace l i = s.copyPlace l i := by
  induction l generalizing i with
  | nil => rfl
  | cons j l ih => simp only [State.copyPlace, h, ih]

/-- A copy index that has a place is below the tiles of its regions. -/
theorem State.lt_tilesOf_of_copyPlace {l : List Nat} {i : Nat} {p : Nat × Region × Nat} (h : s.copyPlace l i = some p) : i < s.tilesOf l := by
  induction l generalizing i with
  | nil => cases h
  | cons j l ih =>
    have hsum : s.tilesOf (j :: l) = ((s.regions.get j).map (·.tileCount)).getD 0 + s.tilesOf l := rfl
    rw [hsum]
    rw [State.copyPlace] at h
    split at h
    next => exact Nat.lt_add_left _ (ih h)
    next r hr =>
      rw [hr, Option.map_some, Option.getD_some]
      split at h
      next hin => exact Nat.lt_add_right _ hin
      next => have := ih h; omega
end

end Sys2Proof.Machine
end

section
/-! The statement of COPY_COMPLETION: O33. What the end of a copy command leaves of its tiles, its tag and its cut (R239, R248 to R250). -/

namespace Sys2Proof.Machine

/-! ## Moved tiles (R239) -/

/-- A tile that is moved changes memory alone. -/
theorem State.moveTile_changes (s : State) (c : Cut) (i : Nat) : ∃ m, s.moveTile c i = { s with mem := m } := by
  unfold State.moveTile
  split
  · extract_lets
    split
    · split <;> exact ⟨_, rfl⟩
    · exact ⟨_, rfl⟩
  · exact ⟨s.mem, rfl⟩

theorem State.moveTiles_change (s : State) (c : Cut) (i : Nat) (l : List Nat) :
    ∃ m, l.foldl (fun (u : State) n => u.moveTile c (i + n)) s = { s with mem := m } := by
  refine List.foldlRecOn (motive := fun u : State => ∃ m, u = { s with mem := m }) l _ ⟨s.mem, rfl⟩ ?_
  rintro _ ⟨m, rfl⟩ n -
  obtain ⟨m', h⟩ := ({ s with mem := m } : State).moveTile_changes c (i + n)
  exact ⟨m', h⟩

/-- The stack tile of copy index i in the slot of a cut (R233, R239). -/
abbrev State.copyTo (s : State) (c : Cut) (i : Nat) : Nat := (s.slotTile c.slot).1 + 3 + mapTiles (s.tilesOf c.regions) + i

/-- An unguarded tile is moved by the write of its bytes at its place in the slot (R239). -/
theorem State.moveTile_bare {s : State} {c : Cut} {i j t : Nat} {r : Region} {p : Nat × Region}
    (hplace : s.copyPlace c.regions i = some (j, r, t)) (hbare : r.guard = 0) (hrick : s.rick = some p) :
    s.moveTile c i = s.stackWrite (s.copyTo c i * 4096) (s.tileBytes r t) := by
  unfold State.moveTile
  rw [hplace, hrick]
  simp only [hbare, if_true]
  split <;> rfl

/-! ## The end of a copy command (R248, R250) -/

/-- A copy command that has ended: its tag is free. -/
def State.freeTag (s : State) (tag : Nat) : State := { s with snap := { s.snap with copies := s.snap.copies.del tag } }

/-- The tiles of a copy command that ended well are moved and COPIED, and CURSOR counts them. -/
def State.copied (s : State) (tag : Nat) (k : Copy) (c : Cut) (o : Op) : State :=
  (((List.range k.count).foldl (fun (u : State) n => u.moveTile c (k.first + n)) (s.freeTag tag)).setCodes c k.first k.count 2).modOp o.id
    (fun _ => { o with cursor := o.cursor + k.count })

section
variable {s : State} {tag : Nat} {k : Copy} {c : Cut} {o : Op}

theorem State.copied_changes : ∃ m, s.copied tag k c o =
    ((({ s.freeTag tag with mem := m } : State).setCodes c k.first k.count 2).modOp o.id (fun _ => { o with cursor := o.cursor + k.count })) := by
  obtain ⟨m, h⟩ := (s.freeTag tag).moveTiles_change c k.first (List.range k.count)
  exact ⟨m, by rw [State.copied, h]⟩

theorem State.snap_copied : (s.copied tag k c o).snap = { s.snap with copies := s.snap.copies.del tag } := by
  obtain ⟨m, h⟩ := State.copied_changes (s := s) (tag := tag) (k := k) (c := c) (o := o)
  rw [h]
  rfl

theorem State.regions_copied : (s.copied tag k c o).regions = s.regions := by
  obtain ⟨m, h⟩ := State.copied_changes (s := s) (tag := tag) (k := k) (c := c) (o := o)
  rw [h]
  rfl

theorem State.reg_copied (off : Nat) : (s.copied tag k c o).reg off = s.reg off := by
  obtain ⟨m, h⟩ := State.copied_changes (s := s) (tag := tag) (k := k) (c := c) (o := o)
  rw [h]
  rfl

/-- Every tile of the command is COPIED (R248). -/
theorem State.mapCode_copied {n : Nat} (hn : n < k.count) : (s.copied tag k c o).mapCode c (k.first + n) = 2 := by
  obtain ⟨m, h⟩ := State.copied_changes (s := s) (tag := tag) (k := k) (c := c) (o := o)
  rw [h]
  exact State.mapCode_setCodes _ c (by decide) (Nat.le_add_right _ _) (Nat.add_lt_add_left hn _)

/-- The operation with a number, once it is put in place of the one found. -/
theorem find?_map_set_id {l : List Op} {id : Nat} {o x : Op} (ho : l.find? (fun y => y.id == id) = some o) (hx : x.id = id) :
    (l.map (fun y => if y.id = id then x else y)).find? (fun y => y.id == id) = some x := by
  induction l with
  | nil => cases ho
  | cons y l ih =>
    rw [List.find?_cons] at ho
    rw [List.map_cons, List.find?_cons]
    by_cases hy : y.id = id
    · simp [hy, hx]
    · simp only [beq_eq_false_iff_ne.mpr hy, if_neg hy] at ho ⊢
      exact ih ho

theorem State.op?_copied {id : Nat} (ho : s.op? id = some o) : (s.copied tag k c o).op? id = some { o with cursor := o.cursor + k.count } := by
  obtain ⟨m, h⟩ := State.copied_changes (s := s) (tag := tag) (k := k) (c := c) (o := o)
  have hid := State.op?_some_id ho
  subst hid
  rw [h]
  exact find?_map_set_id (x := { o with cursor := o.cursor + k.count }) ho rfl
end

section
variable {s : State} {tag : Nat} {k : Copy} {c : Cut} {o : Op} (hk : s.snap.copies.get tag = some k) (hcut : s.snap.cut = some c)
  (hown : c.op = k.op) (ho : s.op? k.op = some o)
include hk hcut hown ho

/-- A copy command of the running cut that ends badly fails the cut; the last one ends it, or carries out its CANCEL (R248, R250). -/
theorem execCopyCompletion_of_own (status : Nat) : exec (.copyCompletion tag status) s = .next (
    if status ≠ 0 then (((((s.freeTag tag).dropCut o.id).fail o stCheckFail).bump (snapCnt 3)).event 76 c.slot).settle
    else State.settle (
      if (s.snap.copies.del tag).vals.all (fun x => x.op != c.op) && o.st == .cancelling then
        (s.copied tag k c o).cancelOp { o with cursor := o.cursor + k.count }
      else if (s.snap.copies.del tag).vals.all (fun x => x.op != c.op) && o.cursor + k.count == s.tilesOf c.regions then
        (s.copied tag k c o).endCut { o with cursor := o.cursor + k.count } c
      else s.copied tag k c o)) := by
  have hcopies : (s.copied tag k c o).snap.copies = s.snap.copies.del tag := congrArg Snap.copies State.snap_copied
  have htiles := State.tilesOf_congr (State.regions_copied (s := s) (tag := tag) (k := k) (c := c) (o := o)) c.regions
  show execCopyCompletion tag status s = _
  rw [← hcopies, ← htiles]
  unfold execCopyCompletion
  rw [hk]
  dsimp -zeta only
  extract_lets _ s0
  rw [show s0.snap.cut = some c from hcut, show s0.op? k.op = some o from ho]
  dsimp -zeta only
  rw [if_neg (not_not.mpr hown)]
  extract_lets s1 o' s2 idle
  have hs2 : s2 = s.copied tag k c o := rfl
  unfold idle
  clear_value s2
  subst hs2
  rfl
end

/-! ## The ends of a cut (R244, R250) -/

theorem State.completed.of_eq {s t : State} {id status result aux : Nat} (h : s.completed id status result aux) (hops : t.ops = s.ops)
    (hrecs : t.recs = s.recs) : t.completed id status result aux := by
  rwa [State.completed, State.op?, hops, hrecs]

/-- A cut that ends with its snapshot: its slot is COMPLETE, no cut runs, and the end is counted. -/
theorem State.endCut_does (s : State) {o : Op} {op : Nat} (c : Cut) (hid : o.id = op) : (s.endCut o c).completed op stOk 0 c.slot ∧
    (s.endCut o c).snap.cut = none ∧ ((s.endCut o c).snapSlot c.slot).st = .complete ∧
    (s.endCut o c).reg (snapCnt 2) = s.reg (snapCnt 2) + 1#32 := by
  unfold State.endCut
  extract_lets t s1 _ s2
  have hends := s2.endsOnly_finish o stOk t 0 c.slot
  refine ⟨hid ▸ s2.completed_finish_ok o t 0 c.slot, ?_, ?_, ?_⟩
  · rw [hends.snap_eq]
  · rw [State.snapSlot_congr hends.snap_eq]
    exact congrArg SnapSlot.st (s.snapSlot_setSlotState c.slot .complete)
  · rw [hends.reg_eq]
    exact ((s.setSlotState c.slot .complete).zeroMap c).reg_bump_self (snapCnt 2)

/-- The cut of an operation that is dropped stands no more, and no counter changes. -/
theorem State.dropCut_does {s : State} {c : Cut} (hcut : s.snap.cut = some c) : (s.dropCut c.op).snap.cut = none ∧
    (s.dropCut c.op).regs = s.regs := by
  rw [State.dropCut, hcut]
  dsimp -zeta only
  rw [if_neg (not_not.mpr rfl)]
  exact ⟨rfl, rfl⟩

/-- A single unguarded tile that is copied stands at its place, and no byte but those of it and of its code changes (R239, R248). -/
theorem State.copied_bare {s : State} {tag : Nat} {k : Copy} {c : Cut} {o : Op} {j t : Nat} {r : Region} {p : Nat × Region} (hone : k.count = 1)
    (hplace : s.copyPlace c.regions k.first = some (j, r, t)) (hbare : r.guard = 0) (hrick : s.rick = some p) :
    (s.copied tag k c o).stackRead (s.copyTo c k.first * 4096) 4096 = s.tileBytes r t ∧
    ∀ a, a < s.tileAddr (s.copyTo c k.first) ∨ s.tileAddr (s.copyTo c k.first) + 4096 ≤ a → a ≠ s.stackAddr (s.mapOff c.slot k.first) →
      byteAt (s.copied tag k c o).mem a = byteAt s.mem a := by
  have hmove : (s.freeTag tag).moveTile c k.first = (s.freeTag tag).stackWrite (s.copyTo c k.first * 4096) (s.tileBytes r t) :=
    State.moveTile_bare (s := s.freeTag tag) ((State.copyPlace_congr (s := s) (t := s.freeTag tag) rfl _ _).trans hplace) hbare hrick
  have hcopied : s.copied tag k c o = (((s.freeTag tag).stackWrite (s.copyTo c k.first * 4096) (s.tileBytes r t)).setCodes c k.first 1 2).modOp
      o.id (fun _ => { o with cursor := o.cursor + k.count }) := by
    rw [← hmove, State.copied, hone]
    rfl
  have hlen : (s.tileBytes r t).length = 4096 := tileBytes_length s r t
  have hcode : (k.first + 1 + 3) / 4 - k.first / 4 = 1 := by omega
  have hmap : 0 < mapTiles (s.tilesOf c.regions) := by
    have hpos := s.lt_tilesOf_of_copyPlace hplace
    unfold mapTiles ceilDiv
    omega
  have hbyte : (((s.freeTag tag).stackWrite (s.copyTo c k.first * 4096) (s.tileBytes r t)).setCodes c k.first 1 2) =
      ((s.freeTag tag).stackWrite (s.copyTo c k.first * 4096) (s.tileBytes r t)).stackWrite (s.mapOff c.slot k.first)
        [((s.freeTag tag).stackWrite (s.copyTo c k.first * 4096) (s.tileBytes r t)).mapByte c k.first 1 2 (k.first / 4)] := by
    rw [State.setCodes_eq, hcode]
    rfl
  rw [hcopied, hbyte]
  refine ⟨?_, fun a htile hmapped => ?_⟩
  · have hapart : s.mapOff c.slot k.first + 1 ≤ s.copyTo c k.first * 4096 := by
      unfold State.mapOff State.copyTo
      omega
    have hself := (s.freeTag tag).stackRead_stackWrite_self (s.copyTo c k.first * 4096) (s.tileBytes r t)
    rw [hlen] at hself
    rw [State.stackRead_congr (State.modOp_mem _ _ _) (State.modOp_strap _ _ _),
      State.stackRead_stackWrite_apart _ _ _ _ _ (.inr (by simpa using hapart))]
    exact hself
  · rw [State.modOp_mem, State.byteAt_stackWrite, if_neg fun h => hmapped (Nat.le_antisymm (Nat.le_of_lt_succ h.2) h.1),
      State.byteAt_stackWrite, hlen]
    exact if_neg fun h => htile.elim (not_lt.mpr h.1) (not_le.mpr h.2)

/-! ## The statement -/

/-- Settles O33: the codes, the tag and CURSOR of a copy command that ends well, the byte frame of a single tile, and the two ends of a cut. -/
theorem copyCompletionsEndTheCut : Obligations.CopyCompletionsEndTheCut := by
  refine ⟨?tiles, ?tile, ?last, ?bad⟩
  case tiles =>
    intro s tag k c o hk hcut hown ho hrun hmore
    have hexec := execCopyCompletion_of_own hk hcut hown ho 0
    rw [if_neg (not_not.mpr rfl), hrun, if_neg (by simp), if_neg (by simp [hmore])] at hexec
    exact ⟨_, hexec, congrArg Snap.copies State.snap_copied, congrArg _ (State.op?_copied ho), fun n hn => State.mapCode_copied hn,
      (congrArg Snap.cut State.snap_copied).trans hcut, State.regions_copied⟩
  case tile =>
    intro s tag j i t k c o r q hk hcut hown ho hrun hmore hone hplace hbare hrick
    have hexec := execCopyCompletion_of_own hk hcut hown ho 0
    rw [if_neg (not_not.mpr rfl), hrun, if_neg (by simp), if_neg (by simp [hmore])] at hexec
    exact ⟨_, hexec, State.copied_bare hone hplace hbare hrick⟩
  case last =>
    intro s tag k c o hk hcut hown ho hst hall hidle
    have hexec := execCopyCompletion_of_own hk hcut hown ho 0
    rw [if_neg (not_not.mpr rfl), hidle, if_neg (by simp [hst]), if_pos (by simp [hall])] at hexec
    obtain ⟨hdone, hnone, hslot, hreg⟩ := (s.copied tag k c o).endCut_does (o := { o with cursor := o.cursor + k.count }) c
      (show o.id = k.op from State.op?_some_id ho)
    exact ⟨_, hexec, hdone, hnone, hslot, hreg.trans (by rw [State.reg_copied])⟩
  case bad =>
    intro s tag status k c o hk hcut hown ho hstatus
    have hexec := execCopyCompletion_of_own hk hcut hown ho status
    rw [if_pos hstatus] at hexec
    have hid := State.op?_some_id ho
    obtain ⟨hnone, hregs⟩ := State.dropCut_does (s := s.freeTag tag) (c := c) hcut
    rw [hown, ← hid] at hnone hregs
    generalize (s.freeTag tag).dropCut o.id = w at hexec hnone hregs
    have hends := w.endsOnly_fail o stCheckFail
    have honly := ((w.fail o stCheckFail).bump (snapCnt 3)).signalsOnly_event 76 c.slot
    refine ⟨_, hexec, ?_, ?_, State.event_raises _ _ _ (by decide), ?_⟩
    · exact (State.fail_does w hid rfl).2.2.of_eq (honly.ops_eq.trans (State.bump_ops _ _)) (honly.recs_eq.trans (State.bump_recs _ _))
    · rw [honly.snap_eq, State.bump_snap, hends.snap_eq, hnone]
    · rw [State.event_reg, State.reg_bump_self, hends.reg_eq, State.reg, hregs]
      rfl

end Sys2Proof.Machine
end

section
/-! SUPPORT. Walks by chunks, and units whose writes go through the tap (R14, R92, R373). -/

namespace Sys2Proof.Machine

/-! ## Walks by chunks -/

section
variable {op last : Nat} {size : Nat → Nat} {f : Nat → State → Walk} {s s1 : State} {o : Op} (ho : s.op? op = some o)
include ho

/-- A walk that has reached its end does nothing more. -/
theorem State.walkBy_of_over (n : Nat) (hover : last ≤ o.cursor) : State.walkBy op last size f n s = .go s := by
  cases n with
  | zero => rfl
  | succ n =>
    unfold State.walkBy
    simp [ho, hover]

variable (hmore : o.cursor < last)
include hmore

theorem State.walkBy_of_go (hf : f o.cursor s = .go s1) :
    State.walkBy op last size f 1 s = .go (s1.modOp op (fun x => { x with cursor := o.cursor + size o.cursor })) := by
  simp only [State.walkBy, ho, Option.map_some, Option.getD_some, if_neg (not_le.mpr hmore), hf]

theorem State.walkBy_of_wait (hf : f o.cursor s = .wait s1) : State.walkBy op last size f 1 s = .wait s1 := by
  simp only [State.walkBy, ho, Option.map_some, Option.getD_some, if_neg (not_le.mpr hmore), hf]
end

/-! ## Units whose writes go through the tap (R14, R92) -/

/-- A unit whose writes are issued waits for them, fails with one that failed, or is done. -/
def State.unitDone (op : Nat) (s : State) : Walk :=
  if s.engineHeld op then .wait s
  else if ((s.op? op).map (fun o => decide (0 < o.n nkErrors))).getD false then .stop stCheckFail s else .go s

theorem State.unitDone_of_held {s : State} {op : Nat} (h : s.engineHeld op = true) : s.unitDone op = .wait s := if_pos h

theorem State.unitDone_of_performed {s : State} {op : Nat} (h : s.engineHeld op = false)
    (hgood : (s.op? op).map (fun o => o.n nkErrors) = some 0) : s.unitDone op = .go s := by
  obtain ⟨o, ho, hnone⟩ := Option.map_eq_some_iff.mp hgood
  simp [State.unitDone, h, ho, hnone]

section
variable {s s1 : State} {op c : Nat} {f g : State → Walk} {o : Op} (ho : s.op? op = some o)
include ho

theorem State.unitWrites_of_issued (h : o.n nkIssued = c + 1) : s.unitWrites op c f = s.unitDone op := by
  simp only [State.unitWrites, State.unitDone, ho, if_pos h]

theorem State.unitWrites_of_go (h : o.n nkIssued ≠ c + 1) (hf : f (s.modOp op (fun x => x.keep nkErrors 0)) = .go s1) :
    s.unitWrites op c f = (s1.modOp op (fun x => x.keep nkIssued (c + 1))).settle.unitDone op := by
  simp only [State.unitWrites, ho, if_neg h, hf]
  rfl

/-- With the second unit's writes issued only the second unit is left. -/
theorem State.unitWrites2_of_second (h : o.n nkIssued = c + 2) : s.unitWrites2 op c f g = s.unitWrites op (c + 1) g := by
  simp [State.unitWrites2, ho, h]

/-- While the first unit waits the second is not begun. -/
theorem State.unitWrites2_of_wait (h : o.n nkIssued ≠ c + 2) (hwait : s.unitWrites op c f = .wait s1) :
    s.unitWrites2 op c f g = .wait s1 := by
  simp [State.unitWrites2, ho, h, hwait]
end

/-- A chunk before the last whose unit goes as its writes in `u` go ends as they do. -/
theorem State.unitEnds_walkBy {op last : Nat} {size : Nat → Nat} {f : Nat → State → Walk} {done : State → Op → State} {s u : State} {o : Op}
    (ho : s.op? op = some o) (hmore : o.cursor + size o.cursor < last)
    (hwait : u.settle.engineHeld op = true → f o.cursor s = .wait u.settle)
    (hgo : u.settle.engineHeld op = false → (u.settle.op? op).map (fun x => x.n nkErrors) = some 0 → f o.cursor s = .go u.settle) :
    u.unitEnds (State.endWalk op last done (State.walkBy op last size f 1 s)) op (o.cursor + size o.cursor) := by
  have hcursor : o.cursor < last := by omega
  refine ⟨fun hheld => ?_, fun hfree hgood => ?_⟩
  · rw [State.walkBy_of_wait ho hcursor (hwait hheld)]
    rfl
  · obtain ⟨x, hx, -⟩ := Option.map_eq_some_iff.mp hgood
    rw [State.walkBy_of_go ho hcursor (hgo hfree hgood)]
    exact State.endWalk_of_more (State.op?_modOp_self (f := fun x => { x with cursor := o.cursor + size o.cursor }) hx fun _ => rfl) hmore

/-! ## Writes of an operation at global addresses (R14, R336) -/

theorem State.wroteAt_engineWrite (s : State) (op a : Nat) (v : List Byte) : s.wroteAt (s.engineWrite op a v 3) op a v := by
  obtain ⟨hin, hout⟩ := s.storeFor_does (some op) a v 3
  refine ⟨fun h => ?_, fun h => ?_⟩
  · rw [State.engineWrite, hin h]
    exact s.putDone_putWrite _ _ _ _
  · rw [State.engineWrite, hout h]
    exact ⟨List.mem_append_right _ (List.mem_singleton.mpr rfl), rfl⟩

/-- What a write leaves is told by the memory, the tap and the port alone. -/
theorem State.wroteAt.congr {s t u : State} {op a : Nat} {v : List Byte} (h : s.wroteAt t op a v) (hmem : u.mem = t.mem) (htap : u.tap = t.tap)
    (hport : u.port = t.port) : s.wroteAt u op a v := by
  refine ⟨fun hin => (h.1 hin).congr hmem htap, fun hout => ?_⟩
  rw [hport, hmem]
  exact h.2 hout

theorem State.wroteAt.modOp {s t : State} {op a : Nat} {v : List Byte} (h : s.wroteAt t op a v) (id : Nat) (f : Op → Op) :
    s.wroteAt (t.modOp id f) op a v := h.congr rfl rfl rfl

end Sys2Proof.Machine
end

section
/-! The statement of SNAP_DRAIN, SNAP_DISCARD and INTERVAL_RECOMPUTE: O34. A drain's start, its chunks and its manifest cell (R251 to R256), the
slot that is discarded (R261), and the bounds of INTERVAL (R262). -/

namespace Sys2Proof.Machine

/-! ## The start of a drain (R252 to R254) -/

/-- The statuses of a SNAP_DRAIN are ones that a final record carries (R94). -/
theorem State.finalStatus_drainStatus (s : State) (o : Op) (codes pair : List Byte) :
    finalStatus (s.drainStatus o codes pair) = s.drainStatus o codes pair := by
  unfold State.drainStatus
  extract_lets
  split_ifs <;> rfl

section
variable {si s1 s : State} {op units : Nat} {ext : Ext} {o : Op} {codes pair : List Byte} (hwork : si.work op 0x41 = some o)
  (hstage : o.stage = .fresh)
  (hcodes : (if o.arg 40 8 = 0 then (Rd.data (zeros 256), si) else si.readAt ext (o.arg 40 8) 256 3) = (.data codes, s1))
  (hpair : s1.readAt ext (o.arg 32 8) (2 * cellBytes) 3 = (.data pair, s))
include hwork hstage hcodes hpair

theorem execSnapDrain_of_read : exec (.snapDrain op units ext) si =
    .next (if s.drainStatus o codes pair ≠ 0 then s.fail o (s.drainStatus o codes pair) else s.beginDrain o codes pair) := by
  show execSnapDrain op units ext si = _
  simp only [execSnapDrain, hwork, hstage, if_true, hcodes, hpair]
end

/-- A drain that begins makes its slot DRAINING and walks from tile 0 (R254). -/
theorem State.beginDrain_does {s : State} {op : Nat} {o : Op} (codes pair : List Byte) (ho : s.op? op = some o) (hid : o.id = op) :
    ((s.beginDrain o codes pair).snapSlot (o.arg 16 1)).st = .draining ∧
    ((s.beginDrain o codes pair).op? op).map (fun x => (x.stage, x.cursor)) = some (.walking, 0) ∧
    (s.beginDrain o codes pair).regions = s.regions := by
  subst hid
  unfold State.beginDrain
  extract_lets x p note
  refine ⟨congrArg SnapSlot.st (s.snapSlot_setSlotState x .draining), ?_, rfl⟩
  rw [State.op?_modOp_self (f := fun o => { o with stage := .walking, cursor := 0, note := (Tab.set note nkSeq p).set nkSince s.now })
    (s := s.setSlotState x .draining) ho fun _ => rfl]
  rfl

/-! ## Chunks (R254, R373) -/

section
variable {s s1 : State} {op c i t : Nat} {ext : Ext} {o : Op} {es : List SnapEntry} {e d : SnapEntry} {l : List (List Byte)}

/-- A chunk whose tiles are read is one write at its place in the store, and its digest is kept (R236, R254). -/
theorem State.drainChunk_of_tiles (hentry : entryAt (withTiles es) 0 c = some (i, e, t)) (hlane : o.narrow i = 0 ∨ s.laneReady = true)
    (hread : s.readSlotTiles ext e (chunkLen e t) t = (some l, s1)) (hdest : (o.storeEntries es 0 (o.arg 24 8))[i]? = some d)
    (hfull : (storedForm (o.narrow i) t l).2 ≠ []) (hwrite : writeStatus ext (d.addr + 4096 * (storedForm (o.narrow i) t l).1) = stOk) :
    ∃ n : Op → Nat, s.drainChunk ext op o es c = .go ((s1.engineWrite op (d.addr + 4096 * (storedForm (o.narrow i) t l).1)
      (storedForm (o.narrow i) t l).2.flatten 3).modOp op (fun x => x.keep (nkDigest + i) (n x))) := by
  have hready : (decide (o.narrow i ≠ 0) && !s.laneReady) = false := by
    rcases hlane with h | h <;> simp [h]
  have hsome : (storedForm (o.narrow i) t l).2.isEmpty = false := by simpa using hfull
  refine ⟨fun x => digestMore e (x.n (nkDigest + i)) (storedForm (o.narrow i) t l).1 (storedForm (o.narrow i) t l).2, ?_⟩
  simp only [State.drainChunk, hentry, hread, hdest, hwrite, hready, hsome, Bool.false_eq_true, if_false, ne_eq, not_true]

/-- The unit of such a chunk is done as its write is (R14, R92). -/
theorem State.unitWrites_drainChunk (ho : s.op? op = some o) (hissued : o.n nkIssued ≠ c + 1)
    (hentry : entryAt (withTiles es) 0 c = some (i, e, t)) (hlane : o.narrow i = 0 ∨ s.laneReady = true)
    (hread : (s.modOp op (fun x => x.keep nkErrors 0)).readSlotTiles ext e (chunkLen e t) t = (some l, s1))
    (hdest : (o.storeEntries es 0 (o.arg 24 8))[i]? = some d) (hfull : (storedForm (o.narrow i) t l).2 ≠ [])
    (hwrite : writeStatus ext (d.addr + 4096 * (storedForm (o.narrow i) t l).1) = stOk) :
    ∃ u, s1.wroteAt u op (d.addr + 4096 * (storedForm (o.narrow i) t l).1) (storedForm (o.narrow i) t l).2.flatten ∧
      s.unitWrites op c (State.drainChunk ext op o es c) = u.settle.unitDone op := by
  obtain ⟨n, hchunk⟩ := State.drainChunk_of_tiles (s := s.modOp op (fun x => x.keep nkErrors 0)) hentry hlane hread hdest hfull hwrite
  refine ⟨_, ?_, State.unitWrites_of_go ho hissued hchunk⟩
  exact ((s1.wroteAt_engineWrite op _ _).modOp op _).modOp op _

theorem chunkAt_of_entry (hentry : entryAt (withTiles es) 0 c = some (i, e, t)) : chunkAt es c = chunkLen e t := by
  rw [chunkAt, hentry]
  rfl
end

/-! ## The manifest cell (R254) -/

section
variable {s : State} {op units : Nat} {ext : Ext} {o : Op} (hwork : s.work op 0x41 = some o) (hstage : o.stage = .walking)
include hwork hstage

theorem execSnapDrain_of_walking : exec (.snapDrain op units ext) s =
    .next (State.endWalk op (entryTiles (s.slotEntries (o.arg 16 1))) (State.commitDrain ext)
      (State.walkBy op (entryTiles (s.slotEntries (o.arg 16 1))) (chunkAt (s.slotEntries (o.arg 16 1)))
        (fun c u => (u.unitWrites op c (State.drainChunk ext op o (s.slotEntries (o.arg 16 1)) c)).orBack (o.arg 16 1)) units s)) := by
  show execSnapDrain op units ext s = _
  simp [execSnapDrain, hwork, hstage]

theorem execSnapDrain_of_over (hover : entryTiles (s.slotEntries (o.arg 16 1)) ≤ o.cursor) :
    exec (.snapDrain op units ext) s = .next (s.commitDrain ext o).settle := by
  have ho := State.op?_of_work hwork
  rw [execSnapDrain_of_walking hwork hstage, State.walkBy_of_over ho units hover, State.endWalk_of_over ho hover]
end

/-- The entries of the manifest cell of a drain (R254, R255). -/
def State.manifest (s : State) (o : Op) : List SnapEntry := o.storeEntries (s.slotEntries (o.arg 16 1)) 0 (o.arg 24 8)

/-- The address of the manifest cell that a drain writes: the one that is not in force (R254). -/
def Op.manifestCell (o : Op) : Nat := o.arg 32 8 + cellBytes * ((o.n nkSeq + 1) % 2)

/-- The state in which the entries of the manifest cell are written (R254). -/
def State.entriesIssued (s : State) (op : Nat) (o : Op) : State :=
  ((s.modOp op (fun x => x.keep nkErrors 0)).engineWrite op (o.manifestCell + 64)
    (fit (cellBytes - 64) ((s.manifest o).flatMap SnapEntry.bytes)) 3).modOp op (fun x => x.keep nkIssued (o.cursor + 1))

theorem State.wroteAt_entriesIssued (s : State) (op : Nat) (o : Op) : s.wroteAt (s.entriesIssued op o) op (o.manifestCell + 64)
    (fit (cellBytes - 64) ((s.manifest o).flatMap SnapEntry.bytes)) :=
  ((s.modOp op (fun x => x.keep nkErrors 0)).wroteAt_engineWrite op (o.manifestCell + 64)
    (fit (cellBytes - 64) ((s.manifest o).flatMap SnapEntry.bytes))).modOp op _

/-- A drain whose manifest header is acknowledged: its slot is DRAINED, and it ends with the CRC of the cell (R254 to R256). -/
def State.drainEnds (s : State) (o : Op) : State :=
  let s2 := (s.setSlotState (o.arg 16 1) .drained).bump (snapCnt 4)
  let s3 : State := { s2 with snap := { s2.snap with tdrain := s.now - o.n nkSince } }
  s3.finish o stOk o.cursor (s.manifestHead o (s.manifest o)).2 0

section
variable {s : State} {op : Nat} {ext : Ext} {o : Op} (ho : s.op? op = some o)
include ho

theorem State.commitDrain_of_entries (h1 : o.n nkIssued ≠ o.cursor + 1) (h2 : o.n nkIssued ≠ o.cursor + 2)
    (hwrite : writeStatus ext (o.manifestCell + 64) = stOk) (hheld : (s.entriesIssued op o).settle.engineHeld op = true) :
    s.commitDrain ext o = (s.entriesIssued op o).settle := by
  have hid := State.op?_some_id ho
  subst hid
  have hput : (s.modOp o.id (fun x => x.keep nkErrors 0)).putOne ext o.id (o.manifestCell + 64)
      (fit (cellBytes - 64) ((s.manifest o).flatMap SnapEntry.bytes)) = .go ((s.modOp o.id (fun x => x.keep nkErrors 0)).engineWrite o.id
        (o.manifestCell + 64) (fit (cellBytes - 64) ((s.manifest o).flatMap SnapEntry.bytes)) 3) := by
    simp [State.putOne, hwrite]
  have hunit := (State.unitWrites_of_go ho h1 hput).trans (State.unitDone_of_held hheld)
  unfold State.commitDrain
  extract_lets x es a m
  have hwait : s.unitWrites2 o.id o.cursor (State.putOne ext o.id (a + 64) (fit (cellBytes - 64) (es.flatMap SnapEntry.bytes)))
      (State.putOne ext o.id a (m.1 ++ leBytes 8 m.2)) = .wait (s.entriesIssued o.id o).settle := State.unitWrites2_of_wait ho h2 hunit
  rw [hwait]

theorem State.commitDrain_of_acknowledged (h2 : o.n nkIssued = o.cursor + 2) (hfree : s.engineHeld op = false) (hgood : o.n nkErrors = 0) :
    s.commitDrain ext o = s.drainEnds o := by
  have hid := State.op?_some_id ho
  subst hid
  have hdone := State.unitDone_of_performed hfree (by rw [ho, Option.map_some, hgood])
  unfold State.commitDrain
  extract_lets x es a m
  rw [State.unitWrites2_of_second ho h2, State.unitWrites_of_issued ho h2, hdone]
  rfl
end

theorem State.manifestHead_lt (s : State) (o : Op) (es : List SnapEntry) : (s.manifestHead o es).2 < 2 ^ 64 := by
  unfold State.manifestHead
  dsimp only
  exact BitVec.isLt _

/-- The end of a drain (R254 to R256). -/
theorem State.drainEnds_does (s : State) {op : Nat} {o : Op} (hid : o.id = op) :
    (s.drainEnds o).completed op stOk (s.manifestHead o (s.manifest o)).2 0 ∧ ((s.drainEnds o).snapSlot (o.arg 16 1)).st = .drained ∧
    (s.drainEnds o).snap.tdrain = s.now - o.n nkSince := by
  unfold State.drainEnds
  extract_lets s2 _ s3
  have hends := s3.endsOnly_finish o stOk o.cursor (s.manifestHead o (s.manifest o)).2 0
  refine ⟨State.finish_ok_completed s3 hid o.cursor (s.manifestHead_lt o _), ?_, ?_⟩
  · rw [State.snapSlot_congr hends.snap_eq]
    exact congrArg SnapSlot.st (s.snapSlot_setSlotState (o.arg 16 1) .drained)
  · rw [hends.snap_eq]

/-! ## SNAP_DISCARD (R261) -/

section
variable {s : State} {op : Nat} {o : Op} (hwork : s.work op 0x43 = some o)
include hwork

theorem execSnapDiscard_of_empty (h : (s.snapSlot (o.arg 16 1)).st = .empty) : exec (.snapDiscard op) s = .next (s.finish o stOk 0 0 0) := by
  show execSnapDiscard op s = _
  simp [execSnapDiscard, hwork, h]

theorem execSnapDiscard_of_filled (h : (s.snapSlot (o.arg 16 1)).st = .complete ∨ (s.snapSlot (o.arg 16 1)).st = .drained) :
    exec (.snapDiscard op) s = .next ((s.setSlotState (o.arg 16 1) .empty).finish o stOk 0 0 0) := by
  show execSnapDiscard op s = _
  rcases h with h | h <;> simp [execSnapDiscard, hwork, h]

theorem execSnapDiscard_of_busy (h : (s.snapSlot (o.arg 16 1)).st = .filling ∨ (s.snapSlot (o.arg 16 1)).st = .draining) :
    exec (.snapDiscard op) s = .next (s.fail o stConflict) := by
  show execSnapDiscard op s = _
  rcases h with h | h <;> simp [execSnapDiscard, hwork, h]
end

/-- The slot that a SNAP_DISCARD empties, and its header with room in the audit buffer (R261). -/
theorem State.discarded_does {s : State} {op : Nat} {o : Op} (ho : s.op? op = some o) :
    ((s.setSlotState (o.arg 16 1) .empty).finish o stOk 0 0 0).completed op stOk 0 0 ∧
    (((s.setSlotState (o.arg 16 1) .empty).finish o stOk 0 0 0).snapSlot (o.arg 16 1)).st = .empty ∧
    ((s.setSlotState (o.arg 16 1) .empty).finish o stOk 0 0 0).regions = s.regions ∧
    (s.auditRoom → field (((s.setSlotState (o.arg 16 1) .empty).finish o stOk 0 0 0).slotHeader (o.arg 16 1)) 4 1 = 0) := by
  have hends := (s.setSlotState (o.arg 16 1) .empty).endsOnly_finish o stOk 0 0 0
  refine ⟨State.finish_ok_completed _ (State.op?_some_id ho) 0 (by decide), ?_, hends.regions_eq, fun hroom => ?_⟩
  · rw [State.snapSlot_congr hends.snap_eq, State.snapSlot_setSlotState]
  · have hmem := State.finish_mem (s := s.setSlotState (o.arg 16 1) .empty) (State.op?_mem ho) hroom stOk 0 0 0
    rw [State.slotHeader_congr hmem hends.strap_eq hends.regions_eq, State.state_of_setSlotState]
    rfl

/-! ## INTERVAL (R262) -/

/-- What INTERVAL_RECOMPUTE sets. -/
def State.nextInterval (s : State) : Nat :=
  match s.snap.tcut with
  | none => 10 * s.rf 0x0164 0 12
  | some t => if bitAt (s.regN 0x0160) 0 then 10 * s.rf 0x0164 0 12 else s.freshInterval t

theorem execIntervalRecompute_eq (s : State) :
    exec .intervalRecompute s = .next { s with snap := { s.snap with interval := s.nextInterval } } := rfl

theorem State.nextInterval_of_pinned {s : State} (h : s.snap.tcut = none ∨ bitAt (s.regN 0x0160) 0 = true) :
    s.nextInterval = 10 * s.rf 0x0164 0 12 := by
  unfold State.nextInterval
  split
  next => rfl
  next t ht => exact if_pos (h.resolve_left (by simp [ht]))

theorem State.nextInterval_of_free {s : State} (htcut : s.snap.tcut ≠ none) (hpin : bitAt (s.regN 0x0160) 0 = false) :
    ∃ t, s.nextInterval = s.freshInterval t := by
  unfold State.nextInterval
  split
  next hnone => exact absurd hnone htcut
  next t ht => exact ⟨t, if_neg (by simp [hpin])⟩

/-- A fresh interval is at most the larger of T_MAX and T_MIN, and at least T_MIN where the loss rate is above 0 (R262). -/
theorem State.freshInterval_bounds (s : State) (t : Nat) :
    s.freshInterval t ≤ Nat.max (10 * s.rf 0x0160 1 12) (10 * s.rf 0x0160 13 12) ∧
    (0 < s.lossRate → 10 * s.rf 0x0160 1 12 ≤ s.freshInterval t) := by
  have hclamp : ∀ lo hi n, Nat.max lo (Nat.min hi n) ≤ Nat.max lo hi := fun lo hi n =>
    Nat.max_le.mpr ⟨Nat.le_max_left _ _, (Nat.min_le_left hi n).trans (Nat.le_max_right _ _)⟩
  unfold State.freshInterval
  extract_lets c cost lo hi q
  split
  next => exact ⟨hclamp lo hi 0, fun _ => Nat.le_max_left _ _⟩
  split
  next hrate => exact ⟨Nat.le_max_right _ _, fun hpos => absurd hpos (not_lt.mpr hrate)⟩
  next => exact ⟨hclamp lo hi _, fun _ => Nat.le_max_left _ _⟩

/-! ## The statement -/

/-- Settles O34: a drain begins, writes its chunks and its cell as writes of its own, and ends with its slot DRAINED; a discard goes by the STATE
of its slot; and INTERVAL is pinned or clamped. -/
theorem snapDrainDiscardInterval : Obligations.SnapDrainDiscardInterval := by
  refine ⟨⟨?start, ?chunk, ?cell, fun s op o hwork => ⟨?empty, ?filled, ?busy⟩⟩, fun s => ?interval⟩
  case start =>
    intro si s1 s op units ext o codes pair hwork hstage hcodes hpair ho
    have hid := State.id_of_work hwork
    have hexec := execSnapDrain_of_read (units := units) hwork hstage hcodes hpair
    refine ⟨fun hst => ?_, fun hst => ?_⟩
    · rw [if_neg (not_not.mpr hst)] at hexec
      exact ⟨_, hexec, State.beginDrain_does codes pair ho hid⟩
    · rw [if_pos hst] at hexec
      exact ⟨_, hexec, (State.fail_does s hid (s.finalStatus_drainStatus o codes pair)).2.2, (s.endsOnly_fail o _).snap_eq⟩
  case chunk =>
    intro s s1 op i t ext o e d l hwork hstage hentry hmore hissued hlane hread hdest hfull hwrite
    have ho := State.op?_of_work hwork
    obtain ⟨u, hwrote, hunit⟩ := State.unitWrites_drainChunk ho hissued hentry hlane hread hdest hfull hwrite
    rw [← chunkAt_of_entry hentry] at hmore ⊢
    refine ⟨u, _, execSnapDrain_of_walking hwork hstage, hwrote, State.unitEnds_walkBy ho hmore (fun hheld => ?_) (fun hfree hgood => ?_)⟩
    · rw [hunit, State.unitDone_of_held hheld]
      rfl
    · rw [hunit, State.unitDone_of_performed hfree hgood]
      rfl
  case cell =>
    intro s op units a ext o hwork hstage hover ha
    subst ha
    have ho := State.op?_of_work hwork
    have hexec := execSnapDrain_of_over (units := units) (ext := ext) hwork hstage hover
    refine ⟨fun h1 h2 hwrite => ?_, fun h2 hfree hgood => ?_⟩
    · exact ⟨_, _, hexec, s.wroteAt_entriesIssued op o, fun hheld => by rw [State.commitDrain_of_entries ho h1 h2 hwrite hheld]⟩
    · rw [State.commitDrain_of_acknowledged ho h2 hfree hgood] at hexec
      exact ⟨_, hexec, s.drainEnds_does (State.id_of_work hwork)⟩
  case empty =>
    exact fun h => ⟨_, execSnapDiscard_of_empty hwork h, State.finish_ok_completed s (State.id_of_work hwork) 0 (by decide),
      (s.endsOnly_finish o _ _ _ _).snap_eq⟩
  case filled => exact fun h => ⟨_, execSnapDiscard_of_filled hwork h, State.discarded_does (State.op?_of_work hwork)⟩
  case busy =>
    exact fun h => ⟨_, execSnapDiscard_of_busy hwork h, (State.fail_does s (State.id_of_work hwork) rfl).2.2, (s.endsOnly_fail o _).snap_eq⟩
  case interval =>
    refine ⟨_, execIntervalRecompute_eq s, State.nextInterval_of_pinned, fun htcut hpin => ?_⟩
    obtain ⟨t, ht⟩ := State.nextInterval_of_free htcut hpin
    rw [ht]
    exact s.freshInterval_bounds t

end Sys2Proof.Machine
end

section
/-! The statement of SNAP_RESTORE: O35. Its checks and start (R258), its restore writes (R107, R259), and its end (R259, R260). -/

namespace Sys2Proof.Machine

/-! ## The start of a restore (R257, R258) -/

/-- The statuses of a SNAP_RESTORE are ones that a final record carries (R94). -/
theorem State.finalStatus_restoreStatus (s : State) (o : Op) (p : Snapshot) (area : Rd) :
    finalStatus (s.restoreStatus o p area) = s.restoreStatus o p area := by
  unfold State.restoreStatus
  extract_lets
  split_ifs <;> rfl

/-- A restore from a slot of a JOB scope reads the slot's header and directory, and is checked without a context (R258). -/
theorem State.startRestore_of_slot {s : State} {ext : Ext} {o : Op} {v : List Byte} (hslot : o.arg 16 1 < 2) (hstore : o.arg 24 8 = 0)
    (hv : v = s.stackRead ((s.slotTile (o.arg 16 1)).1 * 4096) 64 ++ s.stackRead ((s.slotTile (o.arg 16 1)).1 * 4096 + 4096) 8192)
    (hscope : (slotSnapshot v).scope ≠ 2) : s.startRestore ext o =
      if s.restoreStatus o (slotSnapshot v) .error ≠ 0 then s.fail o (s.restoreStatus o (slotSnapshot v) .error)
      else s.beginRestore o v (slotSnapshot v) none := by
  have h2 : o.arg 16 1 ≠ 2 := by omega
  have h3 : o.arg 16 1 ≠ 3 := by omega
  unfold State.startRestore
  extract_lets x src
  rw [if_neg (by simp [x, hstore, h3])]
  have hsrc : src = (.inl v, s) := by
    rw [hv]
    exact if_pos h2
  rw [hsrc]
  dsimp -zeta only
  extract_lets p area st
  have hp : p = slotSnapshot v := if_neg h2
  have harea : area = (.error, s) := if_neg (by simp [hp, hscope])
  unfold st
  rw [harea, hp]

/-- A restore that begins walks from FIRST (R257). -/
theorem State.op?_beginRestore {s : State} {op : Nat} {o : Op} (bytes : List Byte) (p : Snapshot) (v : Option Saved) (ho : s.op? op = some o) :
    ((s.beginRestore o bytes p v).op? op).map (fun x => (x.stage, x.cursor)) = some (.walking, o.arg 20 4) := by
  have hid := State.op?_some_id ho
  subst hid
  unfold State.beginRestore
  extract_lets note
  rw [State.op?_modOp_self (f := fun o => { o with
    stage := .walking, cursor := o.arg 20 4
    note := (Tab.set note nkSource (leNat bytes)).set nkSaved ((v.map (fun v => v.number + 1)).getD 0) }) ho fun _ => rfl]
  rfl

section
variable {s : State} {op units : Nat} {ext : Ext} {o : Op} (hwork : s.work op 0x42 = some o)
include hwork

theorem execSnapRestore_of_fresh (hstage : o.stage = .fresh) : exec (.snapRestore op units ext) s = .next (s.startRestore ext o) := by
  show execSnapRestore op units ext s = _
  simp [execSnapRestore, hwork, hstage]

theorem execSnapRestore_of_walking (hstage : o.stage = .walking) : exec (.snapRestore op units ext) s =
    .next (State.endWalk op (entryTiles o.snapshot.tiled) (State.endRestore o.snapshot)
      (State.walkBy op (entryTiles o.snapshot.tiled) (chunkAt o.snapshot.tiled) (State.restoreChunk ext op o o.snapshot) units s)) := by
  show execSnapRestore op units ext s = _
  simp [execSnapRestore, hwork, hstage]
end

/-! ## Restore writes (R107, R259) -/

theorem Region.linesApart.lineApart {r : Region} {l : List Nat} (h : r.linesApart l) {x : Nat} (hx : x ∈ l) : r.lineApart x := h x hx x hx

/-- A store of a tile leaves another tile that does not hold its line (R307, R309). -/
theorem State.tileBytes_putTile_apart (s : State) {r : Region} {l : List Nat} (hapart : r.linesApart l) {x y : Nat} (hx : x ∈ l) (hy : y ∈ l)
    (hne : y ≠ x) (v : List Byte) : (s.putTile r x v).tileBytes r y = s.tileBytes r y := by
  have htile : (s.stackWrite ((r.tileBase + x) * 4096) (fit 4096 v)).tileBytes r y = s.tileBytes r y :=
    s.stackRead_stackWrite_apart _ _ _ _ (by rw [fit_length]; omega)
  rw [State.tileBytes_congr (s.putTile_mem r x v) rfl]
  rcases (s.stackWrite ((r.tileBase + x) * 4096) (fit 4096 v)).putLine_cases r x (r.strengthAt x) v with hl | ⟨off, hoff, -, hl⟩
  · rw [hl]
    exact htile
  · rw [hl]
    exact (State.stackRead_stackWrite_apart _ _ _ _ _ (hapart x hx y hy off hoff v).symm).trans htile

/-- A region after a restore write of tile t, which found `old` there: the digest of a role that carries one follows (R107, R127). -/
def Region.restored (r : Region) (t : Nat) (old v : List Byte) (m : Option MigMap) : Region :=
  { r with digest := if r.role.digested then digestStep r.digest (r.weight t) old v else r.digest, mig := m }

section
variable (r : Region) (t : Nat) (old v : List Byte) (m : Option MigMap)
theorem Region.role_restored : (r.restored t old v m).role = r.role := rfl
theorem Region.weight_restored (x : Nat) : (r.restored t old v m).weight x = r.weight x := rfl
theorem Region.digest_restored : (r.restored t old v m).digest =
    if r.role.digested then digestStep r.digest (r.weight t) old v else r.digest := rfl
theorem State.tileBytes_restored (s : State) (x : Nat) : s.tileBytes (r.restored t old v m) x = s.tileBytes r x := by
  unfold State.tileBytes Region.restored
  rfl
end

/-- A restore write stores its tile, takes its region on, and changes no operation (R107, R259). -/
theorem State.restoreWrite_does {s : State} {j : Nat} {r : Region} (t : Nat) (v : List Byte) (hr : s.regions.get j = some r) :
    (s.restoreWrite j t r v).mem = (s.putTile r t v).mem ∧ (s.restoreWrite j t r v).strap = s.strap ∧ (s.restoreWrite j t r v).ops = s.ops ∧
    ∃ m, (s.restoreWrite j t r v).regions.get j = some (r.restored t (s.tileBytes r t) v m) := by
  obtain ⟨tap, f, hf, hrelease⟩ := s.release_whole j t r v
  have hmig : ∃ m, f r = { r with mig := m } := by
    rcases hf with rfl | rfl
    · exact ⟨r.mig, rfl⟩
    · exact ⟨_, rfl⟩
  obtain ⟨m, hm⟩ := hmig
  have hstrap := s.putTile_strap r t v
  have hops := s.putTile_ops r t v
  have hregions := s.putTile_regions r t v
  unfold State.restoreWrite State.restoreTile Region.restored
  rw [hrelease]
  generalize s.putTile r t v = w at hstrap hops hregions
  cases r.role.digested with
  | true =>
    refine ⟨rfl, hstrap, hops, m, ?_⟩
    simp [Tab.get_upd, hregions, hr, hm, Region.weight]
  | false =>
    refine ⟨rfl, hstrap, hops, m, ?_⟩
    simp [Tab.get_upd, hregions, hr, hm]

/-- The digest of a region after restore writes of the tiles of a list, each over what stood there (R107, R127). -/
def State.digestAfter (s : State) (r : Region) (new : Nat → List Byte) (l : List Nat) : Word64 :=
  if r.role.digested then l.foldl (fun d x => digestStep d (r.weight x) (s.tileBytes r x) (new x)) r.digest else r.digest

/-- A digest after one more write at the front. -/
theorem State.digestAfter_cons {s u : State} {r : Region} (new : Nat → List Byte) {t : Nat} {l : List Nat} (m : Option MigMap)
    (h : ∀ x ∈ l, u.tileBytes r x = s.tileBytes r x) :
    u.digestAfter (r.restored t (s.tileBytes r t) (new t) m) new l = s.digestAfter r new (t :: l) := by
  simp only [State.digestAfter, Region.role_restored, Region.weight_restored, Region.digest_restored, State.tileBytes_restored]
  cases r.role.digested with
  | true =>
    simp only [if_true, List.foldl_cons]
    refine List.foldl_ext _ _ _ fun d x hx => ?_
    rw [h x hx]
  | false => simp only [Bool.false_eq_true, if_false]

/-- Restore writes of distinct tiles, none of which holds a line of another: each tile reads as written, the digest has followed, and the
operations and every further tile are as before (R107, R259). -/
theorem State.restoreWrites_does {j k : Nat} {r0 : Region} {e : SnapEntry} {v : List Byte} {all : List Nat} (l : List Nat) {s : State} {r : Region}
    (hr : s.regions.get j = some r) (hapart : r.linesApart all) (hsub : l ⊆ all) (hnodup : l.Nodup) :
    (∀ x ∈ l, (s.restoreWrites j r0 e k v l).tileBytes r x = fit 4096 (e.widen k x v)) ∧
    (∀ y ∈ all, y ∉ l → (s.restoreWrites j r0 e k v l).tileBytes r y = s.tileBytes r y) ∧
    (s.restoreWrites j r0 e k v l).ops = s.ops ∧
    ((s.restoreWrites j r0 e k v l).regions.get j).map (fun q => q.digest) = some (s.digestAfter r (fun x => e.widen k x v) l) := by
  induction l generalizing s r with
  | nil =>
    refine ⟨fun x hx => absurd hx List.not_mem_nil, fun y _ _ => rfl, rfl, ?_⟩
    rw [State.restoreWrites, hr, State.digestAfter, List.foldl_nil, ite_self]
    rfl
  | cons t l ih =>
    obtain ⟨ht, hl⟩ := List.cons_subset.mp hsub
    obtain ⟨hnot, hnodup⟩ := List.nodup_cons.mp hnodup
    obtain ⟨hmem, hstrap, hops, m, hr'⟩ := State.restoreWrite_does t (e.widen k t v) hr
    have htiles : ∀ x, (s.restoreWrite j t r (e.widen k t v)).tileBytes r x = (s.putTile r t (e.widen k t v)).tileBytes r x := fun x =>
      State.tileBytes_congr hmem (hstrap.trans (State.putTile_strap _ _ _ _).symm) r x
    have hother : ∀ x ∈ all, x ≠ t → (s.restoreWrite j t r (e.widen k t v)).tileBytes r x = s.tileBytes r x := fun x hx hne =>
      (htiles x).trans (s.tileBytes_putTile_apart hapart ht hx hne _)
    obtain ⟨hwritten, hkept, hops', hdigest⟩ := ih hr' hapart hl hnodup
    rw [State.restoreWrites, hr, Option.getD_some]
    refine ⟨fun x hx => ?_, fun y hy hyl => ?_, hops'.trans hops, hdigest.trans (congrArg some ?_)⟩
    · rcases List.mem_cons.mp hx with rfl | hx
      · exact (hkept x ht hnot).trans ((htiles x).trans (s.tileBytes_putTile _ (hapart.lineApart ht)))
      · exact hwritten x hx
    · exact (hkept y hy (List.not_mem_of_not_mem_cons hyl)).trans (hother y hy (List.ne_of_not_mem_cons hyl))
    · exact State.digestAfter_cons (fun x => e.widen k x v) m fun x hx => hother x (hl hx) fun h => hnot (h ▸ hx)

/-! ## A chunk of a restore (R259, R373) -/

/-- The target tiles of a chunk that begins at tile t of an entry. -/
def SnapEntry.chunk (e : SnapEntry) (t : Nat) : List Nat := (List.range (chunkLen e t)).map (· + t)

theorem SnapEntry.chunk_nodup (e : SnapEntry) (t : Nat) : (e.chunk t).Nodup := List.nodup_range.map (add_left_injective t)

/-- A chunk before the last of an entry whose tiles are read, none of them held, is its restore writes. -/
theorem State.restoreChunk_of_read {s s1 : State} {ext : Ext} {op c i t : Nat} {o : Op} {p : Snapshot} {e : SnapEntry} {r : Region} {v : List Byte}
    (hentry : entryAt (withTiles p.tiled) 0 c = some (i, e, t)) (hmore : t + chunkLen e t < e.tiles)
    (hr : s.regions.get (o.n (nkTargets + i)) = some r) (hfree : ∀ x ∈ e.chunk t, s.cbwHolds (o.n (nkTargets + i)) x = false)
    (hread : s.readStoredTiles ext p e (if ((e.chunk t).filterMap e.place).isEmpty then 0
      else ((e.chunk t).filterMap e.place).getLastD 0 + 1 - ((e.chunk t).filterMap e.place).headD 0)
      (((e.chunk t).filterMap e.place).headD 0) = (.inl v, s1)) :
    s.restoreChunk ext op o p c =
      .go (s1.restoreWrites (o.n (nkTargets + i)) r e (((e.chunk t).filterMap e.place).headD 0) v (e.chunk t)) := by
  have hnone : (e.chunk t).filter (s.cbwHolds (o.n (nkTargets + i))) = [] :=
    List.filter_eq_nil_iff.mpr fun x hx => by simp [hfree x hx]
  have hlen : t + (e.chunk t).length < e.tiles := by simpa [SnapEntry.chunk] using hmore
  unfold SnapEntry.chunk at *
  simp only [State.restoreChunk, hentry, hr, hnone, hread, if_pos hlen, List.isEmpty_nil, Bool.not_true, Bool.false_eq_true, if_false]

/-- A YIELD point of a RUNNING operation at most gives up its sequencer (R334). -/
theorem State.yieldPoint_of_running {s : State} {id : Nat} {o : Op} (ho : s.op? id = some o) (hst : o.st = .running) :
    ∃ q r, s.yieldPoint id = { s with seqs := q, regs := r } := by
  rcases State.yieldPoint_of_going ho (by simp [hst]) (by simp [hst]) with h | h
  · exact ⟨s.seqs, s.regs, h⟩
  · obtain ⟨q, r, hleave⟩ := s.leaveSeq_changes id
    rw [h, hleave]
    unfold State.makeReady
    split <;> exact ⟨_, _, rfl⟩

/-! ## The end of a restore (R259, R260) -/

/-- A restore without a saved context ends with the sum of its targets' digests. -/
theorem State.endRestore_of_unsaved {s : State} {o : Op} (p : Snapshot) (h : o.n nkSaved = 0) : s.endRestore p o =
    s.finish o stOk o.cursor (((List.range p.tiled.length).map (fun i =>
      ((s.regions.get (o.n (nkTargets + i))).map (fun r => r.digest.toNat)).getD 0)).sum % 2 ^ 64) 0 := by
  have hnone : s.saves.find? (fun v => v.number + 1 == o.n nkSaved) = none := by
    rw [h]
    exact List.find?_eq_none.mpr fun _ _ => by simp
  unfold State.endRestore
  rw [hnone]
  show s.finish o stOk o.cursor ((((List.range p.tiled.length).map (fun i => o.n (nkTargets + i))).map (fun j =>
    ((s.regions.get j).map (fun r => r.digest.toNat)).getD 0)).sum % 2 ^ 64) 0 = _
  rw [List.map_map]
  rfl

/-! ## The statement -/

/-- Settles O35: a restore begins at FIRST, each of its chunks is restore writes of distinct tiles, and it ends with the sum of the digests. -/
theorem snapRestoreWritesTiles : Obligations.SnapRestoreWritesTiles := by
  refine ⟨?start, ?chunk, ?done⟩
  case start =>
    intro s op units ext o v hwork hstage hslot hstore hv hscope
    have hexec := execSnapRestore_of_fresh (units := units) (ext := ext) hwork hstage
    rw [State.startRestore_of_slot hslot hstore hv hscope] at hexec
    have hid := State.id_of_work hwork
    refine ⟨fun hst => ?_, fun hst => ?_⟩
    · rw [if_neg (not_not.mpr hst)] at hexec
      exact ⟨_, hexec, State.op?_beginRestore v _ none (State.op?_of_work hwork), rfl, rfl⟩
    · rw [if_pos hst] at hexec
      obtain ⟨hregions, -, hdone⟩ := State.fail_does s hid (s.finalStatus_restoreStatus o (slotSnapshot v) .error)
      exact ⟨_, hexec, hdone, hregions⟩
  case chunk =>
    intro s s1 op i t j ext o e r r1 v ts places hwork hstage hrun hentry hj hts hmore hwithin hr hfree hplaces hread hr1 hapart ho1
    subst hj hts hplaces
    have ho := State.op?_of_work hwork
    have hchunk := State.restoreChunk_of_read (op := op) hentry hwithin hr hfree hread
    obtain ⟨hwritten, -, hops, hdigest⟩ := State.restoreWrites_does (k := ((e.chunk t).filterMap e.place).headD 0) (r0 := r) (e := e) (v := v)
      (e.chunk t) hr1 hapart (List.Subset.refl _) (e.chunk_nodup t)
    generalize s1.restoreWrites _ r e _ v _ = w at hchunk hwritten hops hdigest
    have how : w.op? op = some o := by
      rw [State.op?, hops]
      exact ho1
    have hmoved := State.op?_modOp_self (f := fun x => { x with cursor := o.cursor + chunkAt o.snapshot.tiled o.cursor }) how fun _ => rfl
    have hexec := execSnapRestore_of_walking (units := 1) (ext := ext) hwork hstage
    rw [State.walkBy_of_go ho (by omega) hchunk, State.endWalk_of_more hmoved (by rw [chunkAt_of_entry hentry]; exact hmore)] at hexec
    obtain ⟨q, regs, hyield⟩ := State.yieldPoint_of_running hmoved hrun
    rw [hyield] at hexec
    refine ⟨_, hexec, hwritten, ?_, hdigest⟩
    rw [chunkAt_of_entry hentry] at hmoved ⊢
    exact congrArg _ hmoved
  case done =>
    intro s op units ext o hwork hstage hover hsaved
    have ho := State.op?_of_work hwork
    have hexec := execSnapRestore_of_walking (units := units) (ext := ext) hwork hstage
    rw [State.walkBy_of_over ho units hover, State.endWalk_of_over ho hover, State.endRestore_of_unsaved _ hsaved] at hexec
    exact ⟨_, hexec, (s.endsOnly_finish o _ _ _ _).regions_eq,
      State.finish_ok_completed s (State.id_of_work hwork) _ (Nat.mod_lt _ (by decide))⟩

end Sys2Proof.Machine
end

section
/-! SUPPORT. The frame of reads through guard and sheaf (R202 to R222, R305 to R315): what a read may touch, and that all else stands, WY_TIME
and the records among it. -/

namespace Sys2Proof.Machine

/-- `t` is `s₀` but for what a read may touch: memory and regions that it repairs, counters and events, decode slots, the tap's holds, the
issues of the port, and the repairs that a cut holds. -/
def State.ReadsOnly (s₀ t : State) : Prop :=
  t = { s₀ with mem := t.mem, regs := t.regs, regions := t.regions, tables := t.tables, tap := t.tap, port := t.port, snap := t.snap
                evt := t.evt }

section
variable {s₀ s t : State}

theorem State.ReadsOnly.refl (s : State) : s.ReadsOnly s := rfl

/-- WY_TIME stands during a command (R398). -/
theorem State.ReadsOnly.now_eq (hk : s.ReadsOnly t) : t.now = s.now := by
  rw [hk]
  rfl

/-- The fields that reads change may take any value. -/
theorem State.ReadsOnly.update {mem : Tab Byte} {regs : Tab Word} {regions : Tab Region} {tables : Tables} {tap : Tap} {port : Port}
    {snap : Snap} {evt : Evt} (hk : s₀.ReadsOnly s) : s₀.ReadsOnly { s with
      mem := mem, regs := regs, regions := regions, tables := tables, tap := tap, port := port, snap := snap, evt := evt } := by
  unfold State.ReadsOnly at hk ⊢
  rw [hk]

theorem State.ReadsOnly.ite {c : Prop} [Decidable c] (hk : s₀.ReadsOnly s) (g : s₀.ReadsOnly t) : s₀.ReadsOnly (if c then s else t) := by
  split
  · exact hk
  · exact g

theorem State.ReadsOnly.ite_snd {α : Type} {c : Prop} [Decidable c] {p q : α × State} (hp : s₀.ReadsOnly p.2) (hq : s₀.ReadsOnly q.2) :
    s₀.ReadsOnly (if c then p else q).2 := by
  split
  · exact hp
  · exact hq

/-- The state of a pair, under the pair's name for it. -/
theorem State.ReadsOnly.snd {α : Type} {p : α × State} {x : α} (e : p = (x, t)) (hk : s₀.ReadsOnly p.2) : s₀.ReadsOnly t := by
  subst e
  exact hk

/-! ## Counters, events and stores of repaired tiles -/

theorem State.ReadsOnly.bumpBy {off n : Nat} (hk : s₀.ReadsOnly s) : s₀.ReadsOnly (s.bumpBy off n) := .ite hk (.update hk)

theorem State.ReadsOnly.bump {off : Nat} (hk : s₀.ReadsOnly s) : s₀.ReadsOnly (s.bump off) := .bumpBy hk

theorem State.ReadsOnly.giveUp {j t : Nat} (hk : s₀.ReadsOnly s) : s₀.ReadsOnly (s.giveUp j t) := by
  obtain ⟨e, he⟩ := (s.bump (guardCnt 4)).event_changes_evt 78 (infoA j t)
  rw [State.giveUp, he]
  exact .update (.bump hk)

theorem State.ReadsOnly.putLine {r : Region} {t g : Nat} {v : List Byte} (hk : s₀.ReadsOnly s) : s₀.ReadsOnly (s.putLine r t g v) := by
  rcases s.putLine_cases r t g v with h | ⟨off, -, -, h⟩
  · rwa [h]
  · rw [h]
    exact .update hk

theorem State.ReadsOnly.putTile {r : Region} {t : Nat} {v : List Byte} (hk : s₀.ReadsOnly s) : s₀.ReadsOnly (s.putTile r t v) :=
  .update (.putLine (.update hk))

theorem State.ReadsOnly.cbwAsk {j t : Nat} (hk : s₀.ReadsOnly s) : s₀.ReadsOnly (s.cbwAsk j t) := by
  unfold State.cbwAsk
  split
  · extract_lets
    split
    · split
      · exact .update (.update hk)
      · exact hk
    · exact hk
  · exact hk

theorem State.ReadsOnly.cbwEngine {j t : Nat} (hk : s₀.ReadsOnly s) : s₀.ReadsOnly (s.cbwEngine j t) :=
  .ite (.cbwAsk hk) (.bump (.update (.cbwAsk hk)))

theorem State.ReadsOnly.repairTile {j t : Nat} {r : Region} {v : List Byte} (hk : s₀.ReadsOnly s) : s₀.ReadsOnly (s.repairTile j t r v) :=
  .ite (.cbwEngine (.ite hk (.update hk))) (.putTile hk)

theorem State.ReadsOnly.acceptBuild {j t : Nat} {v : List Byte} (hk : s₀.ReadsOnly s) : s₀.ReadsOnly (s.acceptBuild j t v) := by
  unfold State.acceptBuild
  split
  · exact hk
  · exact .update (.update (.putTile hk))

/-! ## Reads of a member's own tiles -/

theorem State.ReadsOnly.noteRead {i t : Nat} {r : Region} {x : TileRd} (hk : s₀.ReadsOnly s) : s₀.ReadsOnly (s.noteRead i t r x) := by
  unfold State.noteRead
  extract_lets g s1 s2
  have h2 : s₀.ReadsOnly s2 := .update (.ite (.bump hk) hk)
  exact .ite h2 (.ite (.putLine (.bump h2)) (.ite h2 (.repairTile (.bump (.bumpBy h2)))))

theorem State.ReadsOnly.xorTiles {ext : Ext} {l : List (Nat × Region × Nat)} {v : List Byte} (hk : s₀.ReadsOnly s) :
    s₀.ReadsOnly (s.xorTiles ext l v).2 := by
  induction l generalizing s v with
  | nil => exact hk
  | cons x l ih =>
    unfold State.xorTiles
    split
    · exact ih (.snd ‹_› (.noteRead hk))
    · exact .giveUp (.snd ‹_› (.noteRead hk))

theorem State.ReadsOnly.touchQuiet {j : Nat} (hk : s₀.ReadsOnly s) : s₀.ReadsOnly (s.touchQuiet j) := by
  unfold State.touchQuiet
  extract_lets _ _ _ _ _ _ s2
  have h2 : s₀.ReadsOnly s2 := .update (.update hk)
  split
  · exact hk
  · exact .ite (.update hk) (.ite (.bump h2) h2)

theorem State.ReadsOnly.viewPlain {ext : Ext} {j : Nat} {r : Region} {view t : Nat} (hk : s₀.ReadsOnly s) :
    s₀.ReadsOnly (s.viewPlain ext j r view t).2 := by
  unfold State.viewPlain
  split
  next hread => exact .giveUp (.snd hread (.noteRead hk))
  next hread =>
    have h1 := State.ReadsOnly.snd hread (.noteRead hk)
    exact .ite_snd h1 (.ite_snd (.xorTiles h1) (.xorTiles h1))

theorem State.ReadsOnly.readOwnMember {ext : Ext} {view sheaf i t : Nat} (hk : s₀.ReadsOnly s) :
    s₀.ReadsOnly (s.readOwnMember ext view sheaf i t).2 := by
  unfold State.readOwnMember
  split
  · exact hk
  · extract_lets _ s1
    have h1 : s₀.ReadsOnly s1 := .ite (.touchQuiet hk) hk
    refine .ite_snd hk (.ite_snd hk (.ite_snd h1 (.ite_snd h1 ?_)))
    split <;> exact .snd ‹_› (.viewPlain h1)

/-! ## Reads of a stripe for no operation -/

theorem State.ReadsOnly.readMember {ext : Ext} {cls view sheaf : Nat} {me : Region} {i t : Nat} {x : Member} (hk : s₀.ReadsOnly s) :
    s₀.ReadsOnly (s.readMember ext none cls view sheaf me i t x).2 := by
  refine .ite_snd (.readOwnMember hk) ?_
  unfold State.sendOnce
  split
  · exact .update (.update (.update (.update (.ite (.update hk) hk))))
  · exact hk

theorem State.ReadsOnly.readMembers {ext : Ext} {cls sheaf : Nat} {sh : Sheaf} {me : Region} {t : Nat} {l : List Nat} {c : Tab MemRd}
    (hk : s₀.ReadsOnly s) : s₀.ReadsOnly (s.readMembers ext none cls sheaf sh me t l c).2 := by
  induction l generalizing s c with
  | nil => exact hk
  | cons x l ih =>
    unfold State.readMembers
    split
    · exact ih hk
    · split
      · exact ih hk
      · exact ih (.readMember hk)

theorem State.ReadsOnly.useSlot {own : Option Nat} {d : DecSlot} (hk : s₀.ReadsOnly s) : s₀.ReadsOnly (s.useSlot own d) := by
  unfold State.useSlot
  extract_lets
  split
  · exact .update hk
  · split
    · exact .update hk
    · exact .bump hk

theorem State.ReadsOnly.solveStripe {own : Option Nat} {region : Nat} {me : Region} {sh : Sheaf} {t : Nat} {sel : List Nat} {c : Tab MemRd}
    (hk : s₀.ReadsOnly s) : s₀.ReadsOnly (s.solveStripe own region me sh t sel c).2 := by
  unfold State.solveStripe
  extract_lets
  refine .ite_snd hk ?_
  split
  · exact hk
  · exact .useSlot hk

theorem State.ReadsOnly.decodeStripe {ext : Ext} {cls region : Nat} {r : Region} {sh : Sheaf} {t : Nat} {order excl : List Nat}
    (hk : s₀.ReadsOnly s) : s₀.ReadsOnly (s.decodeStripe ext none cls region r sh t order excl).2 := by
  have hstripe : ∀ (n : Nat) (excl : List Nat) (c : Tab MemRd) (s : State), s₀.ReadsOnly s →
      s₀.ReadsOnly (s.readStripe ext none cls region r.sheaf r sh t order n excl c).2 := fun n => by
    induction n with
    | zero => exact fun _ _ _ hk => hk
    | succ n ih =>
      intro excl c s hk
      unfold State.readStripe
      extract_lets _ _ _ _ _ q _ _ _ p
      have hq : s₀.ReadsOnly q.2 := .readMembers hk
      have hp : s₀.ReadsOnly p.2 := .readMembers hq
      refine .ite_snd hk (.ite_snd hq ?_)
      split
      · exact hq
      · exact .ite_snd (ih _ _ _ (.bumpBy hq)) (.ite_snd hp (.ite_snd (ih _ _ _ (.bumpBy hp)) (.ite_snd hp (.solveStripe hp))))
  exact hstripe _ _ _ _ hk

theorem State.ReadsOnly.targetTile {ext : Ext} {cls region : Nat} {r : Region} {sh : Sheaf} {target t : Nat} (hk : s₀.ReadsOnly s) :
    s₀.ReadsOnly (s.targetTile ext none cls region r sh target t).2 := by
  unfold State.targetTile
  split
  · exact hk
  · split
    · exact .ite_snd (.snd ‹_› (.decodeStripe hk)) (.snd ‹_› (.decodeStripe hk))
    · exact .snd ‹_› (.decodeStripe hk)
    · exact .snd ‹_› (.decodeStripe hk)
    · exact .snd ‹_› (.decodeStripe hk)

theorem State.ReadsOnly.buildValue {ext : Ext} {cls j : Nat} {r : Region} {sh : Sheaf} {t : Nat} (hk : s₀.ReadsOnly s) :
    s₀.ReadsOnly (s.buildValue ext none cls j r sh t).2 := by
  unfold State.buildValue
  split
  · exact .targetTile hk
  · split
    · split <;> exact .snd ‹_› (.xorTiles (.snd ‹_› (.decodeStripe hk)))
    · exact .snd ‹_› (.decodeStripe hk)
    · exact .snd ‹_› (.decodeStripe hk)
    · exact .snd ‹_› (.decodeStripe hk)

/-! ## Reads through repair, and reads of the stack (R305 to R315) -/

theorem State.ReadsOnly.repairValue {ext : Ext} {j : Nat} {r : Region} {t : Nat} (hk : s₀.ReadsOnly s) :
    s₀.ReadsOnly (s.repairValue ext j r t).2 := by
  unfold State.repairValue
  split
  · exact hk
  · split
    · split <;> exact .snd ‹_› (.buildValue hk)
    · split
      · exact hk
      · split
        · exact .xorTiles (.snd ‹_› (.targetTile hk))
        · exact .snd ‹_› (.targetTile hk)

theorem State.ReadsOnly.readTile {ext : Ext} {j : Nat} {r : Region} {t : Nat} (hk : s₀.ReadsOnly s) :
    s₀.ReadsOnly (s.readTile ext j r t).2 := by
  unfold State.readTile
  split
  next hread => exact .snd hread (.noteRead hk)
  next hread =>
    have h1 := State.ReadsOnly.snd hread (.noteRead hk)
    split
    · split
      · exact .giveUp h1
      · split
        · exact .bumpBy (.acceptBuild (.snd ‹_› (.buildValue h1)))
        · exact .giveUp (.snd ‹_› (.buildValue h1))
    · split
      · exact .bump (.repairTile (.snd ‹_› (.repairValue h1)))
      · exact .giveUp (.snd ‹_› (.repairValue h1))

theorem State.ReadsOnly.readPart {ext : Ext} {tile off n : Nat} (hk : s₀.ReadsOnly s) : s₀.ReadsOnly (s.readPart ext tile off n).2 := by
  unfold State.readPart
  extract_lets
  split
  · exact hk
  · split
    · exact hk
    · split <;> exact .snd ‹_› (.readTile hk)

theorem State.ReadsOnly.readStack {ext : Ext} {n off len : Nat} (hk : s₀.ReadsOnly s) : s₀.ReadsOnly (s.readStack ext n off len).2 := by
  induction n generalizing s off len with
  | zero => exact hk
  | succ n ih =>
    unfold State.readStack
    extract_lets
    split
    · exact hk
    · split
      next hread => exact .snd hread (.readPart hk)
      next hread => split <;> exact .snd ‹_› (ih (.snd hread (.readPart hk)))

theorem State.ReadsOnly.readAt {ext : Ext} {a n cls : Nat} (hk : s₀.ReadsOnly s) : s₀.ReadsOnly (s.readAt ext a n cls).2 := by
  unfold State.readAt
  split
  · split <;> exact .snd ‹_› (.readStack hk)
  · exact .update hk
end

end Sys2Proof.Machine
end

section
/-! SUPPORT. The numbers that an operation keeps, its waits and YIELD points (R334), and 64-bit words of the own stack outside the regions: their
addresses (R4, R44), and a reduction of one that nothing delays (R14). -/

namespace Sys2Proof.Machine

/-! ## Numbers of an operation -/

@[simp] theorem Op.n_keep_self (o : Op) (k v : Nat) : (o.keep k v).n k = v := by
  simp [Op.n, Op.keep, Tab.get_set_self]

theorem Op.n_keep_ne (o : Op) {k i : Nat} (v : Nat) (h : i ≠ k) : (o.keep k v).n i = o.n i :=
  congrArg (fun n => n.getD 0) (Tab.get_set_ne o.note k i v h)

/-- A field of n bytes holds n bytes. -/
theorem Op.arg_lt (o : Op) (off n : Nat) : o.arg off n < 256 ^ n := by
  have h := leNat_lt (slice o.desc off n)
  rwa [slice_length] at h

/-! ## Waits and YIELD points (R334) -/

theorem State.park_mem (s : State) (id : Nat) (f : Op → Op) : (s.park id f).mem = s.mem := by
  obtain ⟨q, r, hpark⟩ := s.park_changes id f
  rw [hpark]
  rfl

/-- A wait that ends leaves its operation as it is changed, and memory (R334). -/
theorem State.unpark_does {s : State} {id : Nat} {o : Op} {f : Op → Op} (ho : s.op? id = some o) (hf : ∀ o, (f o).id = o.id) :
    (s.unpark id f).op? id = some (f o) ∧ (s.unpark id f).mem = s.mem := by
  refine ⟨?_, ((s.modOp id f).makeReady_keeps id).1⟩
  rw [State.unpark, State.op?, State.ops_makeReady]
  exact State.op?_modOp_self ho hf

/-- A YIELD point of a RUNNING operation counts context switches alone (R334, Table 11-14). -/
theorem State.reg_yieldPoint_of_running {s : State} {id off : Nat} {o : Op} (ho : s.op? id = some o) (hst : o.st = .running)
    (hoff : off ≠ seqCnt 4) : (s.yieldPoint id).reg off = s.reg off := by
  have hleave : (s.leaveSeq id).reg off = s.reg off := by
    unfold State.leaveSeq
    split
    · exact State.reg_bump_ne _ _ _ hoff
    · rfl
  have hready : ∀ t : State, (t.makeReady id).reg off = t.reg off := fun t => by
    unfold State.makeReady
    split <;> rfl
  rcases State.yieldPoint_of_going ho (by simp [hst]) (by simp [hst]) with h | h
  · rw [h]
  · rw [h, hready, hleave]

/-! ## Addresses (R4, R44) -/

theorem State.of_inStack {s : State} {a n : Nat} (h : s.inStack a n = true) :
    gNode a = s.strap.node ∧ gAgent a = s.strap.engine ∧ gOff a + n ≤ stackBytes := by
  simpa [State.inStack, State.own, and_assoc] using h

theorem stackBytes_eq : stackBytes = 77309411328 := rfl

/-- Within the stack an address runs with its offset. -/
theorem addr_add {a n k : Nat} (h : gOff a + n ≤ stackBytes) (hk : k ≤ n) :
    gOff (a + k) = gOff a + k ∧ gNode (a + k) = gNode a ∧ gAgent (a + k) = gAgent a := by
  rw [stackBytes_eq] at h
  simp only [gOff, gNode, gAgent, bits, Nat.reducePow, Nat.div_one] at h ⊢
  omega

theorem State.stackAddr_gOff {s : State} {a n : Nat} (h : s.inStack a n = true) (ha : a < 2 ^ 64) : s.stackAddr (gOff a) = a := by
  obtain ⟨hnode, hagent, -⟩ := State.of_inStack h
  rw [State.stackAddr, ← hnode, ← hagent]
  simp only [gaddr, gOff, gNode, gAgent, bits]
  omega

/-- A part of bytes in the stack lies in the stack. -/
theorem State.inStack_part {s : State} {a n k m : Nat} (h : s.inStack a n = true) (hk : k + m ≤ n) : s.inStack (a + k) m = true := by
  obtain ⟨hnode, hagent, hend⟩ := State.of_inStack h
  obtain ⟨hoff, hnode', hagent'⟩ := addr_add hend (k := k) (by omega)
  have hpart : gOff a + k + m ≤ stackBytes := by omega
  simp [State.inStack, State.own, hoff, hnode', hagent', hnode, hagent, hpart]

/-- A part of bytes that meet no region meets none. -/
theorem State.meetsRegion_part {s : State} {off n k m : Nat} (h : s.meetsRegion off n = false) (hk : k + m ≤ n) :
    s.meetsRegion (off + k) m = false := by
  unfold State.meetsRegion at h ⊢
  rw [List.any_eq_false] at h ⊢
  intro p hp
  have hfree := h p hp
  simp only [decide_eq_true_eq] at hfree ⊢
  omega

/-! ## Reductions that nothing delays (R14) -/

/-- Memory after a 64-bit word of it becomes a function of what it was. -/
def wordMap (m : Tab Byte) (a : Nat) (f : Nat → Nat) : Tab Byte := memWrite m a (leBytes 8 (f (leNat (memRead m a 8))))

theorem leNat_wordMap (m : Tab Byte) (a : Nat) (f : Nat → Nat) :
    leNat (memRead (wordMap m a f) a 8) = f (leNat (memRead m a 8)) % 2 ^ 64 := by
  have hread := memRead_memWrite_self m a (leBytes 8 (f (leNat (memRead m a 8))))
  rw [leBytes_length] at hread
  rw [wordMap, hread, leNat_leBytes, show 256 ^ 8 = 2 ^ 64 by norm_num]

theorem memRead_wordMap_apart (m : Tab Byte) {a b n : Nat} (f : Nat → Nat) (h : b + n ≤ a ∨ a + 8 ≤ b) :
    memRead (wordMap m a f) b n = memRead m b n :=
  memRead_memWrite_apart _ _ _ _ _ (by rwa [leBytes_length])

theorem byteAt_wordMap_apart (m : Tab Byte) {a k : Nat} (f : Nat → Nat) (h : k < a ∨ a + 8 ≤ k) :
    byteAt (wordMap m a f) k = byteAt m k := by
  rw [wordMap, byteAt_memWrite, leBytes_length, if_neg (by omega)]

/-- A word after a reduction: the maximum, or the sum modulo 2^64. -/
def reduced (max : Bool) (v old : Nat) : Nat := if max then Nat.max old v else (old + v) % 2 ^ 64

theorem reduced_max (v old : Nat) : reduced true v old = Nat.max old v := rfl
theorem reduced_add (v old : Nat) : reduced false v old = (old + v) % 2 ^ 64 := rfl

/-- `n` bytes at `a` lie in the own stack outside any region, and no write waits at the tap: a write there is performed at once (R14). -/
def State.Loose (s : State) (a n : Nat) : Prop :=
  a < 2 ^ 64 ∧ s.inStack a n = true ∧ s.meetsRegion (gOff a) n = false ∧ s.tap.queue = [] ∧ s.tap.held = []

theorem State.Loose.part {s : State} {a n k m : Nat} (h : s.Loose a n) (hk : k + m ≤ n) : s.Loose (a + k) m := by
  obtain ⟨ha, hin, hfree, hqueue, hheld⟩ := h
  obtain ⟨-, -, hend⟩ := State.of_inStack hin
  have hoff := (addr_add hend (k := k) (by omega)).1
  refine ⟨?_, State.inStack_part hin hk, ?_, hqueue, hheld⟩
  · rw [stackBytes_eq] at hend
    simp only [gOff, bits, Nat.reducePow, Nat.div_one] at hend ha ⊢
    omega
  · rw [hoff]
    exact State.meetsRegion_part hfree hk

/-- The state with another memory. -/
def State.setMem (s : State) (m : Tab Byte) : State := { s with mem := m }

/-- A reduction of such a word is performed at once, and changes nothing else (R14, R198, R274). -/
theorem State.reduceCell_of_loose {s : State} {a : Nat} (h : s.Loose a 8) (op : Nat) (max : Bool) (v cls : Nat) :
    s.reduceCell op a max v cls = s.setMem (wordMap s.mem a (reduced max v)) := by
  obtain ⟨ha, hin, hfree, hqueue, hheld⟩ := h
  have haddr := State.stackAddr_gOff hin ha
  have hold : s.pendingRead (gOff a) 8 = memRead s.mem a 8 := by
    rw [State.pendingRead, hqueue, hheld, List.foldl_nil, List.foldl_nil, State.stackRead, haddr]
  have hlen : ((leBytes 8 (reduced max v (leNat (memRead s.mem a 8)))).map some).length = 8 := by rw [List.length_map, leBytes_length]
  have hwrite := (s.putWrite_does engineAgent (some op) (gOff a) ((leBytes 8 (reduced max v (leNat (memRead s.mem a 8)))).map some)).2
    (by rwa [hlen])
  rw [hlen, masked_map_some _ _ (by rw [leBytes_length]; exact memRead_length _ _ _), haddr] at hwrite
  rw [State.reduceCell, if_pos hin, hold, State.engineWrite, ← reduced, (s.storeFor_does _ _ _ _).1 (by rwa [leBytes_length])]
  exact hwrite

end Sys2Proof.Machine
end

section
/-! The statement of TED_PACK and SCALE_CELL_POLL: O36. The start and pass 1 with its contribution (R273, R274), the polls (R274, R275), and the
units and the end of pass 2 (R275, R278). -/

namespace Sys2Proof.Machine

/-! ## The start (R273, Table 9-8) -/

/-- The statuses of a TED_PACK are ones that a final record carries (R94). -/
theorem State.finalStatus_packStatus (s : State) (o : Op) : finalStatus (s.packStatus o) = s.packStatus o := by
  unfold State.packStatus
  extract_lets
  split_ifs <;> rfl

/-- A pack with a trigger count owns its trigger counter (R285). -/
def State.claimTrigger (s : State) (op : Nat) (o : Op) : State :=
  if o.arg 24 2 ≠ 0 then { s with seqs := { s.seqs with trigOwn := s.seqs.trigOwn.set (o.arg 22 1) op } } else s

theorem State.claimTrigger_changes (s : State) (op : Nat) (o : Op) : ∃ q, s.claimTrigger op o = { s with seqs := q } := by
  unfold State.claimTrigger
  split <;> exact ⟨_, rfl⟩

/-- A pack that passes its checks walks pass 1 from FIRST with CURSOR 0 (R274). -/
def State.beginPack (s : State) (op : Nat) (o : Op) : State :=
  (s.claimTrigger op o).modOp op (fun o => { (o.keep nkBlock o.tedFirst) with stage := .walking, cursor := 0 })

theorem State.beginPack_does {s : State} {op : Nat} {o : Op} (ho : s.op? op = some o) :
    ((s.beginPack op o).op? op).map (fun x => (x.stage, x.cursor, x.n nkBlock)) = some (.walking, 0, o.tedFirst) ∧
    (s.beginPack op o).mem = s.mem ∧ (s.beginPack op o).regions = s.regions := by
  obtain ⟨q, hq⟩ := s.claimTrigger_changes op o
  rw [State.beginPack, hq]
  refine ⟨?_, rfl, rfl⟩
  rw [State.op?_modOp_self (s := { s with seqs := q }) (f := fun o => { (o.keep nkBlock o.tedFirst) with stage := .walking, cursor := 0 })
    ho fun _ => rfl, Option.map_some]
  exact congrArg (fun n => some (Stage.walking, 0, n)) (o.n_keep_self nkBlock o.tedFirst)

section
variable {s : State} {op units : Nat} {ext : Ext} {o : Op} (hwork : s.work op 0x50 = some o)
include hwork

theorem execTedPack_of_fresh (hstage : o.stage = .fresh) :
    exec (.tedPack op units ext) s = .next (if s.packStatus o ≠ 0 then s.fail o (s.packStatus o) else s.beginPack op o) := by
  show execTedPack op units ext s = _
  simp only [execTedPack, hwork, hstage, if_true]
  rfl

variable (hstage : o.stage = .walking)
include hstage

theorem execTedPack_of_passOne (hpass : o.n nkPassTwo ≠ 2) :
    exec (.tedPack op units ext) s = .next (State.passOneLoop ext op units s) := by
  show execTedPack op units ext s = _
  simp [execTedPack, hwork, hstage, hpass]

/-- Once every block of pass 1 is read the operation contributes and polls (R274). -/
theorem execTedPack_of_blocksRead (hpass : o.n nkPassTwo ≠ 2) (hover : o.tedLast ≤ o.n nkBlock) :
    exec (.tedPack op (units + 1) ext) s = .next (s.contribute o).settle := by
  rw [execTedPack_of_passOne hwork hstage hpass]
  simp only [State.passOneLoop, State.op?_of_work hwork, if_pos hover]

theorem execTedPack_of_passTwo (hpass : o.n nkPassTwo = 2) : exec (.tedPack op units ext) s =
    .next (State.endWalk op o.tedLast State.packEnd (State.walkBy op o.tedLast o.packSize (State.packUnit ext op) units s)) := by
  show execTedPack op units ext s = _
  simp [execTedPack, hwork, hstage, hpass]
end

/-! ## The contribution (R274) -/

/-- Memory with the contribution of a pack in its cell: the maximum, its non-finite elements, and one to ARRIVED (Table 9-3). -/
def Op.contributed (o : Op) (m : Tab Byte) : Tab Byte :=
  wordMap (wordMap (wordMap m (o.arg 40 8) (reduced true (o.n nkMaxl))) (o.arg 40 8 + 8) (reduced false (o.n nkNonf)))
    (o.arg 40 8 + 16) (reduced false 1)

/-- The cell after a contribution, word by word, and the bytes around it. -/
theorem Op.contributed_does (o : Op) (m : Tab Byte) :
    leNat (memRead (o.contributed m) (o.arg 40 8) 8) = Nat.max (leNat (memRead m (o.arg 40 8) 8)) (o.n nkMaxl) % 2 ^ 64 ∧
    leNat (memRead (o.contributed m) (o.arg 40 8 + 8) 8) = (leNat (memRead m (o.arg 40 8 + 8) 8) + o.n nkNonf) % 2 ^ 64 ∧
    leNat (memRead (o.contributed m) (o.arg 40 8 + 16) 8) = (leNat (memRead m (o.arg 40 8 + 16) 8) + 1) % 2 ^ 64 ∧
    ∀ a, a < o.arg 40 8 ∨ o.arg 40 8 + 24 ≤ a → byteAt (o.contributed m) a = byteAt m a := by
  unfold Op.contributed
  refine ⟨?_, ?_, ?_, fun a ha => ?_⟩
  · rw [memRead_wordMap_apart _ _ (by omega), memRead_wordMap_apart _ _ (by omega), leNat_wordMap, reduced_max]
  · rw [memRead_wordMap_apart _ _ (by omega), leNat_wordMap, memRead_wordMap_apart _ _ (by omega), reduced_add, Nat.mod_mod]
  · rw [leNat_wordMap, memRead_wordMap_apart _ _ (by omega), memRead_wordMap_apart _ _ (by omega), reduced_add, Nat.mod_mod]
  · rw [byteAt_wordMap_apart _ _ (by omega), byteAt_wordMap_apart _ _ (by omega), byteAt_wordMap_apart _ _ (by omega)]

section
variable {s : State} {op : Nat} {o : Op} (ho : s.op? op = some o)
include ho

/-- A pack that nothing holds up adds to ARRIVED at once. -/
theorem State.arrive_of_loose (hcode : o.opcode = 0x50) (hloose : s.Loose (o.arg 40 8 + 16) 8) (hadd : o.n nkArrived = 0)
    (hxfers : ∀ x ∈ s.port.xfers, x.op ≠ op) : s.arrive op =
    (s.setMem (wordMap s.mem (o.arg 40 8 + 16) (reduced false 1))).modOp op (fun o => { o.keep nkArrived 1 with hold := s.now }) := by
  have hport : s.port.xfers.any (fun x => x.op == op) = false := List.any_eq_false.mpr fun x hx => by simpa using hxfers x hx
  have htap : s.engineHeld op = false := by
    obtain ⟨-, -, -, hqueue, hheld⟩ := hloose
    simp [State.engineHeld, hqueue, hheld]
  have hcell : o.arrivedAt = o.arg 40 8 + 16 := if_neg (by rw [hcode]; decide)
  simp [State.arrive, ho, hadd, hport, htap, hcell, State.reduceCell_of_loose hloose]

/-- The contribution of a pack that nothing holds up is in its cell at once. -/
theorem State.contributed_of_loose (hcode : o.opcode = 0x50) (hloose : s.Loose (o.arg 40 8) 64) (hadd : o.n nkArrived = 0)
    (hxfers : ∀ x ∈ s.port.xfers, x.op ≠ op) :
    ((s.reduceCell op (o.arg 40 8) true (o.n nkMaxl) 1).reduceCell op (o.arg 40 8 + 8) false (o.n nkNonf) 1).arrive op =
      (s.setMem (o.contributed s.mem)).modOp op (fun o => { o.keep nkArrived 1 with hold := s.now }) := by
  have hmax := State.reduceCell_of_loose (hloose.part (k := 0) (m := 8) (by omega)) op true (o.n nkMaxl) 1
  rw [Nat.add_zero] at hmax
  rw [hmax]
  generalize hm1 : wordMap s.mem (o.arg 40 8) (reduced true (o.n nkMaxl)) = m1
  have hloose1 : (s.setMem m1).Loose (o.arg 40 8) 64 := hloose
  rw [State.reduceCell_of_loose (hloose1.part (k := 8) (m := 8) (by omega))]
  generalize hm2 : wordMap (s.setMem m1).mem (o.arg 40 8 + 8) (reduced false (o.n nkNonf)) = m2
  have hloose2 : ((s.setMem m1).setMem m2).Loose (o.arg 40 8) 64 := hloose
  rw [State.arrive_of_loose (s := (s.setMem m1).setMem m2) ho hcode (hloose2.part (k := 16) (m := 8) (by omega)) hadd hxfers]
  subst hm2 hm1
  rfl

/-- The end of pass 1 in such a state: the contribution is in the cell and the operation polls (R274). -/
theorem State.contribute_of_loose (hcode : o.opcode = 0x50) (hresume : bitAt (o.arg 21 1) 4 = false) (hloose : s.Loose (o.arg 40 8) 64)
    (hadd : o.n nkArrived = 0) (hxfers : ∀ x ∈ s.port.xfers, x.op ≠ op) :
    ((s.contribute o).op? op).map (fun x => x.stage) = some .polling ∧ (s.contribute o).mem = o.contributed s.mem := by
  obtain rfl := State.op?_some_id ho
  have hcell := State.contributed_of_loose ho hcode hloose hadd hxfers
  unfold State.contribute
  extract_lets cell s1
  have hs1 : s1 = (s.setMem (o.contributed s.mem)).modOp o.id (fun o => { o.keep nkArrived 1 with hold := s.now }) := by
    rw [← hcell]
    exact if_neg (by rw [hresume]; exact Bool.false_ne_true)
  have ho1 : s1.op? o.id = some { o.keep nkArrived 1 with hold := s.now } := by
    rw [hs1]
    exact State.op?_modOp_self (f := fun o => { o.keep nkArrived 1 with hold := s.now }) ho fun _ => rfl
  refine ⟨?_, (s1.park_mem _ _).trans (congrArg State.mem hs1)⟩
  rw [State.op?_park (f := fun o => { o with stage := .polling, hold := s.now }) ho1 fun _ => rfl, Option.map_some]

/-- With RESUME the operation polls at once (R274). -/
theorem State.contribute_of_resume (hresume : bitAt (o.arg 21 1) 4 = true) :
    (s.contribute o).op? op = some { o with stage := .polling, hold := s.now } ∧ (s.contribute o).mem = s.mem := by
  obtain rfl := State.op?_some_id ho
  have hcontribute : s.contribute o = s.park o.id (fun o => { o with stage := .polling, hold := s.now }) := by
    simp only [State.contribute, if_pos hresume]
  rw [hcontribute]
  exact ⟨State.op?_park ho fun _ => rfl, s.park_mem _ _⟩
end

/-! ## SCALE_CELL_POLL (R274, R275) -/

section
variable {s s1 : State} {op : Nat} {ext : Ext} {o : Op} {v : List Byte} (hwait : s.waiting op 0x50 = some o) (hstage : o.stage = .polling)
  (hgood : o.n nkErrors = 0) (hadded : o.n nkArrived ≠ 0 ∨ bitAt (o.arg 21 1) 4 = true) (hdue : s.past o.hold 200 = true)
  (hread : s.readAt ext (o.arg 40 8) 64 1 = (.data v, s1))
include hwait hstage hgood hadded hdue hread

/-- A poll that is due and reads its cell goes by ARRIVED and the non-finite count (R275). -/
theorem execScaleCellPoll_of_read : exec (.scaleCellPoll op ext) s = .next (
    if o.arg 36 4 < field v 16 8 ∨ 0 < field v 8 8 then (s1.fail o stCheckFail).settle
    else if field v 16 8 < o.arg 36 4 then s1.modOp op (fun o => { o with hold := s.now })
    else s1.unpark op (fun o => { ((o.keep nkPassTwo 2).keep nkScale (if field v 0 4 = 0 then 0x3F800000 else field v 0 4)) with
      stage := .walking, cursor := o.tedFirst })) := by
  have hissued : (decide (o.n nkArrived = 0) && !bitAt (o.arg 21 1) 4) = false := by
    rcases hadded with h | h <;> simp [h]
  show execScaleCellPoll op ext s = _
  simp only [execScaleCellPoll, hwait, hstage, hgood, hissued, hdue, hread, ne_eq, not_true, Nat.lt_irrefl, Bool.not_true,
    Bool.false_eq_true, if_false]
end

/-! ## Pass 2 (R275, R278) -/

/-- Increments of a trigger counter change the sequencers alone (R344). -/
theorem State.triggerBy_changes (s : State) (k n : Nat) : ∃ q, s.triggerBy k n = { s with seqs := q } :=
  List.foldlRecOn (motive := fun t : State => ∃ q, t = { s with seqs := q }) _ _ ⟨s.seqs, rfl⟩
    fun _ ⟨_, hq⟩ _ _ => hq ▸ ⟨_, rfl⟩

/-- What the unit of operation `o` at block `b` counts in its record (R278): its length words in RESULT, its blocks ESCAPE in AUX. -/
def Op.countUnit (o : Op) (b : Nat) (x : Op) : Op :=
  { (if o.arg 24 2 = 0 then x else x.keep nkGroup ((o.n nkGroup + o.packSize b) % o.arg 24 2)) with
    result := x.result + ((List.range (o.packSize b)).map (fun i => field (leBytes (2 * o.packSize b) (o.n nkLens)) (2 * i) 2)).sum
    aux := x.aux + x.n nkEscaped }

theorem Op.countUnit_keeps (o : Op) (b : Nat) (x : Op) :
    (o.countUnit b x).id = x.id ∧ (o.countUnit b x).st = x.st ∧ (o.countUnit b x).cursor = x.cursor := by
  unfold Op.countUnit
  split <;> exact ⟨rfl, rfl, rfl⟩

/-- The counts of a unit of pass 2 that is visible (R278, Table 9-12). -/
def State.countUnit (s : State) (op : Nat) (o : Op) (b : Nat) : State :=
  (((s.bumpBy (tedCnt 0) (o.packSize b)).bumpBy (tedCnt 1) (o.n nkEscaped)).bumpBy (tedCnt 2) (o.n nkUnits)).modOp op (o.countUnit b)

section
variable {s : State} {op : Nat} {o : Op} (ho : s.op? op = some o)
include ho

theorem State.countUnit_does (b : Nat) : (s.countUnit op o b).op? op = some (o.countUnit b o) ∧ (s.countUnit op o b).mem = s.mem ∧
    (s.countUnit op o b).reg (tedCnt 0) = s.reg (tedCnt 0) + BitVec.ofNat 32 (o.packSize b) := by
  refine ⟨State.op?_modOp_self ?_ fun x => (o.countUnit_keeps b x).1, by simp [State.countUnit], ?_⟩
  · simpa [State.op?] using ho
  · show (State.bumpBy _ _ _).reg _ = _
    simp [State.reg_bumpBy, tedCnt]

/-- Beside its counts a unit that is visible moves its trigger counter alone (R285). -/
theorem State.packDone_changes (b : Nat) : ∃ q, s.packDone op b = { s.countUnit op o b with seqs := q } := by
  have hdone : s.packDone op b = if o.arg 24 2 = 0 then s.countUnit op o b
      else (s.countUnit op o b).triggerBy (o.arg 22 1) ((o.n nkGroup + o.packSize b) / o.arg 24 2) := by
    simp only [State.packDone, ho]
    rfl
  rw [hdone]
  split
  · exact ⟨_, rfl⟩
  · exact State.triggerBy_changes _ _ _

/-- A unit of pass 2 whose writes are done is visible (R92, R283). -/
theorem State.packUnit_of_performed {ext : Ext} {b : Nat} (hissued : o.n nkIssued = 2 * b + 2) (hfree : s.engineHeld op = false)
    (hgood : o.n nkErrors = 0) : s.packUnit ext op b = .go (s.packDone op b) := by
  have hbegun : s.unitBegun op b = true := by simp [State.unitBegun, ho, hissued]
  have hdone := State.unitDone_of_performed hfree (by rw [ho, Option.map_some, hgood])
  unfold State.packUnit State.blockUnit
  extract_lets res run
  have hrun : run s = .go s := by
    show s.unitWrites2 op (2 * b) _ _ = _
    rw [State.unitWrites2_of_second ho hissued, State.unitWrites_of_issued ho hissued, hdone]
  rw [hbegun, if_pos rfl, hrun]
end

/-- The end of pass 2: the operation is final with its counts (R278). -/
theorem State.packEnd_completed (s : State) (o : Op) : (s.packEnd o).completed o.id stOk (o.result % 2 ^ 64) o.aux :=
  State.completed_finish_ok _ o _ _ _

/-! ## The statement -/

/-- Settles O36: a pack begins, contributes to its cell, polls it, and counts its units up to its end. -/
theorem tedPackGathersItsScale : Obligations.TedPackGathersItsScale := by
  refine ⟨?start, ?contribution, ?resume, ?poll, ?unit, ?done⟩
  case start =>
    intro s op units ext o hwork hstage
    have hexec := execTedPack_of_fresh (units := units) (ext := ext) hwork hstage
    refine ⟨fun hst => ?_, fun hst => ?_⟩
    · rw [if_neg (not_not.mpr hst)] at hexec
      exact ⟨_, hexec, State.beginPack_does (State.op?_of_work hwork)⟩
    · rw [if_pos hst] at hexec
      exact ⟨_, hexec, (State.fail_does s (State.id_of_work hwork) (s.finalStatus_packStatus o)).2.2⟩
  case contribution =>
    intro s op units ext o hwork hstage hpass hover hresume hin hfree hqueue hheld hadd hxfers
    have hloose : s.Loose (o.arg 40 8) 64 := ⟨o.arg_lt 40 8, hin, hfree, hqueue, hheld⟩
    obtain ⟨hpolls, hmem⟩ := State.contribute_of_loose (State.op?_of_work hwork) (State.opcode_of_work hwork) hresume hloose hadd hxfers
    refine ⟨_, execTedPack_of_blocksRead hwork hstage hpass hover, hpolls, ?_⟩
    rw [hmem]
    exact o.contributed_does s.mem
  case resume =>
    intro s op units ext o hwork hstage hpass hover hresume
    exact ⟨_, execTedPack_of_blocksRead hwork hstage hpass hover, State.contribute_of_resume (State.op?_of_work hwork) hresume⟩
  case poll =>
    intro s s1 op ext o v hwait hstage hgood hadded hdue hread ho1
    have hexec := execScaleCellPoll_of_read hwait hstage hgood hadded hdue hread
    refine ⟨fun hall hfinite => ?_, fun hbad => ?_, fun hfew hfinite => ?_⟩
    · rw [if_neg (by omega), if_neg (by omega)] at hexec
      obtain ⟨hop, hmem⟩ := State.unpark_does (f := fun o => { ((o.keep nkPassTwo 2).keep nkScale
        (if field v 0 4 = 0 then 0x3F800000 else field v 0 4)) with stage := .walking, cursor := o.tedFirst }) ho1 fun _ => rfl
      refine ⟨_, hexec, ?_, hmem⟩
      rw [hop, Option.map_some]
      refine congrArg some (congrArg (Prod.mk Stage.walking) (congrArg₂ Prod.mk ?_ (Op.n_keep_self _ _ _)))
      exact (Op.n_keep_ne _ _ (by decide)).trans (Op.n_keep_self _ _ _)
    · rw [if_pos hbad] at hexec
      exact ⟨_, hexec, (State.fail_does s1 (State.op?_some_id ho1) rfl).2.2⟩
    · rw [if_neg (by omega), if_pos hfew] at hexec
      have hnow : s1.now = s.now := (State.ReadsOnly.snd hread (.readAt (.refl s))).now_eq
      refine ⟨_, hexec, ?_, rfl, rfl⟩
      rw [hnow]
      exact State.op?_modOp_self ho1 fun _ => rfl
  case unit =>
    intro s op ext o hwork hstage hrun hpass hmore hissued hfree hgood
    have ho := State.op?_of_work hwork
    obtain ⟨q, hdone⟩ := State.packDone_changes ho o.cursor
    obtain ⟨hop, hmem, hcount⟩ := State.countUnit_does ho o.cursor
    obtain ⟨-, hst, -⟩ := o.countUnit_keeps o.cursor o
    have hmoved := State.op?_modOp_self (s := { s.countUnit op o o.cursor with seqs := q })
      (f := fun x => { x with cursor := o.cursor + o.packSize o.cursor }) hop fun _ => rfl
    have hexec := execTedPack_of_passTwo (units := 1) (ext := ext) hwork hstage hpass
    rw [State.walkBy_of_go ho (by omega) (State.packUnit_of_performed ho hissued hfree hgood), hdone,
      State.endWalk_of_more hmoved hmore] at hexec
    obtain ⟨q', r, hyield⟩ := State.yieldPoint_of_running hmoved (hst.trans hrun)
    refine ⟨_, hexec, ?mem, ?counts, (State.reg_yieldPoint_of_running hmoved (hst.trans hrun) (by decide)).trans hcount⟩
    case mem =>
      rw [hyield]
      exact hmem
    case counts =>
      rw [hyield]
      exact congrArg (Option.map _) hmoved
  case done =>
    intro s op units ext o hwork hstage hpass hover
    have ho := State.op?_of_work hwork
    have hexec := execTedPack_of_passTwo (units := units) (ext := ext) hwork hstage hpass
    rw [State.walkBy_of_over ho units hover, State.endWalk_of_over ho hover] at hexec
    exact ⟨_, hexec, State.id_of_work hwork ▸ s.packEnd_completed o⟩

end Sys2Proof.Machine
end

section
/-! SUPPORT. Units of Tedder blocks (R300), walks and units that stop (R92), and the tedder-loss event (R293). -/

namespace Sys2Proof.Machine

/-! ## Units of blocks that begin (R300) -/

/-- A unit that is not begun begins while none of its regions is quiet (R300). -/
theorem State.blockUnit_of_loud {s : State} {op b n : Nat} {js : List Nat} {f g : Nat → State → Walk} (hbegun : s.unitBegun op b = false)
    (hloud : ∀ j ∈ js, (s.regions.get j).bind (·.quiet) = none) : s.blockUnit op n js f g b = s.unitWrites2 op (2 * b) (f b) (g b) := by
  have hany : js.any (fun j => ((s.regions.get j).bind (·.quiet)).isSome) = false := List.any_eq_false.mpr fun j hj => by
    simp [hloud j hj]
  unfold State.blockUnit State.quietWait
  extract_lets run
  rw [hbegun, if_neg Bool.false_ne_true, hany, if_neg Bool.false_ne_true]

/-! ## Walks and units that stop -/

section
variable {s s1 : State} {op st : Nat} {o : Op}

/-- A walk whose unit stops ends its operation with the status (R92). -/
theorem State.endWalk_of_stop {last : Nat} {done : State → Op → State} (ho : s.op? op = some o) :
    State.endWalk op last done (.stop st s) = (s.fail o st).settle := by
  simp only [State.endWalk, ho]

variable (ho : s.op? op = some o)
include ho

theorem State.walk_of_stop {last : Nat} {f : Nat → State → Walk} (hmore : o.cursor < last) (hf : f o.cursor s = .stop st s1) :
    State.walk op last f 1 s = .stop st s1 := by
  simp only [State.walk, State.walkBy, ho, Option.map_some, Option.getD_some, if_neg (not_le.mpr hmore), hf]

theorem State.unitWrites_of_stop {c : Nat} {f : State → Walk} (h : o.n nkIssued ≠ c + 1)
    (hf : f (s.modOp op (fun x => x.keep nkErrors 0)) = .stop st s1) : s.unitWrites op c f = .stop st s1 := by
  simp only [State.unitWrites, ho, if_neg h, hf]

/-- A first unit that stops leaves the second one undone. -/
theorem State.unitWrites2_of_stop {c : Nat} {f g : State → Walk} (h : o.n nkIssued ≠ c + 2) (hstop : s.unitWrites op c f = .stop st s1) :
    s.unitWrites2 op c f g = .stop st s1 := by
  simp [State.unitWrites2, ho, h, hstop]

/-! ## The first writes of a unit of blocks (R92, R300) -/

/-- A unit of blocks that is not begun has issued none of its writes. -/
theorem State.of_not_unitBegun {b : Nat} (h : s.unitBegun op b = false) : o.n nkIssued ≠ 2 * b + 1 ∧ o.n nkIssued ≠ 2 * b + 2 := by
  simpa [State.unitBegun, ho] using h

section
variable {b n : Nat} {js : List Nat} {f g : Nat → State → Walk} (hbegun : s.unitBegun op b = false)
  (hloud : ∀ j ∈ js, (s.regions.get j).bind (·.quiet) = none)
include hbegun hloud

/-- Such a unit stops where its first writes do. -/
theorem State.blockUnit_of_stop (hf : f b (s.modOp op (fun x => x.keep nkErrors 0)) = .stop st s1) :
    s.blockUnit op n js f g b = .stop st s1 := by
  obtain ⟨hfirst, hsecond⟩ := State.of_not_unitBegun ho hbegun
  rw [State.blockUnit_of_loud hbegun hloud, State.unitWrites2_of_stop ho hsecond (State.unitWrites_of_stop ho hfirst hf)]

/-- It waits while one of its first writes is held (R92). -/
theorem State.blockUnit_of_held (hf : f b (s.modOp op (fun x => x.keep nkErrors 0)) = .go s1)
    (hheld : (s1.modOp op (fun x => x.keep nkIssued (2 * b + 1))).settle.engineHeld op = true) :
    s.blockUnit op n js f g b = .wait (s1.modOp op (fun x => x.keep nkIssued (2 * b + 1))).settle := by
  obtain ⟨hfirst, hsecond⟩ := State.of_not_unitBegun ho hbegun
  have hwait := (State.unitWrites_of_go ho hfirst hf).trans (State.unitDone_of_held hheld)
  rw [State.blockUnit_of_loud hbegun hloud, State.unitWrites2_of_wait ho hsecond hwait]
end
end

/-! ## The tedder-loss event (R293) -/

section
variable (s : State) (o : Op) (st : Nat)

theorem State.lossEvent_keeps : (s.lossEvent o st).ops = s.ops ∧ (s.lossEvent o st).regions = s.regions := by
  unfold State.lossEvent
  split
  · exact ⟨State.ops_event _ _ _, State.event_regions _ _ _⟩
  · exact ⟨rfl, rfl⟩

theorem State.lossEvent_raises (h : o.n nkLoss = 1) : (s.lossEvent o st).raised 77 = true := by
  rw [State.lossEvent, if_pos h]
  exact State.event_raises _ _ _ (by decide)
end

end Sys2Proof.Machine
end

section
/-! The statement of TED_APPLY and TED_ANCHOR_LOAD: O37. The start of an apply, its blocks and its end (R288 to R293), and the start of an
anchor load, its image tiles and its end (R296 to R298). -/

namespace Sys2Proof.Machine

/-! ## The start of an apply (R288, R289, Table 9-8) -/

/-- The statuses of a TED_APPLY are ones that a final record carries (R94). -/
theorem State.finalStatus_applyStatus (s : State) (o : Op) (tab : List Byte) : finalStatus (s.applyStatus o tab) = s.applyStatus o tab := by
  unfold State.applyStatus
  extract_lets
  split_ifs <;> rfl

/-- An apply that passes its checks keeps its table and walks from FIRST (R288, R289). -/
def State.beginApply (s : State) (op : Nat) (tab : List Byte) : State :=
  s.modOp op (fun o => { (o.keep nkApply (leNat tab)) with stage := .walking, cursor := o.tedFirst })

/-- The end of an apply: its losses raise their event, and its record has its counts (R293). -/
def State.endApply (s : State) (o : Op) : State := (s.lossEvent o stOk).finish o stOk o.cursor o.result o.aux

/-- The unit of an apply that is block b; one that fails reports its losses (R293, R300). -/
def State.applyUnit (ext : Ext) (op : Nat) (o : Op) (b : Nat) (s : State) : Walk :=
  (s.blockUnit op 1 [o.theta, o.anchor] (State.applyBlock ext op) noMore b).orLoss op

section
variable {s : State} {op units : Nat} {ext : Ext} {o : Op} (hwork : s.work op 0x51 = some o)
include hwork

theorem execTedApply_of_unencoded (hstage : o.stage = .fresh) (hbad : o.applyEncoded = false) :
    exec (.tedApply op units ext) s = .next (s.fail o stNotSupported) := by
  show execTedApply op units ext s = _
  simp [execTedApply, hwork, hstage, hbad]

theorem execTedApply_of_read {s1 : State} {tab : List Byte} (hstage : o.stage = .fresh) (hcoded : o.applyEncoded = true)
    (hread : s.readAt ext (o.arg 32 8) 128 2 = (.data tab, s1)) : exec (.tedApply op units ext) s =
    .next (if s1.applyStatus o tab ≠ 0 then s1.fail o (s1.applyStatus o tab) else s1.beginApply op tab) := by
  show execTedApply op units ext s = _
  simp only [execTedApply, hwork, hstage, if_true, hcoded, Bool.not_true, Bool.false_eq_true, if_false, hread]
  rfl

theorem execTedApply_of_walking (hstage : o.stage = .walking) : exec (.tedApply op units ext) s =
    .next (State.endWalk op o.tedLast State.endApply (State.walk op o.tedLast (State.applyUnit ext op o) units s)) := by
  show execTedApply op units ext s = _
  simp only [execTedApply, hwork, hstage, if_true, reduceCtorEq, if_false]
  rfl
end

theorem State.beginApply_does {s : State} {op : Nat} {o : Op} (tab : List Byte) (ho : s.op? op = some o) :
    ((s.beginApply op tab).op? op).map (fun x => (x.stage, x.cursor)) = some (.walking, o.tedFirst) ∧
    (s.beginApply op tab).mem = s.mem ∧ (s.beginApply op tab).regions = s.regions := by
  refine ⟨?_, rfl, rfl⟩
  rw [State.beginApply, State.op?_modOp_self (f := fun o => { (o.keep nkApply (leNat tab)) with stage := .walking, cursor := o.tedFirst })
    ho fun _ => rfl]
  rfl

/-! ## Blocks of an apply (R292, R293, Table 9-9) -/

/-- A block whose own value is absent stops the apply before it touches a partner's slot (R292). -/
theorem State.applyBlock_of_absent {s s1 : State} {op b : Nat} {ext : Ext} {o : Op} {k : TedFmt} {rt ra : Region} {v : List Byte}
    (ho : s.op? op = some o) (hfmt : tedFmt o.tedFormat = some k) (ht : s.regions.get o.theta = some rt)
    (ha : s.regions.get o.anchor = some ra) (hlane : s.laneFree = true)
    (hread : s.readArea ext k ra.tileCount (s.outBase o) b = (.inl (0, v), s1)) : s.applyBlock ext op b = .stop stCheckFail s1 := by
  simp [State.applyBlock, ho, hfmt, ht, ha, hlane, hread, State.treatSlot]

theorem State.endApply_does (s : State) {op : Nat} {o : Op} (hid : o.id = op) :
    (s.endApply o).completed op stOk (o.result % 2 ^ 64) o.aux ∧ (o.n nkLoss = 1 → (s.endApply o).raised 77 = true) ∧
    (s.endApply o).regions = s.regions := by
  refine ⟨hid ▸ State.completed_finish_ok _ o _ _ _, fun hloss => ?_, ?_⟩
  · exact State.keepsRaised_finish _ o _ _ _ _ 77 (s.lossEvent_raises o stOk hloss)
  · exact (State.endsOnly_finish _ o _ _ _ _).regions_eq.trans (s.lossEvent_keeps o stOk).2

/-! ## The start of an anchor load (R296, R298) -/

/-- A load from block 0 marks the anchor invalid (R298). -/
def State.markAnchor (s : State) (o : Op) : State :=
  if o.tedFirst = 0 then s.modRegion o.anchor (fun r => { r with anchorInvalid := true }) else s

/-- A load that passes its checks walks from FIRST (R296). -/
def State.beginLoad (s : State) (op : Nat) (o : Op) : State :=
  (s.markAnchor o).modOp op (fun o => { o with stage := .walking, cursor := o.tedFirst })

theorem State.markAnchor_does {s : State} {o : Op} {ra : Region} (ha : s.regions.get o.anchor = some ra) :
    (s.markAnchor o).regions.get o.anchor = some (if o.tedFirst = 0 then { ra with anchorInvalid := true } else ra) ∧
    (s.markAnchor o).mem = s.mem ∧ (s.markAnchor o).ops = s.ops := by
  unfold State.markAnchor
  split
  · refine ⟨?_, rfl, rfl⟩
    rw [State.get_modRegion, if_pos rfl, ha, Option.map_some]
  · exact ⟨ha, rfl, rfl⟩

theorem State.beginLoad_does {s : State} {op : Nat} {o : Op} {ra : Region} (ho : s.op? op = some o)
    (ha : s.regions.get o.anchor = some ra) :
    ((s.beginLoad op o).op? op).map (fun x => (x.stage, x.cursor)) = some (.walking, o.tedFirst) ∧ (s.beginLoad op o).mem = s.mem ∧
    (s.beginLoad op o).regions.get o.anchor = some (if o.tedFirst = 0 then { ra with anchorInvalid := true } else ra) := by
  obtain ⟨hregion, hmem, hops⟩ := State.markAnchor_does ha
  have ho' : (s.markAnchor o).op? op = some o := by
    rw [State.op?, hops]
    exact ho
  refine ⟨?_, hmem, hregion⟩
  rw [State.beginLoad, State.op?_modOp_self (f := fun o => { o with stage := .walking, cursor := o.tedFirst }) ho' fun _ => rfl]
  rfl

/-- The chunk of an anchor load that begins at tile b (R297, R300). -/
def State.loadUnit (ext : Ext) (op : Nat) (o : Op) (b : Nat) (s : State) : Walk :=
  s.blockUnit op (o.loadSize b) o.tedNames (State.loadChunk ext op) noMore b

section
variable {s : State} {op units : Nat} {ext : Ext} {o : Op} (hwork : s.work op 0x52 = some o)
include hwork

theorem execTedAnchorLoad_of_passes (hstage : o.stage = .fresh) (hregions : s.tedRegions o none = true) (hbusy : s.tedBusy o = false) :
    exec (.tedAnchorLoad op units ext) s = .next (s.beginLoad op o) := by
  show execTedAnchorLoad op units ext s = _
  simp only [execTedAnchorLoad, hwork, hstage, if_true, hregions, hbusy, Bool.not_true, Bool.or_self, Bool.false_eq_true, if_false]
  rfl

theorem execTedAnchorLoad_of_conflict (hstage : o.stage = .fresh) (hbad : s.tedRegions o none = false ∨ s.tedBusy o = true) :
    exec (.tedAnchorLoad op units ext) s = .next (s.fail o stConflict) := by
  show execTedAnchorLoad op units ext s = _
  rcases hbad with h | h <;> simp [execTedAnchorLoad, hwork, hstage, h]

theorem execTedAnchorLoad_of_walking (hstage : o.stage = .walking) : exec (.tedAnchorLoad op units ext) s =
    .next (State.endWalk op o.tedLast State.loadEnd (State.walkBy op o.tedLast o.loadSize (State.loadUnit ext op o) units s)) := by
  show execTedAnchorLoad op units ext s = _
  simp only [execTedAnchorLoad, hwork, hstage, if_true, reduceCtorEq, if_false]
  rfl

theorem execTedAnchorLoad_of_over (hstage : o.stage = .walking) (hover : o.tedLast ≤ o.cursor) :
    exec (.tedAnchorLoad op units ext) s = .next (s.loadEnd o).settle := by
  have ho := State.op?_of_work hwork
  rw [execTedAnchorLoad_of_walking hwork hstage, State.walkBy_of_over ho units hover, State.endWalk_of_over ho hover]
end

/-! ## Image tiles (R297) -/

/-- A load without θ and residue names its anchor alone (Table 9-10). -/
theorem Op.tedNames_of_anchor {o : Op} (htheta : o.thetaOf = none) (hresidue : o.residueOf = none) : o.tedNames = [o.anchor] := by
  simp [Op.tedNames, htheta, hresidue]

/-- An image tile of such a load is one write, to the anchor (R297). -/
theorem State.loadWrites_of_anchor {s : State} {o : Op} {ra : Region} (ha : s.regions.get o.anchor = some ra) (htheta : o.thetaOf = none)
    (hresidue : o.residueOf = none) (b : Nat) (v : List Byte) : s.loadWrites o b v = [(s.tileAddr (ra.tileBase + b), v)] := by
  simp [State.loadWrites, ha, htheta, hresidue]

/-- So is a chunk of one tile that is read (R297, R373). -/
theorem State.loadChunk_of_tile {s s1 : State} {op b : Nat} {ext : Ext} {o : Op} {ra : Region} {v : List Byte} (ho : s.op? op = some o)
    (hsize : o.loadSize b = 1) (htheta : o.thetaOf = none) (hresidue : o.residueOf = none)
    (hread : s.readAt ext (o.arg 32 8 + 4096 * b) 4096 2 = (.data v, s1)) (ha : s1.regions.get o.anchor = some ra) (hlen : v.length = 4096)
    (hwrite : writeStatus ext (s1.tileAddr (ra.tileBase + b)) = stOk) :
    s.loadChunk ext op b = .go (s1.engineWrite op (s1.tileAddr (ra.tileBase + b)) v 2) := by
  have hslice : slice v 0 4096 = v := fit_of_length hlen
  simp [State.loadChunk, ho, hsize, hread, State.loadWrites_of_anchor ha htheta hresidue, hslice, State.writeAll, hwrite]

/-- The state in which the image tile of block b is written at an address (R92, R297). -/
def State.imageIssued (s : State) (op b a : Nat) (v : List Byte) : State :=
  (s.engineWrite op a v 2).modOp op (fun x => x.keep nkIssued (2 * b + 1))

theorem State.imageIssued_does {s : State} {op a : Nat} {o : Op} {v : List Byte} (b : Nat) (ho : s.op? op = some o)
    (hin : s.inStack a v.length = true) : s.putDone (s.imageIssued op b a v) engineAgent (some op) (gOff a) v ∧
    ((s.imageIssued op b a v).op? op).map (fun x => x.n nkIssued) = some (2 * b + 1) := by
  refine ⟨?_, ?_⟩
  · refine State.putDone.congr (t := s.engineWrite op a v 2) ?_ rfl rfl
    rw [State.engineWrite, (s.storeFor_does (some op) a v 2).1 hin]
    exact s.putDone_putWrite _ _ _ _
  · have hwritten : (s.engineWrite op a v 2).op? op = some o := by
      rw [State.op?, (s.engineWrite_keeps op a v 2).1]
      exact ho
    rw [State.imageIssued, State.op?_modOp_self (f := fun x => x.keep nkIssued (2 * b + 1)) hwritten fun _ => rfl, Option.map_some,
      Op.n_keep_self]

/-! ## The end of an anchor load (R298) -/

section
variable {s : State} {o : Op} {ra : Region} (ha : s.regions.get o.anchor = some ra)
include ha

theorem State.loadEnd_of_differs (hlast : o.tedLast = ra.tileCount) (hcount : o.tedCount ≠ 0) (hcheck : bitAt (o.arg 19 1) 0 = true)
    (hdigest : ra.digest.toNat ≠ o.arg 40 8) : s.loadEnd o = s.fail o stCheckFail := by
  simp [State.loadEnd, ha, hlast, hcount, hcheck, hdigest]

theorem State.loadEnd_of_whole (hlast : o.tedLast = ra.tileCount) (hcount : o.tedCount ≠ 0)
    (hcheck : bitAt (o.arg 19 1) 0 = false ∨ ra.digest.toNat = o.arg 40 8) :
    s.loadEnd o = (s.modRegion o.anchor (fun r => { r with anchorInvalid := false })).finish o stOk o.cursor ra.digest.toNat 0 := by
  rcases hcheck with h | h <;> simp [State.loadEnd, ha, hlast, hcount, h]

theorem State.loadEnd_of_part (hpart : o.tedLast ≠ ra.tileCount ∨ o.tedCount = 0) :
    s.loadEnd o = s.finish o stOk o.cursor ra.digest.toNat 0 := by
  rcases hpart with h | h <;> simp [State.loadEnd, ha, h]
end

/-! ## The statement -/

/-- Settles O37: an apply begins, stops at an own block that is absent, and ends with its counts and losses; an anchor load begins, writes its
image tiles, and ends by its digest. -/
theorem tedApplyAndAnchorLoad : Obligations.TedApplyAndAnchorLoad := by
  refine ⟨?apply, ?unencoded, ?absent, ?applied, ?load, ?tile, ?loaded⟩
  case apply =>
    intro si s op units ext o tab hwork hstage hcoded hread ho
    have hexec := execTedApply_of_read (units := units) hwork hstage hcoded hread
    refine ⟨fun hst => ?_, fun hst => ?_⟩
    · rw [if_neg (not_not.mpr hst)] at hexec
      exact ⟨_, hexec, State.beginApply_does tab ho⟩
    · rw [if_pos hst] at hexec
      exact ⟨_, hexec, (State.fail_does s (State.id_of_work hwork) (s.finalStatus_applyStatus o tab)).2.2⟩
  case unencoded =>
    intro s op units ext o hwork hstage hbad
    obtain ⟨hregions, -, hdone⟩ := State.fail_does s (State.id_of_work hwork) (st := stNotSupported) rfl
    exact ⟨_, execTedApply_of_unencoded hwork hstage hbad, hdone, hregions⟩
  case absent =>
    intro s s1 op ext o k rt ra v hwork hstage hmore hbegun hfmt ht ha htq haq hlane hread hsome
    have ho := State.op?_of_work hwork
    obtain ⟨x, hx⟩ := Option.isSome_iff_exists.mp hsome
    have hkept := State.op?_modOp_self (f := fun x => x.keep nkErrors 0) ho fun _ => rfl
    have hblock := State.applyBlock_of_absent (b := o.cursor) hkept hfmt ht ha hlane hread
    have hloud : ∀ j ∈ [o.theta, o.anchor], (s.regions.get j).bind (·.quiet) = none := by simp [ht, ha, htq, haq]
    have hunit : State.applyUnit ext op o o.cursor s = .stop stCheckFail (s1.lossEvent x stCheckFail) := by
      rw [State.applyUnit, State.blockUnit_of_stop ho hbegun hloud hblock]
      simp only [Walk.orLoss, hx]
    have hx' : (s1.lossEvent x stCheckFail).op? op = some x := by
      rw [State.op?, (s1.lossEvent_keeps x stCheckFail).1]
      exact hx
    have hexec := execTedApply_of_walking (units := 1) (ext := ext) hwork hstage
    rw [State.walk_of_stop ho hmore hunit, State.endWalk_of_stop hx'] at hexec
    exact ⟨_, hexec, (State.fail_does _ (State.op?_some_id hx) rfl).2.2⟩
  case applied =>
    intro s op units ext o hwork hstage hover
    have ho := State.op?_of_work hwork
    have hexec := execTedApply_of_walking (units := units) (ext := ext) hwork hstage
    rw [State.walk_of_over ho units hover, State.endWalk_of_over ho hover] at hexec
    exact ⟨_, hexec, s.endApply_does (State.id_of_work hwork)⟩
  case load =>
    intro s op units ext o ra hwork hstage ha
    refine ⟨fun hregions hbusy => ?_, fun hbad => ?_⟩
    · exact ⟨_, execTedAnchorLoad_of_passes hwork hstage hregions hbusy, State.beginLoad_does (State.op?_of_work hwork) ha⟩
    · obtain ⟨hregions, -, hdone⟩ := State.fail_does s (State.id_of_work hwork) (st := stConflict) rfl
      exact ⟨_, execTedAnchorLoad_of_conflict hwork hstage hbad, hdone, hregions⟩
  case tile =>
    intro s s1 op ext o ra v hwork hstage hmore hbegun ha haq htheta hresidue hsize hread ha1 ho1 hin hlen hwrite
    have ho := State.op?_of_work hwork
    have hkept := State.op?_modOp_self (f := fun x => x.keep nkErrors 0) ho fun _ => rfl
    have hchunk := State.loadChunk_of_tile (o := o.keep nkErrors 0) hkept hsize htheta hresidue hread ha1 hlen hwrite
    have hloud : ∀ j ∈ o.tedNames, (s.regions.get j).bind (·.quiet) = none := by
      simp [Op.tedNames_of_anchor htheta hresidue, ha, haq]
    obtain ⟨hput, hissued⟩ := State.imageIssued_does o.cursor ho1 (hlen ▸ hin)
    refine ⟨s1.imageIssued op o.cursor (s1.tileAddr (ra.tileBase + o.cursor)) v, _, execTedAnchorLoad_of_walking hwork hstage, hput, hissued,
      fun hheld => ?_⟩
    have hwait : State.loadUnit ext op o o.cursor s = .wait (s1.imageIssued op o.cursor (s1.tileAddr (ra.tileBase + o.cursor)) v).settle :=
      State.blockUnit_of_held ho hbegun hloud hchunk hheld
    rw [State.walkBy_of_wait ho hmore hwait]
    rfl
  case loaded =>
    intro s op units ext o ra hwork hstage hover ha
    have hid := State.id_of_work hwork
    have hexec := execTedAnchorLoad_of_over (units := units) (ext := ext) hwork hstage hover
    refine ⟨fun hlast hcount hcheck hdigest => ?_, fun hlast hcount hcheck => ?_, fun hpart => ?_⟩
    · rw [State.loadEnd_of_differs ha hlast hcount hcheck hdigest] at hexec
      obtain ⟨hregions, -, hdone⟩ := State.fail_does s hid (st := stCheckFail) rfl
      exact ⟨_, hexec, hdone, hregions⟩
    · rw [State.loadEnd_of_whole ha hlast hcount hcheck] at hexec
      refine ⟨_, hexec, State.finish_ok_completed _ hid _ ra.digest.isLt, ?_⟩
      rw [(State.endsOnly_finish _ o _ _ _ _).regions_eq, State.get_modRegion, if_pos rfl, ha, Option.map_some]
    · rw [State.loadEnd_of_part ha hpart] at hexec
      exact ⟨_, hexec, State.finish_ok_completed _ hid _ ra.digest.isLt, (State.endsOnly_finish _ o _ _ _ _).regions_eq⟩

end Sys2Proof.Machine
end

section
/-! SUPPORT. What reads through guard and sheaf leave of the regions and counters (R203, R216, R312 to R315): a region changes only in the
tiles it has built, its digests, its quiet time and the counts of its window, and no counter but those of reads counts. -/

namespace Sys2Proof.Machine

/-- A region but for what a read of tiles may change in it. -/
def Region.fixed (r : Region) : Region :=
  { r with digest := 0#64, rebuildDigest := 0#64, built := [], builds := [], quiet := none, settleFail := false
           winTiles := 0, winLoad := 0, winCtrl := 0 }

/-- The counters that count reads and what they repair (Table 17-3). -/
def readCounters : List Nat :=
  [guardCnt 0, guardCnt 1, guardCnt 2, guardCnt 3, guardCnt 4, guardCnt 6, rbldCnt 0, rbldCnt 3, rbldCnt 5, snapCnt 0, faultCnt 0]

/-- `t` has the regions of `s₀` but for what reads change in them, and its registers but for the counters of reads. -/
def State.ReadsWithin (s₀ t : State) : Prop :=
  (∀ j, (t.regions.get j).map Region.fixed = (s₀.regions.get j).map Region.fixed) ∧ ∀ off ∉ readCounters, t.reg off = s₀.reg off

section
variable {s₀ s t : State}

theorem State.ReadsWithin.refl (s : State) : s.ReadsWithin s := ⟨fun _ => rfl, fun _ _ => rfl⟩

/-- A region that stands before the reads stands after them, but for what they change in it. -/
theorem State.ReadsWithin.get {j : Nat} {r : Region} (hk : s.ReadsWithin t) (hr : s.regions.get j = some r) :
    ∃ q, t.regions.get j = some q ∧ q.fixed = r.fixed := by
  have hj := hk.1 j
  rw [hr, Option.map_some] at hj
  exact Option.map_eq_some_iff.mp hj

/-- The fields that hold neither regions nor registers may take any value. -/
theorem State.ReadsWithin.update {mem : Tab Byte} {tables : Tables} {tap : Tap} {port : Port} {snap : Snap} {evt : Evt}
    (hk : s₀.ReadsWithin s) :
    s₀.ReadsWithin { s with mem := mem, tables := tables, tap := tap, port := port, snap := snap, evt := evt } := hk

theorem State.ReadsWithin.ite {c : Prop} [Decidable c] (hk : s₀.ReadsWithin s) (g : s₀.ReadsWithin t) :
    s₀.ReadsWithin (if c then s else t) := by
  split
  · exact hk
  · exact g

theorem State.ReadsWithin.ite_snd {α : Type} {c : Prop} [Decidable c] {p q : α × State} (hp : s₀.ReadsWithin p.2)
    (hq : s₀.ReadsWithin q.2) : s₀.ReadsWithin (if c then p else q).2 := by
  split
  · exact hp
  · exact hq

/-- The state of a pair, under the pair's name for it. -/
theorem State.ReadsWithin.snd {α : Type} {p : α × State} {x : α} (e : p = (x, t)) (hk : s₀.ReadsWithin p.2) : s₀.ReadsWithin t := by
  subst e
  exact hk

/-! ## Counters, events and regions -/

theorem State.ReadsWithin.bumpBy {off n : Nat} (hoff : off ∈ readCounters) (hk : s₀.ReadsWithin s) : s₀.ReadsWithin (s.bumpBy off n) := by
  refine ⟨fun j => ?_, fun k hout => ?_⟩
  · rw [State.bumpBy_regions]
    exact hk.1 j
  · rw [State.reg_bumpBy, if_neg (ne_of_mem_of_not_mem hoff hout).symm]
    exact hk.2 k hout

theorem State.ReadsWithin.bump {off : Nat} (hoff : off ∈ readCounters) (hk : s₀.ReadsWithin s) : s₀.ReadsWithin (s.bump off) :=
  .bumpBy hoff hk

theorem State.ReadsWithin.giveUp {j t : Nat} (hk : s₀.ReadsWithin s) : s₀.ReadsWithin (s.giveUp j t) := by
  obtain ⟨e, he⟩ := (s.bump (guardCnt 4)).event_changes_evt 78 (infoA j t)
  rw [State.giveUp, he]
  exact .update (.bump (by decide) hk)

theorem State.ReadsWithin.modRegion {i : Nat} {f : Region → Region} (hf : ∀ r, (f r).fixed = r.fixed) (hk : s₀.ReadsWithin s) :
    s₀.ReadsWithin (s.modRegion i f) := by
  refine ⟨fun j => ?_, hk.2⟩
  rw [← hk.1 j, State.get_modRegion]
  split
  · rw [Option.map_map]
    exact congrArg (fun g => Option.map g _) (funext hf)
  · rfl

/-! ## Stores of corrected and built tiles -/

theorem State.ReadsWithin.putLine {r : Region} {t g : Nat} {v : List Byte} (hk : s₀.ReadsWithin s) : s₀.ReadsWithin (s.putLine r t g v) := by
  rcases s.putLine_cases r t g v with h | ⟨off, -, -, h⟩
  · rwa [h]
  · rw [h]
    exact hk

theorem State.ReadsWithin.putTile {r : Region} {t : Nat} {v : List Byte} (hk : s₀.ReadsWithin s) : s₀.ReadsWithin (s.putTile r t v) :=
  .update (.putLine (.update hk))

theorem State.ReadsWithin.cbwEngine {j t : Nat} (hk : s₀.ReadsWithin s) : s₀.ReadsWithin (s.cbwEngine j t) := by
  have hask : s₀.ReadsWithin (s.cbwAsk j t) := by
    unfold State.cbwAsk
    split
    · extract_lets
      split
      · split <;> exact hk
      · exact hk
    · exact hk
  exact .ite hask (.bump (by decide) (.update hask))

theorem State.ReadsWithin.repairTile {j t : Nat} {r : Region} {v : List Byte} (hk : s₀.ReadsWithin s) :
    s₀.ReadsWithin (s.repairTile j t r v) := .ite (.cbwEngine (.ite hk (.update hk))) (.putTile hk)

theorem State.ReadsWithin.acceptBuild {j t : Nat} {v : List Byte} (hk : s₀.ReadsWithin s) : s₀.ReadsWithin (s.acceptBuild j t v) := by
  unfold State.acceptBuild
  split
  · exact hk
  · exact .update (.modRegion (fun _ => rfl) (.putTile hk))

/-! ## Reads of a member's own tiles -/

theorem State.ReadsWithin.noteRead {i t : Nat} {r : Region} {x : TileRd} (hk : s₀.ReadsWithin s) : s₀.ReadsWithin (s.noteRead i t r x) := by
  unfold State.noteRead
  extract_lets g s1 s2
  have h2 : s₀.ReadsWithin s2 := .modRegion (fun _ => rfl) (.ite (.bump (by decide) hk) hk)
  exact .ite h2 (.ite (.putLine (.bump (by decide) h2)) (.ite h2 (.repairTile (.bump (by decide) (.bumpBy (by decide) h2)))))

theorem State.ReadsWithin.readPlain {ext : Ext} {j : Nat} {r : Region} {t : Nat} (hk : s₀.ReadsWithin s) :
    s₀.ReadsWithin (s.readPlain ext j r t).2 := .noteRead hk

theorem State.ReadsWithin.xorTiles {ext : Ext} {l : List (Nat × Region × Nat)} {v : List Byte} (hk : s₀.ReadsWithin s) :
    s₀.ReadsWithin (s.xorTiles ext l v).2 := by
  induction l generalizing s v with
  | nil => exact hk
  | cons x l ih =>
    unfold State.xorTiles
    split
    · exact ih (.snd ‹_› (.readPlain hk))
    · exact .giveUp (.snd ‹_› (.readPlain hk))

theorem State.ReadsWithin.touchQuiet {j : Nat} (hk : s₀.ReadsWithin s) : s₀.ReadsWithin (s.touchQuiet j) := by
  unfold State.touchQuiet
  extract_lets _ _ _ _ _ _ s2
  have h2 : s₀.ReadsWithin s2 := .modRegion (fun _ => rfl) (.update hk)
  split
  · exact hk
  · exact .ite (.modRegion (fun _ => rfl) hk) (.ite (.bump (by decide) h2) h2)

theorem State.ReadsWithin.readOwnMember {ext : Ext} {view sheaf i t : Nat} (hk : s₀.ReadsWithin s) :
    s₀.ReadsWithin (s.readOwnMember ext view sheaf i t).2 := by
  have hview : ∀ (u : State) (j : Nat) (r : Region), s₀.ReadsWithin u → s₀.ReadsWithin (u.viewPlain ext j r view t).2 := by
    intro u j r hu
    unfold State.viewPlain
    split
    next hread => exact .giveUp (.snd hread (.readPlain hu))
    next hread =>
      have h1 := State.ReadsWithin.snd hread (.readPlain hu)
      exact .ite_snd h1 (.ite_snd (.xorTiles h1) (.xorTiles h1))
  unfold State.readOwnMember
  split
  · exact hk
  · extract_lets _ s1
    have h1 : s₀.ReadsWithin s1 := .ite (.touchQuiet hk) hk
    refine .ite_snd hk (.ite_snd hk (.ite_snd h1 (.ite_snd h1 ?_)))
    split <;> exact .snd ‹_› (hview _ _ _ h1)

/-! ## Reads of a stripe for no operation -/

theorem State.ReadsWithin.readMember {ext : Ext} {cls view sheaf : Nat} {me : Region} {i t : Nat} {x : Member} (hk : s₀.ReadsWithin s) :
    s₀.ReadsWithin (s.readMember ext none cls view sheaf me i t x).2 := by
  refine .ite_snd (.readOwnMember hk) ?_
  unfold State.sendOnce
  split
  · exact .update (.update (.update (.update (.ite (.update hk) hk))))
  · exact hk

theorem State.ReadsWithin.readMembers {ext : Ext} {cls sheaf : Nat} {sh : Sheaf} {me : Region} {t : Nat} {l : List Nat} {c : Tab MemRd}
    (hk : s₀.ReadsWithin s) : s₀.ReadsWithin (s.readMembers ext none cls sheaf sh me t l c).2 := by
  induction l generalizing s c with
  | nil => exact hk
  | cons x l ih =>
    unfold State.readMembers
    split
    · exact ih hk
    · split
      · exact ih hk
      · exact ih (.readMember hk)

theorem State.ReadsWithin.solveStripe {region : Nat} {me : Region} {sh : Sheaf} {t : Nat} {sel : List Nat} {c : Tab MemRd}
    (hk : s₀.ReadsWithin s) : s₀.ReadsWithin (s.solveStripe none region me sh t sel c).2 := by
  have hslot : ∀ d : DecSlot, s₀.ReadsWithin (s.useSlot none d) := fun d => by
    unfold State.useSlot
    extract_lets
    split
    · exact hk
    · split
      · exact hk
      · exact .bump (by decide) hk
  unfold State.solveStripe
  extract_lets
  refine .ite_snd hk ?_
  split
  · exact hk
  · exact hslot _

theorem State.ReadsWithin.decodeStripe {ext : Ext} {cls region : Nat} {r : Region} {sh : Sheaf} {t : Nat} {order excl : List Nat}
    (hk : s₀.ReadsWithin s) : s₀.ReadsWithin (s.decodeStripe ext none cls region r sh t order excl).2 := by
  have hstripe : ∀ (n : Nat) (excl : List Nat) (c : Tab MemRd) (u : State), s₀.ReadsWithin u →
      s₀.ReadsWithin (u.readStripe ext none cls region r.sheaf r sh t order n excl c).2 := fun n => by
    induction n with
    | zero => exact fun _ _ _ hu => hu
    | succ n ih =>
      intro excl c u hu
      unfold State.readStripe
      extract_lets _ _ _ _ _ q _ _ _ p
      have hq : s₀.ReadsWithin q.2 := .readMembers hu
      have hp : s₀.ReadsWithin p.2 := .readMembers hq
      refine .ite_snd hu (.ite_snd hq ?_)
      split
      · exact hq
      · exact .ite_snd (ih _ _ _ (.bumpBy (by decide) hq))
          (.ite_snd hp (.ite_snd (ih _ _ _ (.bumpBy (by decide) hp)) (.ite_snd hp (.solveStripe hp))))
  exact hstripe _ _ _ _ hk

theorem State.ReadsWithin.targetTile {ext : Ext} {cls region : Nat} {r : Region} {sh : Sheaf} {target t : Nat} (hk : s₀.ReadsWithin s) :
    s₀.ReadsWithin (s.targetTile ext none cls region r sh target t).2 := by
  unfold State.targetTile
  refine .ite_snd hk ?_
  split
  next hread => exact .ite_snd (.snd hread (.decodeStripe hk)) (.snd hread (.decodeStripe hk))
  all_goals exact .snd ‹_› (.decodeStripe hk)

theorem State.ReadsWithin.buildValue {ext : Ext} {cls j : Nat} {r : Region} {sh : Sheaf} {t : Nat} (hk : s₀.ReadsWithin s) :
    s₀.ReadsWithin (s.buildValue ext none cls j r sh t).2 := by
  unfold State.buildValue
  refine .ite_snd (.targetTile hk) ?_
  split
  next hread => split <;> exact .snd ‹_› (.xorTiles (.snd hread (.decodeStripe hk)))
  all_goals exact .snd ‹_› (.decodeStripe hk)

/-! ## Reads through repair (R312 to R315) -/

theorem State.ReadsWithin.repairValue {ext : Ext} {j : Nat} {r : Region} {t : Nat} (hk : s₀.ReadsWithin s) :
    s₀.ReadsWithin (s.repairValue ext j r t).2 := by
  unfold State.repairValue
  split
  · exact hk
  · split
    · split <;> exact .snd ‹_› (.buildValue hk)
    · refine .ite_snd hk ?_
      split
      · exact .xorTiles (.snd ‹_› (.targetTile hk))
      · exact .snd ‹_› (.targetTile hk)

theorem State.ReadsWithin.readTile {ext : Ext} {j : Nat} {r : Region} {t : Nat} (hk : s₀.ReadsWithin s) :
    s₀.ReadsWithin (s.readTile ext j r t).2 := by
  unfold State.readTile
  split
  next hread => exact .snd hread (.readPlain hk)
  next hread =>
    have h1 := State.ReadsWithin.snd hread (.readPlain hk)
    split
    · split
      · exact .giveUp h1
      · split
        · exact .bumpBy (by decide) (.acceptBuild (.snd ‹_› (.buildValue h1)))
        · exact .giveUp (.snd ‹_› (.buildValue h1))
    · split
      · exact .bump (by decide) (.repairTile (.snd ‹_› (.repairValue h1)))
      · exact .giveUp (.snd ‹_› (.repairValue h1))
end

end Sys2Proof.Machine
end

section
/-! SUPPORT. One unit of a RUNNING operation's walk, and what the note of a guarded read leaves (R311 to R313). -/

namespace Sys2Proof.Machine

/-- One unit before the last of a RUNNING operation's walk leaves what the unit leaves: CURSOR counts it, and its YIELD point at most gives up
the sequencer. -/
theorem State.walk_unit_running {op last : Nat} {f : Nat → State → Walk} {done : State → Op → State} {s s1 : State} {o x : Op}
    (ho : s.op? op = some o) (hmore : o.cursor + 1 < last) (hf : f o.cursor s = .go s1) (hx : s1.op? op = some x) (hst : x.st = .running) :
    ∃ u : State, State.endWalk op last done (State.walk op last f 1 s) = u.settle ∧ u.op? op = some { x with cursor := o.cursor + 1 } ∧
      u.mem = s1.mem ∧ u.strap = s1.strap ∧ u.regions = s1.regions := by
  have hcount : (s1.modOp op (fun y => { y with cursor := o.cursor + 1 })).op? op = some { x with cursor := o.cursor + 1 } :=
    State.op?_modOp_self hx fun _ => rfl
  obtain ⟨q, regs, hyield⟩ := State.yieldPoint_of_running hcount hst
  refine ⟨{ s1.modOp op (fun y => { y with cursor := o.cursor + 1 }) with seqs := q, regs := regs }, ?_, hcount, rfl, rfl, rfl⟩
  rw [State.walk_of_go ho (Nat.lt_of_succ_lt hmore) hf, State.endWalk_of_more hcount hmore, hyield]

/-! ## Copy-before-write (R248) -/

/-- Whether copy-before-write holds a tile is told by memory, the cut and the places of the regions. -/
theorem State.cbwHolds_congr {s t : State} (hmem : t.mem = s.mem) (hstrap : t.strap = s.strap) (hsnap : t.snap = s.snap)
    (hslot : ∀ x, t.slotTile x = s.slotTile x)
    (hcount : ∀ i, (t.regions.get i).map (fun r => r.tileCount) = (s.regions.get i).map (fun r => r.tileCount)) (j k : Nat) :
    t.cbwHolds j k = s.cbwHolds j k := by
  simp only [State.cbwHolds, State.mapCode, State.mapOff, State.copyIndex, State.stackRead, State.stackAddr, hmem, hstrap, hsnap, hslot, hcount]

/-- A change of a region that leaves its role and place leaves the slots of the rick (R233). -/
theorem State.slotTile_modRegion (s : State) (i : Nat) {f : Region → Region} (hrole : ∀ r, (f r).role = r.role)
    (hbase : ∀ r, (f r).tileBase = r.tileBase) (hcount : ∀ r, (f r).tileCount = r.tileCount) (x : Nat) :
    (s.modRegion i f).slotTile x = s.slotTile x := by
  have hrick : (s.modRegion i f).rick = s.rick.map (fun p => if p.1 = i then (p.1, f p.2) else p) := by
    have hpred : ((fun p : Nat × Region => p.2.role == .rick) ∘ fun p : Nat × Region => if p.1 = i then (p.1, f p.2) else p) =
        fun p : Nat × Region => p.2.role == .rick := by
      funext p
      by_cases hp : p.1 = i <;> simp [hp, hrole]
    rw [State.rick, State.modRegion_regions, Tab.upd, List.find?_map, hpred, State.rick]
  rw [State.slotTile, hrick, State.slotTile]
  cases s.rick with
  | none => rfl
  | some p => by_cases hp : p.1 = i <;> simp [hp, hbase, hcount]

/-! ## The note of a read (R312, R313, R320) -/

/-- The counts of a region's window after a read (R320). -/
def Region.countRead (x : TileRd) (q : Region) : Region :=
  { q with winCtrl := q.winCtrl + bit x.ctrl, winTiles := q.winTiles + bit (decide (0 < x.symbols)), winLoad := Nat.max q.winLoad x.load }

/-- The state after the counts of a read are taken. -/
def State.countRead (s : State) (j : Nat) (x : TileRd) (regs : Tab Word) : State := { s.modRegion j (Region.countRead x) with regs := regs }

section
variable (s : State) (j : Nat) (x : TileRd) (regs : Tab Word)
theorem State.countRead_mem : (s.countRead j x regs).mem = s.mem := rfl
theorem State.countRead_strap : (s.countRead j x regs).strap = s.strap := rfl
theorem State.countRead_snap : (s.countRead j x regs).snap = s.snap := rfl
end

/-- Counts are no concern of copy-before-write. -/
theorem State.cbwHolds_countRead (s : State) (j : Nat) (x : TileRd) (regs : Tab Word) (i k : Nat) :
    (s.countRead j x regs).cbwHolds i k = s.cbwHolds i k := by
  have hplace : ∀ m, ((s.countRead j x regs).regions.get m).map (fun r => r.tileCount) = (s.regions.get m).map (fun r => r.tileCount) := by
    intro m
    show ((s.modRegion j (Region.countRead x)).regions.get m).map _ = _
    rw [State.get_modRegion]
    split
    · rw [Option.map_map]
      rfl
    · rfl
  have hslot : ∀ y, (s.countRead j x regs).slotTile y = s.slotTile y := fun y =>
    (State.slotTile_congr (s := s.modRegion j (Region.countRead x)) rfl y).trans
      (s.slotTile_modRegion j (f := Region.countRead x) (fun _ => rfl) (fun _ => rfl) (fun _ => rfl) y)
  exact State.cbwHolds_congr (s.countRead_mem j x regs) (s.countRead_strap j x regs) (s.countRead_snap j x regs) hslot hplace i k

section
variable {s : State} {j t : Nat} {r : Region} {x : TileRd} (hok : x.ok = true) (hline : x.lineBad = false)
include hok hline

/-- The note of a read without a corrected symbol counts alone. -/
theorem State.noteRead_of_clean (hclean : x.symbols = 0) : ∃ regs, s.noteRead j t r x = s.countRead j x regs := by
  unfold State.noteRead
  extract_lets g s1 s2
  have hcount : ∃ regs, s2 = s.countRead j x regs := by
    unfold s2 s1
    split <;> exact ⟨_, rfl⟩
  simpa only [hok, hline, hclean, Bool.false_eq_true, if_false, if_true, ite_self] using hcount

/-- The note of a corrected read that nothing holds stores the corrected tile with its line (R313). -/
theorem State.noteRead_of_corrected (hg : r.strengthAt t ≠ 0) (hsymbols : 0 < x.symbols) (hcbw : s.cbwHolds j t = false) :
    ∃ regs, s.noteRead j t r x = (s.countRead j x regs).putTile r t x.data := by
  unfold State.noteRead
  extract_lets g s1 s2
  have hcount : ∃ regs, (s2.bumpBy (guardCnt 0) x.symbols).bump (guardCnt 1) = s.countRead j x regs := by
    unfold State.bumpBy s2 s1
    split <;> split <;> exact ⟨_, rfl⟩
  obtain ⟨regs, hcount⟩ := hcount
  have hfree : (s.countRead j x regs).cbwHolds j t = false := (s.cbwHolds_countRead j x regs j t).trans hcbw
  refine ⟨regs, ?_⟩
  rw [if_neg (by simp [g, hg, hok]), if_neg (by simp [hline]), if_neg hsymbols.ne', hcount, State.repairTile, if_neg (by simp [hfree])]
end

end Sys2Proof.Machine
end

section
/-! The statement of SCRUB: O29. Its start (R316), a tile that decodes (R317), and the end of a pass with its summary (R317, R318). -/

namespace Sys2Proof.Machine

/-! ## The start of a pass (R316, R318) -/

section
variable (o : Op) (now : Nat)
theorem Op.id_beginPass : (o.beginPass now).id = o.id := by simp only [Op.beginPass, List.foldl, Op.add, Op.keep]
theorem Op.st_beginPass : (o.beginPass now).st = o.st := by simp only [Op.beginPass, List.foldl, Op.add, Op.keep]
end

/-- The next pass of a scrub with AUTO, whose summary is not written yet. -/
def Op.nextPass (now : Nat) (o : Op) : Op := (o.beginPass now).keep nkIssued 0

/-- A pass begins at FIRST with RESULT 0. -/
theorem Op.nextPass_does (now : Nat) (o : Op) : (o.nextPass now).id = o.id ∧ (o.nextPass now).st = o.st ∧
    (o.nextPass now).cursor = o.arg 20 4 ∧ (o.nextPass now).result = 0 := ⟨o.id_beginPass now, o.st_beginPass now, rfl, rfl⟩

/-- The first pass of a SCRUB. -/
def Op.firstPass (now : Nat) (o : Op) : Op := { o.beginPass now with stage := .walking }

/-! ## SCRUB by its stages (R316) -/

section
variable {s : State} {op units : Nat} {ext : Ext} {o : Op} (hwork : s.work op 0x60 = some o)
include hwork

section
variable {r : Region} (hstage : o.stage = .fresh) (hr : s.regions.get (o.arg 16 1) = some r) (hcount : countOk (o.arg 24 4) = true)
include hstage hr hcount

theorem execScrub_of_passes (hguard : r.guard ≠ 0) (hin : o.arg 20 4 + o.arg 24 4 ≤ r.tileCount) :
    exec (.scrub op units ext) s = .next (s.modOp op (Op.firstPass s.now)) := by
  have hfirst : Op.firstPass s.now = fun x => { x.beginPass s.now with stage := .walking } := rfl
  show execScrub op units ext s = _
  simp [execScrub, hwork, hstage, hr, hcount, hguard, Nat.not_lt.mpr hin, hfirst]

theorem execScrub_of_conflict (hbad : r.guard = 0 ∨ r.tileCount < o.arg 20 4 + o.arg 24 4) :
    exec (.scrub op units ext) s = .next (s.fail o stConflict) := by
  show execScrub op units ext s = _
  rcases hbad with h | h <;> simp [execScrub, hwork, hstage, hr, hcount, h]
end

variable (hstage : o.stage = .walking)
include hstage

theorem execScrub_of_walking : exec (.scrub op units ext) s = .next (State.endWalk op (o.arg 20 4 + o.arg 24 4)
    (State.scrubEnd ext (o.arg 16 1))
    (State.walk op (o.arg 20 4 + o.arg 24 4) (fun t u => u.scrubTile ext op (o.arg 16 1) o t) units s)) := by
  show execScrub op units ext s = _
  simp [execScrub, hwork, hstage]

/-- With the pass over, the end of the pass is all that is left. -/
theorem execScrub_of_over (hover : o.arg 20 4 + o.arg 24 4 ≤ o.cursor) :
    exec (.scrub op units ext) s = .next (s.scrubEnd ext (o.arg 16 1) o).settle := by
  have ho := State.op?_of_work hwork
  rw [execScrub_of_walking hwork hstage, State.walk_of_over ho units hover, State.endWalk_of_over ho hover]
end

/-! ## A tile that decodes (R317) -/

/-- The counts of a SCRUB after a tile that decodes. -/
def Op.countDecoded (x : TileRd) (o : Op) : Op :=
  { ((o.add nkSymbols x.symbols).add nkCorrected (bit (decide (0 < x.symbols)))).keep nkPeak (Nat.max (o.n nkPeak) x.load) with
    result := o.result + x.symbols }

section
variable (x : TileRd) (o : Op)
theorem Op.id_countDecoded : (o.countDecoded x).id = o.id := by simp only [Op.countDecoded, Op.add, Op.keep]
theorem Op.st_countDecoded : (o.countDecoded x).st = o.st := by simp only [Op.countDecoded, Op.add, Op.keep]
theorem Op.n_countDecoded : (o.countDecoded x).n nkTiles = o.n nkTiles :=
  (Op.n_keep_ne _ _ (by decide)).trans ((Op.n_keep_ne _ _ (by decide)).trans (Op.n_keep_ne _ _ (by decide)))
end

/-- A tile that decodes, and that nothing holds, is noted and counted. -/
theorem State.scrubTile_of_decoded {s : State} {op j t : Nat} {ext : Ext} {o : Op} {r : Region} (hr : s.regions.get j = some r)
    (hbuilt : r.state = .fostering → r.built.has t = true) (hok : (s.readGuard ext r t).ok = true) (hcbw : s.cbwHolds j t = false) :
    s.scrubTile ext op j o t =
      .go (((s.noteRead j t r (s.readGuard ext r t)).modOp op (fun x => x.add nkTiles 1)).modOp op
        (Op.countDecoded (s.readGuard ext r t))) := by
  have hskip : (r.state = .fostering && !r.built.has t) = false := by
    by_cases hst : r.state = .fostering <;> simp [hst, hbuilt]
  simp only [State.scrubTile, hr, hskip, hcbw, hok, Bool.and_false, Bool.false_eq_true, if_false, if_true]
  rfl

/-! ## The end of a pass (R317, R318) -/

/-- The state in which the summary of a pass is written, for a region of a GUARD (R317, Table 10-6). -/
def State.summaryIssued (s : State) (o : Op) (guard : Nat) : State :=
  ((s.modOp o.id (fun x => x.keep nkErrors 0)).engineWrite o.id (o.arg 28 8) (o.summary guard s.now) 3).modOp o.id
    (fun x => x.keep nkIssued (o.cursor + 1))

theorem State.wroteAt_summaryIssued (s : State) (o : Op) (guard : Nat) :
    s.wroteAt (s.summaryIssued o guard) o.id (o.arg 28 8) (o.summary guard s.now) :=
  ((s.modOp o.id (fun x => x.keep nkErrors 0)).wroteAt_engineWrite o.id (o.arg 28 8) (o.summary guard s.now)).modOp o.id _

section
variable {s : State} {j : Nat} {ext : Ext} {o : Op} (ho : s.op? o.id = some o)
include ho

/-- Once the summary is written the scrub ends, or with AUTO begins its next pass. -/
theorem State.scrubEnd_of_performed (hissued : o.n nkIssued = o.cursor + 1) (hfree : s.engineHeld o.id = false) (hgood : o.n nkErrors = 0) :
    s.scrubEnd ext j o = if o.fAuto then (s.modOp o.id (Op.nextPass s.now)).yieldPoint o.id
      else s.finish o stOk o.cursor o.result 0 := by
  have hdone := State.unitDone_of_performed hfree (by rw [ho, Option.map_some, hgood])
  rw [State.scrubEnd, State.unitWrites_of_issued ho hissued, hdone]
  rfl

theorem State.op?_summaryIssued (guard : Nat) :
    ((s.summaryIssued o guard).op? o.id).map (fun x => x.n nkIssued) = some (o.cursor + 1) := by
  have hwritten : ((s.modOp o.id (fun x => x.keep nkErrors 0)).engineWrite o.id (o.arg 28 8) (o.summary guard s.now) 3).op? o.id =
      some (o.keep nkErrors 0) := by
    rw [State.op?, (State.engineWrite_keeps _ _ _ _ _).1]
    exact State.op?_modOp_self (f := fun x => x.keep nkErrors 0) ho fun _ => rfl
  rw [State.summaryIssued, State.op?_modOp_self (f := fun x => x.keep nkIssued (o.cursor + 1)) hwritten fun _ => rfl, Option.map_some,
    Op.n_keep_self]

/-- The end of a pass waits while its summary is held (R92). -/
theorem State.scrubEnd_of_summary {r : Region} (hissued : o.n nkIssued ≠ o.cursor + 1) (hr : s.regions.get j = some r)
    (haddr : o.arg 28 8 ≠ 0) (hwrite : writeStatus ext (o.arg 28 8) = stOk)
    (hheld : (s.summaryIssued o r.guard).settle.engineHeld o.id = true) : s.scrubEnd ext j o = (s.summaryIssued o r.guard).settle := by
  have hput : (s.modOp o.id (fun x => x.keep nkErrors 0)).putSummary ext j o = .go ((s.modOp o.id (fun x => x.keep nkErrors 0)).engineWrite
      o.id (o.arg 28 8) (o.summary r.guard s.now) 3) := by
    simp only [State.putSummary, State.modOp_regions, hr, Option.map_some, Option.getD_some, if_neg haddr, hwrite, ne_eq, not_true, if_false]
    rfl
  have hwait := (State.unitWrites_of_go ho hissued hput).trans (State.unitDone_of_held hheld)
  rw [State.scrubEnd, hwait]
  rfl
end

/-! ## The statement -/

/-- Settles O29: a tile that decodes is noted as every guarded read is, which stores it corrected, and the end of a pass is one unit whose write
is the summary. -/
theorem scrubCorrectsTiles : Obligations.ScrubCorrectsTiles := by
  unfold Obligations.ScrubCorrectsTiles
  refine ⟨?fresh, ?tile, ?passed, ?summary⟩
  case fresh =>
    intro s op units ext o r hwork hstage hr hcount
    refine ⟨fun hguard hin => ?_, fun hbad => ?_⟩
    · refine ⟨_, execScrub_of_passes hwork hstage hr hcount hguard hin, ?_, rfl⟩
      rw [State.op?_modOp_self (f := Op.firstPass s.now) (State.op?_of_work hwork) fun x => x.id_beginPass s.now]
      rfl
    · exact ⟨_, execScrub_of_conflict hwork hstage hr hcount hbad, (State.fail_does s (State.id_of_work hwork) rfl).2.2⟩
  case tile =>
    intro s op ext o r x hwork hstage hst hmore hr hbuilt hread hok hline hcbw hguard hapart
    subst hread
    generalize hx : s.readGuard ext r o.cursor = x at hok hline ⊢
    have ho := State.op?_of_work hwork
    have hunit := State.scrubTile_of_decoded (op := op) (o := o) hr hbuilt (hx ▸ hok) hcbw
    rw [hx] at hunit
    have hnoted : (s.noteRead (o.arg 16 1) o.cursor r x).op? op = some o := by
      rw [State.op?, ((State.Reads.refl s).noteRead).1]
      exact ho
    have hcounted := State.op?_modOp_self (f := Op.countDecoded x)
      (State.op?_modOp_self (f := fun y => y.add nkTiles 1) hnoted fun _ => rfl) (Op.id_countDecoded x)
    obtain ⟨u, hgo, hop, hmem, hstrap, -⟩ := State.walk_unit_running (done := State.scrubEnd ext (o.arg 16 1)) ho hmore hunit hcounted
      ((Op.st_countDecoded x _).trans hst)
    refine ⟨u, (execScrub_of_walking hwork hstage).trans (congrArg _ hgo), ?_, fun hsymbols => ?_, fun hclean => ?_⟩
    · have htiles := (Op.n_countDecoded x (o.add nkTiles 1)).trans (o.n_keep_self nkTiles (o.n nkTiles + 1))
      rw [hop, Option.map_some, ← htiles]
      rfl
    · obtain ⟨regs, hnote⟩ := State.noteRead_of_corrected hok hline hguard hsymbols hcbw
      rw [State.modOp_mem, State.modOp_mem, hnote] at hmem
      rw [State.modOp_strap, State.modOp_strap, hnote] at hstrap
      refine ⟨?_, fun off hoff => ?_⟩
      · exact (State.tileBytes_congr hmem hstrap r o.cursor).trans (State.tileBytes_putTile _ x.data hapart)
      · exact (State.stackRead_congr hmem hstrap off _).trans (State.stackRead_line_putTile _ x.data hoff hguard)
    · obtain ⟨regs, hnote⟩ := State.noteRead_of_clean (s := s) (j := o.arg 16 1) (t := o.cursor) (r := r) hok hline hclean
      rw [State.modOp_mem, State.modOp_mem, hnote] at hmem
      exact hmem
  case passed =>
    intro s op units ext o hwork hstage hover hissued hfree hgood
    obtain rfl := State.id_of_work hwork
    have ho := State.op?_of_work hwork
    have hexec := execScrub_of_over (units := units) (ext := ext) hwork hstage hover
    rw [State.scrubEnd_of_performed ho hissued hfree hgood] at hexec
    refine ⟨fun hauto => ?_, fun hauto hst => ?_⟩
    · rw [hauto] at hexec
      exact ⟨_, hexec, s.completed_finish_ok o _ _ _⟩
    · rw [hauto] at hexec
      have hpass : (s.modOp o.id (Op.nextPass s.now)).op? o.id = some (o.nextPass s.now) :=
        State.op?_modOp_self ho fun x => (x.nextPass_does s.now).1
      obtain ⟨-, hnext, hcursor, hresult⟩ := o.nextPass_does s.now
      obtain ⟨q, regs, hyield⟩ := State.yieldPoint_of_running hpass (hnext.trans hst)
      have hyielded : ((s.modOp o.id (Op.nextPass s.now)).yieldPoint o.id).op? o.id = some (o.nextPass s.now) := by
        rw [hyield]
        exact hpass
      refine ⟨_, hexec, ?_⟩
      rw [if_pos rfl, hyielded, Option.map_some, hcursor, hresult]
  case summary =>
    intro s op units ext o r hwork hstage hover hissued hr haddr hwrite
    obtain rfl := State.id_of_work hwork
    have ho := State.op?_of_work hwork
    refine ⟨s.summaryIssued o r.guard, _, execScrub_of_over hwork hstage hover, s.wroteAt_summaryIssued o r.guard,
      State.op?_summaryIssued ho r.guard, fun hheld => ?_⟩
    rw [State.scrubEnd_of_summary ho hissued hr haddr hwrite hheld]

end Sys2Proof.Machine
end

section
/-! The statement of GUARD_SET and of the adaptive loop: O30. The start, a tile and the end of a re-guard walk (R319), and the end of a window
with its raise (R320, R321, R419). -/

namespace Sys2Proof.Machine

/-! ## GUARD_SET by its stages (R319) -/

section
variable {s : State} {op units : Nat} {ext : Ext} {o : Op} {r : Region} (hwork : s.work op 0x61 = some o)
  (hr : s.regions.get (o.arg 16 1) = some r)
include hwork hr

theorem execGuardSet_of_passes (hstage : o.stage = .fresh) (hrole : r.role ≠ .rick) (hmax : bits (o.arg 17 1) 0 3 ≤ r.guardMax)
    (hnone : r.reguard = none) : exec (.guardSet op units ext) s = .next ((s.modRegion (o.arg 16 1) (fun q => { q with
      adapt := bitAt (o.arg 17 1) 3, reguard := some ⟨bits (o.arg 17 1) 0 3, 0⟩ })).modOp op (fun x => { x with
        stage := .walking, cursor := 0 })) := by
  show execGuardSet op units ext s = _
  simp [execGuardSet, hwork, hr, hstage, hrole, Nat.not_lt.mpr hmax, hnone]

theorem execGuardSet_of_conflict (hstage : o.stage = .fresh)
    (hbad : r.role = .rick ∨ r.guardMax < bits (o.arg 17 1) 0 3 ∨ r.reguard ≠ none) :
    exec (.guardSet op units ext) s = .next (s.fail o stConflict) := by
  show execGuardSet op units ext s = _
  rcases hbad with h | h | h <;> simp [execGuardSet, hwork, hr, hstage, h, Option.isSome_iff_ne_none]

theorem execGuardSet_of_walking (hstage : o.stage = .walking) : exec (.guardSet op units ext) s =
    .next (State.endWalk op r.tileCount (fun t x => (t.reguardEnd (o.arg 16 1)).finish x stOk x.cursor 0 0)
      (State.walk op r.tileCount (fun t u => u.reguardUnit ext (o.arg 16 1) t) units s)) := by
  show execGuardSet op units ext s = _
  simp [execGuardSet, hwork, hr, hstage]

/-- With every tile walked, GUARD takes its new value and the operation ends. -/
theorem execGuardSet_of_over (hstage : o.stage = .walking) (hover : r.tileCount ≤ o.cursor) :
    exec (.guardSet op units ext) s = .next ((s.reguardEnd (o.arg 16 1)).finish o stOk o.cursor 0 0).settle := by
  have ho := State.op?_of_work hwork
  rw [execGuardSet_of_walking hwork hr hstage, State.walk_of_over ho units hover, State.endWalk_of_over ho hover]
end

/-! ## A tile of a re-guard walk (R319) -/

/-- The region whose walk stands before tile t. -/
def Region.walkedTo (t : Nat) (r : Region) : Region := { r with reguard := r.reguard.map (fun w => { w with pos := t }) }

section
variable {s s1 : State} {j t off g : Nat} {ext : Ext} {r : Region} {v : List Byte} (hr : s.regions.get j = some r)
include hr

/-- A tile that is read takes its line at the new strength. -/
theorem State.reguardTile_of_read (hg : g ≠ 0) (hst : r.state ≠ .fostering) (hoff : r.lineOff t = some off)
    (hread : s.readTile ext j r t = (some v, s1)) : s.reguardTile ext j t g = s1.stackWrite off (guardLine g v) := by
  simp [State.reguardTile, hr, hg, hst, hread, State.putLine_of_line s1 v hoff hg]

theorem State.reguardUnit_of_read {w : Reguard} (hw : r.reguard = some w) (hg : w.guard ≠ 0) (hfill : s.filling j = false)
    (hst : r.state ≠ .fostering) (hoff : r.lineOff t = some off) (hread : s.readTile ext j r t = (some v, s1)) :
    s.reguardUnit ext j t = .go ((s1.stackWrite off (guardLine w.guard v)).modRegion j (Region.walkedTo (t + 1))) := by
  simp only [State.reguardUnit, hfill, hr, Option.bind_some, hw, Option.map_some, Option.getD_some,
    State.reguardTile_of_read hr hg hst hoff hread, Bool.false_eq_true, if_false]
  rfl
end

/-- A re-guarded tile changes of the regions and counters what its read changes. -/
theorem State.ReadsWithin.reguardTile (s : State) (ext : Ext) (j t g : Nat) : s.ReadsWithin (s.reguardTile ext j t g) := by
  have hrefl := State.ReadsWithin.refl s
  unfold State.reguardTile
  split
  · exact hrefl
  next r hr =>
    refine .ite hrefl ?_
    have hread : ∀ c : Bool, s.ReadsWithin (if c then s.readPlain ext j r t else s.readTile ext j r t).2 := fun c =>
      .ite_snd (.readPlain hrefl) (.readTile hrefl)
    extract_lets unbuilt
    split
    next h => exact .putLine (.snd h (hread unbuilt))
    next h => exact .snd h (hread unbuilt)

/-! ## The end of a re-guard walk (R319) -/

theorem State.get_reguardEnd {s : State} {j : Nat} {r : Region} {w : Reguard} (hr : s.regions.get j = some r) (hw : r.reguard = some w) :
    (s.reguardEnd j).regions.get j = some { r with guard := w.guard, reguard := none } := by
  rw [State.reguardEnd, State.get_modRegion, if_pos rfl, hr, Option.map_some, hw]
  rfl

/-! ## The end of a window (R320, R321) -/

/-- The counts of a window begin again. -/
def State.restartWindow (s : State) (j : Nat) : State :=
  s.modRegion j (fun q => { q with winStart := s.now, winTiles := 0, winLoad := 0, winCtrl := 0 })

theorem State.get_restartWindow {s : State} {j : Nat} {r : Region} (hr : s.regions.get j = some r) :
    (s.restartWindow j).regions.get j = some { r with winStart := s.now, winTiles := 0, winLoad := 0, winCtrl := 0 } := by
  rw [State.restartWindow, State.get_modRegion, if_pos rfl, hr]
  rfl

/-- The region of a window whose raise would be due is asked for one. -/
structure State.AsksRaise (s : State) (r : Region) : Prop where
  adapt : r.adapt = true
  role : r.role ≠ .rick
  enabled : bitAt (s.regN 0x011C) 0 = true
  due : s.raiseDue r = true

section
variable {s : State} {j : Nat} {r : Region} (hr : s.regions.get j = some r)
  (hpast : s.past r.winStart (bits (s.regN 0x011C) 1 8 * 360000000000) = true) (hnone : r.reguard = none) (hfill : s.filling j = false)
include hr hpast hnone hfill

theorem execGuardWindowEnd_of_no_raise
    (hno : r.adapt = false ∨ r.role = .rick ∨ bitAt (s.regN 0x011C) 0 = false ∨ s.raiseDue r = false) :
    exec (.guardWindowEnd j) s = .next (s.restartWindow j) := by
  show execGuardWindowEnd j s = _
  rcases hno with h | h | h | h <;> simp [execGuardWindowEnd, hr, hpast, hnone, hfill, h, State.restartWindow]

variable (hask : s.AsksRaise r)
include hask

theorem execGuardWindowEnd_of_ask : exec (.guardWindowEnd j) s = .next (if r.guard < r.guardMax then
      (if s.auditFull then s.modRegion j (fun q => { q with winStart := s.now }) else ((s.restartWindow j).raiseGuard j r).settle)
    else ((s.restartWindow j).event 80 (infoA j 0)).settle) := by
  obtain ⟨hadapt, hrole, hen, hdue⟩ := hask
  show execGuardWindowEnd j s = _
  simp [execGuardWindowEnd, hr, hpast, hnone, hfill, hadapt, hrole, hen, hdue, State.restartWindow]
end

/-! ## A raise (R320) -/

/-- The walk of a raise over the first n tiles of region j. -/
def State.raiseWalk (s : State) (j g n : Nat) : State :=
  (List.range n).foldl (fun (u : State) t => (u.reguardTile [] j t g).modRegion j (fun q => { q with reguard := some ⟨g, t + 1⟩ }))
    (s.modRegion j (fun q => { q with reguard := some ⟨g, 0⟩ }))

/-- It leaves the region with the strength to which it walks, and every counter but those of reads. -/
theorem State.raiseWalk_does {s : State} {j : Nat} {r : Region} (hr : s.regions.get j = some r) (g n : Nat) :
    (∃ q, (s.raiseWalk j g n).regions.get j = some q ∧ q.reguard = some ⟨g, n⟩) ∧
    ∀ off ∉ readCounters, (s.raiseWalk j g n).reg off = s.reg off := by
  induction n with
  | zero =>
    refine ⟨⟨{ r with reguard := some ⟨g, 0⟩ }, ?_, rfl⟩, fun _ _ => rfl⟩
    show (s.modRegion j (fun q => { q with reguard := some ⟨g, 0⟩ })).regions.get j = _
    rw [State.get_modRegion, if_pos rfl, hr, Option.map_some]
  | succ n ih =>
    obtain ⟨⟨q, hq, -⟩, hregs⟩ := ih
    have hstep : s.raiseWalk j g (n + 1) =
        ((s.raiseWalk j g n).reguardTile [] j n g).modRegion j (fun q => { q with reguard := some ⟨g, n + 1⟩ }) := by
      rw [State.raiseWalk, List.range_succ, List.foldl_append, List.foldl_cons, List.foldl_nil, State.raiseWalk]
    have htile := State.ReadsWithin.reguardTile (s.raiseWalk j g n) [] j n g
    obtain ⟨p, hp, -⟩ := htile.get hq
    rw [hstep]
    refine ⟨⟨{ p with reguard := some ⟨g, n + 1⟩ }, ?_, rfl⟩, fun off hoff => ?_⟩
    · rw [State.get_modRegion, if_pos rfl, hp, Option.map_some]
    · exact (htile.2 off hoff).trans (hregs off hoff)

/-- A raise makes GUARD one higher, counts itself and raises its event (R320). -/
theorem State.raiseGuard_does {s : State} {j : Nat} {q : Region} (hq : s.regions.get j = some q) (r : Region) :
    ((s.raiseGuard j r).regions.get j).map (fun p => p.guard) = some (r.guard + 1) ∧ (s.raiseGuard j r).raised 79 = true ∧
    (s.raiseGuard j r).reg (guardCnt 7) = s.reg (guardCnt 7) + 1#32 := by
  obtain ⟨⟨p, hp, hguard⟩, hregs⟩ := State.raiseWalk_does hq (r.guard + 1) r.tileCount
  have hend := State.get_reguardEnd hp hguard
  have hform := ((s.raiseWalk j (r.guard + 1) r.tileCount).reguardEnd j).signalsOnly_auditForm 0 4 2 0x20 2
    (j + 2 ^ 8 * (r.guard + 1)) 0 false
  have hraise : s.raiseGuard j r = ((((s.raiseWalk j (r.guard + 1) r.tileCount).reguardEnd j).auditForm 0 4 2 0x20 2
    (j + 2 ^ 8 * (r.guard + 1)) 0 false).bump (guardCnt 7)).event 79 (infoA j (r.guard + 1)) := rfl
  rw [hraise]
  refine ⟨?_, State.event_raises _ _ _ (by decide), ?_⟩
  · rw [State.event_regions, State.bump_regions, hform.regions_eq, hend, Option.map_some]
  · rw [State.event_reg, State.reg_bump_self, hform.reg_eq]
    exact congrArg (· + 1#32) (hregs _ (by decide))

/-! ## The statement -/

/-- Settles O30: a tile of a walk is a read and the write of its line, its end and a raise set GUARD to the strength of the walk, and the end of
a window runs one case of its meaning. -/
theorem guardStrengthChanges : Obligations.GuardStrengthChanges := by
  unfold Obligations.GuardStrengthChanges
  refine ⟨⟨?fresh, ?tile, ?walked⟩, ?window⟩
  case fresh =>
    intro s op units ext o r hwork hstage hr
    have ho := State.op?_of_work hwork
    refine ⟨fun hrole hmax hnone => ?_, fun hbad => ?_⟩
    · refine ⟨_, execGuardSet_of_passes hwork hr hstage hrole hmax hnone, ?_, ?_, rfl⟩
      · rw [State.modOp_regions, State.get_modRegion, if_pos rfl, hr, Option.map_some]
      · rw [State.op?_modOp_self (f := fun x => { x with stage := .walking, cursor := 0 })
          (s := s.modRegion (o.arg 16 1) _) ho fun _ => rfl]
        rfl
    · obtain ⟨hregions, -, hdone⟩ := State.fail_does s (State.id_of_work hwork) (st := stConflict) rfl
      exact ⟨_, execGuardSet_of_conflict hwork hr hstage hbad, hdone, hregions⟩
  case tile =>
    intro s s1 op off ext o r w v hwork hstage hst hr hw hg hmore hfill hlive hoff hread
    have ho := State.op?_of_work hwork
    have hops := ((State.Reads.refl s).readTile.snd hread).1
    have hstrap : s1.strap = s.strap := by rw [(State.ReadsOnly.refl s).readTile.snd hread]
    obtain ⟨q, hq, hfixed⟩ := ((State.ReadsWithin.refl s).readTile.snd hread).get hr
    have hreguard : q.reguard = some w := (congrArg Region.reguard hfixed).trans hw
    have hunit := State.reguardUnit_of_read hr hw hg hfill hlive hoff hread
    have ho1 : ((s1.stackWrite off (guardLine w.guard v)).modRegion (o.arg 16 1) (Region.walkedTo (o.cursor + 1))).op? op = some o := by
      rw [State.op?, State.modRegion_ops, State.stackWrite_ops, hops]
      exact ho
    obtain ⟨u, hgo, -, hmem, hustrap, hregions⟩ := State.walk_unit_running
      (done := fun t x => (t.reguardEnd (o.arg 16 1)).finish x stOk x.cursor 0 0) ho hmore hunit ho1 hst
    refine ⟨u, (execGuardSet_of_walking hwork hr hstage).trans (congrArg _ hgo), ?_, fun a ha => ?_, ?_⟩
    · rw [State.stackRead_congr (s := s1.stackWrite off (guardLine w.guard v)) hmem hustrap]
      exact s1.stackRead_stackWrite_self off _
    · have hout := s1.byteAt_stackWrite off (guardLine w.guard v) a
      have haddr : s1.stackAddr off = s.stackAddr off := by rw [State.stackAddr, hstrap, State.stackAddr]
      rw [haddr, if_neg (by omega)] at hout
      rw [hmem]
      exact hout
    · rw [hregions, State.get_modRegion, if_pos rfl, State.stackWrite_regions, hq, Option.map_some, Option.bind_some, Region.walkedTo, hreguard]
      rfl
  case walked =>
    intro s op units ext o r w hwork hstage hr hw hover
    have hends := (s.reguardEnd (o.arg 16 1)).endsOnly_finish o stOk o.cursor 0 0
    refine ⟨_, execGuardSet_of_over hwork hr hstage hover, State.finish_ok_completed _ (State.id_of_work hwork) _ (by decide), ?_,
      fun hroom => ?_⟩
    · rw [hends.regions_eq, State.get_reguardEnd hr hw]
    · exact State.finish_mem (s := s.reguardEnd (o.arg 16 1)) (State.op?_mem (State.op?_of_work hwork)) hroom _ _ _ _
  case window =>
    intro s j r hr hpast hnone hfill
    refine ⟨fun hadapt hrole hen hdue hbelow hroom => ?_, fun hadapt hrole hen hdue hbelow hfull => ?_,
      fun hadapt hrole hen hdue hmax => ?_, fun hno => ?_⟩
    · have hexec := execGuardWindowEnd_of_ask hr hpast hnone hfill ⟨hadapt, hrole, hen, hdue⟩
      rw [if_pos hbelow, if_neg (by simp [hroom])] at hexec
      exact ⟨_, hexec, State.raiseGuard_does (State.get_restartWindow hr) r⟩
    · have hexec := execGuardWindowEnd_of_ask hr hpast hnone hfill ⟨hadapt, hrole, hen, hdue⟩
      rw [if_pos hbelow, if_pos hfull] at hexec
      refine ⟨_, hexec, ?_, rfl⟩
      rw [State.get_modRegion, if_pos rfl, hr, Option.map_some]
    · have hexec := execGuardWindowEnd_of_ask hr hpast hnone hfill ⟨hadapt, hrole, hen, hdue⟩
      rw [if_neg (Nat.not_lt.mpr hmax)] at hexec
      refine ⟨_, hexec, State.event_raises _ _ _ (by decide), ?_, State.event_mem _ _ _⟩
      rw [State.event_regions, State.get_restartWindow hr, Option.map_some]
    · exact ⟨_, execGuardWindowEnd_of_no_raise hr hpast hnone hfill hno, State.get_restartWindow hr, rfl, rfl⟩

end Sys2Proof.Machine
end

section
/-! The statement of CONTROLLER_ERROR_RESPONSE: O31. -/

namespace Sys2Proof.Machine

/-- The answers of the controller to a read of a tile whose sectors of a mask are flagged (R312). -/
def State.flagged (s : State) (tile : Nat) (mask : BitVec 64) : Ext :=
  ((List.range 64).filter (fun i => mask.getLsbD i)).map (fun i => (s.tileAddr tile + 64 * i, Resp.error))

/-- The answer is one issue at the port: the flagged sectors of a tile that guard and sheaf give, else the error response (R312 to R315). -/
theorem execControllerErrorResponse_of_read {s s1 : State} {agent tile j : Nat} {mask : BitVec 64} {ext : Ext} {r : Region}
    {x : Option (List Byte)} (hin : tile < stackTiles) (hr : s.regionAt tile = some (j, r)) (hguard : r.strengthAt (tile - r.tileBase) ≠ 0)
    (hread : s.seen.readTile (s.flagged tile mask ++ ext) j r (tile - r.tileBase) = (x, s1)) :
    exec (.controllerErrorResponse agent tile mask ext) s =
      .next (s1.send (x.elim (.agentError agent tile) (fun v => .agentAnswer agent tile (sectorsOf mask v)))).settle := by
  unfold State.flagged at hread
  show execControllerErrorResponse agent tile mask ext s = _
  cases x <;> simp only [execControllerErrorResponse, if_neg (Nat.not_le.mpr hin), hr, if_neg hguard, hread, Option.elim]

/-- Settles O31: the answer is one issue at the port after what the read leaves, which touches no memory. -/
theorem flaggedReadsAnswerCorrected : Obligations.FlaggedReadsAnswerCorrected := by
  unfold Obligations.FlaggedReadsAnswerCorrected
  intro s agent tile j mask ext r
  refine ⟨fun hin hr hguard => ⟨fun v s1 hread => ?_, fun s1 hread => ?_⟩, fun hout => if_pos hout⟩
  · exact ⟨_, execControllerErrorResponse_of_read hin hr hguard hread, rfl, rfl⟩
  · exact ⟨_, execControllerErrorResponse_of_read hin hr hguard hread, rfl, rfl⟩

end Sys2Proof.Machine
end

section
/-! SUPPORT. What a word of a program leaves (R332 to R337): the operation that runs it, what its SYNC notes, and a word that changes the
operation alone. -/

namespace Sys2Proof.Machine

/-! ## Changes of operations -/

theorem State.op?_modOp_ne {s : State} {id k : Nat} {f : Op → Op} (h : k ≠ id) (hf : ∀ o, (f o).id = o.id) :
    (s.modOp id f).op? k = s.op? k := by
  rw [s.op?_modOp id k f hf, if_neg h]

/-- Two changes of one operation are one. -/
theorem State.modOp_modOp (s : State) (id : Nat) {f : Op → Op} (g : Op → Op) (hf : ∀ o, (f o).id = o.id) :
    (s.modOp id f).modOp id g = s.modOp id (g ∘ f) := by
  have hop : ∀ o : Op, (if (if o.id = id then f o else o).id = id then g (if o.id = id then f o else o) else if o.id = id then f o else o) =
      if o.id = id then (g ∘ f) o else o := fun o => by
    by_cases h : o.id = id <;> simp [h, hf]
  have hops : ((s.modOp id f).modOp id g).ops = (s.modOp id (g ∘ f)).ops := by
    rw [State.modOp_ops, State.modOp_ops, State.modOp_ops, List.map_map]
    exact List.map_congr_left fun o _ => hop o
  exact congrArg (fun l => { s with ops := l }) hops

/-- What an S-register reads after a write of one (R331). -/
theorem Op.sreg_setSreg (o : Op) (i j : Nat) (v : Word64) : (o.setSreg i v).sreg j = if j = i then v else o.sreg j := by
  unfold Op.sreg Op.setSreg
  split
  next h => rw [h, Tab.get_set_self]; rfl
  next h => rw [Tab.get_set_ne _ _ _ _ h]

theorem Op.n_mark (o : Op) (k v i : Nat) : (o.mark k v).n i = if i = k then v else o.n i := by
  unfold Op.mark Op.n
  by_cases hv : v = 0
  · by_cases hi : i = k <;> simp [hv, hi, Tab.get_del]
  · by_cases hi : i = k
    · simp [hv, hi, Tab.get_set_self]
    · simp [hv, hi, Tab.get_set_ne _ _ _ _ hi]

/-! ## The end of a word -/

theorem State.op?_of_primOp {s : State} {q : Nat} {o : Op} (h : s.primOp q = some o) : s.op? o.id = some o := by
  unfold State.primOp at h
  split at h
  · cases h
  split at h
  next x hx =>
    split at h
    · cases h
      obtain ⟨id, -, hid⟩ := Option.bind_eq_some_iff.mp hx
      rwa [State.op?_some_id hid]
    · cases h
  next => cases h

theorem State.op?_of_runs {s : State} {q w opc : Nat} {o : Op} (h : s.runs q o w opc) : s.op? o.id = some o := State.op?_of_primOp h.1

/-- The next word is in the control store (R327). -/
theorem State.pc_of_runs {s : State} {q w opc : Nat} {o : Op} (h : s.runs q o w opc) : o.pc + 1 ≤ 8191 := by
  obtain ⟨-, -, -, -, -, -, hpc⟩ := h
  exact hpc

/-- An operation after a word: it has noted the transfer and the READ for which a SYNC waits. -/
def Op.synced (x r : Nat) (o : Op) : Op := (o.mark nkSync x).mark nkSyncRead r

/-- A word whose action gives `u`, with its operation as `x`, leaves `t`: `x` has noted what its SYNC waits for, and nothing else changes. -/
structure State.WordLeaves (u t : State) (id : Nat) (x : Op) : Prop where
  all : t = { u with ops := t.ops }
  other : ∀ k, k ≠ id → t.op? k = u.op? k
  own : ∃ a b, t.op? id = some (x.synced a b)

section
variable {u t : State} {id : Nat} {x : Op} (h : u.WordLeaves t id x)
include h
theorem State.WordLeaves.mem_eq : t.mem = u.mem := by rw [h.all]
theorem State.WordLeaves.port_eq : t.port = u.port := by rw [h.all]
theorem State.WordLeaves.seqs_eq : t.seqs = u.seqs := by rw [h.all]
theorem State.WordLeaves.boot_eq : t.boot = u.boot := by rw [h.all]
theorem State.WordLeaves.regions_eq : t.regions = u.regions := by rw [h.all]

/-- What no SYNC notes is as the action leaves it. -/
theorem State.WordLeaves.map_eq {α : Type} (f : Op → α) (hf : ∀ (o : Op) (a b : Nat), f (o.synced a b) = f o) :
    (t.op? id).map f = some (f x) := by
  obtain ⟨a, b, hop⟩ := h.own
  rw [hop, Option.map_some, hf]
end

/-- The end of a word that does not run past the control store notes what its SYNC waits for. -/
theorem State.wordLeaves_afterWord {u : State} {id : Nat} {x : Op} (s : State) (w : Nat) (hx : u.op? id = some x) (hpc : x.pc ≤ 8191) :
    u.WordLeaves (u.afterWord s id w) id x := by
  unfold State.afterWord
  extract_lets a b s1
  have h1 : s1.op? id = some (x.synced a b) := State.op?_modOp_self (f := Op.synced a b) hx fun _ => rfl
  rw [h1]
  change u.WordLeaves (if 8191 < x.pc then s1.progFault (x.synced a b) else s1) id x
  rw [if_neg (Nat.not_lt.mpr hpc)]
  exact ⟨rfl, fun k hk => State.op?_modOp_ne (f := Op.synced a b) hk fun _ => rfl, a, b, h1⟩

section
variable {s : State} {q w opc : Nat} {o : Op} {f : Prim} (h : s.runs q o w opc)
include h

/-- A word that a sequencer runs leaves what its primitive does (R332, R335). -/
theorem State.wordLeaves_prim {x : Op} (hx : (f o w s).op? o.id = some x) (hpc : x.pc ≤ 8191) :
    (f o w s).WordLeaves (s.prim q opc f) o.id x := by
  rw [State.prim_runs f h]
  exact State.wordLeaves_afterWord s w hx hpc

/-- A primitive that changes its operation alone and goes on. -/
theorem State.wordLeaves_modOp {g : Op → Op} (hf : f o w s = s.modOp o.id g) (hg : ∀ x, (g x).id = x.id) (hpc : (g o).pc ≤ 8191) :
    (s.modOp o.id g).WordLeaves (s.prim q opc f) o.id (g o) := by
  rw [← hf]
  refine State.wordLeaves_prim h ?_ hpc
  rw [hf]
  exact State.op?_modOp_self (State.op?_of_runs h) hg

/-- A primitive that sets Sc, and of the rest of its operation at most its notes, sets nothing else (R332). -/
theorem State.wroteS_modOp {g : Op → Op} {c : Nat} {v : Word64} (hf : f o w s = s.modOp o.id g) (hg : ∀ x, (g x).id = x.id)
    (hpc : (g o).pc = o.pc + 1) (hregs : (g o).regs = o.regs.set c v) (hslots : (g o).slots = o.slots) :
    s.wroteS (s.prim q opc f) o c v := by
  have hleaves := State.wordLeaves_modOp h hf hg (hpc ▸ State.pc_of_runs h)
  obtain ⟨a, b, hown⟩ := hleaves.own
  have hsreg : ∀ i, ((g o).synced a b).sreg i = (o.setSreg c v).sreg i := fun i => by
    show ((g o).regs.get i).getD 0#64 = _
    rw [hregs]
    rfl
  refine ⟨hleaves.all, fun k hk => ?_, _, hown, hpc, ?_, hslots, fun i hi => ?_⟩
  · exact (hleaves.other k hk).trans (State.op?_modOp_ne hk hg)
  · rw [hsreg, Op.sreg_setSreg, if_pos rfl]
  · rw [hsreg, Op.sreg_setSreg, if_neg hi]

/-- A primitive that writes Sc and goes on sets nothing else (R332). -/
theorem State.wroteS_prim {c v : Nat} (hf : f o w s = s.setS o.id c v) : s.wroteS (s.prim q opc f) o c (BitVec.ofNat 64 v) :=
  State.wroteS_modOp h (g := fun o => { o.setSreg c (BitVec.ofNat 64 v) with pc := o.pc + 1 }) hf (fun _ => rfl) rfl rfl rfl

theorem State.wroteS_alu (g : Op → Nat → Nat) {v : Word64} (hv : BitVec.ofNat 64 (g o w) = v) :
    s.wroteS (s.prim q opc (alu g)) o (uwFc w) v := hv ▸ State.wroteS_prim h rfl
end

end Sys2Proof.Machine
end

section
/-! The statement of the arithmetic primitives: O38. Each function of the model in natural numbers is the function of Table 11-4 on 64-bit
registers. -/

namespace Sys2Proof.Machine

theorem Op.ofNat_sa (o : Op) (w : Nat) : BitVec.ofNat 64 (o.sa w) = o.sreg (uwFa w) := BitVec.ofNat_toNat _ _ |>.trans (BitVec.setWidth_eq _)
theorem Op.ofNat_sb (o : Op) (w : Nat) : BitVec.ofNat 64 (o.sb w) = o.sreg (uwFb w) := BitVec.ofNat_toNat _ _ |>.trans (BitVec.setWidth_eq _)

theorem uwImm_lt (w : Nat) : uwImm w < 2 ^ 32 := Nat.mod_lt _ (by decide)

/-- IMM with its sign bit [31] spread over the upper half (ADDI). -/
theorem ofNat_signExtended {n : Nat} (h : n < 2 ^ 32) :
    BitVec.ofNat 64 (n + (if bitAt n 31 then 2 ^ 64 - 2 ^ 32 else 0)) = (BitVec.ofNat 32 n).signExtend 64 := by
  have hmsb : (BitVec.ofNat 32 n).msb = bitAt n 31 := by
    rw [BitVec.msb_eq_getLsbD_last, ← bitAt_toNat, BitVec.toNat_ofNat, Nat.mod_eq_of_lt h]
  refine BitVec.eq_of_toNat_eq ?_
  rw [BitVec.toNat_signExtend, hmsb, BitVec.toNat_setWidth, BitVec.toNat_ofNat, BitVec.toNat_ofNat]
  split <;> omega

theorem ofNat_sub (x y : Word64) : BitVec.ofNat 64 (x.toNat + 2 ^ 64 - y.toNat) = x - y := by
  refine BitVec.eq_of_toNat_eq ?_
  rw [BitVec.toNat_ofNat, BitVec.toNat_sub]
  omega

theorem ofNat_shiftLeft (x : Word64) (n : Nat) : BitVec.ofNat 64 (x.toNat * 2 ^ n) = x <<< n := by
  refine BitVec.eq_of_toNat_eq ?_
  rw [BitVec.toNat_ofNat, BitVec.toNat_shiftLeft, Nat.shiftLeft_eq]

theorem ofNat_shiftRight (x : Word64) (n : Nat) : BitVec.ofNat 64 (x.toNat / 2 ^ n) = x >>> n := by
  refine BitVec.eq_of_toNat_eq ?_
  rw [BitVec.toNat_ofNat, BitVec.toNat_ushiftRight, Nat.shiftRight_eq_div_pow]
  exact Nat.mod_eq_of_lt (Nat.div_lt_of_lt x.isLt)

/-- Bits [lo + n - 1 : lo] are the n low bits of the shifted register (FIELD). -/
theorem ofNat_bits (x : Word64) (lo n : Nat) : BitVec.ofNat 64 (bits x.toNat lo n) = (x >>> lo) &&& BitVec.ofNat 64 (2 ^ n - 1) := by
  refine BitVec.eq_of_getLsbD_eq fun i hi => ?_
  rw [bits, BitVec.getLsbD_and, ← ofNat_shiftRight, BitVec.getLsbD_ofNat, BitVec.getLsbD_ofNat, BitVec.getLsbD_ofNat,
    Nat.testBit_mod_two_pow, Nat.testBit_two_pow_sub_one]
  simp [hi, Bool.and_comm]

/-- Settles O38: each primitive is a function of Sa, Sb and IMM that sets Sc, and the function is that of the table. -/
theorem registerPrimitivesCompute : Obligations.RegisterPrimitivesCompute := by
  unfold Obligations.RegisterPrimitivesCompute
  intro s q w o
  refine ⟨?movi, ?add, ?addi, ?sub, ?and, ?or, ?xor, ?shl, ?shr, ?mul, ?field⟩
  all_goals intro h; refine ⟨_, rfl, ?_⟩
  case movi => exact State.wroteS_alu h _ rfl
  case add => exact State.wroteS_alu h _ (by simp only [BitVec.ofNat_add, Op.ofNat_sa, Op.ofNat_sb])
  case addi => exact State.wroteS_alu h _ (by simp only [Nat.add_assoc, BitVec.ofNat_add, Op.ofNat_sa, ← ofNat_signExtended (uwImm_lt w)])
  case sub => exact State.wroteS_alu h _ (ofNat_sub (o.sreg (uwFa w)) (o.sreg (uwFb w)))
  case and => exact State.wroteS_alu h _ (by simp only [BitVec.ofNat_and, Op.ofNat_sa, Op.ofNat_sb])
  case or => exact State.wroteS_alu h _ (by simp only [BitVec.ofNat_or, Op.ofNat_sa, Op.ofNat_sb])
  case xor => exact State.wroteS_alu h _ (by simp only [BitVec.ofNat_xor, Op.ofNat_sa, Op.ofNat_sb])
  case shl => exact State.wroteS_alu h _ (ofNat_shiftLeft (o.sreg (uwFa w)) _)
  case shr => exact State.wroteS_alu h _ (ofNat_shiftRight (o.sreg (uwFa w)) _)
  case mul => exact State.wroteS_alu h _ (by simp only [BitVec.ofNat_mul, Op.ofNat_sa, Op.ofNat_sb])
  case field => exact State.wroteS_alu h _ (ofNat_bits (o.sreg (uwFa w)) _ _)

end Sys2Proof.Machine
end

section
/-! The statement of the control and query primitives: O39. BR, YIELD and END, the waits, the queries, ZERO and TRIG (Table 11-4, R335 to R344). -/

namespace Sys2Proof.Machine

/-! ## YIELD and END (R337, R328) -/

/-- The operation that goes on after its YIELD (R337). -/
def Op.yielded (c now : Nat) (o : Op) : Op := { o with pc := o.pc + 1, cursor := c, hold := now }

theorem primYield_of_running {o : Op} (hst : o.st = .running) (w : Nat) (s : State) :
    primYield o w s = (s.modOp o.id (Op.yielded (o.s (entryCur (s.opEntry o))) s.now)).yieldPoint o.id :=
  if_neg (by simp [hst])

theorem Op.s_lt (o : Op) (n : Nat) : o.s n < 2 ^ 64 := (o.sreg n).isLt

/-- The end of a program, before what it lets go on (R328). -/
def State.progFinal (s : State) (o : Op) (st : Nat) : State :=
  s.finish o st (o.s (entryCur (s.opEntry o))) (o.s (entryRes (s.opEntry o))) (o.s (entryAux (s.opEntry o)) % 2 ^ 16)

theorem State.progEnd_eq (s : State) (o : Op) (st : Nat) : s.progEnd o st = (s.progFinal o st).settle := rfl

theorem State.finished_progFinal (s : State) (o : Op) (st : Nat) : (s.progFinal o st).finished o.id (finalStatus st) = true :=
  State.finished_of_completed (s.completed_finish o _ _ _ _)

theorem State.completed_progFinal_ok (s : State) (o : Op) : (s.progFinal o stOk).completed o.id stOk (o.s (entryRes (s.opEntry o)))
    (o.s (entryAux (s.opEntry o)) % 2 ^ 16) := by
  have hend := s.completed_finish_ok o (o.s (entryCur (s.opEntry o))) (o.s (entryRes (s.opEntry o))) (o.s (entryAux (s.opEntry o)) % 2 ^ 16)
  rwa [Nat.mod_eq_of_lt (o.s_lt _)] at hend

theorem primEnd_eq (o : Op) (w : Nat) (s : State) :
    primEnd o w s = (s.progFinal o (if bitAt (uwImm w) 31 = true then o.s (uwFa w) % 2 ^ 16 else bits (uwImm w) 0 16)).settle := rfl

/-! ## Primitives that change their operation (Table 11-4) -/

/-- The operation after a BR that is taken or not. -/
def Op.branched (taken : Bool) (target : Nat) (o : Op) : Op := { o with pc := if taken then target else o.pc + 1 }

theorem primBr_eq (o : Op) (w : Nat) (s : State) :
    primBr o w s = s.modOp o.id (Op.branched (condHolds (uwCond w) (o.sreg (uwFa w)) (o.sreg (uwFb w))) (uwTarget w)) := by
  unfold primBr State.advance Op.branched
  cases condHolds (uwCond w) (o.sreg (uwFa w)) (o.sreg (uwFb w)) <;> rfl

/-- TARGET names a word of the control store (R327). -/
theorem uwTarget_le (w : Nat) : uwTarget w ≤ 8191 := Nat.lt_succ_iff.mp (Nat.mod_lt _ (by decide))

/-- The operation after a ZERO of slot k. -/
def Op.zeroed (k : Nat) (o : Op) : Op := { o with slots := o.slots.set k (Slot.full (zeros 4096)), pc := o.pc + 1 }

theorem primZero_eq (o : Op) (w : Nat) (s : State) : primZero o w s = s.modOp o.id (Op.zeroed (o.slotA w)) :=
  s.modOp_modOp o.id _ fun _ => rfl

/-- The operation after a WAITALL: Sc has the first bad status, which is cleared (log entry 93). -/
def Op.waited (c v : Nat) (o : Op) : Op := { (o.mark nkFirstBad 0).setSreg c (BitVec.ofNat 64 v) with pc := o.pc + 1 }

theorem primWaitall_eq (o : Op) (w : Nat) (s : State) :
    primWaitall o w s = s.modOp o.id (Op.waited (uwFc w) (o.n nkFirstBad)) :=
  s.modOp_modOp o.id _ fun _ => rfl

theorem Op.n_waited (c v : Nat) (o : Op) : (o.waited c v).n nkFirstBad = 0 := by
  show (o.mark nkFirstBad 0).n nkFirstBad = 0
  rw [Op.n_mark, if_pos rfl]

theorem Op.n_synced {o : Op} (a b : Nat) {k : Nat} (hx : k ≠ nkSync) (hr : k ≠ nkSyncRead) : (o.synced a b).n k = o.n k := by
  rw [Op.synced, Op.n_mark, if_neg hr, Op.n_mark, if_neg hx]

/-! ## Queries -/

section
variable {s : State} {o : Op} {w : Nat} {r : Region} (hr : s.regions.get (bits (o.s (uwFa w)) 0 8) = some r)
include hr

theorem primRtile_of_region : primRtile o w s =
    s.setS o.id (uwFc w) (if o.s (uwFb w) < r.tileCount then s.tileAddr (r.tileBase + o.s (uwFb w)) else 0) := by
  have hr' : s.regions.get (bits (o.sa w) 0 8) = some r := hr
  simp only [primRtile, alu, hr']
  rfl

theorem primShinfo_of_sheaf {sh : Sheaf} (hsh : s.sheafOf r = some sh) :
    primShinfo o w s = s.setS o.id (uwFc w) (sh.k + 2 ^ 8 * sh.m + 2 ^ 16 * r.member) := by
  have hr' : s.regions.get (bits (o.sa w) 0 8) = some r := hr
  simp only [primShinfo, alu, hr', hsh]

theorem primDigest_of_region : primDigest o w s = s.setS o.id (uwFc w) r.digest.toNat := by
  have hr' : s.regions.get (bits (o.sa w) 0 8) = some r := hr
  simp only [primDigest, alu, hr', Option.map_some, Option.getD_some]
end

/-! ## TRIG (R344) -/

/-- Trigger counter c counts, and belongs to operation `id`. -/
def State.triggered (s : State) (c id : Nat) : State :=
  State.trigger { s with seqs := { s.seqs with trigOwn := s.seqs.trigOwn.set c id } } c

theorem primTrig_of_free {s : State} {o : Op} {w : Nat}
    (hown : s.seqs.trigOwn.get (bits (o.s (uwFa w)) 0 8) = none ∨ s.seqs.trigOwn.get (bits (o.s (uwFa w)) 0 8) = some o.id)
    (hnone : s.outstanding o.id = false) : primTrig o w s = (s.triggered (bits (o.s (uwFa w)) 0 8) o.id).advance o.id := by
  have hmine : ((s.seqs.trigOwn.get (bits (o.sa w) 0 8)).map (fun x => x != o.id)).getD false = false := by
    have hown' : s.seqs.trigOwn.get (bits (o.sa w) 0 8) = none ∨ s.seqs.trigOwn.get (bits (o.sa w) 0 8) = some o.id := hown
    rcases hown' with h | h <;> simp [h]
  simp only [primTrig, hmine, hnone, Bool.false_eq_true, if_false]
  rfl

/-! ## The statement -/

/-- Settles O39: a query sets Sc alone, and each other primitive changes its operation, a trigger counter or, at END, forms the final record. -/
theorem controlAndQueryPrimitives : Obligations.ControlAndQueryPrimitives := by
  unfold Obligations.ControlAndQueryPrimitives
  intro s q w o
  refine ⟨?br, ?yield, ?endOk, ?endStatus, ?waitt, ?waitall, ?zero, ?rtile, ?shinfo, ?digest, ?time, ?trig⟩
  case br =>
    intro h
    have hleaves := State.wordLeaves_modOp h (primBr_eq o w s) (fun _ => rfl) (by
      unfold Op.branched
      split
      · exact uwTarget_le w
      · exact State.pc_of_runs h)
    exact ⟨_, rfl, hleaves.all, hleaves.map_eq (fun x => (x.pc, x.regs)) fun _ _ _ => rfl⟩
  case yield =>
    intro h hst
    have hop := State.op?_modOp_self (f := Op.yielded (o.s (entryCur (s.opEntry o))) s.now) (State.op?_of_runs h) fun _ => rfl
    obtain ⟨seqs, regs, hyield⟩ := State.yieldPoint_of_running hop hst
    rw [← primYield_of_running hst w] at hyield
    have hleaves := State.wordLeaves_prim h (f := primYield) (by rw [hyield]; exact hop) (State.pc_of_runs h)
    refine ⟨_, rfl, ?_, ?_, hleaves.map_eq (fun x => (x.pc, x.cursor, x.regs)) fun _ _ _ => rfl⟩
    · rw [hleaves.mem_eq, hyield, State.modOp_mem]
    · rw [hleaves.regions_eq, hyield, State.modOp_regions]
  case endOk =>
    intro h hok himm
    have hend := State.prim_runs primEnd h
    rw [primEnd_eq, if_neg (by simp [himm]), hok] at hend
    exact ⟨_, congrArg Host.Outcome.next hend, s.completed_progFinal_ok o⟩
  case endStatus =>
    intro h
    have hend := State.prim_runs primEnd h
    rw [primEnd_eq] at hend
    exact ⟨_, congrArg Host.Outcome.next hend, s.finished_progFinal o _⟩
  case waitt => exact fun h => ⟨_, rfl, State.wroteS_alu h _ rfl⟩
  case waitall =>
    intro h
    have hleaves := State.wordLeaves_modOp h (primWaitall_eq o w s) (fun _ => rfl) (State.pc_of_runs h)
    refine ⟨_, rfl, State.wroteS_modOp h (primWaitall_eq o w s) (fun _ => rfl) rfl rfl rfl, ?_⟩
    rw [hleaves.map_eq (fun x => x.n nkFirstBad) fun _ _ _ => Op.n_synced _ _ (by decide) (by decide), Op.n_waited]
  case zero =>
    intro h
    have hleaves := State.wordLeaves_modOp h (primZero_eq o w s) (fun _ => rfl) (State.pc_of_runs h)
    refine ⟨_, rfl, hleaves.all, (hleaves.map_eq (fun x => (x.pc, x.slots.get (o.slotA w), x.regs)) fun _ _ _ => rfl).trans ?_⟩
    rw [Op.zeroed, Tab.get_set_self]
  case rtile => exact fun h r hr => ⟨_, rfl, State.wroteS_prim h (primRtile_of_region hr)⟩
  case shinfo => exact fun h r sh hr hsh => ⟨_, rfl, State.wroteS_prim h (primShinfo_of_sheaf hr hsh)⟩
  case digest =>
    intro h r hr
    have hwrote := State.wroteS_prim h (primDigest_of_region hr)
    rw [BitVec.ofNat_toNat, BitVec.setWidth_eq] at hwrote
    exact ⟨_, rfl, hwrote⟩
  case time => exact fun h => ⟨_, rfl, State.wroteS_prim h rfl⟩
  case trig =>
    intro h hown hnone
    have hop : (primTrig o w s).op? o.id = some { o with pc := o.pc + 1 } := by
      rw [primTrig_of_free hown hnone]
      exact State.op?_modOp_self (f := fun x => { x with pc := x.pc + 1 }) (State.op?_of_runs h) fun _ => rfl
    have hleaves := State.wordLeaves_prim h hop (State.pc_of_runs h)
    have hseqs := hleaves.seqs_eq
    have hmem := hleaves.mem_eq
    rw [primTrig_of_free hown hnone] at hseqs hmem
    refine ⟨_, rfl, hleaves.map_eq (fun x => x.pc) fun _ _ _ => rfl, ?_, ?_, hmem⟩
    · rw [hseqs]
      exact Tab.get_set_self _ _ _
    · rw [hseqs]
      exact Tab.get_set_self _ _ _

end Sys2Proof.Machine
end

section
/-! SUPPORT. Products in GF(2^8) and the checks of a scaled tile (R63, R341, R342): a product is linear over XOR, so the checks of a scaled tile are
the scaled checks. -/

namespace Sys2Proof.Machine

/-! ## Products (R63) -/

theorem gfMulAux_succ (n : Nat) (a b : Byte) :
    gfMulAux (n + 1) a b = (if b.getLsbD 0 then a else 0#8) ^^^ gfMulAux n (gfDouble a) (b >>> 1) := rfl

/-- A map of bytes that keeps XOR. -/
def XorLinear (f : Byte → Byte) : Prop := ∀ x y, f (x ^^^ y) = f x ^^^ f y

theorem XorLinear.zero {f : Byte → Byte} (hf : XorLinear f) : f 0#8 = 0#8 := by
  have h := hf 0#8 0#8
  rwa [BitVec.xor_self, BitVec.xor_self] at h

theorem XorLinear.foldr {f : Byte → Byte} (hf : XorLinear f) (l : List Byte) :
    f (l.foldr (· ^^^ ·) 0#8) = (l.map f).foldr (· ^^^ ·) 0#8 := by
  induction l with
  | nil => exact hf.zero
  | cons x l ih => rw [List.foldr_cons, hf, ih, List.map_cons, List.foldr_cons]

/-- The bits of a byte, each in its place. -/
def bitsOf (x : Byte) : List Byte := (List.range 8).map (fun i => if x.getLsbD i then 1#8 <<< i else 0#8)

theorem foldr_bitsOf : ∀ x : Byte, (bitsOf x).foldr (· ^^^ ·) 0#8 = x := by decide

/-- Two such maps that agree on the single bits agree. -/
theorem XorLinear.eq {f g : Byte → Byte} (hf : XorLinear f) (hg : XorLinear g) (h : ∀ i < 8, f (1#8 <<< i) = g (1#8 <<< i)) (x : Byte) :
    f x = g x := by
  have hbits : (bitsOf x).map f = (bitsOf x).map g := by
    refine List.map_congr_left fun y hy => ?_
    obtain ⟨i, hi, rfl⟩ := List.mem_map.mp hy
    split
    · exact h i (List.mem_range.mp hi)
    · rw [hf.zero, hg.zero]
  rw [← foldr_bitsOf x, hf.foldr, hg.foldr, hbits]

theorem ite_xor (b c : Bool) (x : Byte) :
    (if (b ^^ c) then x else 0#8) = (if b then x else 0#8) ^^^ (if c then x else 0#8) := by
  cases b <;> cases c <;> simp

theorem xorLinear_gfMulAux (n : Nat) (a : Byte) : XorLinear (gfMulAux n a) := by
  induction n generalizing a with
  | zero => exact fun _ _ => BitVec.xor_zero.symm
  | succ n ih =>
    intro x y
    rw [gfMulAux_succ, gfMulAux_succ, gfMulAux_succ, BitVec.getLsbD_xor, BitVec.ushiftRight_xor_distrib, ih, ite_xor]
    ac_rfl

theorem xorLinear_gfMulAux_left (n : Nat) (b : Byte) : XorLinear (fun a => gfMulAux n a b) := by
  induction n generalizing b with
  | zero => exact fun _ _ => BitVec.xor_zero.symm
  | succ n ih =>
    intro x y
    have htail := ih (b >>> 1) (gfDouble x) (gfDouble y)
    dsimp only at htail ⊢
    rw [gfMulAux_succ, gfMulAux_succ, gfMulAux_succ, gfDouble_xor, htail]
    cases b.getLsbD 0
    · simp
    · simp only [if_true]
      ac_rfl

theorem xorLinear_gfMul (c : Byte) : XorLinear (gfMul c) := xorLinear_gfMulAux 8 c

/-- A product and a doubling may be taken in either order: they are linear, and agree on the 64 pairs of single bits. -/
theorem gfMul_gfDouble (c x : Byte) : gfMul c (gfDouble x) = gfDouble (gfMul c x) := by
  have hbits : ∀ i < 8, ∀ k < 8, gfMul (1#8 <<< k) (gfDouble (1#8 <<< i)) = gfDouble (gfMul (1#8 <<< k) (1#8 <<< i)) := by decide
  refine XorLinear.eq (f := fun x => gfMul c (gfDouble x)) (g := fun x => gfDouble (gfMul c x)) ?_ ?_ (fun i hi => ?_) x
  · exact fun x y => by dsimp only; rw [gfDouble_xor, xorLinear_gfMul]
  · exact fun x y => by dsimp only; rw [xorLinear_gfMul, gfDouble_xor]
  · refine XorLinear.eq (f := fun c => gfMul c (gfDouble (1#8 <<< i))) (g := fun c => gfDouble (gfMul c (1#8 <<< i)))
      (xorLinear_gfMulAux_left 8 _) (fun x y => ?_) (fun k hk => hbits i hi k hk) c
    have hleft : gfMul (x ^^^ y) (1#8 <<< i) = gfMul x (1#8 <<< i) ^^^ gfMul y (1#8 <<< i) := xorLinear_gfMulAux_left 8 _ x y
    dsimp only
    rw [hleft, gfDouble_xor]

/-! ## Scaled tiles (R64, R341) -/

theorem gfMul_zero (x : Byte) : gfMul 0#8 x = 0#8 := (xorLinear_gfMulAux_left 8 x).zero

theorem gfScale_eq_map (c : Byte) (v : List Byte) : gfScale c v = v.map (gfMul c) := by
  unfold gfScale
  split
  next h => exact List.map_congr_left fun x _ => by rw [h, gfMul_zero]
  next => rfl

theorem gfScale_length (c : Byte) (v : List Byte) : (gfScale c v).length = v.length := by rw [gfScale_eq_map, List.length_map]

theorem slice_gfScale (c : Byte) (v : List Byte) (off n : Nat) : slice (gfScale c v) off n = gfScale c (slice v off n) := by
  have hz : ∀ k, zeros k = (zeros k).map (gfMul c) := fun k => by rw [zeros, List.map_replicate, (xorLinear_gfMul c).zero]
  rw [gfScale_eq_map, gfScale_eq_map, slice, slice, fit, fit, List.map_append, List.map_take, List.map_drop, ← hz, List.length_drop,
    List.length_drop, List.length_map]

/-- The checks of a scaled vector (R342). -/
theorem laneChecks_gfScale (c : Byte) (v : List Byte) : laneChecks (gfScale c v) = (gfMul c (laneChecks v).1, gfMul c (laneChecks v).2) := by
  rw [gfScale_eq_map]
  induction v with
  | nil => exact Prod.ext (xorLinear_gfMul c).zero.symm (xorLinear_gfMul c).zero.symm
  | cons x v ih =>
    have hcons : ∀ (y : Byte) (l : List Byte), laneChecks (y :: l) = (y ^^^ (laneChecks l).1, y ^^^ gfDouble (laneChecks l).2) := fun _ _ => rfl
    rw [List.map_cons, hcons, hcons, ih, xorLinear_gfMul, xorLinear_gfMul, gfMul_gfDouble]

/-- The checks of a scaled tile are its scaled checks (R342). -/
theorem tileChecks_gfScale (c : Byte) (v : List Byte) :
    tileChecks (gfScale c v) = (tileChecks v).map (fun x => (gfMul c x.1, gfMul c x.2)) := by
  unfold tileChecks
  rw [gfScale_length, List.map_map]
  exact List.map_congr_left fun i _ => by rw [slice_gfScale, laneChecks_gfScale, Function.comp_apply]

end Sys2Proof.Machine
end

section
/-! The statement of the lane primitives: O41. Without a fault a lane gives the value of its work (R340 to R342), and with no enabled lane the
operation ends (R343). -/

namespace Sys2Proof.Machine

/-! ## What a lane reads -/

theorem xorBytes_nil (v : List Byte) : xorBytes v [] = v := by cases v <;> rfl

theorem State.modOp_of_same (s : State) (k : Nat) {f : Op → Op} (hf : ∀ o, f o = o) : s.modOp k f = s := by
  have hl : s.ops.map (fun o => if o.id = k then f o else o) = s.ops := by simp [hf]
  exact congrArg (fun l => { s with ops := l }) hl

/-- An operation whose slot k is held as a fault changes it; its checks stay (R343). -/
def Op.upset (f : LaneFault) (k : Nat) (o : Op) : Op :=
  { o with slots := o.slots.upd k (fun x => { x with data := xorBytes x.data f.held }) }

theorem State.upset_eq (s : State) (o : Op) (f : LaneFault) (k : Nat) : s.upset o f k = (o.upset f k, s.modOp o.id (Op.upset f k)) := rfl

/-- Without a fault no slot is held wrong. -/
theorem Op.upset_noFault (k : Nat) (o : Op) : o.upset noFault k = o := by
  have hslot : o.slots.map (fun p => if p.1 = k then (p.1, { p.2 with data := xorBytes p.2.data noFault.held }) else p) = o.slots := by
    conv_rhs => rw [← List.map_id' o.slots]
    refine List.map_congr_left fun p _ => ?_
    split
    · exact Prod.ext rfl (congrArg (fun v => { p.2 with data := v }) (xorBytes_nil p.2.data))
    · rfl
  exact congrArg (fun t => { o with slots := t }) hslot

theorem State.upset_noFault (s : State) (o : Op) (k : Nat) : s.upset o noFault k = (o, s) := by
  rw [State.upset_eq, Op.upset_noFault, s.modOp_of_same o.id (Op.upset_noFault k)]

theorem State.laneIn_of_full {s : State} {o : Op} {k : Nat} {v : List Byte} (h : o.slots.get k = some (Slot.full v)) :
    s.laneIn o k = ((v, tileChecks v), s) := by
  simp only [State.laneIn, h]
  rfl

/-- A read of slots draws at most free values (log entry 2). -/
theorem State.laneIn_changes (s : State) (o : Op) (k : Nat) : ∃ n, (s.laneIn o k).2 = { s with free := n } := by
  unfold State.laneIn
  split
  · split <;> exact ⟨_, rfl⟩
  · exact ⟨_, rfl⟩

theorem State.laneIns_changes (o : Op) (l : List Nat) (s : State) : ∃ n, (s.laneIns o l).2 = { s with free := n } := by
  induction l generalizing s with
  | nil => exact ⟨_, rfl⟩
  | cons k l ih =>
    obtain ⟨n, hn⟩ := s.laneIn_changes o k
    obtain ⟨m, hm⟩ := ih (s.laneIn o k).2
    refine ⟨m, hm.trans ?_⟩
    rw [hn]

/-! ## What a lane gives -/

/-- Sound work on a lane goes on with its value; beside it the sequencers' round robin and the power state change. -/
theorem State.onLane_of_sound {s : State} {j : LaneJob} (hj : j.Sound) (hlanes : s.boot.lanes ≠ 0#32) (o : Op)
    (g : List (List Byte) → State → State) : ∃ q p, s.onLane o noFault j g = g j.value { s with seqs := q, power := p } := by
  obtain ⟨q, p, hwork⟩ := State.laneWork_of_sound hj hlanes
  refine ⟨q, { p with workIn := p.workIn + 64 }, ?_⟩
  rw [State.onLane, hwork]

/-- With no enabled lane the operation of the work ends (R343). -/
theorem State.onLane_of_none {s : State} (hlanes : s.boot.lanes = 0#32) (o : Op) (f : LaneFault) (j : LaneJob)
    (g : List (List Byte) → State → State) : s.onLane o f j g = s.progEnd o stQuarantined := by
  have hnone : s.laneWork f j = (none, s) := by
    have hfind : ((List.range 32).map (fun i => (s.seqs.lane + 1 + i) % 32)).find? (fun l => s.boot.lanes.getLsbD l) = none :=
      List.find?_eq_none.mpr fun l _ => by simp [hlanes]
    simp only [State.laneWork, State.laneRun, hfind]
  rw [State.onLane, hnone]

/-- Work whose inputs carry their checks and which has no output vector is sound (R342). -/
theorem LaneJob.sound_of_no_output (l : List (List Byte)) : LaneJob.Sound ⟨l.map (fun v => (v, tileChecks v)), []⟩ :=
  ⟨by rw [List.map_map, List.map_map]; rfl, rfl⟩

/-- The products of one tile by some coefficients, as work. -/
def scaleJob (a : List Byte) (cs : List Byte) : LaneJob := ⟨[(a, tileChecks a)], cs.map (fun c => [(c, 0)])⟩

section
variable {a : List Byte} (ha : a.length = 4096)
include ha

theorem scaleJob_value (cs : List Byte) : (scaleJob a cs).value = cs.map (fun c => gfScale c a) := by
  have hz : ∀ c, zeros 4096 = zeros (gfScale c a).length := fun c => by rw [gfScale_length, ha]
  rw [LaneJob.value, scaleJob, List.map_map]
  refine List.map_congr_left fun c _ => ?_
  rw [Function.comp_apply, hz c]
  exact zeros_xorBytes (gfScale c a)

theorem scaleJob_sound (cs : List Byte) : (scaleJob a cs).Sound where
  held := rfl
  predicted := by
    have hlen : ∀ c, 64 = (tileChecks (gfScale c a)).length := fun c => by rw [tileChecks_length, gfScale_length, ha]
    rw [scaleJob_value ha, LaneJob.predict, scaleJob, List.map_map, List.map_map]
    refine List.map_congr_left fun c _ => ?_
    rw [Function.comp_apply, Function.comp_apply, hlen c]
    refine Eq.trans ?_ (xorChecks_zero (tileChecks (gfScale c a)))
    exact congrArg (xorChecks _) (tileChecks_gfScale c a).symm
end

/-! ## Slots that take the outputs -/

/-- An operation with some slots FULL. -/
def Op.fillSlots (l : List (Nat × List Byte)) (o : Op) : Op := { o with slots := l.foldl (fun t p => t.set p.1 (Slot.full p.2)) o.slots }

theorem State.foldl_setSlot (id : Nat) (l : List (Nat × List Byte)) (s : State) :
    l.foldl (fun t p => t.setSlot id p.1 p.2) s = s.modOp id (Op.fillSlots l) := by
  induction l generalizing s with
  | nil => exact (s.modOp_of_same id fun _ => rfl).symm
  | cons p l ih => exact (ih _).trans (s.modOp_modOp id _ fun _ => rfl)

theorem get_foldl_set_ne {l : List (Nat × List Byte)} {k : Nat} (h : k ∉ l.map Prod.fst) (t : Tab Slot) :
    (l.foldl (fun t p => t.set p.1 (Slot.full p.2)) t).get k = t.get k := by
  induction l generalizing t with
  | nil => rfl
  | cons p l ih =>
    rw [List.map_cons, List.mem_cons, not_or] at h
    rw [List.foldl_cons, ih h.2, Tab.get_set_ne _ _ _ _ h.1]

/-- Each of different slots holds what is put there. -/
theorem get_foldl_set {l : List (Nat × List Byte)} (hl : (l.map Prod.fst).Nodup) {k : Nat} {v : List Byte} (h : (k, v) ∈ l) (t : Tab Slot) :
    (l.foldl (fun t p => t.set p.1 (Slot.full p.2)) t).get k = some (Slot.full v) := by
  induction l generalizing t with
  | nil => cases h
  | cons p l ih =>
    rw [List.map_cons, List.nodup_cons] at hl
    rw [List.foldl_cons]
    rcases List.mem_cons.mp h with rfl | h
    · rw [get_foldl_set_ne hl.1, Tab.get_set_self]
    · exact ih hl.2 h _

/-- An operation that goes on with some slots FULL. -/
def Op.filled (l : List (Nat × List Byte)) (o : Op) : Op := { o.fillSlots l with pc := o.pc + 1 }

/-- An operation that goes on with v in Sc. -/
def Op.wrote (c v : Nat) (o : Op) : Op := { o.setSreg c (BitVec.ofNat 64 v) with pc := o.pc + 1 }

theorem Op.sreg_wrote (c v : Nat) (o : Op) : (o.wrote c v).sreg c = BitVec.ofNat 64 v := by
  show (o.setSreg c (BitVec.ofNat 64 v)).sreg c = _
  rw [Op.sreg_setSreg, if_pos rfl]

/-- The slots that a GFMUL of n rows fills from slot k on. -/
def scaled (k n coefs : Nat) (a : List Byte) : List (Nat × List Byte) :=
  ((List.range n).map (fun r => k + r)).zip ((leBytes n coefs).map (fun c => gfScale c a))

theorem leBytes_get (n v : Nat) {i : Nat} (hi : i < n) : (leBytes n v)[i]? = some (BitVec.ofNat 8 (v / 256 ^ i)) := by
  induction n generalizing v i with
  | zero => cases hi
  | succ n ih =>
    cases i with
    | zero => simp [leBytes]
    | succ i => rw [leBytes, List.getElem?_cons_succ, ih _ (Nat.lt_of_succ_lt_succ hi), Nat.div_div_eq_div_mul, pow_succ, Nat.mul_comm]

theorem mem_scaled (k coefs : Nat) (a : List Byte) {n r : Nat} (hr : r < n) :
    (k + r, gfScale (BitVec.ofNat 8 (coefs / 256 ^ r)) a) ∈ scaled k n coefs a := by
  refine List.mem_iff_getElem?.mpr ⟨r, ?_⟩
  rw [scaled, List.getElem?_zip_eq_some]
  constructor
  · rw [List.getElem?_map, List.getElem?_range hr, Option.map_some]
  · rw [List.getElem?_map, leBytes_get n coefs hr, Option.map_some]

theorem keys_scaled_nodup (k n coefs : Nat) (a : List Byte) : ((scaled k n coefs a).map Prod.fst).Nodup := by
  rw [scaled, List.map_fst_zip (by simp [leBytes_length])]
  exact List.nodup_range.map fun _ _ h => Nat.add_left_cancel h

/-! ## The primitives without a fault -/

section
variable {s : State} {o : Op} {w : Nat} {a b : List Byte} (hlanes : s.boot.lanes ≠ 0#32)
  (hslotA : o.slots.get (o.slotA w) = some (Slot.full a))
include hlanes hslotA

theorem primGfmul_of_full (hopc : uwOpc w = 0x30) (hsrc : uwCsrc w = 0) (hacc : uwAcc w = false) (ha : a.length = 4096) :
    ∃ q p, primGfmul noFault o w s =
      State.modOp { s with seqs := q, power := p } o.id (Op.filled (scaled (o.slotC w) (uwRows w) (uwImm2 w) a)) := by
  have hterms : (leBytes (uwRows w) (uwImm2 w)).zipIdx.map (fun p : Byte × Nat => [(p.1, 0)]) =
      (leBytes (uwRows w) (uwImm2 w)).map (fun c => [(c, 0)]) := by
    conv_rhs => rw [← List.zipIdx_map_fst 0 (leBytes (uwRows w) (uwImm2 w)), List.map_map]
    rfl
  have hout : o.slotsWritten w = (List.range (uwRows w)).map (fun r => o.slotC w + r) := by simp [Op.slotsWritten, hopc]
  obtain ⟨q, p, hlane⟩ := State.onLane_of_sound (scaleJob_sound ha (leBytes (uwRows w) (uwImm2 w))) hlanes o
    (fun v t => (((o.slotsWritten w).zip v).foldl (fun t p => t.setSlot o.id p.1 p.2) t).advance o.id)
  refine ⟨q, p, ?_⟩
  rw [scaleJob_value ha, State.foldl_setSlot, hout] at hlane
  simp only [primGfmul, State.upset_noFault, State.gfCoefs, hsrc, if_true, State.laneIn_of_full hslotA, hacc, Bool.false_eq_true, if_false,
    hterms, hout]
  exact hlane.trans (State.modOp_modOp _ _ _ fun _ => rfl)

theorem primXort_of_full (hslotB : o.slots.get (uwFb w) = some (Slot.full b)) (ha : a.length = 4096) (hb : b.length = 4096) :
    ∃ q p, primXort noFault o w s = State.modOp { s with seqs := q, power := p } o.id (Op.filled [(o.slotC w, xorBytes a b)]) := by
  obtain ⟨q, p, hlane⟩ := State.onLane_of_sound (applyJob_sound ha hb) hlanes o
    (fun v t => (t.setSlot o.id (o.slotC w) (v.headD [])).advance o.id)
  refine ⟨q, p, ?_⟩
  rw [applyJob_value ha, applyJob_eq ha] at hlane
  simp only [primXort, State.upset_noFault, State.laneIns, State.laneIn_of_full hslotA, State.laneIn_of_full hslotB]
  exact hlane.trans (State.modOp_modOp _ _ _ fun _ => rfl)

theorem primCrc_of_full :
    ∃ q p, primCrc noFault o w s = State.modOp { s with seqs := q, power := p } o.id (Op.wrote (uwFc w) (crc64 a).toNat) := by
  obtain ⟨q, p, hlane⟩ := State.onLane_of_sound (LaneJob.sound_of_no_output [a]) hlanes o (fun _ t => t.setS o.id (uwFc w) (crc64 a).toNat)
  refine ⟨q, p, ?_⟩
  simp only [primCrc, State.upset_noFault, State.laneIn_of_full hslotA]
  exact hlane

theorem primCmpt_of_full (hslotB : o.slots.get (uwFb w) = some (Slot.full b)) :
    ∃ q p, primCmpt noFault o w s = State.modOp { s with seqs := q, power := p } o.id (Op.wrote (uwFc w) (bit (a == b))) := by
  obtain ⟨q, p, hlane⟩ := State.onLane_of_sound (LaneJob.sound_of_no_output [a, b]) hlanes o (fun _ t => t.setS o.id (uwFc w) (bit (a == b)))
  refine ⟨q, p, ?_⟩
  simp only [primCmpt, State.upset_noFault, State.laneIn_of_full hslotA, State.laneIn_of_full hslotB]
  exact hlane
end

/-- A lane's word leaves memory and the lanes, and its operation as it changes it. -/
theorem State.wordLeaves_lane {s : State} {q w opc : Nat} {o : Op} {f : Prim} {g : Op → Op} (h : s.runs q o w opc)
    (hf : ∃ x p, f o w s = State.modOp { s with seqs := x, power := p } o.id g) (hg : ∀ x, (g x).id = x.id) (hpc : (g o).pc = o.pc + 1) :
    (s.prim q opc f).mem = s.mem ∧ (s.prim q opc f).boot = s.boot ∧
      ∀ {α : Type} (k : Op → α), (∀ (x : Op) (a b : Nat), k (x.synced a b) = k x) → ((s.prim q opc f).op? o.id).map k = some (k (g o)) := by
  obtain ⟨x, p, hact⟩ := hf
  have ho := State.op?_of_runs h
  have hop : (f o w s).op? o.id = some (g o) := by
    rw [hact]
    exact State.op?_modOp_self (s := { s with seqs := x, power := p }) ho hg
  have hleaves := State.wordLeaves_prim h hop (hpc ▸ State.pc_of_runs h)
  refine ⟨?_, ?_, fun k hk => hleaves.map_eq k hk⟩
  · rw [hleaves.mem_eq, hact, State.modOp_mem]
  · rw [hleaves.boot_eq, hact, State.modOp_boot]

/-! ## No enabled lane (R343) -/

/-- XORT without an enabled lane ends its operation, and beside that end changes nothing in memory. -/
theorem primXort_of_none {s : State} {o : Op} {w : Nat} (hlanes : s.boot.lanes = 0#32) (ho : s.op? o.id = some o) (f : LaneFault) :
    ∃ u : State, primXort f o w s = u.settle ∧ u.finished o.id stQuarantined = true ∧ (s.auditRoom → u.mem = s.mem) := by
  obtain ⟨n, hins⟩ := State.laneIns_changes (o.upset f (o.slotA w)) [o.slotA w, uwFb w] (s.modOp o.id (Op.upset f (o.slotA w)))
  generalize hu : ((s.modOp o.id (Op.upset f (o.slotA w))).laneIns (o.upset f (o.slotA w)) [o.slotA w, uwFb w]).2 = u at hins
  have hact : primXort f o w s = (u.progFinal (o.upset f (o.slotA w)) stQuarantined).settle := by
    simp only [primXort, State.upset_eq, hu]
    rw [State.onLane_of_none (by rw [hins]; exact hlanes), State.progEnd_eq]
  refine ⟨_, hact, State.finished_progFinal u (o.upset f (o.slotA w)) stQuarantined, fun hroom => ?_⟩
  have hop : u.op? o.id = some (o.upset f (o.slotA w)) := by
    rw [hins]
    exact State.op?_modOp_self (s := s) (f := Op.upset f (o.slotA w)) ho fun _ => rfl
  have hmem : u.mem = s.mem := by rw [hins]; rfl
  refine (State.finish_mem (State.op?_mem hop) ?_ _ _ _ _).trans hmem
  rw [State.auditRoom_iff, hins]
  rw [State.auditRoom_iff, ← changes_modOp s o.id (f := Op.upset f (o.slotA w)) fun _ => rfl] at hroom
  exact hroom

/-- Settles O41: without a fault each primitive is work on a lane that gives its value, the checks are linear, and without a lane XORT ends its
operation. -/
theorem lanePrimitivesCompute : Obligations.LanePrimitivesCompute := by
  unfold Obligations.LanePrimitivesCompute
  refine ⟨fun s q w o hlanes => ⟨?gfmul, ?xort, ?crc, ?cmpt⟩, ?checks, ?none⟩
  case gfmul =>
    intro a r h hsrc hacc hslot ha hr
    obtain ⟨-, -, hopc, -⟩ := id h
    obtain ⟨hmem, hboot, hop⟩ := State.wordLeaves_lane h (primGfmul_of_full hlanes hslot hopc hsrc hacc ha) (fun _ => rfl) rfl
    refine ⟨_, rfl, hmem, hboot, (hop (fun x => (x.pc, x.slots.get (o.slotC w + r))) fun _ _ _ => rfl).trans ?_⟩
    have hget := get_foldl_set (keys_scaled_nodup (o.slotC w) (uwRows w) (uwImm2 w) a) (mem_scaled (o.slotC w) (uwImm2 w) a hr) o.slots
    exact congrArg (fun x => some (o.pc + 1, x)) hget
  case xort =>
    intro a b h hslotA hslotB ha hb
    obtain ⟨hmem, hboot, hop⟩ := State.wordLeaves_lane h (primXort_of_full hlanes hslotA hslotB ha hb) (fun _ => rfl) rfl
    refine ⟨_, rfl, hmem, hboot, (hop (fun x => (x.pc, x.slots.get (o.slotC w), x.regs)) fun _ _ _ => rfl).trans ?_⟩
    exact congrArg (fun x => some (o.pc + 1, x, o.regs)) (Tab.get_set_self _ _ _)
  case crc =>
    intro a h hslot
    obtain ⟨hmem, hboot, hop⟩ := State.wordLeaves_lane h (primCrc_of_full hlanes hslot) (fun _ => rfl) rfl
    refine ⟨_, rfl, hmem, hboot, (hop (fun x => (x.pc, x.sreg (uwFc w), x.slots)) fun _ _ _ => rfl).trans ?_⟩
    simp only [Op.sreg_wrote, BitVec.ofNat_toNat, BitVec.setWidth_eq]
    rfl
  case cmpt =>
    intro a b h hslotA hslotB
    obtain ⟨hmem, hboot, hop⟩ := State.wordLeaves_lane h (primCmpt_of_full hlanes hslotA hslotB) (fun _ => rfl) rfl
    refine ⟨_, rfl, hmem, hboot, (hop (fun x => (x.pc, x.sreg (uwFc w), x.slots)) fun _ _ _ => rfl).trans ?_⟩
    simp only [Op.sreg_wrote, bit, beq_iff_eq]
    split <;> rfl
  case checks => exact fun c a b ha hb => ⟨tileChecks_gfScale c a, tileChecks_xorBytes (ha.trans hb.symm)⟩
  case none =>
    intro s q w o f hlanes h
    obtain ⟨u, hact, hend⟩ := primXort_of_none hlanes (State.op?_of_runs h) f
    have hprim := State.prim_runs (primXort f) h
    rw [hact] at hprim
    exact ⟨u, congrArg Host.Outcome.next hprim, hend⟩

end Sys2Proof.Machine
end

section
/-! SUPPORT. What the transfers of a program leave as they are issued, refused and ended (R336): the outstanding ones, the issues of the port, the
bytes written in the own stack, and the operation. -/

namespace Sys2Proof.Machine

/-! ## Issue -/

/-- An outstanding transfer changes the port alone: it stands last of the outstanding ones, and nothing is issued with it. -/
theorem State.addXfer_changes (s : State) (x : Xfer) :
    ∃ p : Port, s.addXfer x = { s with port := p } ∧ p.xfers = s.port.xfers ++ [x] ∧ p.tx = s.port.tx := by
  unfold State.addXfer
  dsimp only
  split
  · exact ⟨_, rfl, rfl, rfl⟩
  · exact ⟨_, rfl, rfl, rfl⟩

/-- A transfer is outstanding, what goes out for it is issued, and its operation goes on as `g` changes it. -/
def State.issued (s : State) (x : Xfer) (l : List Tx) (g : Op → Op) : State :=
  State.modOp { s.addXfer x with port := { (s.addXfer x).port with tx := (s.addXfer x).port.tx ++ l } } x.op g

theorem State.issued_does {s : State} {x : Xfer} {o : Op} {g : Op → Op} (l : List Tx) (ho : s.op? x.op = some o) (hg : ∀ o, (g o).id = o.id) :
    (s.issued x l g).port.xfers = s.port.xfers ++ [x] ∧ (s.issued x l g).port.tx = s.port.tx ++ l ∧ (s.issued x l g).mem = s.mem ∧
      (s.issued x l g).op? x.op = some (g o) := by
  obtain ⟨p, hadd, hxfers, htx⟩ := s.addXfer_changes x
  unfold State.issued
  rw [hadd]
  exact ⟨hxfers, congrArg (· ++ l) htx, rfl, State.op?_modOp_self (s := { s with port := { p with tx := p.tx ++ l } }) ho hg⟩

/-- The operation that goes on to its next word. -/
def Op.next (o : Op) : Op := { o with pc := o.pc + 1 }

section
variable {s : State} {o : Op} {kind : XferKind} {a n cls : Nat} (go : Xfer → State → State)

theorem State.issueXfer_of_ok (hst : s.xferStatus o a n = 0) (hcredit : s.creditOk (s.level a) cls (s.xferCredits a n) = true) :
    s.issueXfer o kind a n cls go = go (s.newXfer o kind a cls) s := by
  simp [State.issueXfer, hst, hcredit]

theorem State.issueXfer_of_refused (hst : s.xferStatus o a n ≠ 0) :
    s.issueXfer o kind a n cls go = (s.endXfer (s.newXfer o kind a cls) (s.xferStatus o a n) []).advance o.id := by
  simp [State.issueXfer, hst]
end

/-! ## Writes -/

/-- The agent and the operation under which the tap has the write of a program's transfer (R336). -/
def Op.tapAgent (o : Op) (x : Xfer) : Nat := if o.user = true then x.tapAgent else engineAgent
def Op.tapOp (o : Op) : Option Nat := if o.user = true then none else some o.id

/-- A write of a program in the own stack, before what it lets go on. -/
def State.storedLocal (s : State) (o : Op) (x : Xfer) (v : List Byte) : State :=
  ((s.addXfer x).putWrite (o.tapAgent x) o.tapOp (gOff x.addr) (v.map some)).advance o.id

section
variable {s : State} {o : Op} {x : Xfer}

theorem State.storeXfer_of_own (hown : s.own x.addr = true) (v : List Byte) : s.storeXfer o x v = (s.storedLocal o x v).settle := by
  unfold State.storeXfer State.storeLocal State.storedLocal Op.tapAgent Op.tapOp
  rw [if_pos hown]
  split <;> rfl

theorem State.storeXfer_of_remote (hown : s.own x.addr = false) (hcls : x.cls ≠ 0) (hop : x.op = o.id) (v : List Byte) :
    s.storeXfer o x v = s.issued x [.write x.addr v x.cls (s.xferRoute x)] Op.next := by
  simp only [State.storeXfer, hown, Bool.false_eq_true, if_false, hcls, decide_false, Bool.false_and, State.issued, hop]
  rfl

/-- A write in the own stack is outstanding, and is performed or stands at the tap's input (R14). -/
theorem State.storedLocal_does (ho : s.op? o.id = some o) (v : List Byte) :
    (s.storedLocal o x v).port.xfers = s.port.xfers ++ [x] ∧ (s.storedLocal o x v).op? o.id = some o.next ∧
      s.putDone (s.storedLocal o x v) (o.tapAgent x) o.tapOp (gOff x.addr) v := by
  obtain ⟨p, hadd, hxfers, -⟩ := s.addXfer_changes x
  unfold State.storedLocal
  rw [hadd]
  have hput := State.putDone_putWrite { s with port := p } (o.tapAgent x) o.tapOp (gOff x.addr) v
  refine ⟨?_, ?_, hput.congr rfl rfl⟩
  · rw [State.advance, State.modOp_port, State.putWrite_port]
    exact hxfers
  · refine State.op?_modOp_self (f := Op.next) ?_ fun _ => rfl
    rw [State.op?, State.putWrite_ops]
    exact ho
end

/-! ## Ends -/

/-- What the end of a transfer leaves with its operation: the first bad status, and its slot or register (R336, log entry 94). -/
def Op.xferEnded (x : Xfer) (st : Nat) (v : List Byte) (o : Op) : Op :=
  let o1 := if st = stOk || o.n nkFirstBad != 0 then o else o.keep nkFirstBad st
  match x.kind with
  | .loadTile k => { o1 with slots := o1.slots.set k (if st = stOk then Slot.full (fit 4096 v) else Slot.failed st) }
  | .load64 r => if st = stOk then o1.setSreg r (BitVec.ofNat 64 (leNat (fit 8 v))) else o1
  | _ => o1

theorem State.endXfer_eq (s : State) (x : Xfer) (st : Nat) (v : List Byte) :
    s.endXfer x st v = (s.dropXfer x.id).modOp x.op (Op.xferEnded x st v) := rfl

theorem Op.xferEnded_keeps (x : Xfer) (st : Nat) (v : List Byte) (o : Op) :
    (o.xferEnded x st v).id = o.id ∧ (o.xferEnded x st v).pc = o.pc := by
  unfold Op.xferEnded
  cases x.kind <;> dsimp only <;> repeat' split
  all_goals exact ⟨rfl, rfl⟩

theorem State.op?_endXfer {s : State} {x : Xfer} {o : Op} (ho : s.op? x.op = some o) (st : Nat) (v : List Byte) :
    (s.endXfer x st v).op? x.op = some (o.xferEnded x st v) := by
  have hdrop : (s.dropXfer x.id).op? x.op = some o := ho
  rw [State.endXfer_eq]
  exact State.op?_modOp_self hdrop fun o => (o.xferEnded_keeps x st v).1

theorem Op.slot_xferEnded {x : Xfer} {k : Nat} (hk : x.kind = .loadTile k) (st : Nat) (v : List Byte) (o : Op) :
    (o.xferEnded x st v).slots.get k = some (if st = stOk then Slot.full (fit 4096 v) else Slot.failed st) := by
  simp only [Op.xferEnded, hk]
  exact Tab.get_set_self _ _ _

theorem Op.sreg_xferEnded {x : Xfer} {r : Nat} (hk : x.kind = .load64 r) (v : List Byte) (o : Op) :
    (o.xferEnded x stOk v).sreg r = BitVec.ofNat 64 (leNat (fit 8 v)) := by
  simp only [Op.xferEnded, hk, if_true]
  rw [Op.sreg_setSreg, if_pos rfl]

end Sys2Proof.Machine
end

section
/-! The statement of the transfer primitives: O40. Each is one issue, one write in the own stack, or, refused, the end of its transfer. -/

namespace Sys2Proof.Machine

/-! ## Words that issue -/

/-- A word whose primitive issues a transfer leaves it outstanding, what goes out, memory, and its operation as it changes it. -/
theorem State.prim_of_issued {s : State} {q w opc : Nat} {o : Op} {f : Prim} {x : Xfer} {l : List Tx} {g : Op → Op} (h : s.runs q o w opc)
    (hf : f o w s = s.issued x l g) (hop : x.op = o.id) (hg : ∀ o, (g o).id = o.id) (hpc : (g o).pc = o.pc + 1) :
    (s.prim q opc f).port.xfers = s.port.xfers ++ [x] ∧ (s.prim q opc f).port.tx = s.port.tx ++ l ∧ (s.prim q opc f).mem = s.mem ∧
      ∀ {α : Type} (k : Op → α), (∀ (x : Op) (a b : Nat), k (x.synced a b) = k x) → ((s.prim q opc f).op? o.id).map k = some (k (g o)) := by
  have ho := State.op?_of_runs h
  rw [← hop] at ho
  obtain ⟨hxfers, htx, hmem, hown⟩ := State.issued_does l ho hg
  rw [hop, ← hf] at hown
  have hleaves := State.wordLeaves_prim h hown (hpc ▸ State.pc_of_runs h)
  refine ⟨?_, ?_, ?_, fun k hk => hleaves.map_eq k hk⟩
  · rw [hleaves.port_eq, hf, hxfers]
  · rw [hleaves.port_eq, hf, htx]
  · rw [hleaves.mem_eq, hf, hmem]

/-- The operation after an LDT that is issued: slot k is LOADING. -/
def Op.loads (k : Nat) (o : Op) : Op := { o with slots := o.slots.set k Slot.loading, pc := o.pc + 1 }

section
variable {s : State} {o : Op} {w : Nat}

/-- What a load sends: nothing for an own address, else a read. -/
def State.readIssue (s : State) (x : Xfer) (n : Nat) : List Tx :=
  if s.own x.addr = true then [] else [.read x.addr n x.cls (s.xferRoute x)]

/-- A load as its primitive issues it: the operation goes on, and a read goes out for an address elsewhere. -/
theorem State.issued_of_load (s : State) (x : Xfer) (n : Nat) (g : Op → Op) :
    (if s.own x.addr then (s.addXfer x).modOp x.op g else ((s.addXfer x).modOp x.op g).send (.read x.addr n x.cls (s.xferRoute x))) =
      s.issued x (s.readIssue x n) g := by
  unfold State.readIssue State.issued
  split
  · rw [List.append_nil]
  · rfl

theorem primLdt_of_ok (hst : s.xferStatus o (o.s (uwFb w)) 4096 = 0)
    (hcredit : s.creditOk (s.level (o.s (uwFb w))) (uwCls w) (s.xferCredits (o.s (uwFb w)) 4096) = true) :
    primLdt o w s = s.issued (s.newXfer o (.loadTile (o.slotA w)) (o.s (uwFb w)) (uwCls w))
      (s.readIssue (s.newXfer o (.loadTile (o.slotA w)) (o.s (uwFb w)) (uwCls w)) 4096) (Op.loads (o.slotA w)) := by
  refine Eq.trans ?_ (s.issued_of_load _ _ _)
  simp only [primLdt]
  exact State.issueXfer_of_ok _ hst hcredit

theorem primLd64_of_ok (hst : s.xferStatus o (o.s (uwFa w)) 8 = 0)
    (hcredit : s.creditOk (s.level (o.s (uwFa w))) (uwCls w) (s.xferCredits (o.s (uwFa w)) 8) = true) :
    primLd64 o w s = s.issued (s.newXfer o (.load64 (uwFc w)) (o.s (uwFa w)) (uwCls w))
      (s.readIssue (s.newXfer o (.load64 (uwFc w)) (o.s (uwFa w)) (uwCls w)) 8) Op.next := by
  refine Eq.trans ?_ (s.issued_of_load _ _ _)
  exact State.issueXfer_of_ok _ hst hcredit

/-- An STT with its slot FULL and a credit writes the slot's bytes. -/
theorem primStt_of_ok {x : Slot} (hslot : o.slots.get (o.slotA w) = some x) (hfull : x.st = .full)
    (hst : s.xferStatus o (o.s (uwFb w)) 4096 = 0)
    (hcredit : s.creditOk (s.level (o.s (uwFb w))) (uwCls w) (s.xferCredits (o.s (uwFb w)) 4096) = true) :
    primStt o w s = s.storeXfer o (s.newXfer o (.storeTile (o.slotA w) x.data) (o.s (uwFb w)) (uwCls w)) x.data := by
  have hdata : s.slotData o (o.slotA w) = (x.data, s) := by simp only [State.slotData, hslot, hfull, if_true]
  simp only [primStt, hdata]
  exact State.issueXfer_of_ok _ hst hcredit

theorem primSt64_of_ok (hst : s.xferStatus o (o.s (uwFa w)) 8 = 0)
    (hcredit : s.creditOk (s.level (o.s (uwFa w))) (uwCls w) (s.xferCredits (o.s (uwFa w)) 8) = true) :
    primSt64 o w s = s.storeXfer o (s.newXfer o (.store64 (o.sreg (uwFb w))) (o.s (uwFa w)) (uwCls w)) (leBytes 8 (o.s (uwFb w))) :=
  State.issueXfer_of_ok _ hst hcredit

/-- A reduction as a transfer: it has 10 ms to be acknowledged (R336). -/
def State.reduction (s : State) (o : Op) (w : Nat) : Xfer :=
  { s.newXfer o (.reduce (bitAt (uwImm w) 0) (o.sreg (uwFb w))) (o.s (uwFa w)) (uwCls w) with due := s.now + 1000000 }

/-- What a RED makes of the word that stands in the own stack once the writes before it are performed. -/
def State.reducedWord (s : State) (o : Op) (w : Nat) : Nat :=
  if bitAt (uwImm w) 0 = true then Nat.max (leNat (s.pendingRead (gOff (o.s (uwFa w))) 8)) (o.s (uwFb w))
  else leNat (s.pendingRead (gOff (o.s (uwFa w))) 8) + o.s (uwFb w)

theorem primRed_of_ok (hst : s.xferStatus o (o.s (uwFa w)) 8 = 0)
    (hcredit : s.creditOk (s.level (o.s (uwFa w))) (uwCls w) (s.xferCredits (o.s (uwFa w)) 8) = true) :
    (s.own (o.s (uwFa w)) = true → primRed o w s = s.storeXfer o (s.reduction o w) (leBytes 8 (s.reducedWord o w))) ∧
    (s.own (o.s (uwFa w)) = false → primRed o w s = s.issued (s.reduction o w)
      [.reduce (o.s (uwFa w)) (bitAt (uwImm w) 0) (o.s (uwFb w)) (uwCls w) (s.xferRoute (s.reduction o w))] Op.next) := by
  have hissue : primRed o w s = if s.own (s.reduction o w).addr = true then s.storeXfer o (s.reduction o w) (leBytes 8 (s.reducedWord o w))
      else s.issued (s.reduction o w)
        [.reduce (o.s (uwFa w)) (bitAt (uwImm w) 0) (o.s (uwFb w)) (uwCls w) (s.xferRoute (s.reduction o w))] Op.next := by
    simp only [primRed]
    exact State.issueXfer_of_ok _ hst hcredit
  exact ⟨fun hown => hissue.trans (if_pos hown), fun hown => hissue.trans (if_neg (ne_true_of_eq_false hown))⟩

/-- An LDT that is refused sends nothing, leaves its slot in ERROR, and goes on. -/
theorem primLdt_of_refused (ho : s.op? o.id = some o) (hst : s.xferStatus o (o.s (uwFb w)) 4096 ≠ stOk) :
    ∃ x, (primLdt o w s).op? o.id = some x ∧ x.pc = o.pc + 1 ∧
      x.slots.get (o.slotA w) = some (Slot.failed (s.xferStatus o (o.s (uwFb w)) 4096)) ∧
      (primLdt o w s).port.tx = s.port.tx ∧ (primLdt o w s).mem = s.mem := by
  have hact : primLdt o w s = (s.endXfer (s.newXfer o (.loadTile (o.slotA w)) (o.s (uwFb w)) (uwCls w))
      (s.xferStatus o (o.s (uwFb w)) 4096) []).advance o.id := by
    simp only [primLdt]
    exact State.issueXfer_of_refused _ hst
  have hslot := o.slot_xferEnded (x := s.newXfer o (.loadTile (o.slotA w)) (o.s (uwFb w)) (uwCls w)) rfl (s.xferStatus o (o.s (uwFb w)) 4096) []
  rw [if_neg hst] at hslot
  have hend := State.op?_endXfer (x := s.newXfer o (.loadTile (o.slotA w)) (o.s (uwFb w)) (uwCls w)) ho (s.xferStatus o (o.s (uwFb w)) 4096) []
  rw [hact]
  exact ⟨_, State.op?_modOp_self (f := Op.next) hend fun _ => rfl, congrArg (· + 1) (o.xferEnded_keeps _ _ _).2, hslot, rfl, rfl⟩
end

/-! ## Words that write in the own stack -/

/-- A word whose primitive writes in the own stack leaves the write outstanding, and performed or at the tap's input (R14). -/
theorem State.prim_of_own_store {s : State} {q w opc : Nat} {o : Op} {f : Prim} {x : Xfer} {v : List Byte} (h : s.runs q o w opc)
    (hf : f o w s = s.storeXfer o x v) (hown : s.own x.addr = true) :
    ∃ u : State, s.prim q opc f = u.settle.afterWord s o.id w ∧ u.port.xfers = s.port.xfers ++ [x] ∧
      s.putDone u (o.tapAgent x) o.tapOp (gOff x.addr) v ∧ (u.op? o.id).map (fun y => y.pc) = some (o.pc + 1) := by
  obtain ⟨hxfers, hop, hput⟩ := State.storedLocal_does (x := x) (State.op?_of_runs h) v
  refine ⟨s.storedLocal o x v, ?_, hxfers, hput, by rw [hop]; rfl⟩
  rw [State.prim_runs f h, hf, State.storeXfer_of_own hown]

/-- Settles O40: a transfer elsewhere is one issue, one in the own stack goes through the tap, and a refused load ends at its issue. -/
theorem transferPrimitivesIssue : Obligations.TransferPrimitivesIssue := by
  unfold Obligations.TransferPrimitivesIssue
  refine ⟨?ldt, ?ld64, ?stt, ?st64, ?red, ?refused, ?sttOwn, ?st64Own, ?redOwn⟩
  case ldt =>
    intro s q w o h hst hcredit
    obtain ⟨hxfers, htx, hmem, hop⟩ := State.prim_of_issued h (primLdt_of_ok hst hcredit) rfl (fun _ => rfl) rfl
    refine ⟨_, rfl, hxfers, htx, (hop (fun x => (x.pc, x.slots.get (o.slotA w))) fun _ _ _ => rfl).trans ?_, hmem⟩
    rw [Op.loads, Tab.get_set_self]
  case ld64 =>
    intro s q w o h hst hcredit
    obtain ⟨hxfers, -, hmem, hop⟩ := State.prim_of_issued h (primLd64_of_ok hst hcredit) rfl (fun _ => rfl) rfl
    exact ⟨_, rfl, hxfers, hop (fun x => (x.pc, x.regs)) fun _ _ _ => rfl, hmem⟩
  case stt =>
    intro s q w o x h hslot hfull hown hcls hst hcredit
    have hissue := (primStt_of_ok hslot hfull hst hcredit).trans (State.storeXfer_of_remote hown hcls rfl x.data)
    obtain ⟨hxfers, htx, hmem, hop⟩ := State.prim_of_issued h hissue rfl (fun _ => rfl) rfl
    exact ⟨_, rfl, hxfers, htx, hop (fun x => x.pc) fun _ _ _ => rfl, hmem⟩
  case st64 =>
    intro s q w o h hown hcls hst hcredit
    have hissue := (primSt64_of_ok hst hcredit).trans (State.storeXfer_of_remote hown hcls rfl _)
    obtain ⟨hxfers, -, hmem, hop⟩ := State.prim_of_issued h hissue rfl (fun _ => rfl) rfl
    exact ⟨_, rfl, hxfers, hop (fun x => x.pc) fun _ _ _ => rfl, hmem⟩
  case red =>
    intro s q w o h hown hst hcredit
    obtain ⟨hxfers, -, hmem, hop⟩ := State.prim_of_issued h ((primRed_of_ok hst hcredit).2 hown) rfl (fun _ => rfl) rfl
    exact ⟨_, rfl, hxfers, hop (fun x => x.pc) fun _ _ _ => rfl, hmem⟩
  case refused =>
    intro s q w o h hst
    obtain ⟨x, hop, hpc, hslot, htx, hmem⟩ := primLdt_of_refused (State.op?_of_runs h) hst
    have hleaves := State.wordLeaves_prim h hop (hpc ▸ State.pc_of_runs h)
    refine ⟨_, rfl, (congrArg Port.tx hleaves.port_eq).trans htx,
      (hleaves.map_eq (fun x => (x.pc, x.slots.get (o.slotA w))) fun _ _ _ => rfl).trans ?_, hleaves.mem_eq.trans hmem⟩
    rw [hpc, hslot]
  case sttOwn =>
    intro s q w o x h hslot hfull hown hst hcredit
    obtain ⟨u, hprim, hdone⟩ := State.prim_of_own_store h (primStt_of_ok hslot hfull hst hcredit) hown
    exact ⟨u, congrArg Host.Outcome.next hprim, hdone⟩
  case st64Own =>
    intro s q w o h hown hst hcredit
    obtain ⟨u, hprim, -, hdone⟩ := State.prim_of_own_store h (primSt64_of_ok hst hcredit) hown
    exact ⟨u, congrArg Host.Outcome.next hprim, hdone⟩
  case redOwn =>
    intro s q w o h hown hst hcredit
    obtain ⟨u, hprim, -, hdone⟩ := State.prim_of_own_store h ((primRed_of_ok hst hcredit).1 hown) hown
    exact ⟨u, congrArg Host.Outcome.next hprim, hdone⟩

end Sys2Proof.Machine
end

section
/-! The statement of user entries and of the ends of transfers: O43. A word of a user entry and its faults (R332, R338), the answers to transfers,
their later tries and their limits (R144, R336). -/

namespace Sys2Proof.Machine

/-! ## User entries (R329, R338) -/

section
variable {s : State} {op q w : Nat} {o : Op} (hid : o.id = op) (huser : o.user = true)
  (hseq : s.seqs.q.find? (fun p => p.2 == op) = some (q, op)) (hq : s.primOp q = some o) (hw : s.codeWord o = some w)
include hid huser hseq hq hw

/-- One word of a user entry is the word of its primitive's command. -/
theorem execUserEntry_of_word {f : Prim} (hf : userPrim (uwOpc w) = some f) :
    exec (.userEntry op 1) s = .next (s.prim q (uwOpc w) f) := by
  have ho : s.op? op = some o := hid ▸ State.op?_of_primOp hq
  show execUserEntry op 1 s = _
  simp [execUserEntry, ho, huser, State.runUser, hseq, hq, hw, hf, State.prim]

theorem execUserEntry_of_refused (hf : userPrim (uwOpc w) = none) : exec (.userEntry op 1) s = .next (s.progFault o) := by
  have ho : s.op? op = some o := hid ▸ State.op?_of_primOp hq
  show execUserEntry op 1 s = _
  simp [execUserEntry, ho, huser, State.runUser, hseq, hq, hw, hf]
end

/-- A program that ends with CHECK_FAIL and the microcode-fault event, counted in a counter. -/
def State.faulted (s : State) (o : Op) (off : Nat) : State :=
  ((s.bump off).event 82 (infoC o.opTag stCheckFail)).progFinal o stCheckFail

theorem State.keepsRaised_progFinal (s : State) (o : Op) (st : Nat) : s.KeepsRaised (s.progFinal o st) :=
  List.foldlRecOn (motive := s.KeepsRaised) _ _ (s.keepsRaised_finishOne o st _ _ _) fun _ h _ _ =>
    h.trans (State.keepsRaised_finishOne _ _ _ _ _ _)

theorem State.faulted_does (s : State) (o : Op) (off : Nat) :
    (s.faulted o off).finished o.id stCheckFail = true ∧ (s.faulted o off).raised 82 = true ∧ (s.faulted o off).reg off = s.reg off + 1#32 := by
  refine ⟨State.finished_progFinal _ o stCheckFail, State.keepsRaised_progFinal _ o _ _ (State.event_raises _ _ _ (by decide)), ?_⟩
  rw [State.faulted, State.progFinal, (State.endsOnly_finish _ o _ _ _ _).reg_eq, State.event_reg, State.reg_bump_self]

/-- A user entry that has held its sequencer, or has not come to a YIELD, for 100 µs ends (R338). -/
theorem execUserEntryWatchdog_of_late {s : State} {op : Nat} {o : Op} (ho : s.op? op = some o) (huser : o.user = true) (hstarted : o.started = true)
    (hlate : s.seqs.q.any (fun p => p.2 == op) = true ∧ s.past o.hold 10000 = true ∨
      (o.st = .suspending ∨ o.st = .cancelling) ∧ o.control.any (fun c => s.past c 10000) = true) :
    exec (.userEntryWatchdog op) s = .next (s.faulted o (seqCnt 3)).settle := by
  show execUserEntryWatchdog op s = _
  rcases hlate with ⟨hheld, hpast⟩ | ⟨hst, hcontrol⟩
  · simp [execUserEntryWatchdog, ho, huser, hstarted, hheld, hpast, State.faulted, State.progEnd_eq]
  · cases hc : o.control with
    | none => simp [hc] at hcontrol
    | some c =>
      have hpast : s.past c 10000 = true := by simpa [hc] using hcontrol
      rcases hst with hst | hst <;>
        simp [execUserEntryWatchdog, ho, huser, hstarted, hst, hc, hpast, State.faulted, State.progEnd_eq]

/-! ## The ends of transfers (R336) -/

/-- The end of a transfer and of the words that waited for it, before what they let go on. -/
def State.closed (s : State) (x : Xfer) (st : Nat) (v : List Byte) : State := ((s.endXfer x st v).fireTrigs x.op).wakeWords

theorem State.closeXfer_eq (s : State) (x : Xfer) (st : Nat) (v : List Byte) : s.closeXfer x st v = (s.closed x st v).settle := rfl

/-- TRIGs that fire add no transfer. -/
theorem State.xfers_fireTrigs (s : State) (op : Nat) : ∀ x ∈ (s.fireTrigs op).port.xfers, x ∈ s.port.xfers := by
  refine List.foldlRecOn (motive := fun t : State => ∀ x ∈ t.port.xfers, x ∈ s.port.xfers) _ _ (fun _ h => h) fun t ht x _ => ?_
  split
  · split
    · exact fun y hy => ht y (List.mem_of_mem_filter hy)
    · exact ht
  · exact ht

theorem Op.regs_of_bare {o x : Op} (h : x.bare = o.bare) : x.regs = o.regs := (congrArg Op.regs h : x.bare.regs = o.bare.regs)

/-- The end of a transfer takes it out of the outstanding ones, gives its operation what it brings, and leaves memory and the issues. -/
theorem State.closed_does {s : State} {x : Xfer} {o : Op} (ho : s.op? x.op = some o) (st : Nat) (v : List Byte) :
    (∀ z ∈ (s.closed x st v).port.xfers, z.id ≠ x.id) ∧ (s.closed x st v).mem = s.mem ∧ (s.closed x st v).port.tx = s.port.tx ∧
      ∃ y, (s.closed x st v).op? x.op = some y ∧ y.bare = (o.xferEnded x st v).bare := by
  obtain ⟨hnotes, hwake⟩ := ((s.endXfer x st v).fireTrigs x.op).wakeWords_does
  have hfire := (s.endXfer x st v).fireTrigs_changes x.op
  have hport : (s.closed x st v).port = ((s.endXfer x st v).fireTrigs x.op).port := by
    rw [State.closed, hwake]
  have hop : ((s.endXfer x st v).fireTrigs x.op).op? x.op = some (o.xferEnded x st v) := by
    rw [hfire]
    exact State.op?_endXfer ho st v
  refine ⟨fun z hz => ?_, ?_, ?_, hnotes.op? hop⟩
  · rw [hport] at hz
    have hdropped := (List.mem_filter.mp ((s.endXfer x st v).xfers_fireTrigs x.op z hz)).2
    simpa using hdropped
  · rw [State.closed, hwake, hfire]
    rfl
  · rw [hport, hfire]
    rfl

/-- A tile load gives its slot the tile, or its failure. -/
theorem State.slot_closed {s : State} {x : Xfer} {k : Nat} {o : Op} (ho : s.op? x.op = some o) (hk : x.kind = .loadTile k) (st : Nat) (v : List Byte) :
    ((s.closed x st v).op? x.op).map (fun p => p.slots.get k) = some (some (if st = stOk then Slot.full (fit 4096 v) else Slot.failed st)) := by
  obtain ⟨-, -, -, y, hy, hbare⟩ := State.closed_does ho st v
  rw [hy, Option.map_some, Op.slots_of_bare hbare, Op.slot_xferEnded hk]

/-- A load of 8 bytes gives its register the value. -/
theorem State.sreg_closed {s : State} {x : Xfer} {r : Nat} {o : Op} (ho : s.op? x.op = some o) (hk : x.kind = .load64 r) (v : List Byte) :
    ((s.closed x stOk v).op? x.op).map (fun p => p.sreg r) = some (BitVec.ofNat 64 (field v 0 8)) := by
  obtain ⟨-, -, -, y, hy, hbare⟩ := State.closed_does ho stOk v
  have hsreg : y.sreg r = (o.xferEnded x stOk v).sreg r := by
    rw [Op.sreg, Op.regs_of_bare hbare, Op.sreg]
  rw [hy, Option.map_some, hsreg, Op.sreg_xferEnded hk]
  rfl

section
variable {s : State} {x : Nat} {y : Xfer} (hy : s.port.xfers.find? (fun z => z.id == x) = some y)
include hy

theorem Xfer.id_of_find : y.id = x := by simpa using List.find?_some hy

section
variable (hown : s.own y.addr = false)
include hown

theorem execTransferComplete_of_data (v : List Byte) (hload : (∃ k, y.kind = .loadTile k) ∨ ∃ r, y.kind = .load64 r) :
    exec (.transferComplete x (.data v)) s = .next (s.closed y stOk v).settle := by
  show execTransferComplete x (.data v) s = _
  rcases hload with ⟨k, hk⟩ | ⟨r, hk⟩ <;> simp [execTransferComplete, hy, hk, hown, State.closeXfer_eq]

theorem execTransferComplete_of_error {k : Nat} (hk : y.kind = .loadTile k) :
    exec (.transferComplete x .error) s = .next (s.closed y stCheckFail []).settle := by
  show execTransferComplete x .error s = _
  simp [execTransferComplete, hy, hk, hown, State.closeXfer_eq]

/-- At the limit of tries or of 10 ms a load ends with PATH_FAILED (R336, log entry 110). -/
theorem execFabricRetryTimeout_of_limit {k : Nat} (hk : y.kind = .loadTile k)
    (hlimit : y.due ≤ s.now ∧ 64 ≤ y.tries ∨ y.first + 1000000 ≤ s.now) : exec (.fabricRetryTimeout x) s =
      .next (State.closed (s.countPath (dstKey (gNode y.addr) (gAgent y.addr)) y.path 0 (bit (decide (y.due ≤ s.now)))) y stPathFailed []).settle := by
  have hend : y.first + 1000000 ≤ s.now ∨ y.due ≤ s.now ∧ 64 ≤ y.tries := hlimit.symm
  show execFabricRetryTimeout x s = _
  simp [execFabricRetryTimeout, hy, hk, hown, State.closeXfer_eq, hend]

/-- The later try of a load (R144 to R147). -/
def State.nextTry (s : State) (y : Xfer) : Xfer :=
  let dst := dstKey (gNode y.addr) (gAgent y.addr)
  let s1 := s.countPath dst y.path 0 1
  let p := s1.nextPath dst (crc32c (leBytes 8 y.addr)) y.path (y.onPath + 1)
  { y with tries := y.tries + 1, path := p, onPath := if p = y.path then y.onPath + 1 else 0
           timeout := s.backoff y.timeout, due := s.now + s.backoff y.timeout }

/-- The counts of the paths as a load is tried again (R165). -/
def State.retriedXfer (s : State) (y : Xfer) : State :=
  let dst := dstKey (gNode y.addr) (gAgent y.addr)
  (s.countPath dst y.path 0 1).countPath dst (s.nextTry y).path 1 0

theorem execFabricRetryTimeout_of_due {k : Nat} (hk : y.kind = .loadTile k) (hdue : y.due ≤ s.now) (htries : y.tries < 64)
    (hlimit : s.now < y.first + 1000000) : exec (.fabricRetryTimeout x) s = .next (State.send
      { s.retriedXfer y with port := { (s.retriedXfer y).port with xfers := (s.retriedXfer y).port.xfers.map (fun z => if z.id = x then s.nextTry y else z) } }
      (.read y.addr 4096 y.cls ((s.retriedXfer y).routeOf (dstKey (gNode y.addr) (gAgent y.addr)) (s.nextTry y).path))) := by
  have hgo : ¬(y.first + 1000000 ≤ s.now ∨ True ∧ 64 ≤ y.tries) := by omega
  show execFabricRetryTimeout x s = _
  simp only [execFabricRetryTimeout, hy, hown, Bool.false_eq_true, if_false, if_neg hgo, decide_eq_true hdue, Bool.not_true,
    bne_self_eq_false, Bool.and_false, Bool.false_and]
  rw [hk]
  obtain ⟨id, op, kind, addr, cls, tries, path, onPath, timeout, first, due⟩ := y
  cases hk
  rfl

/-- A reduction that is not acknowledged in time ends its operation with PATH_FAILED (R336). -/
theorem execReductionTimeout_of_due {max : Bool} {v : Word64} (hk : y.kind = .reduce max v) (hdue : y.due ≤ s.now) :
    exec (.reductionTimeout x) s = .next ((s.dropXfer x).reduceFail y.op stPathFailed) := by
  show execReductionTimeout x s = _
  simp [execReductionTimeout, hy, hk, hown, Nat.not_lt.mpr hdue]
end
end

theorem State.EndsOnly.xfers_eq {s t : State} (h : s.EndsOnly t) : t.port.xfers = s.port.xfers := by rw [h]

/-- An operation whose reduction failed ends with the status, and no transfer is added. -/
theorem State.reduceFail_ends {s : State} {op : Nat} {o : Op} (ho : s.op? op = some o) (st : Nat) :
    ∃ u : State, s.reduceFail op st = u.settle ∧ u.finished op (finalStatus st) = true ∧ u.port.xfers = s.port.xfers := by
  have hid := State.op?_some_id ho
  unfold State.reduceFail
  rw [ho]
  dsimp only
  split
  · refine ⟨_, rfl, hid ▸ State.finished_of_completed (s.completed_fail o st), ?_⟩
    exact (s.endsOnly_fail o st).xfers_eq
  · refine ⟨_, s.progEnd_eq o st, hid ▸ s.finished_progFinal o st, ?_⟩
    exact (s.endsOnly_finish o st _ _ _).xfers_eq

/-! ## The statement -/

/-- Settles O43, command by command: each one is its reduction above. -/
theorem userEntriesAndTransfers : Obligations.UserEntriesAndTransfers := by
  unfold Obligations.UserEntriesAndTransfers
  refine ⟨⟨?word, ?refused, ?watchdog⟩, ?load64, ?loadTile, ?retry, ?limit, ?reduction⟩
  case word =>
    intro s op q w o f hid huser hseq hq hw hf
    exact execUserEntry_of_word hid huser hseq hq hw hf
  case refused =>
    intro s op q w o hid huser hseq hq hw hf
    refine ⟨s.faulted o (seqCnt 2), (execUserEntry_of_refused hid huser hseq hq hw hf).trans ?_, hid ▸ s.faulted_does o _⟩
    rw [State.progFault, State.progEnd_eq]
    rfl
  case watchdog =>
    intro s op o ho huser hstarted hlate
    exact ⟨_, execUserEntryWatchdog_of_late ho huser hstarted hlate, State.op?_some_id ho ▸ s.faulted_does o _⟩
  case load64 =>
    intro s x r y o v hy hk hown ho
    obtain ⟨hgone, hmem, -, -⟩ := s.closed_does ho stOk v
    exact ⟨_, execTransferComplete_of_data hy hown v (.inr ⟨r, hk⟩), Xfer.id_of_find hy ▸ hgone, State.sreg_closed ho hk v, hmem⟩
  case loadTile =>
    intro s x k y o v hy hk hown ho
    exact ⟨⟨_, execTransferComplete_of_data hy hown v (.inl ⟨k, hk⟩), State.slot_closed ho hk stOk v⟩,
      _, execTransferComplete_of_error hy hown hk, State.slot_closed ho hk stCheckFail []⟩
  case retry =>
    intro s x k y hy hk hown hdue htries hlimit
    refine ⟨_, s.nextTry y, _, execFabricRetryTimeout_of_due hy hown hk hdue htries hlimit, rfl, ?_, (Xfer.id_of_find hy : y.id = x), rfl, rfl, rfl, rfl⟩
    exact List.mem_map.mpr ⟨y, List.mem_of_find?_eq_some hy, if_pos (Xfer.id_of_find hy)⟩
  case limit =>
    intro s x k y o hy hk hown ho hlimit
    have hop : (s.countPath (dstKey (gNode y.addr) (gAgent y.addr)) y.path 0 (bit (decide (y.due ≤ s.now)))).op? y.op = some o := ho
    obtain ⟨-, -, htx, -⟩ := State.closed_does hop stPathFailed []
    exact ⟨_, execFabricRetryTimeout_of_limit hy hown hk hlimit, htx, State.slot_closed hop hk stPathFailed []⟩
  case reduction =>
    intro s x y o max v hy hk hown hdue ho
    obtain ⟨u, hu, hfinished, hxfers⟩ := State.reduceFail_ends (s := s.dropXfer x) ho stPathFailed
    refine ⟨u, (execReductionTimeout_of_due hy hown hk hdue).trans (congrArg _ hu), hfinished, fun z hz => ?_⟩
    rw [hxfers] at hz
    simpa using (List.mem_filter.mp hz).2

end Sys2Proof.Machine
end

section
/-! The statement of the fetch, the start and the dispatch of operations: O10. From a slot of a submission ring to a sequencer
(R85 to R87, R98, R100, R333, R334). -/

namespace Sys2Proof.Machine

/-! ## Fetch (R85 to R87, R98) -/

/-- The state with the descriptor at the head of ring n read: the head is past it, and it has the next number. -/
def State.pulled (s s1 : State) (n : Nat) (r : Ring) : State :=
  { s1 with rings := s1.rings.set n { r with head := r.head + 1#32 }, nextOp := s.nextOp + 1 }

/-- A descriptor accepted as QUEUED; a configuration change reserves an audit entry (R456). -/
def State.accepted (s : State) (o : Op) : State :=
  if o.configChange then
    ({ s with ops := s.ops ++ [{ o with resv := true }], audit := { s.audit with resv := s.audit.resv + 1 } }).settleAudit
  else { s with ops := s.ops ++ [o] }

/-- The parts of the state that taking a new operation in leaves. -/
structure State.TakesOp (s t : State) : Prop where
  nextOp : t.nextOp = s.nextOp
  recs : t.recs = s.recs
  rings : t.rings = s.rings
  mem : t.mem = s.mem
  regions : t.regions = s.regions

theorem State.TakesOp.trans {s t u : State} (h : s.TakesOp t) (g : t.TakesOp u) : s.TakesOp u :=
  ⟨g.nextOp.trans h.nextOp, g.recs.trans h.recs, g.rings.trans h.rings, g.mem.trans h.mem, g.regions.trans h.regions⟩

theorem State.accepted_takes (s : State) (o : Op) : s.TakesOp (s.accepted o) := by
  unfold State.accepted
  split
  · obtain ⟨e, he⟩ := State.settleAudit_sets_full
      { s with ops := s.ops ++ [{ o with resv := true }], audit := { s.audit with resv := s.audit.resv + 1 } }
    rw [he]
    exact ⟨rfl, rfl, rfl, rfl, rfl⟩
  · exact ⟨rfl, rfl, rfl, rfl, rfl⟩

/-- The accepted operation is the last one, with its reservation. -/
theorem State.ops_accepted (s : State) {o : Op} (ho : o.resv = false) : (s.accepted o).ops = s.ops ++ [{ o with resv := o.configChange }] := by
  unfold State.accepted
  split
  next hcfg => rw [(State.signalsOnly_settleAudit _).ops_eq, hcfg]
  next hcfg => rw [Bool.eq_false_iff.mpr hcfg, ← ho]

/-- The start of a control descriptor, which takes no sequencer (R98). -/
theorem State.startOp_takes (s : State) {o : Op} (ho : o.isControl = true) : s.TakesOp (s.startOp o) := by
  simp only [State.startOp, ho, if_true]
  exact ⟨rfl, rfl, rfl, rfl, rfl⟩

theorem State.mem_ops_startOp {s : State} {o x : Op} (ho : o.isControl = true) (hx : x ∈ s.ops) (hid : x.id = o.id) :
    ∃ y ∈ (s.startOp o).ops, y.id = x.id ∧ y.desc = x.desc ∧ y.ring = x.ring := by
  simp only [State.startOp, ho, if_true]
  exact ⟨_, List.mem_map.mpr ⟨x, hx, if_pos hid⟩, rfl, rfl, rfl⟩

section
variable {s s1 : State} {ext : Ext} {n : Nat} {r : Ring} (hn : s.nextRing = some n) (hr : s.rings.get n = some r)
include hn hr

section
variable {d : List Byte} (hread : State.readAt { s with fetchLast := n } ext (s.reg64 (ringReg n 0) + 64 * (r.head.toNat % 2 ^ cfgSq (s.ringCfg n))) 64 1 =
  (.data d, s1))
include hread

theorem execDescriptorFetch_of_accepted (hst : s.fetchStatus n d = 0) : exec (.descriptorFetch ext) s =
    .next (if (s.newOp n r.head.toNat d).isControl && s.cqSlot n then
      ((s.pulled s1 n r).accepted (s.newOp n r.head.toNat d)).startOp (s.newOp n r.head.toNat d)
      else (s.pulled s1 n r).accepted (s.newOp n r.head.toNat d)) := by
  show execDescriptorFetch ext s = _
  simp only [execDescriptorFetch, hn, hr, hread, hst, ne_eq, not_true_eq_false, if_false]
  rfl

theorem execDescriptorFetch_of_refused (hst : s.fetchStatus n d ≠ 0) : exec (.descriptorFetch ext) s =
    .next { s.pulled s1 n r with
      recs := s1.recs ++ [(s.pulled s1 n r).mkRec (s.newOp n r.head.toNat d) (s.fetchStatus n d) 0 0 0 true] } := by
  show execDescriptorFetch ext s = _
  simp only [execDescriptorFetch, hn, hr, hread, hst, ne_eq, not_false_eq_true, if_true]
  rfl
end

/-- A read without data stops the ring (R82, log entry 31). -/
theorem execDescriptorFetch_of_unread {x : Rd} (hread : State.readAt { s with fetchLast := n } ext
    (s.reg64 (ringReg n 0) + 64 * (r.head.toNat % 2 ^ cfgSq (s.ringCfg n))) 64 1 = (x, s1)) (hx : x = .error ∨ x = .path) :
    exec (.descriptorFetch ext) s = .next (s1.stopRing n 2) := by
  show execDescriptorFetch ext s = _
  rcases hx with rfl | rfl <;> simp only [execDescriptorFetch, hn, hr, hread]
end

/-- What the fetch of an accepted descriptor does. -/
theorem execDescriptorFetch_accepts {s s1 : State} {ext : Ext} {n : Nat} {r : Ring} {d : List Byte} (hn : s.nextRing = some n)
    (hr : s.rings.get n = some r) (hread : State.readAt { s with fetchLast := n } ext
      (s.reg64 (ringReg n 0) + 64 * (r.head.toNat % 2 ^ cfgSq (s.ringCfg n))) 64 1 = (.data d, s1)) (hst : s.fetchStatus n d = 0) :
    ∃ t o, exec (.descriptorFetch ext) s = .next t ∧ o ∈ t.ops ∧ (o.id = s.nextOp ∧ o.desc = d ∧ o.ring = n) ∧
      (o.isControl = false → o.st = .queued ∧ o.started = false) ∧ (s.pulled s1 n r).TakesOp t := by
  have hexec := execDescriptorFetch_of_accepted hn hr hread hst
  have htakes := (s.pulled s1 n r).accepted_takes (s.newOp n r.head.toNat d)
  have hops := (s.pulled s1 n r).ops_accepted (o := s.newOp n r.head.toNat d) rfl
  have hmem : { s.newOp n r.head.toNat d with resv := (s.newOp n r.head.toNat d).configChange } ∈
      ((s.pulled s1 n r).accepted (s.newOp n r.head.toNat d)).ops := hops ▸ List.mem_append_right _ (List.mem_singleton_self _)
  by_cases hcontrol : ((s.newOp n r.head.toNat d).isControl && s.cqSlot n) = true
  · rw [if_pos hcontrol] at hexec
    have hc := (Bool.and_eq_true_iff.mp hcontrol).1
    obtain ⟨y, hy, hid, hdesc, hring⟩ := State.mem_ops_startOp hc hmem rfl
    have hyc : y.isControl = true := by
      rw [Op.isControl, Op.opcode, hdesc]
      exact hc
    exact ⟨_, y, hexec, hy, ⟨hid, hdesc, hring⟩, fun h => absurd (hyc.symm.trans h) (by decide), htakes.trans (State.startOp_takes _ hc)⟩
  · rw [if_neg hcontrol] at hexec
    exact ⟨_, _, hexec, hmem, ⟨rfl, rfl, rfl⟩, fun _ => ⟨rfl, rfl⟩, htakes⟩

/-! ## Start and dispatch (R100, R333, R334) -/

theorem State.makeReady_placed (s : State) (id : Nat) :
    (s.makeReady id).seqs.ready.contains id = true ∨ (s.makeReady id).seqs.q.any (fun p => p.2 == id) = true := by
  unfold State.makeReady
  split
  next h => simpa using h
  next => exact .inl (by simp)

theorem State.makeReady_frame (s : State) (id : Nat) : (s.makeReady id).regs = s.regs ∧ (s.makeReady id).recs = s.recs := by
  unfold State.makeReady
  split <;> exact ⟨rfl, rfl⟩

/-- The S-registers at entry (Table 11-3), one by one. -/
theorem Op.get_entryRegs (o : Op) :
    (∀ i, i < 6 → (o.entryRegs.get i).getD 0#64 = BitVec.ofNat 64 (field o.desc (16 + 8 * i) 8)) ∧
    (o.entryRegs.get 6).getD 0#64 = BitVec.ofNat 64 (field o.desc 8 8) ∧
    (o.entryRegs.get 7).getD 0#64 = BitVec.ofNat 64 (o.opTag + 2 ^ 32 * o.jobTag + 2 ^ 48 * o.ring) ∧
    ∀ i, 8 ≤ i → (o.entryRegs.get i).getD 0#64 = 0#64 := by
  refine ⟨fun i hi => ?_, rfl, rfl, fun i hi => ?_⟩
  · interval_cases i <;> rfl
  · have hne : ∀ k, k < 8 → k ≠ i := fun k hk => by omega
    have hnone : o.entryRegs.get i = none := by
      simp [Op.entryRegs, List.range_succ, Tab.get, hne]
    rw [hnone]
    rfl

/-- The operation at its entry (R333). -/
def State.atEntry (s : State) (o : Op) (x : Op) : Op :=
  { x with started := true, st := .running, stage := .fresh, pc := entryStart (s.opEntry o), regs := o.entryRegs
           bufs := entryBufs (s.opEntry o), part := entryPart (s.opEntry o), refs := s.startRefs o, hold := s.now
           note := x.note.set nkStart s.starts }

theorem execOperationStart_of_may {s : State} {op : Nat} {o : Op} (ho : s.op? op = some o) (hmay : s.canStart o = true)
    (hcontrol : o.isControl = false) : exec (.operationStart op) s =
      .next (State.makeReady { s.modOp op (s.atEntry o) with starts := s.starts + 1 } op) := by
  obtain rfl := State.op?_some_id ho
  show execOperationStart o.id s = _
  simp only [execOperationStart, ho, hmay, if_true, State.startOp, hcontrol, Bool.false_eq_true, if_false]
  rfl

theorem execSequencerDispatch_of_idle {s : State} {q id : Nat} {rest : List Nat} (hready : s.seqReady = true) (hhead : s.seqs.ready = id :: rest)
    (hfree : s.seqs.q.free 4 = some q) : exec .sequencerDispatch s =
      .next (State.modOp { s with seqs := { s.seqs with q := s.seqs.q.set q id, ready := rest }, power := { s.power with lastWork := s.now } } id
        (fun o => { o with hold := s.now })) := by
  show execSequencerDispatch s = _
  simp only [execSequencerDispatch, hready, hhead, hfree, Bool.not_true, Bool.false_eq_true, if_false]

/-! ## The statement -/

/-- Settles O10: the fetch by the descriptor's status and the read's outcome, the start and the dispatch by their reductions above. -/
theorem descriptorsBecomeRunningOperations : Obligations.DescriptorsBecomeRunningOperations := by
  unfold Obligations.DescriptorsBecomeRunningOperations
  refine ⟨⟨?accepted, ?refused, ?unread⟩, ?start, ?dispatch⟩
  case accepted =>
    intro s s1 ext n r d hn hr hread hst
    obtain ⟨t, o, hexec, hmem, ⟨hid, hdesc, hring⟩, hqueued, htakes⟩ := execDescriptorFetch_accepts hn hr hread hst
    exact ⟨t, o, hexec, hmem, hid, hdesc, hring, hqueued, htakes.nextOp, htakes.recs,
      (congrArg (Tab.get · n) htakes.rings).trans (Tab.get_set_self _ _ _), htakes.mem, htakes.regions⟩
  case refused =>
    intro s s1 ext n r d hn hr hread hst
    refine ⟨_, _, execDescriptorFetch_of_refused hn hr hread hst, rfl, rfl, rfl, rfl, rfl, ?_, rfl, Tab.get_set_self _ _ _, rfl, rfl⟩
    show (if _ then 0 % 2 ^ 64 else 0) = 0
    rw [Nat.zero_mod, ite_self]
  case unread =>
    intro s s1 ext n r x hn _ hr hread hr1 hrun hx
    have hstops := State.stopRing_stops 2 hr1 hrun
    obtain ⟨r', hr', hstopped, hcause, -⟩ := hstops.ring
    exact ⟨_, r', execDescriptorFetch_of_unread hn hr hread hx, hr', hstopped, hcause, hstops.raised⟩
  case start =>
    intro s op o ho hmay hcontrol
    have hop : State.op? { s.modOp op (s.atEntry o) with starts := s.starts + 1 } op = some (s.atEntry o o) :=
      State.op?_modOp_self ho fun _ => rfl
    obtain ⟨hargs, hclient, htags, hrest⟩ := o.get_entryRegs
    obtain ⟨hmem, hregions⟩ := State.makeReady_keeps { s.modOp op (s.atEntry o) with starts := s.starts + 1 } op
    obtain ⟨hregs, hrecs⟩ := State.makeReady_frame { s.modOp op (s.atEntry o) with starts := s.starts + 1 } op
    refine ⟨_, s.atEntry o o, execOperationStart_of_may ho hmay hcontrol, ?_, rfl, rfl, rfl, rfl, hargs, hclient, htags, hrest,
      State.makeReady_placed _ op, hmem, hregs, hrecs, hregions⟩
    rw [State.op?, State.ops_makeReady]
    exact hop
  case dispatch =>
    intro s id q rest hready hhead hfree
    exact ⟨_, execSequencerDispatch_of_idle hready hhead hfree, Tab.get_set_self _ _ _, rfl, rfl,
      fun p hp => Tab.get_set_ne _ _ _ _ hp, rfl, rfl, rfl⟩

end Sys2Proof.Machine
end

section
/-! The statement of TABLE_LOAD and TABLE_INSTALL: O17. A table that is read waits for the references on the inactive bank, and becomes the
active one with the next generation (R348 to R350). -/

namespace Sys2Proof.Machine

/-! ## The tables at an operation's end -/

/-- Rows, entropy and placement tables are the same; decode slots may differ. -/
def State.SameTables (s t : State) : Prop :=
  t.tables.rows = s.tables.rows ∧ t.tables.entropy = s.tables.entropy ∧ t.tables.place = s.tables.place

theorem State.SameTables.trans {s t u : State} (h : s.SameTables t) (g : t.SameTables u) : s.SameTables u :=
  ⟨g.1.trans h.1, g.2.1.trans h.2.1, g.2.2.trans h.2.2⟩

theorem State.SameTables.tableSlot_eq {s t : State} (h : s.SameTables t) (kind slot : Nat) : t.tableSlot kind slot = s.tableSlot kind slot := by
  obtain ⟨hrows, hentropy, hplace⟩ := h
  simp only [State.tableSlot, State.rowSlot, hrows, hentropy, hplace]

theorem State.SignalsOnly.tables_eq {s t : State} (h : s.SignalsOnly t) : t.tables = s.tables := by rw [h]

/-- An operation's end gives up its decode slots, and leaves the tables (R70, R345). -/
theorem State.sameTables_finishOne (s : State) (o : Op) (st cursor result aux : Nat) : s.SameTables (s.finishOne o st cursor result aux) := by
  have htables : (s.finishOne o st cursor result aux).tables = s.tables.dropRefs o.id := (State.signalsOnly_auditFinal _ _ _ _).tables_eq
  unfold State.SameTables
  rw [htables]
  exact ⟨rfl, rfl, rfl⟩

theorem State.sameTables_finish (s : State) (o : Op) (st cursor result aux : Nat) : s.SameTables (s.finish o st cursor result aux) :=
  List.foldlRecOn (motive := s.SameTables) _ _ (s.sameTables_finishOne o st cursor result aux)
    fun _ h _ _ => h.trans (State.sameTables_finishOne _ _ _ _ _ _)

/-! ## The table that is installed -/

theorem TabSlot.install_active (t : TabSlot) (v : List Byte) : (t.install v).active = v := by
  unfold TabSlot.install
  split <;> rfl

theorem TabSlot.install_gen (t : TabSlot) (v : List Byte) : (t.install v).gen = (t.gen + 1) % 16 := by
  unfold TabSlot.install
  split <;> rfl

/-- The slot of an installed table is the one with that table installed (R350). -/
theorem State.tableSlot_install (s : State) (kind slot : Nat) (v : List Byte) :
    (s.install kind slot v).tableSlot kind slot = (s.tableSlot kind slot).install v := by
  unfold State.install
  by_cases hrows : kind = 1
  · subst hrows
    exact congrArg (Option.getD · _) (Tab.get_set_self s.tables.rows slot ((s.rowSlot slot).install v))
  by_cases hentropy : kind = 2
  · subst hentropy
    exact congrArg (Option.getD · _) (Tab.get_set_self s.tables.entropy slot ((s.tableSlot 2 slot).install v))
  · simp only [hrows, hentropy, if_false]
    rw [State.tableSlot, if_neg hrows, if_neg hentropy]
    exact congrArg (Option.getD · _) (Tab.get_set_self s.tables.place slot ((s.tableSlot kind slot).install v))

/-! ## The commands -/

/-- The operation with its table read, in WAIT_REF. -/
def Op.withTable (v : List Byte) (o : Op) : Op := { o with stage := .waitRef, slots := [(tablePlace, Slot.full v)] }

theorem execTableLoad_of_passing {si s : State} {op : Nat} {ext : Ext} {o : Op} {v : List Byte} (ho : si.work op 0x70 = some o)
    (hfresh : o.stage = .fresh) (hform : o.loadMalformed = false) (hconflict : si.loadConflict o = false)
    (hread : si.readAt ext (o.arg 24 8) (tabBytes o.tabKind) 1 = (.data v, s)) (hcrc : (crc32c v).toNat = o.arg 32 4)
    (hok : o.tableOk v = true) : exec (.tableLoad op ext) si =
      .next (if s.loadRefs o.tabKind o.tabSlot = 0 then s.modOp op (Op.withTable v) else (s.interim o stWaitRef 0).park op (Op.withTable v)) := by
  show execTableLoad op ext si = _
  simp only [execTableLoad, ho, hfresh, hform, hconflict, hread, hcrc, hok, ne_eq, not_true_eq_false, Bool.false_eq_true, if_false,
    decide_false, Bool.not_true, Bool.or_self]
  rfl

theorem execTableInstall_of_free {s : State} {op : Nat} {o : Op} {x : Slot} (ho : s.waiting op 0x70 = some o) (hstage : o.stage = .waitRef)
    (hx : o.slots.get tablePlace = some x) (hfree : s.loadRefs o.tabKind o.tabSlot = 0) : exec (.tableInstall op) s =
      .next (State.settle ((s.install o.tabKind o.tabSlot x.data).finish o stOk 0 0
        ((s.install o.tabKind o.tabSlot x.data).tableSlot o.tabKind o.tabSlot).gen)) := by
  show execTableInstall op s = _
  simp only [execTableInstall, ho, hstage, hx, hfree, ne_eq, not_true_eq_false, if_false]

/-- The interim record of a wait, which a park keeps. -/
theorem State.interim_park_does {s : State} {op : Nat} {o : Op} (ho : s.op? op = some o) (st cursor : Nat) {f : Op → Op}
    (hf : ∀ o, (f o).id = o.id) :
    ((s.interim o st cursor).park op f).op? op = some (f o) ∧ ((s.interim o st cursor).park op f).tables = s.tables ∧
      s.mkRec o st cursor 0 0 false ∈ ((s.interim o st cursor).park op f).recs := by
  have hop : (s.interim o st cursor).op? op = some o := ho
  obtain ⟨q, r, hpark⟩ := (s.interim o st cursor).park_changes op f
  refine ⟨State.op?_park hop hf, ?_, ?_⟩
  · rw [hpark]
    rfl
  · rw [hpark]
    exact List.mem_append_right _ (List.mem_singleton_self _)

/-! ## The statement -/

/-- Settles O17: the load by the references on the inactive bank, the install by the kind of its table. -/
theorem tableLoadAndInstall : Obligations.TableLoadAndInstall := by
  unfold Obligations.TableLoadAndInstall
  refine ⟨?load, ?install⟩
  case load =>
    intro si s op ext o v ho hfresh hform hconflict hread hcrc hok
    have hops : s.ops = si.ops := ((State.Reads.refl si).readAt.snd hread).1
    have hop : s.op? op = some o := by
      rw [State.op?, hops]
      exact State.op?_of_work ho
    have hexec := execTableLoad_of_passing ho hfresh hform hconflict hread hcrc hok
    by_cases hrefs : s.loadRefs o.tabKind o.tabSlot = 0
    · rw [if_pos hrefs] at hexec
      exact ⟨_, o.withTable v, hexec, State.op?_modOp_self hop fun _ => rfl, rfl, rfl, rfl, fun h => absurd hrefs h⟩
    · rw [if_neg hrefs] at hexec
      obtain ⟨hkept, htables, hrec⟩ := State.interim_park_does hop stWaitRef 0 (f := Op.withTable v) fun _ => rfl
      exact ⟨_, o.withTable v, hexec, hkept, rfl, rfl, htables, fun _ => ⟨_, hrec, State.op?_some_id hop, rfl, rfl⟩⟩
  case install =>
    intro s op o x ho hstage hx hfree
    obtain ⟨-, hid, -⟩ := State.of_waiting ho
    have hslot := s.tableSlot_install o.tabKind o.tabSlot x.data
    have hgen : ((s.install o.tabKind o.tabSlot x.data).tableSlot o.tabKind o.tabSlot).gen =
        ((s.tableSlot o.tabKind o.tabSlot).gen + 1) % 16 := by
      rw [hslot, TabSlot.install_gen]
    have hexec := execTableInstall_of_free ho hstage hx hfree
    rw [hgen] at hexec
    refine ⟨_, hexec, ?_, ?_, hid ▸ State.completed_finish_ok _ o 0 0 _⟩
    · rw [(State.sameTables_finish _ _ _ _ _ _).tableSlot_eq, hslot, TabSlot.install_active]
    · rw [(State.sameTables_finish _ _ _ _ _ _).tableSlot_eq, hgen]

end Sys2Proof.Machine
end

section
/-! SUPPORT. Bytes taken apart and put together again, the length of what a read gives, and a chunk of microcode in its bank. -/

namespace Sys2Proof.Machine

/-! ## Bytes -/

theorem leBytes_leNat (v : List Byte) : leBytes v.length (leNat v) = v := by
  induction v with
  | nil => rfl
  | cons b v ih =>
    have hlow : BitVec.ofNat 8 (b.toNat + 256 * leNat v) = b := BitVec.eq_of_toNat_eq (by simp only [BitVec.toNat_ofNat]; omega)
    have hhigh : (b.toNat + 256 * leNat v) / 256 = leNat v := by omega
    rw [List.length_cons, leNat, leBytes, hlow, hhigh, ih]

theorem slice_of_within {v : List Byte} {off n : Nat} (h : off + n ≤ v.length) : slice v off n = (v.drop off).take n := by
  have hrest : n - (v.length - off) = 0 := by omega
  rw [slice, fit, List.length_drop, hrest, zeros, List.replicate_zero, List.append_nil]

/-- The pieces of k bytes of a string, one after another. -/
theorem flatMap_slice (v : List Byte) (k n : Nat) (h : k * n ≤ v.length) : (List.range n).flatMap (fun i => slice v (k * i) k) = v.take (k * n) := by
  induction n with
  | zero => simp
  | succ n ih =>
    rw [Nat.mul_succ] at h ⊢
    rw [List.range_succ, List.flatMap_append, ih (by omega), List.flatMap_singleton, slice_of_within h, List.take_add]

/-- The bytes of a field are the bytes it was read from. -/
theorem leBytes_field (v : List Byte) (off n : Nat) : leBytes n (field v off n) = slice v off n := by
  have h := leBytes_leNat (slice v off n)
  rwa [slice_length] at h

/-! ## The length of what a read gives -/

theorem State.length_of_readPart {s t : State} {ext : Ext} {tile off n : Nat} {v : List Byte} (h : s.readPart ext tile off n = (some v, t)) :
    v.length = n := by
  unfold State.readPart at h
  extract_lets raw hit at h
  split at h
  · split at h
    · cases h
    · cases h
      exact slice_length _ _ _
  · split at h
    · cases h
      exact slice_length _ _ _
    · split at h
      · cases h
        exact slice_length _ _ _
      · cases h

/-- A read of the stack gives the bytes it was asked for when it may go through enough tiles. -/
theorem State.length_of_readStack {ext : Ext} {k off n : Nat} {s t : State} {v : List Byte} (h : s.readStack ext k off n = (some v, t))
    (hroom : n = 0 ∨ off % 4096 + n ≤ 4096 * k) : v.length = n := by
  induction k generalizing s off n v with
  | zero =>
    cases h
    simp only [List.length_nil]
    omega
  | succ k ih =>
    rw [State.readStack] at h
    split at h
    next hn =>
      cases h
      exact hn.symm
    next hn =>
      dsimp only at h
      split at h
      · cases h
      next w s1 hpart =>
        have hw := State.length_of_readPart hpart
        have hmin : Nat.min n (4096 - off % 4096) = min n (4096 - off % 4096) := rfl
        split at h
        next x s2 hrest =>
          cases h
          have hx := ih hrest (by omega)
          rw [List.length_append, hw, hx]
          omega
        · cases h

theorem State.length_of_fetch {s : State} {ext : Ext} {a n : Nat} {v : List Byte} (h : s.fetch ext a n = .data v) : v.length = n := by
  unfold State.fetch at h
  split at h
  · cases h
    exact fit_length _ _
  · cases h
  · split at h
    · split at h
      · cases h
      · cases h
        exact memRead_length _ _ _
    · cases h

theorem State.length_of_readAt {s t : State} {ext : Ext} {a n cls : Nat} {v : List Byte} (h : s.readAt ext a n cls = (.data v, t)) :
    v.length = n := by
  unfold State.readAt at h
  split at h
  · split at h
    next x s1 hread =>
      cases h
      exact State.length_of_readStack hread (by omega)
    · cases h
  · exact State.length_of_fetch (Prod.mk.inj h).1

/-! ## Chunks of microcode (R351, R434) -/

/-- Word k of the store as a putting of a chunk leaves it: a word of zeros has no entry. -/
def storeWord (t : Tab (BitVec 128)) (k : Nat) (w : BitVec 128) : Tab (BitVec 128) := if w = 0#128 then t.del k else t.set k w

theorem get_storeWord (t : Tab (BitVec 128)) (k j : Nat) (w : BitVec 128) :
    ((storeWord t k w).get j).getD 0#128 = if j = k then w else (t.get j).getD 0#128 := by
  unfold storeWord
  split
  next hw =>
    subst hw
    rw [Tab.get_del]
    split <;> rfl
  next =>
    by_cases hj : j = k
    · subst hj
      rw [Tab.get_set_self, if_pos rfl, Option.getD_some]
    · rw [Tab.get_set_ne _ _ _ _ hj, if_neg hj]

/-- Words put one after another from an address on. -/
theorem get_foldl_storeWord (base : Nat) (w : Nat → BitVec 128) (l : List Nat) (t : Tab (BitVec 128)) (j : Nat) :
    ((l.foldl (fun t i => storeWord t (base + i) (w i)) t).get (base + j)).getD 0#128 = if j ∈ l then w j else (t.get (base + j)).getD 0#128 := by
  induction l generalizing t with
  | nil => simp
  | cons i l ih =>
    rw [List.foldl_cons, ih, get_storeWord]
    by_cases hj : j ∈ l
    · simp [hj]
    by_cases hi : j = i
    · subst hi
      simp
    · simp [hj, hi]

theorem Ucode.word_putChunk (u : Ucode) (c : Nat) (v : List Byte) {i : Nat} (hi : i < 32) :
    (u.putChunk c v).word u.inactive (32 * c + i) = BitVec.ofNat 128 (field v (16 * i) 16) := by
  have h := get_foldl_storeWord (u.inactive * 8192 + 32 * c) (fun i => BitVec.ofNat 128 (field v (16 * i) 16)) (List.range 32) u.store i
  rw [if_pos (List.mem_range.mpr hi)] at h
  rw [Ucode.word, ← Nat.add_assoc]
  exact h

/-- A chunk that was put stands in the inactive bank. -/
theorem Ucode.chunk_putChunk (u : Ucode) (c : Nat) {v : List Byte} (hv : v.length = 512) : (u.putChunk c v).chunk c = v := by
  have hword : ∀ i ∈ List.range 32, leBytes 16 ((u.putChunk c v).word (u.putChunk c v).inactive (32 * c + i)).toNat = slice v (16 * i) 16 := by
    intro i hi
    have hinactive : (u.putChunk c v).inactive = u.inactive := rfl
    have hlt : field v (16 * i) 16 < 2 ^ 128 := field_lt v (16 * i) 16
    rw [hinactive, u.word_putChunk c v (List.mem_range.mp hi), BitVec.toNat_ofNat, Nat.mod_eq_of_lt hlt, leBytes_field]
  have hall := flatMap_slice v 16 32 (by omega)
  rw [Ucode.chunk, List.flatMap_congr hword, hall]
  exact List.take_of_length_le (by omega)

theorem Ucode.present_putChunk (u : Ucode) {c : Nat} (hc : c < 256) (v : List Byte) : (u.putChunk c v).present.getLsbD c = true := by
  show (u.present ||| (1#256 <<< c)).getLsbD c = true
  simp [hc]

end Sys2Proof.Machine
end

section
/-! The statement of the staging and the activation of microcode: O18. The start of a staging and one chunk of it (R352, R436), a chunk store
(R434), the presentation of an image (R353) and its verdict (R34, R439). -/

namespace Sys2Proof.Machine

/-! ## Staging (R352, R436, R437) -/

/-- The microcode state that a UCODE_STAGE starts with: its bitmap, LENGTH and TAG. -/
def State.begun (s : State) (o : Op) : Ucode :=
  if o.arg 28 1 % 2 = 1 then
    { s.ucode with present := 0#256, length := some (o.arg 24 4), tag := if s.distributes o then some (s.rf 0x01A4 1 8) else none }
  else { s.ucode with length := some (s.ucode.length.getD (o.arg 24 4)) }

theorem execUcodeStage_of_fresh {s : State} {op units : Nat} {ext : Ext} {o : Op} (ho : s.work op 0x71 = some o) (hfresh : o.stage = .fresh)
    (hst : s.stageStatus o = 0) : exec (.ucodeStage op units ext) s =
      .next (State.modOp { s with ucode := s.begun o } op (fun o => { o with stage := .walking })) := by
  obtain ⟨hwait, -⟩ := State.of_work ho
  obtain ⟨-, rfl, -⟩ := State.of_waiting hwait
  show execUcodeStage o.id units ext s = _
  simp only [execUcodeStage, ho, hfresh, hst, ne_eq, not_true_eq_false, if_false]
  rfl

/-- A staging that does not clear the bitmap has the LENGTH that stands (R352). -/
theorem State.length_of_stageStatus {s : State} {o : Op} (hst : s.stageStatus o = 0) (hkeep : o.arg 28 1 % 2 = 0) :
    s.ucode.length.getD (o.arg 24 4) = o.arg 24 4 := by
  unfold State.stageStatus at hst
  extract_lets l at hst
  split at hst
  · cases hst
  split at hst
  · cases hst
  split at hst
  · cases hst
  next hsame =>
    cases hlen : s.ucode.length with
    | none => rfl
    | some n =>
      by_contra hne
      exact hsame ⟨hkeep, by rw [hlen]; rfl, by rw [hlen]; exact fun h => hne (Option.some.inj h)⟩

/-- A chunk that a distributor has is issued to its group (R436). -/
def State.handed (s : State) (o : Op) (c a : Nat) : State :=
  if s.distributes o then s.send (.mcast a (s.ucode.chunk c) 3 (s.routeTo a)) else s

theorem State.handed_keeps (s : State) (o : Op) (c a : Nat) : (s.handed o c a).ops = s.ops ∧ (s.handed o c a).ucode = s.ucode := by
  unfold State.handed
  split <;> exact ⟨rfl, rfl⟩

/-- An operation with its chunk c taken. -/
def Op.staged (c cursor : Nat) (o : Op) : Op := { o.keep nkChunk (c + 1) with cursor := cursor }

/-- The state with a chunk pulled. -/
def State.chunkPulled (s : State) (o : Op) (c a : Nat) (v : List Byte) : State :=
  State.handed (State.bump { s with ucode := s.ucode.putChunk c v } (bootCnt 1)) o c a

/-- The state in which a UCODE_STAGE that pulled a chunk goes on. -/
def State.stagedOne (s : State) (op : Nat) (o : Op) (c a : Nat) (v : List Byte) : State :=
  (s.chunkPulled o c a v).modOp op (Op.staged c (popcount (s.chunkPulled o c a v).ucode.present))

theorem State.chunkPulled_keeps (s : State) (o : Op) (c a : Nat) (v : List Byte) :
    (s.chunkPulled o c a v).ops = s.ops ∧ (s.chunkPulled o c a v).ucode = s.ucode.putChunk c v := by
  obtain ⟨hops, hucode⟩ := (State.bump { s with ucode := s.ucode.putChunk c v } (bootCnt 1)).handed_keeps o c a
  exact ⟨hops.trans (State.bump_ops _ _), hucode.trans (State.bump_ucode _ _)⟩

section
variable {si s : State} {op : Nat} {ext : Ext} {o : Op} {v : List Byte} (ho : si.work op 0x71 = some o)
  (hroom : o.n nkChunk + 1 < o.arg 24 4 / 512) (habsent : si.ucode.present.getLsbD (o.n nkChunk) = false)
  (hcredit : si.distributes o = true → si.creditOk (si.level (si.groupAddr (o.n nkChunk))) 3 1 = true)
  (hread : si.readAt ext (o.arg 16 8 + 512 * o.n nkChunk) 512 3 = (.data v, s)) (hop : s.op? op = some o)

section
include habsent hcredit hread
/-- An absent chunk is pulled (R352). -/
theorem State.stageChunk_of_absent :
    si.stageChunk ext o (o.n nkChunk) = .go (s.chunkPulled o (o.n nkChunk) (si.groupAddr (o.n nkChunk)) v) := by
  have hgo : (si.distributes o && !si.creditOk (si.level (si.groupAddr (o.n nkChunk))) 3 1) = false := by
    cases hd : si.distributes o
    · rfl
    · rw [hcredit hd]
      rfl
  simp only [State.stageChunk, hgo, habsent, hread, Bool.false_eq_true, if_false]
  rfl
end

include hop in
theorem State.op?_stagedOne (c a : Nat) : (s.stagedOne op o c a v).op? op =
    some (o.staged c (popcount (s.chunkPulled o c a v).ucode.present)) := by
  have hpulled : (s.chunkPulled o c a v).op? op = some o := by
    rw [State.op?, (s.chunkPulled_keeps o c a v).1]
    exact hop
  exact State.op?_modOp_self hpulled fun _ => rfl

include ho hroom habsent hcredit hread hop in
theorem execUcodeStage_of_chunk (hstage : o.stage = .walking) : exec (.ucodeStage op 1 ext) si =
    .next (State.settle ((s.stagedOne op o (o.n nkChunk) (si.groupAddr (o.n nkChunk)) v).yieldPoint op)) := by
  have hchunk := State.stageChunk_of_absent habsent hcredit hread
  have hbefore : ¬ o.arg 24 4 / 512 ≤ o.n nkChunk := by omega
  have hloop : State.stageLoop ext op (o.arg 24 4 / 512) 1 si =
      .go (s.stagedOne op o (o.n nkChunk) (si.groupAddr (o.n nkChunk)) v) := by
    simp only [State.stageLoop, State.op?_of_work ho, if_neg hbefore, hchunk]
    rfl
  have hn : (o.staged (o.n nkChunk) (popcount (s.chunkPulled o (o.n nkChunk) (si.groupAddr (o.n nkChunk)) v).ucode.present)).n nkChunk =
      o.n nkChunk + 1 := o.n_keep_self nkChunk _
  have hafter : ¬ o.arg 24 4 / 512 ≤ o.n nkChunk + 1 := by omega
  show execUcodeStage op 1 ext si = _
  simp only [execUcodeStage, ho, hstage, hloop, State.op?_stagedOne hop, hn, if_neg hafter]
end

/-! ## Chunk stores (R434, R435) -/

/-- A chunk store in the window, whole and of the staged TAG comes to rows 6 to 8 of Table 15-4. -/
theorem execChunkStoreReceive_of_staged {s : State} {src addr : Nat} {v : List Byte} (hown : s.own addr = true) (hwindow : ucodeWindow ≤ gOff addr)
    (hrange : gOff addr - ucodeWindow < 0x2000000) (haligned : gOff addr % 512 = 0) (hv : v.length = 512)
    (hphase : s.boot.phase = .test ∨ s.boot.phase = .load ∨ s.boot.phase = .ready) (hbound : s.oldBound = false)
    (hactivate : ∀ o ∈ s.ops, o.opcode ≠ 0x72) (htag : s.ucode.tag = some (bits (gOff addr - ucodeWindow) 17 8)) :
    exec (.chunkStoreReceive src addr v) s = .next (s.packetIn.landChunk (bits (gOff addr - ucodeWindow) 9 8) v) := by
  have hnone : s.ops.any (fun o => o.opcode == 0x72 && o.started) = false :=
    List.any_eq_false.mpr fun o ho => by simp [hactivate o ho]
  have hbound' : s.packetIn.oldBound = false := hbound
  have hwindow' := Nat.not_lt.mpr hwindow
  have hrange' := Nat.not_le.mpr hrange
  show execChunkStoreReceive src addr v s = _
  rcases hphase with hphase | hphase | hphase <;>
    simp [execChunkStoreReceive, hown, hwindow', hrange', haligned, hv, hphase, hbound', hnone, htag]

/-- A chunk in range whose bit is clear is taken. -/
theorem State.landChunk_of_absent {s : State} {c : Nat} (v : List Byte) (hlen : ∀ l, s.ucode.length = some l → c < l / 512)
    (habsent : s.ucode.present.getLsbD c = false) :
    s.landChunk c v = State.bump { s with ucode := s.ucode.putChunk c v } (bootCnt 0) := by
  have hin : (s.ucode.length.map (fun l => decide (l / 512 ≤ c))).getD false = false := by
    cases hl : s.ucode.length with
    | none => rfl
    | some l => exact decide_eq_false (Nat.not_le.mpr (hlen l hl))
  simp only [State.landChunk, hin, habsent, Bool.false_eq_true, if_false]

/-! ## Activation (R34, R353, R439) -/

section
variable {s : State} {op : Nat} {o : Op}

section
variable (ho : s.work op 0x72 = some o) (hfresh : o.stage = .fresh) (hnone : s.ucode.presented = none)
include ho hfresh hnone

theorem execUcodeActivate_of_ok (hok : s.ucode.imageOk o.wantDigest = true) : exec (.ucodeActivate op) s =
    .next (State.park { s with ucode := { s.ucode with presented := some (op, o.wantDigest) } } op (fun o => { o with stage := .waitAuth })) := by
  show execUcodeActivate op s = _
  simp [execUcodeActivate, ho, hfresh, hnone, hok]

theorem execUcodeActivate_of_bad (hok : s.ucode.imageOk o.wantDigest = false) : exec (.ucodeActivate op) s =
    .next ((s.lastFail true).fail o stCheckFail) := by
  show execUcodeActivate op s = _
  simp [execUcodeActivate, ho, hfresh, hnone, hok]
end

section
variable {d : List Byte} (hd : s.ucode.presented = some (op, d)) (ho : s.waiting op 0x72 = some o)
include hd ho

theorem execAuthVerdict_of_pass : exec (.authVerdict d true) s =
    .next (State.settle ((s.switchBank d).finish o stOk 0 (field d 16 8) 0).settleReady) := by
  show execAuthVerdict d true s = _
  simp only [execAuthVerdict, hd, ho, ne_eq, not_true_eq_false, if_false, if_true]

theorem execAuthVerdict_of_failure : exec (.authVerdict d false) s =
    .next (State.settle ((State.lastFail { s with ucode := { s.ucode with presented := none } } true).fail o stCheckFail)) := by
  show execAuthVerdict d false s = _
  simp only [execAuthVerdict, hd, ho, ne_eq, not_true_eq_false, if_false, Bool.false_eq_true]
end
end

theorem State.EndsOnly.ucode_eq {s t : State} (h : s.EndsOnly t) : t.ucode = s.ucode := by rw [h]
theorem State.EndsOnly.boot_eq {s t : State} (h : s.EndsOnly t) : t.boot = s.boot := by rw [h]
theorem State.EndsOnly.regs_eq {s t : State} (h : s.EndsOnly t) : t.regs = s.regs := by rw [h]

/-- READY_ENTRY sets the phase alone (R428). -/
theorem State.settleReady_changes (s : State) : ∃ p, s.settleReady = { s with boot := { s.boot with phase := p } } := by
  unfold State.settleReady
  split
  · exact ⟨_, rfl⟩
  · exact ⟨s.boot.phase, rfl⟩

theorem State.phase_settleReady {s : State} (hphase : s.boot.phase = .load) (hboot : s.ucode.boot = false) (hspill : s.spillPlaced = true) :
    s.settleReady.boot.phase = .ready := by
  simp [State.settleReady, hphase, hboot, hspill]

theorem State.spillPlaced_congr {s t : State} (h : t.regs = s.regs) : t.spillPlaced = s.spillPlaced := by
  have hspan : t.spillSpan = s.spillSpan := by simp only [State.spillSpan, State.rf, State.regN, State.reg, h]
  rw [State.spillPlaced, hspan, State.spillPlaced]

/-- The end of an activation that passed: the banks have switched, its record holds 8 bytes of the digest, and LOAD gives READY. -/
theorem State.switched_does (s : State) (o : Op) (d : List Byte) :
    (((s.switchBank d).finish o stOk 0 (field d 16 8) 0).settleReady.ucode = (s.switchBank d).ucode) ∧
      ((s.switchBank d).finish o stOk 0 (field d 16 8) 0).settleReady.completed o.id stOk (field d 16 8) 0 ∧
      (s.boot.phase = .load → s.spillPlaced = true →
        ((s.switchBank d).finish o stOk 0 (field d 16 8) 0).settleReady.boot.phase = .ready) := by
  have hends := (s.switchBank d).endsOnly_finish o stOk 0 (field d 16 8) 0
  have hdone := (s.switchBank d).completed_finish_ok o 0 (field d 16 8) 0
  have hlt : field d 16 8 < 2 ^ 64 := field_lt d 16 8
  rw [Nat.mod_eq_of_lt hlt] at hdone
  generalize (s.switchBank d).finish o stOk 0 (field d 16 8) 0 = u at hends hdone
  obtain ⟨p, hp⟩ := u.settleReady_changes
  refine ⟨?_, ?_, fun hphase hspill => State.phase_settleReady ?_ ?_ ?_⟩
  · rw [hp]
    exact hends.ucode_eq
  · rw [hp]
    exact hdone
  · rw [hends.boot_eq]
    exact hphase
  · rw [hends.ucode_eq]
    rfl
  · rw [State.spillPlaced_congr hends.regs_eq]
    exact hspill

/-! ## The statement -/

/-- Settles O18, command by command: the image in the inactive bank is a chunk's bytes put and its bit set, and a verdict is a switch or a flag. -/
theorem microcodeStagesAndActivates : Obligations.MicrocodeStagesAndActivates := by
  unfold Obligations.MicrocodeStagesAndActivates
  refine ⟨⟨?begin, ?chunk, ?store⟩, ?present, ?refuse, ?pass, ?failure⟩
  case begin =>
    intro s op units ext o ho hfresh hst
    have hop : State.op? { s with ucode := s.begun o } op = some o := State.op?_of_work ho
    refine ⟨_, _, execUcodeStage_of_fresh ho hfresh hst, State.op?_modOp_self hop fun _ => rfl, rfl, ?_⟩
    show (s.begun o).length = _ ∧ (_ → (s.begun o).present = _) ∧ (_ → (s.begun o).present = _) ∧ (s.begun o).store = _ ∧ (s.begun o).active = _
    unfold State.begun
    split
    next hclear => exact ⟨rfl, fun _ => rfl, fun h => absurd (hclear.symm.trans h) (by decide), rfl, rfl⟩
    next hkeep =>
      exact ⟨congrArg some (State.length_of_stageStatus hst (by omega)), fun h => absurd h hkeep, fun _ => rfl, rfl, rfl⟩
  case chunk =>
    intro si s op ext o v ho hstage hc hroom habsent hcredit hread hop
    have hucode : (s.stagedOne op o (o.n nkChunk) (si.groupAddr (o.n nkChunk)) v).ucode = s.ucode.putChunk (o.n nkChunk) v :=
      (s.chunkPulled_keeps o _ _ v).2
    refine ⟨_, execUcodeStage_of_chunk ho hroom habsent hcredit hread hop hstage, ?_, ?_, ?_, ?_⟩
    · rw [hucode, s.ucode.present_putChunk hc]
    · rw [hucode, s.ucode.chunk_putChunk _ (State.length_of_readAt hread)]
    · rw [State.op?_stagedOne hop]
      exact congrArg some (o.n_keep_self nkChunk _)
    · rw [hucode]
      rfl
  case store =>
    intro s src addr v hown hwindow hrange haligned hv hphase hbound hactivate htag hlen habsent
    have hexec := execChunkStoreReceive_of_staged (src := src) hown hwindow hrange haligned hv hphase hbound hactivate htag
    rw [State.landChunk_of_absent (s := s.packetIn) v hlen habsent] at hexec
    refine ⟨_, hexec, ?_, ?_, State.reg_bump_self _ _, State.bump_mem _ _⟩
    · rw [State.bump_ucode]
      exact Ucode.present_putChunk _ (Nat.mod_lt _ (by decide)) v
    · rw [State.bump_ucode]
      exact Ucode.chunk_putChunk _ _ hv
  case present =>
    intro s op o ho hfresh hnone hok
    have hop : State.op? { s with ucode := { s.ucode with presented := some (op, o.wantDigest) } } op = some o := State.op?_of_work ho
    have hexec := execUcodeActivate_of_ok ho hfresh hnone hok
    have hparked := State.op?_park hop (f := fun o => { o with stage := .waitAuth }) fun _ => rfl
    refine ⟨_, _, hexec, ?_, hparked, rfl, ?_⟩
    all_goals
      obtain ⟨q, r, hpark⟩ := State.park_changes { s with ucode := { s.ucode with presented := some (op, o.wantDigest) } } op
        (fun o => { o with stage := .waitAuth })
      rw [hpark]
      rfl
  case refuse =>
    intro s op o ho hfresh hnone hok
    have hid := State.op?_some_id (State.op?_of_work ho)
    exact ⟨_, execUcodeActivate_of_bad ho hfresh hnone hok, hid ▸ (s.lastFail true).completed_fail o stCheckFail,
      ((s.lastFail true).endsOnly_fail o stCheckFail).ucode_eq⟩
  case pass =>
    intro s op o d hd ho
    obtain ⟨-, hid, -⟩ := State.of_waiting ho
    obtain ⟨hucode, hdone, hready⟩ := s.switched_does o d
    refine ⟨_, execAuthVerdict_of_pass hd ho, ?_, ?_, ?_, ?_, ?_, ?_, hid ▸ hdone, hready⟩ <;> (rw [hucode]; rfl)
  case failure =>
    intro s op o d hd ho
    obtain ⟨-, hid, -⟩ := State.of_waiting ho
    exact ⟨_, execAuthVerdict_of_failure hd ho, (State.endsOnly_fail _ o stCheckFail).ucode_eq, hid ▸ State.completed_fail _ o stCheckFail⟩

end Sys2Proof.Machine
end
